-- ==== Sys2Proof/Word.lean ====
section
/-! DEFINITION. The word and byte types, and the sparse table that every array of the package is held in. -/

namespace Sys2Proof

/-- One byte of a memory, little-endian in every wider value (R10). -/
abbrev Byte := BitVec 8

/-- One 64-bit word: a control-page register, a scalar register, one quarter of a descriptor. -/
abbrev Word := BitVec 64

/-- A sparse table: pairs of a key and a value, keys strictly rising, no entry equal to what an unlisted key
reads as. Every array of the package (memory bytes, registers, pages, tiles) is one of these. -/
abbrev Tab (α : Type) := List (Nat × α)

namespace Tab

/-- What key `k` reads as, `d` where it is not listed. -/
def get {α : Type} (d : α) : Tab α → Nat → α
  | [], _ => d
  | (j, v) :: m, k => if j = k then v else get d m k

/-- The table without key `k`. -/
def erase {α : Type} : Tab α → Nat → Tab α
  | [], _ => []
  | (j, v) :: m, k => if j = k then erase m k else (j, v) :: erase m k

/-- The table with `k` listed as `v`, in its place by key. -/
def insert {α : Type} : Tab α → Nat → α → Tab α
  | [], k, v => [(k, v)]
  | (j, w) :: m, k, v =>
    if k < j then (k, v) :: (j, w) :: m
    else if j = k then (k, v) :: m
    else (j, w) :: insert m k v

/-- The table with key `k` reading as `v`; writing what an unlisted key reads as removes the entry. -/
def set {α : Type} [DecidableEq α] (d : α) (m : Tab α) (k : Nat) (v : α) : Tab α :=
  if v = d then erase m k else insert m k v

/-- Every listed key of `m` is above `lo`, the keys rise, and no entry equals `d`. -/
def wfFrom {α : Type} [DecidableEq α] (d : α) : Option Nat → Tab α → Bool
  | _, [] => true
  | lo, (k, v) :: m => (match lo with | none => true | some l => decide (l < k)) && decide (v ≠ d) && wfFrom d (some k) m

/-- The canonical form: keys strictly rising, no entry equal to what an unlisted key reads as. -/
def wf {α : Type} [DecidableEq α] (d : α) (m : Tab α) : Bool := wfFrom d none m

end Tab

end Sys2Proof
end

