-- ==== Sys2Proof/Syntax.lean ====
section
/-! DEFINITION. The commands of the package: one constructor of Instr per row of the table of operations and events,
with the operands that come from outside the package (an access, a packet, a message, a reading, a pin). A step
that the package takes by itself (a sequencer instruction, an engine's start) names only its unit: what it works on
stands in the state. -/

namespace Sys2Proof

/-- Where a control-window access comes from (R28), in the order of R29. -/
inductive Source where
  | bureau
  | host0
  | host1
  | tile (t : Fin 192)
  deriving DecidableEq, Repr

/-- One requester of control-window accesses: its source and the role it acts in (R30).
`role = none` is the provider role; `some c` is context `c`. -/
structure Access where
  source : Source
  role   : Option (Fin 256)
  deriving DecidableEq, Repr

/-- What the error-correcting code reports of the stored data that a step reads (R149, R247, R341):
`loc` is the accumulator index, the 64-bit word index, or the local physical address of the burst. -/
inductive Ecc where
  | clean
  | corrected (loc : Nat)
  | uncorrectable (loc : Nat)
  deriving DecidableEq, Repr

/-- A five-way name of the engines, in ENG order (R114). -/
inductive Eng where
  | lde | mxe | vxe | ste | xce
  deriving DecidableEq, Repr

/-- A Korurha packet as it stands on the wire (R265): words 0 to 3 (a control cell has words 0 and 1 only, and
`w2`, `w3` are then 0), the bulk payload or the 28-byte cell body as sent (encrypted), the cell's CRC, the GCM tag. -/
structure Packet where
  w0   : Word
  w1   : Word
  w2   : Word
  w3   : Word
  body : List Byte
  ccrc : BitVec 32
  tag  : BitVec 128
  deriving DecidableEq, Repr

/-- One Umlon datagram as received (R381): the port, the IPv6 source address, the four header words (bytes 0-7,
8-15, 16-23, 24-31), the payload bytes that arrived and the 16-byte tag. -/
structure Umlon where
  port : Fin 2
  addr : BitVec 128
  h0   : Word
  h1   : Word
  h2   : Word
  h3   : Word
  data : List Byte
  tag  : BitVec 128
  deriving DecidableEq, Repr

/-- What the flash parameter table and the hash and signature checks of a bring-up stage report. -/
structure StageInput where
  ok      : Bool        -- the stage's own work succeeded (training, zeroing)
  sfdpOk  : Bool        -- the flash parameter table passes R402
  bootId  : Word        -- the identifier drawn in stage ROM (R383)
  slacks  : List Int    -- slack measured per quad in stage AGEING (R374)
  deriving DecidableEq, Repr

/-- What a Workbench run found (R371). -/
structure PackResult where
  quadFail     : BitVec 48
  quadUntested : BitVec 48
  hbmFail      : BitVec 16
  hbmRepaired  : BitVec 16
  mscFail      : BitVec 8
  portFail     : BitVec 6
  itemsRun     : BitVec 32
  itemsFailed  : Nat
  rowsRepaired : Nat
  elapsedMs    : BitVec 32
  overBudget   : Bool
  deriving DecidableEq, Repr

/-- The board's rails (R424). -/
inductive Rail where
  | vinQ | vddBase | vddaSd | vddhSd | vppHbm | vddHbm | vddqHbm | vddIo
  deriving DecidableEq, Repr

/-- One sample of a rail against R424: in range, outside its transient tolerance for more than 20 µs (below or
above), or above its absolute maximum. -/
inductive RailLevel where
  | inRange | below | above | aboveAbsMax
  deriving DecidableEq, Repr

/-- The commands of the package, in the order of the table. -/
inductive Instr where
  -- tile sequencer: the instruction at PC of tile `t` (R99 to R112)
  | add (t : Fin 192) | sub (t : Fin 192) | mul (t : Fin 192) | and (t : Fin 192) | or (t : Fin 192)
  | xor (t : Fin 192) | shl (t : Fin 192) | shr (t : Fin 192) | sra (t : Fin 192) | min (t : Fin 192)
  | max (t : Fin 192) | minu (t : Fin 192) | maxu (t : Fin 192)
  | addi (t : Fin 192) | subi (t : Fin 192) | muli (t : Fin 192) | andi (t : Fin 192) | ori (t : Fin 192)
  | xori (t : Fin 192) | shli (t : Fin 192) | shri (t : Fin 192) | srai (t : Fin 192) | mini (t : Fin 192)
  | maxi (t : Fin 192) | minui (t : Fin 192) | maxui (t : Fin 192)
  | nop (t : Fin 192) | movi (t : Fin 192) | movhi (t : Fin 192) | ins (t : Fin 192) | ext (t : Fin 192)
  | cmp (t : Fin 192) | cmpi (t : Fin 192) | plog (t : Fin 192) | fcmp (t : Fin 192) | fcmpi (t : Fin 192)
  | br (t : Fin 192) | jr (t : Fin 192) | call (t : Fin 192) | loop (t : Fin 192) | halt (t : Fin 192)
  | ldc (t : Fin 192) | stc (t : Fin 192) | controlReply (t : Fin 192)
  | uclr (t : Fin 192) | urd (t : Fin 192) | summaryResume (t : Fin 192)
  | tset (t : Fin 192) | twait (t : Fin 192) | twaitResume (t : Fin 192) | tsig (t : Fin 192) | trd (t : Fin 192)
  | tarm (t : Fin 192) | tend (t : Fin 192) | tdis (t : Fin 192) | issue (t : Fin 192)
  | taskPick (t : Fin 192)
  | spillRefill (t : Fin 192) (e : Eng)
  | stallWatchdog (t : Fin 192)
  | runStart (a : Access) (t : Fin 192)
  | runHalt (a : Access) (t : Fin 192)
  -- tile engines: the descriptor at the head of the engine's queue (R118 to R129)
  | load (t : Fin 192) (ecc : Ecc) | ldeCopy (t : Fin 192) (ecc : Ecc) | gather (t : Fin 192) (ecc : Ecc)
  | mma (t : Fin 192) (ecc : Ecc) | drain (t : Fin 192) (ecc : Ecc) | group (t : Fin 192) (ecc : Ecc)
  | run (t : Fin 192) (ecc : Ecc) | loadp (t : Fin 192) (ecc : Ecc) | rawacc (t : Fin 192) (ecc : Ecc)
  | store (t : Fin 192) (ecc : Ecc) | steCopy (t : Fin 192) (ecc : Ecc)
  | put (t : Fin 192) (ecc : Ecc) | get (t : Fin 192) | red (t : Fin 192) (ecc : Ecc)
  | mcast (t : Fin 192) (ecc : Ecc) | send (t : Fin 192) (ecc : Ecc) | fence (t : Fin 192) | inval (t : Fin 192)
  | descriptorComplete (t : Fin 192) (e : Eng) (heldNs : Nat)
  | accScrub (t : Fin 192) (ecc : Ecc)
  | idleScrub (t : Fin 192) (rf : Bool) (ecc : Ecc)
  -- Footstool and route unit (R171 to R188)
  | clear (t : Fin 192) | acc (t : Fin 192) (ecc : Ecc) | select (t : Fin 192) | expand (t : Fin 192) | audit (t : Fin 192) (ecc : Ecc)
  | begin (t : Fin 192) | close (t : Fin 192) | ftsComplete (t : Fin 192)
  | route (t : Fin 192) (ecc : Ecc) | clrcnt (t : Fin 192) | routeComplete (t : Fin 192)
  -- Sideboard (R190 to R202)
  | jobGo (a : Access) (addr : Word) (ctx : Fin 256)
  | sbdJobStart (ecc : Ecc) | sbdJobComplete (busyNs : Nat)
  -- Update Engine (R225 to R237)
  | upeJobHead (stack : Fin 4) (ctx : Fin 256) (ring : Fin 8)
  | upeJobStart (stack : Fin 4) (ctx : Fin 256) (ring : Fin 8) (heldNs : Nat) (ecc : Ecc)
  | upeJobComplete (stack : Fin 4) (busyNs : Nat)
  | rtBase (a : Access) (stack : Fin 4) (base : BitVec 52)
  | upeCommit (a : Access) (stack : Fin 4) (ctx : Fin 256)
  | upeRollback (a : Access) (stack : Fin 4) (ctx : Fin 256)
  | cLoad (a : Access) (stack : Fin 4) (ctx : Fin 256) (c : Word)
  -- Collective Engine (R298 to R311)
  | cleStepStart (stack : Fin 4) (ctx : Fin 256) (q : Fin 8) (heldNs : Nat)
  | xfer (stack : Fin 4) (ctx : Fin 256) (q : Fin 8) (ecc : Ecc)
  | xferChunk (stack : Fin 4) (ctx : Fin 256) (q : Fin 8) (chunk : Nat) (ecc : Ecc)
  | cleAdd (stack : Fin 4) (ctx : Fin 256) (q : Fin 8)
  | addChunk (stack : Fin 4) (ctx : Fin 256) (q : Fin 8) (chunk : Nat) (addersAgree : Bool) (ecc : Ecc)
  | perm (stack : Fin 4) (ctx : Fin 256) (q : Fin 8) (ecc : Ecc)
  | fetch (stack : Fin 4) (ctx : Fin 256) (q : Fin 8)
  | cleStepComplete (stack : Fin 4) (ctx : Fin 256) (q : Fin 8) (busyNs : Nat)
  | ptBase (a : Access) (stack : Fin 4) (base : BitVec 52)
  | cleCommit (a : Access) (stack : Fin 4) (ctx : Fin 256)
  | cleRollback (a : Access) (stack : Fin 4) (ctx : Fin 256)
  | attemptWrite (a : Access) (stack : Fin 4) (ctx : Fin 256) (v : Byte)
  | tlcInvalAll (a : Access) (stack : Fin 4)
  -- fabric (R259 to R297)
  | packetArrival (port : Fin 6) (p : Packet)
  | creditReturn (port : Fin 6) (vc : Fin 4) (cls : Fin 3) (n : Nat)
  | popPut | popGet (ecc : Ecc) | popData | popRed (ecc : Ecc) | combineDrain | popSend | popFlag | popInval
  | popAck | popNack | popColl | popMirror | popReady
  | resendTimeout (flow : BitVec 20) (seq : BitVec 32)
  | flowFill (flow : BitVec 20) (ecc : Ecc)
  | fabBudgetPeriod
  | uncorrectableCodeword (port : Fin 6)
  | replayRequest (port : Fin 6) (ok : Bool)
  | linkLossOfLock (port : Fin 6)
  | retrainTimer (port : Fin 6)
  | portTrainingDone (port : Fin 6) (lanes : Nat) (rtt : BitVec 16)
  | fecWindow (port : Fin 6) (symbols : Nat)
  | portRetrain (a : Access) (port : Fin 6)
  | portEnWrite (a : Access) (port : Fin 6) (en : Bool)
  | fltInval (a : Access) (flow : BitVec 20) (ctx : Fin 256) (byCtx : Bool)
  | invalDone
  -- rounds (R319 to R324), ageing
  | stepSyncEdge | popSync | roundBoundary (slacks : List Int) | resync (a : Access)
  | replanTimer | replan (a : Access) | slackSample (t : Fin 192) (ps : Int)
  -- the Bureau: errors, votes, takeover (R344 to R369)
  | fatalReport | bureauWatchdog | voteSend (ctx : Fin 256) | mirrorCopy (ctx : Fin 256) (entry : Nat) (ecc : Ecc)
  | heartbeatTimer | heartbeatMiss | heartbeat | vote | abort | dlog | decide
  | rollbackQuiesceDone (ctx : Fin 256) | quiesced | reset | queryTimer (ctx : Fin 256) | query | voteTimeout (ctx : Fin 256)
  | takeoverReq | probe | probeAck | probeTimeout (ctx : Fin 256) | grant | mgmtFence | dying | handover | assign
  | standbyCopyDone | mgmtReady
  | ctBase (a : Access) (base : BitVec 52)
  | setteeRetry (a : Access) | quarantine (a : Access) | pkgQuiesce (a : Access) | pkgReady (a : Access) | warmReset (a : Access)
  -- control pages (R36 to R41)
  | enableWrite (a : Access) (page : Fin 1781) (en : Bool)
  | quiesce (a : Access) (page : Fin 1781)
  | blockReset (a : Access) (page : Fin 1781)
  | cntClear (a : Access) (page : Fin 1781)
  | errFirstClear (a : Access) (page : Fin 1781)
  | errCountRead (a : Access) (page : Fin 1781)
  | pMaxRead (a : Access)
  | registerWrite (a : Access) (addr : Word) (val : Word)
  -- memory-side cache, HBM controllers (R244 to R257)
  | xlatGo (a : Access) (ctx : Fin 256) (allCtx : Bool) (vaBase : BitVec 27) (vaPages : BitVec 27)
  | xlatDone
  | flush (a : Access) (stack : Fin 4) | mscInvalAll (a : Access) (stack : Fin 4) | flushDone (stack : Fin 4)
  | halfOff (a : Access) (stack : Fin 4) (halves : BitVec 2) | halfEmpty (stack : Fin 4) (half : Fin 2)
  | thermSample (hmc : Fin 16) (reading : Option Nat)
  | patrolScrub (hmc : Fin 16) (ecc : Ecc)
  -- contexts and keys (R326 to R339)
  | switchRestore (a : Access) (quad : Fin 64) (ctx : Fin 256)
  | switchClear (a : Access) (quad : Fin 64) (ctx : Fin 256)
  | switchVacate (a : Access) (quad : Fin 64)
  | switchDone (ecc : Ecc)
  | reload (a : Access) (ctx : Fin 256)
  | erase (a : Access) (ctx : Fin 256) (mgmt : Bool)
  | coarseRecord (power temp util : Nat)
  | attSessionExpiry (nonce : BitVec 256)
  -- Umlon (R381 to R393)
  | identify (m : Umlon) | status (m : Umlon) | regRead (m : Umlon) | regWrite (m : Umlon) | evtBind (m : Umlon)
  | evtAck (m : Umlon) | attReport (m : Umlon) | keyBlob (m : Umlon) | imagePart (m : Umlon) | imageCommit (m : Umlon)
  | qpCreate (m : Umlon) | qpDestroy (m : Umlon) | mrReg (m : Umlon) | mrDereg (m : Umlon)
  | seqGapTimeout (session : Fin 64)
  | event (chan : Fin 4096)
  | eventResend (chan : Fin 4096)
  | aclReload (a : Access) | hrtReload (a : Access)
  -- RoCEv2 (R394 to R397) and the host ports; ecn: a packet of the message carries the congestion mark of RFC 3168
  | rdmaWrite (qpn : BitVec 24) (rkey : BitVec 32) (va : Word) (data : List Byte) (ecn : Bool)
  | rdmaRead (qpn : BitVec 24) (rkey : BitVec 32) (va : Word) (len : Nat) (ecn : Bool)
  | rdmaSend (qpn : BitVec 24) (data : List Byte) (ecn : Bool)
  | readResponse (qpn : BitVec 24) (data : List Byte) (ecn : Bool)
  | writeAck (qpn : BitVec 24) (ecn : Bool)
  | rdmaNak (qpn : BitVec 24) (syndrome : Byte) (ecn : Bool)
  | qpRetryTimeout (qpn : BitVec 24)
  | cnp (qpn : BitVec 24)
  | neighborSolicitation (port : Fin 2) (target : BitVec 128) (src : BitVec 128)
  | echoRequest (port : Fin 2) (dst : BitVec 128) (src : BitVec 128) (data : List Byte)
  -- power, clocks, bring-up, pins (R400 to R435)
  | quadOn (a : Access) (bits : BitVec 48) | hbmOn (a : Access) (bits : BitVec 16) | mscOn (a : Access) (bits : BitVec 8)
  | domainSwitchDone (dom : Fin 72)
  | powerCapTick (avgW : Nat) | dieThermalSample (stack : Fin 4) (hottest : Nat) | railSample (r : Rail) (l : RailLevel)
  | refclkLoss | porstNAssert | porstNRelease (straps : BitVec 13) | strapSample (straps : BitVec 13)
  | bringupStage (inp : StageInput)
  | packDone (r : PackResult) | tstRun (a : Access) | tstAbort (a : Access)
  | freezeNAssert | freezeNRelease
  | extest | idcode | samplePreload | lctAddr (v : Word) | lctRead | lctStatus | bypass
  | hostLinkDown (port : Fin 2) | hostLinkUp (port : Fin 2)
  | unsupportedRdmaOpcode (qpn : BitVec 24) (ecn : Bool)
  | unknownOp (m : Umlon)
  | powerRemoved | trstNAssert
  deriving DecidableEq, Repr

end Sys2Proof
end

