-- ==== Sys2Proof/Machine/State.lean ====
section
/-! DEFINITION. The state of the package: every register, memory, queue, counter, mode and pin the manual gives it, as
plain data, and the state right after reset. Arrays are sparse tables (Tab) whose unlisted entries read as the
default named beside them. -/

namespace Sys2Proof.Machine

/-- Why a command stops the machine. Closed: one constructor. -/
inductive Fault where
  /-- RAIL_SAMPLE of a rail above its absolute maximum: the package is then outside the manual (R425). Safe: the
  machine stops where the manual states nothing. -/
  | beyondAbsoluteMaximum (r : Rail)
  deriving DecidableEq, Repr

/-- Why a command has no meaning. Closed. -/
inductive Refusal where
  /-- A command whose meaning is not written yet, by its mnemonic. Safe: no claim about it can be proved. -/
  | notModelled (mnemonic : String)
  deriving DecidableEq, Repr

/-! ## Control pages (R32 to R41) -/

/-- ERR_FIRST of a page (R36). -/
structure ErrFirst where
  severity     : BitVec 3  := 0
  valid        : Bool      := false
  code         : BitVec 12 := 0
  context      : BitVec 8  := 0
  contextValid : Bool      := false
  preempted    : Bool      := false
  time         : BitVec 32 := 0
  deriving DecidableEq, Repr

/-- One control page. `words` holds each 64-bit word in force, XORed with its reset value, by word number
(offset div 8); `pend` and `pendMask` hold the staged writes that await their boundary (R38). -/
structure Page where
  words         : Tab Word  := []
  pend          : Tab Word  := []
  pendMask      : Tab Word  := []
  quiesceBit    : Bool      := false       -- CTL.QUIESCE
  quiescing     : Bool      := false       -- STS.QUIESCING
  quiesced      : Bool      := false       -- STS.QUIESCED
  writeRejected : Bool      := false       -- STS.WRITE_REJECTED
  rejectWord    : BitVec 9  := 0           -- STS.REJECT_WORD
  epoch         : BitVec 32 := 0           -- STS.EPOCH
  cause         : BitVec 48 := 0           -- EVT_CAUSE
  err           : ErrFirst  := {}          -- ERR_FIRST
  errCount      : BitVec 32 := 0           -- ERR_COUNT
  counts        : Tab Word  := []          -- counters, by view * 128 + number; view 256 is the totals (R36)
  heldGo        : Bool      := false       -- a START or GO held while the block admits nothing (R41, R437)
  heldBad       : Bool      := false       -- the held GO was written with reserved bits set
  savedEnable   : Option Bool := none      -- CTL.ENABLE when PKG.QUIESCE was written, until PKG.READY (R368)
  readyFlows    : List Nat  := []          -- flows that received NACK QUIESCING (R273)
  deriving DecidableEq, Repr

/-! ## Tiles (R72 to R98, R145 to R150, R169, R183, R211, R278) -/

/-- A command descriptor: four words (R114). -/
structure Desc where
  w0 : Word := 0
  w1 : Word := 0
  w2 : Word := 0
  w3 : Word := 0
  deriving DecidableEq, Repr

/-- The kind of a summary register (R85). -/
inductive SumKind where
  | empty | max | count | sum
  deriving DecidableEq, Repr

/-- A summary register (R85) with its pending count (R86). -/
structure Summary where
  kind    : SumKind := .empty
  val     : Word    := 0
  pending : Nat     := 0
  deriving DecidableEq, Repr

/-- A slot of the task table (R88, R111). -/
structure Task where
  armed : Bool      := false
  entry : BitVec 32 := 0
  cls   : BitVec 2  := 0
  ka    : BitVec 5  := 0
  amtA  : BitVec 4  := 0
  kb    : BitVec 5  := 0
  amtB  : BitVec 4  := 0
  deriving DecidableEq, Repr

/-- SEQ.RUN.STATE (R96), but for a stop by a quiesce, which is a flag of its own. -/
inductive SeqState where
  | idle | running | waiting | halted
  deriving DecidableEq, Repr

/-- What a running sequencer is stalled on. -/
inductive Stall where
  | none
  | token                                             -- TWAIT (R82)
  | summary                                           -- UCLR or URD (R86)
  | queue                                             -- ISSUE that cannot be placed (R77)
  | control (rd : Option (BitVec 5)) (served : Bool) (val : Word)   -- LDC or STC until its reply (R108)
  deriving DecidableEq, Repr

/-- An exact dyadic number m * 2^e. -/
structure Dy where
  m : Int := 0
  e : Int := 0
  deriving DecidableEq, Repr

/-- An accumulator entry (R54) and its side word (R145). `adds` counts the products and closures since its START
(R148); `bad` says that the stored bits hold a double-bit error (R149). -/
structure Entry where
  int     : BitVec 112 := 0
  nan     : Bool       := false
  pinf    : Bool       := false
  ninf    : Bool       := false
  inexact : Bool       := false
  anchor  : BitVec 12  := 0x800
  kcount  : BitVec 17  := 0
  intOnly : Bool       := false
  adds    : Nat        := 0
  bad     : Bool       := false
  deriving DecidableEq, Repr

/-- The checksum region of a bank and its lanes (R146, R147). -/
structure Chk where
  valid : Bool     := false
  moff  : BitVec 7 := 0
  noff  : BitVec 7 := 0
  m     : BitVec 7 := 0
  n     : BitVec 7 := 0
  xs    : Tab Dy   := []          -- X_n by column
  ys    : Tab Dy   := []          -- Y_m by row
  deriving DecidableEq, Repr

/-- One local write that a started descriptor has not yet made good: space (false tile store, true register file),
byte address, data. -/
structure LWrite where
  rf   : Bool
  addr : Nat
  data : List Byte
  deriving DecidableEq, Repr

/-- A contribution to a summary register, made when its descriptor completes (R85, R163). -/
structure Contrib where
  u    : Nat
  kind : SumKind
  val  : Word
  deriving DecidableEq, Repr

/-- A started descriptor that has not completed (R79, R81, R84). -/
structure Flight where
  id      : Nat               -- serial number
  eng     : Eng
  desc    : Desc
  refused : Bool    := false
  sev     : Nat     := 0      -- most severe error met (R94)
  code    : Nat     := 0
  bytes   : Nat     := 0
  writes  : List LWrite  := []
  sums    : List Contrib := []
  pends   : List Nat     := []  -- summary registers whose pending count it holds (R86)
  slots   : List (Nat × List Word) := []  -- program slots a LOADP fills at completion (R157)
  left    : Nat     := 0      -- requests and flags not yet finally answered
  unsent  : Nat     := 0      -- requests not yet issued
  waitFor : Option (Bool × Nat × Nat) := none   -- FENCE: all flows?, flow, captured ISSUED (R289)
  flag    : Option (Nat × Word × Option Nat) := none   -- PUT with FLAG: flow, TVA and SPACE of FADDR, captured ISSUED; none once sent (R290)
  phase   : Nat     := 0      -- GROUP: 1 its table, 2 its operands are being gathered from tray memory (R281); 3 computed
  got     : Tab Byte := []    -- memory it has read: by place for a LOAD, by physical address for a GROUP
  delay   : Nat     := 0      -- XCE: the longest delay that a resend added to one of its packets, ns (R277)
  lines   : List (Nat × Nat × Nat) := []  -- LOAD: pieces that whole tray lines supply: place, address, length (R291)
  deriving DecidableEq, Repr

/-- A Footstool operation from GO to completion (R171). -/
structure FtsOp where
  done    : Bool := false     -- its effect has come about; completion is due
  refused : Bool := false
  writes  : List LWrite := []  -- local writes made good at completion
  deriving DecidableEq, Repr

/-- The last selection of a Footstool (R173, R175): the list as written, its counts, and whether one is held. -/
structure Selection where
  valid : Bool     := false
  list  : List Nat := []
  s     : Nat      := 0
  a     : Nat      := 0
  deriving DecidableEq, Repr

/-- A route-unit operation from GO to completion, with the parameter words copied at GO (R185). -/
structure RouteOp where
  cmd  : Word
  rt0  : Word
  rt1  : Word
  rt2  : Word
  done : Bool := false
  pend : Bool := false       -- it holds a pending count of its summary register (R188)
  nans : Nat  := 0
  code : Nat  := 0           -- refusal code, 0 when none
  writes : List LWrite := []  -- local writes made good at completion
  deriving DecidableEq, Repr

/-- One tile. -/
structure Tile where
  s        : Tab Word       := []   -- s0 to s31, 0
  p        : BitVec 8       := 1    -- p0 to p7; bit 0 always 1 (R73)
  u        : Tab Summary    := []   -- u0 to u15
  k        : Tab (BitVec 16) := []  -- k0 to k31, 0
  tasks    : Tab Task       := []   -- 64 slots
  pc       : BitVec 32      := 0
  task     : BitVec 6       := 0    -- slot of the running task
  seq      : SeqState       := .idle
  stall    : Stall          := .none
  stopped  : Bool           := false -- stopped by a quiesce, a context switch or a rollback (R437, R95, R358)
  held     : Bool           := false -- engines start nothing after a watchdog halt (R93)
  haltDue  : Bool           := false -- RUN.HALT waits for the stalled instruction to end
  fl       : BitVec 32      := 0    -- feed counters (R83)
  fm       : BitVec 32      := 0
  store    : Tab Byte       := []   -- tile store, 6 MiB
  rf       : Tab Byte       := []   -- register file, 512 KiB
  acc      : Tab Entry      := []   -- accumulators, by bank * 16384 + row * 128 + column
  chk0     : Chk            := {}   -- checksum regions of banks 0 and 1
  chk1     : Chk            := {}
  queues   : Tab (List Desc) := []  -- five engine queues, oldest first
  ringHead : Tab Nat        := []   -- spill rings: slot of the oldest entry
  ringLen  : Tab Nat        := []   -- spill rings: entries held
  crecPos  : Tab Nat        := []   -- completion rings: next slot
  flights  : List Flight    := []   -- started descriptors, oldest first
  serial   : Nat            := 0    -- flights started
  slots    : Tab (List Word) := []  -- VXE program slots; an unloaded slot holds none
  fts      : Option FtsOp   := none
  sel      : Selection      := {}
  route    : Option RouteOp := none
  ringBad  : Bool           := false -- a staged EXPERT_EN brought a bad ring into use (R96)
  lastFlow : Nat            := 0    -- flow the XCE served last (R277)
  tileLine : List Nat       := []   -- instruction-buffer lines, most recent first (R92)
  deriving DecidableEq, Repr

/-! ## Memory (R239 to R252, R291) -/

/-- A line of the memory-side cache that is present (R246). -/
structure Line where
  there : Bool := false
  dirty : Bool := false
  high  : Bool := false
  upper : Bool := false    -- held in half 1 (ways 8 to 15)
  used  : Nat  := 0        -- when it was used last
  deriving DecidableEq, Repr

/-- A write to memory that a started operation has not yet made good: identity, local physical address, data, hint. -/
structure MWrite where
  id   : Nat
  addr : Nat
  data : List Byte
  hint : BitVec 2
  alloc : Bool
  deriving DecidableEq, Repr

/-- The memory system. `hbm` is what the stacks hold; `delta` is, byte by byte, what a present cache line holds XORed
with what the stack holds, so a byte reads as their XOR; unlisted bytes are 0 (zeroed at bring-up, R407). -/
structure Mem where
  hbm     : Tab Byte        := []
  delta   : Tab Byte        := []
  lines   : Tab Line        := []   -- by line address (physical address div 256)
  clock   : Nat             := 0    -- counts accesses, for least recently used
  writes  : List MWrite     := []
  tlc     : Tab (List Byte) := []   -- tray line caches: die, context, line; an absent line is []
  halfOff : BitVec 8        := 0    -- MSC halves offline, bit 2s + half
  halfDue : BitVec 8        := 0    -- HALF_OFF bits to be acted on when a flush ends (R252)
  flushing : BitVec 4       := 0    -- STATE.FLUSHING by stack
  halfEmpty : BitVec 8      := 0
  xlatBusy : Bool           := false -- XLAT.DONE = 0
  badTemp : Tab Nat         := []   -- consecutive samples without a valid reading, by HMC (R255)
  deriving DecidableEq, Repr

/-! ## Fabric (R259 to R297) -/

/-- What a request is sent for. -/
inductive Owner where
  | tile (t : Nat) (flight : Nat)
  | upe (stack : Nat)
  | cle (stack ctx q : Nat)
  | mirror (ctx entry : Nat)
  | restore (ctx : Nat)
  | handover
  | bureau
  | sbd
  | rdma (id : Nat)
  deriving DecidableEq, Repr

/-- Where the data of a GET goes. -/
inductive Dest where
  | none
  | store (t addr : Nat)
  | rf (t addr : Nat)
  | mem (ctx va : Nat)
  | buf (pa : Nat)          -- what its owner has gathered (Flight.got and its like), by physical address
  deriving DecidableEq, Repr

/-- A request that has taken a SEQ and is not finally answered (R272), with its packet fields in clear. -/
structure Req where
  flow    : Nat
  seq     : Nat
  pop     : Nat
  resend  : Nat         := 0
  ctx     : Nat
  owner   : Owner
  mgmt    : Bool        := false -- under the management key
  w2      : Word        := 0     -- TVA, SPACE, ROP, RTYPE, OTOL, COMB of R265
  len     : Nat         := 0     -- GET: units minus 1
  arg     : List Byte   := []    -- bulk payload in clear, or cell body bytes 16 to 27
  dest    : Dest        := .none
  parts   : Tab (List Byte) := []  -- DATA parts of the latest RESEND that have arrived
  sentAt  : Nat         := 0     -- package time of the latest transmission
  firstAt : Nat         := 0     -- package time of the first transmission
  delayFrom : Option Nat := none -- since when resends delay it (R277)
  waiting : Bool        := false -- NACKed as quiescing, to be re-issued (R272)
  page    : Nat                  -- the issuing block's page
  die     : Nat         := 0     -- base die of the issuing unit
  tag     : Nat         := 0     -- which part of its owner's work it serves (a chunk, a record, an entry)
  deriving DecidableEq, Repr

/-- A request that waits for its SEQ: held by a full window, a missing flow entry or the outstanding limit. -/
structure Unsent where
  req   : Req
  again : Bool := false     -- a re-issue after NACK QUIESCING, which ISSUED has counted (R288)
  deriving DecidableEq, Repr

/-- A flow entry: the eight words of R275. -/
structure Flow where
  w0 : Word := 0
  w1 : Word := 0
  w2 : Word := 0
  w3 : Word := 0
  w4 : Word := 0
  w5 : Word := 0
  w6 : Word := 0
  w7 : Word := 0
  deriving DecidableEq, Repr

/-- PORT.STATE (R279). -/
inductive PortState where
  | down | training | up | reduced | disabled
  deriving DecidableEq, Repr

/-- One torus port: state, width, credits towards its neighbour, link error state. -/
structure Port where
  state   : PortState := .down
  width   : Nat       := 0
  rtt     : BitVec 16 := 0
  used    : Tab Nat   := []      -- credits in use by vc * 3 + class (R267)
  replays : Nat       := 0       -- consecutive failed replays of one frame
  last    : Nat       := 24      -- width it came up at last
  downAt  : Nat       := 0       -- package time at which it went DOWN
  replayOwed : Bool   := false   -- an uncorrectable codeword has been discarded and replay requested
  deriving DecidableEq, Repr

/-- A request held in the combining queue, after checks 1 to 5 (R297): its packet in clear and the flow it came on. -/
structure Combined where
  flow  : Nat
  ctx   : Nat
  pkt   : Packet
  plain : List Byte
  pa    : Nat
  owner : Nat
  die   : Nat
  w2    : Word
  deriving DecidableEq, Repr

/-- A packet delivered locally: the port it arrived on (none on a loopback flow) and the base die that delivers it (R243). -/
structure Inbound where
  port : Option Nat
  die  : Nat
  pkt  : Packet
  deriving DecidableEq, Repr

/-- The fabric side of the package. -/
structure Fabric where
  ports     : Tab Port         := []
  inbound   : List Inbound     := []   -- packets delivered locally that wait to be handled
  held      : List (Option Nat × Packet) := []   -- packets that wait for a route or a credit, with their port of arrival
  combine   : List Combined    := []
  cache     : Tab (Option Flow) := []  -- cached flow entries
  missing   : List Nat         := []   -- flow-table misses under way
  reqs      : List Req         := []
  unsent    : List Unsent      := []
  escape    : Tab Byte         := []   -- the loaded escape table (R269)
  remap     : List Word        := []   -- the loaded remap table (R279)
  spent     : Tab Nat          := []   -- fabric bytes of each context in this 100 µs period (R330)
  issuedAll : Tab (BitVec 32)  := []   -- ISSUED and COMPLETED totals of each context (R288)
  doneAll   : Tab (BitVec 32)  := []
  invalid   : Option (Option Nat × Nat) := none   -- FLT invalidation under way: flow, or every flow of a context
  worn      : List Nat         := []   -- flows whose SEQ 0xFFFF_FFFF has been used (R274)
  deriving DecidableEq, Repr

/-! ## Base-die engines (R190 to R237, R298 to R311) -/

/-- A Sideboard job, queued or running (R190). -/
structure SbdJob where
  addr   : Nat
  ctx    : Nat
  deriving DecidableEq, Repr

/-- A Sideboard job that has started (R199). -/
structure SbdRun where
  job    : SbdJob
  code   : Nat := 0                -- 0 served
  fatal  : Bool := false           -- an input was uncorrectable: no DONE word (R212)
  phase  : Nat := 0                -- 1 its descriptor, 2 its inputs are being gathered from tray memory (R281); 3 decided
  got    : Tab Byte := []
  left   : Nat := 0                -- requests to tray memory not yet answered
  done   : Option Nat := none      -- DONE, once the descriptor is read
  hash   : Word := 0
  counts : List Nat := []          -- what counters 2 to 10 of R212 count
  passed : Bool := false           -- it passes at least one assignment
  deriving DecidableEq, Repr

/-- The Sideboards of the package. -/
structure Sbd where
  queue   : List SbdJob   := []
  waiting : List SbdJob   := []    -- starts beyond QMAX, held
  running : Option SbdRun := none
  deriving DecidableEq, Repr

/-- A job ring of a context (R225, R226). -/
structure Ring where
  base   : Word       := 0
  jobs   : BitVec 16  := 0
  en     : Bool       := false
  bad    : Bool       := false     -- invalid entry: counts as ended and refused (R225)
  pos    : Nat        := 0
  head   : Option Nat := none      -- NREADY of the head job, once its words 0 and 1 have been read
  headAt : Nat        := 0         -- when they were read
  deriving DecidableEq, Repr

/-- A running UPE job (R226). -/
structure UpeRun where
  ctx    : Nat
  ring   : Nat
  idx    : Nat
  phase  : Nat := 0                -- 1 its descriptor, 2 its program, 3 its data are being gathered from tray memory (R281); 4 computed; 8 the words of a head are
  words  : List Word := []         -- the descriptor, copied at start
  status : Nat := 0
  code   : Nat := 0
  sev    : Nat := 0
  heldNs : Nat := 0
  got    : Tab Byte := []
  sum    : Option (SumKind × Word) := none   -- its contribution to the summary word
  elems  : Nat := 0
  rd     : Nat := 0
  wr     : Nat := 0
  left   : Nat := 0
  deriving DecidableEq, Repr

/-- The Update Engines. What each keeps by context is listed by stack * 256 + context. -/
structure Upe where
  rings   : Tab Ring          := []    -- by context * 8 + ring
  run     : Tab (Option UpeRun) := []  -- by stack
  c       : Tab Word          := []    -- committed-step count C
  turn    : Tab Nat           := []    -- by stack: (ring key + 1) * 32 + jobs left in its turn (R229)
  noTable : List Nat          := []    -- stacks whose ring table lies beyond local HBM (R438)
  badIndex : Tab Nat          := []    -- STATE.BAD_INDEX by stack
  halted  : List Nat          := []    -- contexts whose jobs and steps do not start during a rollback (R358)
  mirrorDone : List (Nat × Nat) := []  -- mirror entries acknowledged in the attempt: context, entry
  mirrorLeft : Tab Nat        := []    -- mirror requests outstanding, by context * 65536 + entry
  deriving DecidableEq, Repr

/-- A queue of CLE steps of a context (R298). -/
structure CleQueue where
  base  : Word      := 0
  steps : BitVec 16 := 0
  pos   : Nat       := 0
  bad   : Bool      := false
  deriving DecidableEq, Repr

/-- A running CLE step (R299). -/
structure CleRun where
  stack  : Nat
  ctx    : Nat
  q      : Nat
  idx    : Nat
  words  : List Word := []          -- the sixteen words, copied at start
  begun  : Bool := false            -- its operation has begun
  status : Nat  := 0
  code   : Nat  := 0
  sev    : Nat  := 0
  heldNs : Nat  := 0
  left   : Nat  := 0                -- requests not yet answered
  todo   : List Nat := []           -- chunks not yet sent or merged
  phase  : Nat  := 0                -- 8 its descriptor, another its data are being gathered from tray memory (R281)
  got    : Tab Byte := []
  gather : Nat := 0                 -- chunk + 1 whose data are being gathered from tray memory
  cntTo  : List Nat := []           -- PERM: members still to be sent a CNTONLY packet
  deriving DecidableEq, Repr

/-- The Collective Engines. What each keeps by context is listed by stack * 256 + context. -/
structure Cle where
  queues  : Tab CleQueue      := []    -- by context * 8 + queue
  runs    : List CleRun       := []
  attempt : Tab Byte          := []    -- ATTEMPT
  dbase   : Tab Word          := []    -- DIGEST_BASE
  dkey    : Tab Word          := []    -- DKEY
  noTable : List Nat          := []    -- stacks whose plan table lies beyond local HBM (R438)
  lastCtx : Tab (BitVec 8)    := []    -- STATE.CTX by stack
  turn    : Tab Nat           := []    -- by stack: queue key + 1 of the step started last
  deriving DecidableEq, Repr

/-! ## Contexts and keys (R325 to R340) -/

/-- A context descriptor as last copied (R325, R326). -/
structure CtxDesc where
  w0 : Word := 0
  w1 : Word := 0
  w2 : Word := 0
  w3 : Word := 0
  w4 : Word := 0
  w5 : Word := 0
  w6 : Word := 0
  w7 : Word := 0
  deriving DecidableEq, Repr

/-- An attestation session (R336). -/
structure AttSession where
  nonce  : BitVec 256
  ctx    : Nat
  target : Nat
  draw   : Nat                    -- names the session's key pair
  opened : Nat                    -- package time
  report : List Byte
  deriving DecidableEq, Repr

/-- A context switch under way (R327). -/
structure Switch where
  quad : Nat
  ctx  : Nat
  mode : Nat
  deriving DecidableEq, Repr

/-- One inbox record that waits for a context that is not resident (R23). -/
structure Held where
  ctx  : Nat
  tile : Nat
  data : List Byte                -- head and payload
  deriving DecidableEq, Repr

/-- The KEY blocks. -/
structure Keys where
  descs    : Tab CtxDesc         := []   -- the copies in force
  owner    : Tab (Option Nat)    := []   -- resident context by package quad
  saved    : Tab Tile            := []   -- control state in save areas, by context * 192 + tile
  pages    : Tab Page            := []   -- page fields in save areas, by context * 2048 + page
  inbox    : List Held           := []
  keys     : Tab (Option (BitVec 256)) := []   -- job keys by context
  mgmt     : Option (BitVec 256) := none
  arriving : List (Option Nat × BitVec 256) := []   -- keys unwrapped, live at the next boundary (R339)
  sessions : List AttSession     := []
  switch   : Option Switch       := none
  refused  : Bool                := false       -- SWITCH.REFUSED
  coarse   : Tab (BitVec 32)     := []   -- SEQ of coarse records by context
  deriving DecidableEq, Repr

/-! ## The Bureau (R343 to R369) and rounds (R319 to R324) -/

/-- A Step-fatal or Package-fatal report on its own path (R344). -/
structure Fatal where
  page : Nat
  code : Nat
  sev  : Nat
  ctx  : Option Nat
  loc  : Word
  deriving DecidableEq, Repr

/-- A commit record as last read (R348). -/
structure CommitRec where
  en      : Bool     := false
  coord   : Bool     := false
  coordLc : BitVec 13 := 0
  cflow   : BitVec 20 := 0
  group   : BitVec 16 := 0
  glist   : Word     := 0
  verdict : Word     := 0
  mlist   : Word     := 0
  nmirror : Nat      := 0
  mflow   : BitVec 20 := 0
  bad     : Bool     := false
  deriving DecidableEq, Repr

/-- What the Bureau keeps for a context's present attempt, as a member and as the coordinator (R350 to R358). -/
structure Commit where
  cr        : CommitRec := {}
  sf        : Option Nat := none    -- first Step-fatal code charged to the attempt
  refused   : Nat        := 0       -- refused completions in the attempt
  refCode   : Option Nat := none
  laterSf   : Option Nat := none    -- the same of the next attempt: what arises after the vote is charged to it (R351)
  laterRef  : Nat        := 0
  laterCode : Option Nat := none
  mirrorBad : Bool       := false   -- a mirror entry was not acknowledged (0x154)
  resend    : List Nat   := []      -- mirror entries to be sent whole in the next rollback (R357)
  voted     : Bool       := false
  voteCode  : Nat        := 0       -- the first error code of this member's vote or ABORT
  queryAt   : Nat        := 0       -- package time of the vote or the last QUERY
  commitDue : Bool       := false   -- DECIDE COMMIT received, for the next boundary
  phase     : Nat        := 0       -- 0 none; 2 halting and reset; 4 QUIESCED sent; 5 RESET received; 6 lost (R366)
  resetAt   : Option Word := none   -- round that RESET names
  gen       : BitVec 16  := 0       -- generation of the rollback under way
  held      : Bool       := false   -- halted by a malformed record (R348)
  -- coordinator
  votes     : List (Nat × Nat × Nat) := []   -- COMMIT votes: member, step, attempt
  firstVote : Option (Nat × Nat × Nat) := none   -- when the first vote of an attempt came, its step and attempt
  decided   : Option (Bool × BitVec 16 × Nat × Nat) := none   -- commit?, GEN, step, attempt
  dlogNo    : Nat        := 0       -- DLOG cells sent
  dlogWait  : List (Nat × Nat × List Byte) := []   -- cells withheld until their DLOG is acknowledged: its number, flow, operand
  nextGen   : Option (BitVec 16) := none
  quiescers : List Nat   := []
  readies   : List Nat   := []
  resetSent : Bool       := false
  probing   : Option (Nat × Nat × Nat) := none   -- suspect, requester, when
  askedBy   : Option Inbound := none             -- the TAKEOVER_REQ that waits for its answer
  dead      : Option (Nat × Nat) := none         -- dead coordinate, survivor
  standby   : Option Nat := none                 -- standby pair of the handover under way
  spent     : List Nat   := []                   -- standby pairs that have been used
  noStandby : Bool       := false
  lost      : Bool       := false
  deriving DecidableEq, Repr

/-- The Bureau. -/
structure Bureau where
  fatals    : List Fatal      := []
  levels    : List (List Nat) := []   -- running activations: the contexts they have still to roll back
  commits   : Tab Commit      := []     -- by context
  hbAt      : Nat             := 0      -- package time of the last heartbeat sent
  missed    : Nat             := 0      -- heartbeats missed in a row
  beatSeen  : Bool            := false
  settee    : BitVec 3        := 1      -- SETTEE.STATE (R363); reset 1
  heldLc    : BitVec 13       := 0      -- SETTEE.HELD
  remapDue  : List (BitVec 13 × BitVec 13) := []   -- remap entries for the next boundary
  remaps    : List (BitVec 13 × BitVec 13) := []   -- remap entries written by the Bureau
  offences  : List Nat        := []     -- package time of each offence
  quarantined : Bool          := false
  damaged   : List (Nat × Nat × Nat) := []   -- damaged 4 KiB units of committed state (R360): context, virtual address, the mirror's
  assigned  : Option (BitVec 13 × Nat × Nat × Nat) := none   -- what a standby is to assume: coordinate, context, step, attempt
  streaming : Option (BitVec 13 × BitVec 13) := none   -- HANDOVER: standbys for the dead and the own coordinate
  badRec    : List Nat        := []     -- contexts whose malformed record has raised 0x155
  twinLost  : Bool            := false
  own       : List (Nat × List Byte) := []    -- cells of this Bureau to itself, oldest first: context and operand bytes
  deriving DecidableEq, Repr

/-- An accepted beat that has not placed its boundary yet: time, source (1 edge, 2 cell), round, depth, origin. -/
structure Beat where
  time   : Nat
  src    : Nat
  round  : Option Word
  depth  : BitVec 8 := 0
  origin : Bool     := false
  port   : Option Nat := none
  deriving DecidableEq, Repr

/-- Round keeping (R319 to R324). -/
structure Sync where
  last      : Nat         := 0       -- package time of the last boundary, ns
  count     : Word        := 0       -- ROUND.COUNT
  beat      : Option Beat := none
  lastSrc   : BitVec 2    := 0
  offset    : BitVec 12   := 0
  fault     : BitVec 2    := 0
  consec    : BitVec 8    := 0
  depth     : BitVec 8    := 0
  origin    : Bool        := false
  originating : Bool      := false   -- as active backup (R323)
  resync    : Bool        := false   -- RESYNC written, the next beat is taken at its arrival
  lostOnce  : Bool        := false   -- SYNC_LOST raised since CONSEC was last 0
  replanDue : Bool        := false
  deriving DecidableEq, Repr

/-! ## Host side (R380 to R397) -/

/-- An Umlon session (R382, R387). -/
structure Session where
  valid   : Bool       := false
  prov    : Bool       := false
  ctx     : Nat        := 0
  pfx     : BitVec 128 := 0
  plen    : Nat        := 0
  key     : BitVec 256 := 0
  next    : BitVec 32  := 0              -- next SEQ expected
  waiting : List (Nat × Umlon) := []     -- requests and parts held, with their arrival
  lost    : List Nat   := []             -- SEQs declared lost, of the last 64
  replies : List (Nat × List Umlon) := []   -- recorded replies
  begun   : Bool       := false          -- a SEQ has been accepted
  deriving DecidableEq, Repr

/-- A 40-byte event record (R392). -/
structure EvRec where
  type  : BitVec 4
  seqno : BitVec 32
  body  : List Word
  fatal : Bool
  sev   : Nat
  at'   : Nat := 0                        -- package time at which it was queued
  deriving DecidableEq, Repr

/-- An event channel (R390 to R393). -/
structure Chan where
  bound   : Bool       := false
  sess    : Nat        := 0
  portSel : BitVec 8   := 0
  coalN   : Nat        := 1
  coalUs  : Nat        := 0
  udp     : BitVec 16  := 0
  addr    : BitVec 128 := 0
  queue   : List EvRec := []
  dropped : BitVec 32  := 0
  recSeq  : BitVec 32  := 0
  msgSeq  : BitVec 32  := 0
  unacked : List (Nat × Nat × Nat × Umlon) := []   -- message sequence, resends made, sent at, message
  stalled : Bool       := false
  deriving DecidableEq, Repr

/-- An RDMA operation the device has outstanding on a QP for a started descriptor (R397). -/
structure RdmaOp where
  read   : Bool
  t      : Nat
  flight : Nat
  dest   : Dest
  len    : Nat
  va     : Word      := 0
  rkey   : BitVec 32 := 0
  data   : List Byte := []
  sent   : Bool      := false
  deriving DecidableEq, Repr

/-- A queue pair (R395). -/
structure Qp where
  there   : Bool       := false
  error   : Bool       := false
  ctx     : Nat        := 0
  port    : Nat        := 0
  mtu     : Nat        := 0
  gid     : BitVec 128 := 0
  rqpn    : BitVec 24  := 0
  rpsn    : BitVec 24  := 0
  psn     : BitVec 24  := 0
  retries : Nat        := 0
  rnr     : Nat        := 0
  timeout : Nat        := 0
  ringVa  : Word       := 0
  entSize : Nat        := 0
  entries : Nat        := 0
  head    : Nat        := 0               -- receive-ring entries filled
  tries   : Nat        := 0               -- retries made of the oldest operation
  rnrs    : Nat        := 0               -- retries made after RNR NAKs
  timer   : Nat        := 0               -- when the local ACK timeout began
  ops     : List RdmaOp := []
  rate    : Nat        := 50000           -- send rate in MB/s when it was last halved
  rateAt  : Nat        := 0               -- when that was
  cnpAt   : Option Nat := none            -- when the QP last sent a CNP
  deriving DecidableEq, Repr

/-- An inbound RDMA request that has been carried out but not answered: its answers leave in order. -/
structure RdmaIn where
  id     : Nat
  qpn    : Nat
  answer : Nat := 0        -- 0 ACK, 1 data, 2 NAK Remote Access Error, 3 NAK Invalid Request, 4 RNR NAK
  len    : Nat := 0
  got    : Tab Byte := []
  left   : Nat := 0        -- requests to tray memory not yet answered
  deriving DecidableEq, Repr

/-- A memory registration (R395). -/
structure Mr where
  there : Bool     := false
  rkey  : BitVec 32 := 0
  ctx   : Nat      := 0
  va    : Nat      := 0
  len   : Nat      := 0
  rd    : Bool     := false
  wr    : Bool     := false
  deriving DecidableEq, Repr

/-- An entry of the host region table as last read (R397). -/
structure Hrt where
  valid : Bool     := false
  wr    : Bool     := false
  ctx   : Nat      := 0
  qpn   : Nat      := 0
  base  : Nat      := 0     -- 2 MiB units
  len   : Nat      := 0
  hva   : Word     := 0
  rkey  : BitVec 32 := 0
  deriving DecidableEq, Repr

/-- The host side. `flash` holds what the device has written to boot flash; other bytes read as Config.flashByte. -/
structure HostSide where
  sessions : Tab Session := []
  chans    : Tab Chan    := []
  qps      : Tab Qp      := []     -- by QPN
  mrs      : Tab Mr      := []     -- by slot, 4,096
  hrt      : Tab Hrt     := []
  linkUp   : Tab Nat     := []     -- LINK.STATE by port
  image    : List Byte   := []     -- image parts received
  inbound  : List RdmaIn := []     -- inbound RDMA requests not yet answered, oldest first
  flash    : Tab (Option Byte) := []
  bound    : Nat         := 0      -- QPs and registrations made, for their draws
  deriving DecidableEq, Repr

/-! ## Package: power, bring-up, pins, test (R370 to R378, R400 to R435) -/

/-- Power, bring-up, pins and debug port. -/
structure Pkg where
  porst     : Bool       := true     -- PORST_N is asserted
  powerOn   : Bool       := true     -- the rails are up
  stage     : BitVec 8   := 0        -- BOOT.STAGE
  bootCode  : BitVec 12  := 0
  straps    : BitVec 13  := 0
  strapped  : Bool       := false    -- the second strap sample has been taken
  cfgCopy   : Bool       := false
  packSlot  : Bool       := false
  patches   : BitVec 4   := 0
  patchHash : BitVec 256 := 0
  bootId    : Word       := 0
  warm      : Bool       := false    -- bring-up after a warm reset
  powered   : BitVec 72  := 0        -- domains that are on and usable
  switching : List (Nat × Bool) := []  -- domains under way: domain, to on
  frozen    : Bool       := false
  stopped   : Bool       := false    -- fail-stopped (R346)
  armed     : Bool       := false    -- LCT.ARM when it froze or stopped
  freezeOk  : Bool       := true     -- FREEZE_N has been high since PORST_N was released (R432)
  freezeLow : Bool       := false    -- FREEZE_N is low
  freezeAt  : Nat        := 0        -- FREEZE_TIME
  thermtrip : Bool       := false    -- THERMTRIP_N is asserted
  capHot    : Nat        := 0        -- ms at cap step 7 above the limit (R411)
  capOnce   : Bool       := false    -- 0x181 raised since the cap was last below 7
  energyMj  : Nat        := 0        -- energy not yet counted as a whole joule, mJ (R418)
  ageStep   : Tab Nat    := []       -- frequency steps of exhausted quads (R374)
  offsets   : Tab Nat    := []       -- voltage offsets by quad
  ageLastH  : Nat        := 0
  ageIndex  : Nat        := 0
  testing   : Bool       := false    -- a Workbench run is under way
  packHash  : BitVec 256 := 0
  ir        : BitVec 8   := 0x01     -- TAP instruction register
  lctAddr   : Word       := 0
  blanked   : Bool       := false    -- the last Lectern read was blanked
  tapReset  : Bool       := false    -- TRST_N is low
  deriving DecidableEq, Repr

/-- What the package sends out, in order: packets on a port, replay requests and replays on a link, Umlon datagrams,
RoCEv2 operations and answers, neighbour and echo answers, bits shifted out of the debug port. -/
inductive Out where
  | packet (port : Nat) (p : Packet)
  | credits (port vc cls n : Nat)
  | replayAsked (port : Nat)
  | replayed (port : Nat)
  | umlon (port : Nat) (udp : BitVec 16) (addr : BitVec 128) (m : Umlon)
  | rdmaRead (qpn : Nat) (rkey : BitVec 32) (va : Word) (len : Nat)
  | rdmaWrite (qpn : Nat) (rkey : BitVec 32) (va : Word) (data : List Byte)
  | rdmaData (qpn : Nat) (data : List Byte)
  | rdmaAck (qpn : Nat)
  | rdmaNak (qpn : Nat) (syndrome : Nat)
  | cnp (qpn : Nat)
  | neighbor (port : Nat) (target dst : BitVec 128)
  | echo (port : Nat) (src dst : BitVec 128) (data : List Byte)
  | tdo (bits : Nat) (width : Nat)
  deriving DecidableEq, Repr

/-- The whole package. -/
structure State where
  time    : Nat       := 0     -- package time, ns (R408)
  draws   : Nat       := 0     -- the model's own: numbers the free values taken
  pkg     : Pkg       := {}
  pages   : Tab Page  := []    -- by event channel number of the page (R390)
  tiles   : Tab Tile  := []    -- by d * 48 + n
  mem     : Mem       := {}
  fab     : Fabric    := {}
  sbd     : Sbd       := {}
  upe     : Upe       := {}
  cle     : Cle       := {}
  key     : Keys      := {}
  bur     : Bureau    := {}
  sync    : Sync      := {}
  host    : HostSide  := {}
  out     : List Out  := []    -- the model's own: what has left the package
  pending : List Instr := []   -- commands that wait, first in first out
  deriving DecidableEq, Repr

/-- The package right after reset: PORST_N asserted, bring-up stage RESET (R400), package time 0 (R408), every page at
its reset values, every domain off (R406), nothing listed in any memory. -/
def State.reset : State := {}

end Sys2Proof.Machine
end

