-- ==== Sys2Proof/Machine/Clock.lean ====
section
/-! DEFINITION. Package time (R408): what passes when no command waits. -/

namespace Sys2Proof.Machine

/-- With no command waiting, package time advances by 1 ns, unless the package is held in reset, unpowered or frozen. -/
def State.idle (s : State) : State :=
  if s.pkg.porst || !s.pkg.powerOn || s.pkg.frozen then s else { s with time := s.time + 1 }

end Sys2Proof.Machine
end

