-- ==== Sys2Proof/Machine/Formats.lean ====
section
/-! DEFINITION. Number formats (R43 to R52, R66 to R71): decoding to exact numbers, rounding once, encoding, comparison. -/

namespace Sys2Proof.Machine

/-! ## Exact dyadic numbers -/

/-- floor (m * 2^k). -/
def shiftFloor (m : Int) (k : Int) : Int := if 0 ≤ k then m * 2 ^ k.toNat else m / 2 ^ (-k).toNat

def Dy.add (a b : Dy) : Dy :=
  if a.m = 0 then b
  else if b.m = 0 then a
  else
    let e := min a.e b.e
    ⟨a.m * 2 ^ (a.e - e).toNat + b.m * 2 ^ (b.e - e).toNat, e⟩
def Dy.neg (a : Dy) : Dy := ⟨-a.m, a.e⟩
def Dy.sub (a b : Dy) : Dy := a.add b.neg
def Dy.mul (a b : Dy) : Dy := ⟨a.m * b.m, a.e + b.e⟩
/-- Times 2^k. -/
def Dy.scale (a : Dy) (k : Int) : Dy := ⟨a.m, a.e + k⟩
def Dy.abs (a : Dy) : Dy := ⟨a.m.natAbs, a.e⟩
def Dy.isZero (a : Dy) : Bool := decide (a.m = 0)
def Dy.lt (a b : Dy) : Bool := decide ((a.sub b).m < 0)
def Dy.le (a b : Dy) : Bool := decide ((a.sub b).m ≤ 0)
/-- floor (log2 |a|) of a non-zero number. -/
def Dy.log2 (a : Dy) : Int := (Nat.log2 a.m.natAbs : Int) + a.e

/-! ## Data of a format -/

/-- A datum: a NaN, an infinity, or a finite number with its sign (kept for a zero). -/
inductive Num where
  | nan
  | inf (neg : Bool)
  | fin (neg : Bool) (mag : Dy)      -- mag is not negative
  deriving DecidableEq, Repr

/-- The layout of a floating-point format (R44): exponent bits, mantissa bits, bias. -/
structure Lay where
  eb   : Nat
  mb   : Nat
  bias : Int
  deriving DecidableEq, Repr

/-- The layout of a format code (R43, R44); FP32 for a code that is no floating-point format. -/
def layOf : Nat → Lay
  | 1 => ⟨8, 7, 127⟩ | 2 => ⟨5, 10, 15⟩ | 3 => ⟨4, 3, 7⟩ | 4 => ⟨5, 2, 15⟩ | 5 => ⟨2, 3, 1⟩ | 6 => ⟨3, 2, 3⟩ | 7 => ⟨2, 1, 1⟩
  | _ => ⟨8, 23, 127⟩

/-- Bits of one element of a format code (R43). -/
def fmtBits : Nat → Nat
  | 0 | 9 => 32 | 1 | 2 => 16 | 5 | 6 => 6 | 7 => 4 | _ => 8

/-- The format has an infinity coded by all-ones exponent and zero mantissa (R44). -/
def hasInf (f : Nat) : Bool := f ≤ 2 || f = 4

/-- The bits of a floating-point element as a datum (R44, R45). -/
def decodeFp (f v : Nat) : Num :=
  let l := layOf f
  let man := v % 2 ^ l.mb
  let ex := v / 2 ^ l.mb % 2 ^ l.eb
  let neg := decide (v / 2 ^ (l.mb + l.eb) % 2 = 1)
  if hasInf f && decide (ex = 2 ^ l.eb - 1) then (if man = 0 then .inf neg else .nan)
  else if f = 3 ∧ ex = 15 ∧ man = 7 then .nan
  else if ex = 0 then .fin neg ⟨man, 1 - l.bias - l.mb⟩
  else .fin neg ⟨man + 2 ^ l.mb, ex - l.bias - l.mb⟩

/-- v as a two's-complement integer of n bits. -/
def signed (n v : Nat) : Int :=
  let v := v % 2 ^ n
  if v < 2 ^ (n - 1) then v else (v : Int) - 2 ^ n

/-- The bits of an element of any format as a datum; in an MX block an INT8 counts 2^-6 (R46). -/
def decodeElem (f : Nat) (block : Bool) (v : Nat) : Num :=
  if f = 8 then
    let i := signed 8 v
    .fin (decide (i < 0)) ⟨i.natAbs, if block then -6 else 0⟩
  else if f = 9 then
    let i := signed 32 v
    .fin (decide (i < 0)) ⟨i.natAbs, 0⟩
  else decodeFp f v

/-- The signed value of a finite datum. -/
def Num.dy : Num → Dy
  | .fin true d => d.neg
  | .fin false d => d
  | _ => {}
def Num.isNan : Num → Bool
  | .nan => true
  | _ => false
def Num.isZero : Num → Bool
  | .fin _ d => d.isZero
  | _ => false
def Num.sign : Num → Bool
  | .inf n => n
  | .fin n _ => n
  | .nan => false
def Num.negate : Num → Num
  | .nan => .nan
  | .inf n => .inf !n
  | .fin n d => .fin (!n) d
def Num.abs : Num → Num
  | .nan => .nan
  | .inf _ => .inf false
  | .fin _ d => .fin false d

/-! ## Rounding and encoding -/

/-- How a number between two neighbours is rounded. -/
inductive Rnd where
  | nearest | down | up
  deriving DecidableEq, Repr

/-- The magnitude m * 2^k as an integer, rounded (nearest: ties to even). -/
def roundMag (r : Rnd) (m : Nat) (k : Int) : Nat :=
  if 0 ≤ k then m * 2 ^ k.toNat
  else
    let d := 2 ^ (-k).toNat
    let q := m / d
    let rem := m % d
    match r with
    | .down => q
    | .up => if rem = 0 then q else q + 1
    | .nearest => if d < 2 * rem ∨ (2 * rem = d ∧ q % 2 = 1) then q + 1 else q

/-- The largest finite pattern of a format without its sign. -/
def maxFinite (f : Nat) : Nat :=
  let l := layOf f
  if hasInf f then (2 ^ l.eb - 1) * 2 ^ l.mb - 1 else if f = 3 then 0x7E else 2 ^ (l.eb + l.mb) - 1

/-- The pattern of a positive magnitude rounded into a format, not yet checked against its largest finite value. -/
def roundPattern (r : Rnd) (f : Nat) (d : Dy) : Nat :=
  let l := layOf f
  if d.m = 0 then 0
  else
    let emin := 1 - l.bias
    let e := max d.log2 emin
    let q := e - l.mb
    (e - emin).toNat * 2 ^ l.mb + roundMag r d.m.natAbs (d.e - q)

def signBit (f : Nat) (neg : Bool) : Nat := let l := layOf f; flag' neg * 2 ^ (l.eb + l.mb)
where flag' (b : Bool) : Nat := if b then 1 else 0

/-- The canonical NaN of a format (R45); a format without one writes 0 (R68). -/
def nanBits : Nat → Nat
  | 0 => 0x7FC00000 | 1 => 0x7FC0 | 2 => 0x7E00 | 3 => 0x7F | 4 => 0x7E | _ => 0

/-- What an infinite or too large result is written as (R67): infinity where the format has one, else the largest finite. -/
def infBits (f : Nat) (neg : Bool) : Nat := signBit f neg + (if hasInf f then maxFinite f + 1 else maxFinite f)

/-- A datum in a floating-point format, rounded once (R66, R67). -/
def encodeFp (r : Rnd) (f : Nat) (x : Num) : Nat :=
  match x with
  | .nan => nanBits f
  | .inf n => infBits f n
  | .fin n d =>
    let p := roundPattern r f d
    if maxFinite f < p then infBits f n else signBit f n + p

/-- A datum in an element of an MX block: finite values saturate (R67); infinity as R68 says. -/
def encodeSat (f : Nat) (x : Num) : Nat :=
  match x with
  | .nan => 0
  | .inf n => if f = 4 then infBits f n else signBit f n + maxFinite f
  | .fin n d => signBit f n + min (maxFinite f) (roundPattern .nearest f d)

/-- A finite number rounded to an integer (nearest, ties to even). -/
def roundInt (d : Dy) : Int :=
  let k : Int := roundMag .nearest d.m.natAbs d.e
  if d.m < 0 then -k else k

/-- An integer kept between bounds. -/
def clampInt (lo hi x : Int) : Int := if x < lo then lo else if hi < x then hi else x

/-- An integer as the n-bit two's-complement pattern. -/
def pattern (n : Nat) (x : Int) : Nat := (x % 2 ^ n).toNat

/-- A value as a datum, with the sign of a zero given. -/
def Num.ofDy (d : Dy) (zeroNeg : Bool := false) : Num := .fin (if d.m = 0 then zeroNeg else decide (d.m < 0)) d.abs

/-- FP32 pattern of a number, rounded to nearest. -/
def f32 (x : Num) : Nat := encodeFp .nearest 0 x
/-- The datum of an FP32 pattern. -/
def ofF32 (v : Nat) : Num := decodeFp 0 v

/-! ## Comparison (R52) -/

/-- Ordered less-than; false with a NaN. -/
def Num.lt : Num → Num → Bool
  | .nan, _ => false
  | _, .nan => false
  | .inf a, .inf b => a && !b
  | .inf a, .fin _ _ => a
  | .fin _ _, .inf b => !b
  | a, b => a.dy.lt b.dy
def Num.eq (a b : Num) : Bool := !a.isNan && !b.isNan && !a.lt b && !b.lt a

/-- maximumNumber of R52: a NaN is ignored beside a number, and −0 lies below +0. -/
def Num.max (a b : Num) : Num :=
  if a.isNan then b
  else if b.isNan then a
  else if a.lt b then b
  else if b.lt a then a
  else if a.sign then b else a
/-- minimumNumber of R52. -/
def Num.min (a b : Num) : Num :=
  if a.isNan then b
  else if b.isNan then a
  else if a.lt b then a
  else if b.lt a then b
  else if a.sign then a else b

/-! ## FP32 arithmetic, rounded once -/

/-- Sum of two data before rounding. A sum of zeros is −0 only when both are −0; an exact cancellation is +0. -/
def Num.add : Num → Num → Num
  | .nan, _ => .nan
  | _, .nan => .nan
  | .inf a, .inf b => if a = b then .inf a else .nan
  | .inf a, _ => .inf a
  | _, .inf b => .inf b
  | a, b => .ofDy (a.dy.add b.dy) (a.isZero && b.isZero && a.sign && b.sign)

/-- Product of two data before rounding. -/
def Num.mul : Num → Num → Num
  | .nan, _ => .nan
  | _, .nan => .nan
  | .inf a, b => if b.isZero then .nan else .inf (a != b.sign)
  | a, .inf b => if a.isZero then .nan else .inf (a.sign != b)
  | .fin a x, .fin b y => .fin (a != b) (x.mul y)

def fadd (a b : Nat) : Nat := f32 ((ofF32 a).add (ofF32 b))
def fsub (a b : Nat) : Nat := f32 ((ofF32 a).add (ofF32 b).negate)
def fmul (a b : Nat) : Nat := f32 ((ofF32 a).mul (ofF32 b))
def ffma (a b c : Nat) : Nat := f32 (((ofF32 a).mul (ofF32 b)).add (ofF32 c))
def fmax (a b : Nat) : Nat := f32 ((ofF32 a).max (ofF32 b))
def fmin (a b : Nat) : Nat := f32 ((ofF32 a).min (ofF32 b))

/-- The condition codes of R105, on FP32 data (R106): EQ, NE, LT, GE, GT, LE; none for the others. -/
def fcond (cc : Nat) (a b : Num) : Option Bool :=
  match cc with
  | 0 => some (a.eq b)
  | 1 => some (!a.eq b)
  | 2 => some (a.lt b)
  | 3 => some (b.lt a || a.eq b)
  | 6 => some (b.lt a)
  | 7 => some (a.lt b || a.eq b)
  | _ => none

/-! ## Running maximum (R70, R71) -/

/-- The FP32 pattern of |v| rounded toward +∞; an infinity captures +∞, a NaN nothing. -/
def captureMax (x : Num) : Option Nat :=
  match x with
  | .nan => none
  | .inf _ => some 0x7F800000
  | .fin _ d => some (encodeFp .up 0 (.fin false d))

/-- The sum of every captured value: the largest pattern (R71). -/
def maxOf (xs : List Num) : Nat := xs.foldl (fun m x => match captureMax x with | none => m | some p => Nat.max m p) 0

/-! ## Stochastic rounding (R69) -/

/-- FP32 datum x to format f with the 16-bit value r: |x| + r × u × 2^-16 truncated toward zero. A result beyond the largest finite
value is that value where |x| is not beyond it, and falls under R67 where it is. -/
def stochastic (f : Nat) (r : Nat) (x : Num) : Nat :=
  match x with
  | .fin n d =>
    let l := layOf f
    if d.m = 0 then signBit f n
    else
      let e := max d.log2 (1 - l.bias)
      let u : Dy := ⟨1, e - l.mb⟩
      let p := roundPattern .down f (d.add ((u.mul ⟨r, 0⟩).scale (-16)))
      if p ≤ maxFinite f then signBit f n + p
      else if roundPattern .up f d ≤ maxFinite f then signBit f n + maxFinite f
      else infBits f n
  | _ => encodeFp .nearest f x

end Sys2Proof.Machine
end

