-- ==== Sys2Proof/Machine/Accum.lean ====
section
/-! DEFINITION. The anchored accumulator (R53 to R61, R63, R64, R66 to R68): entries, anchors, closures, merges, readout. -/

namespace Sys2Proof.Machine

/-- I of an entry, as an integer (R54). -/
def Entry.i (e : Entry) : Int := e.int.toInt
/-- The anchor A, as an integer. -/
def Entry.a (e : Entry) : Int := e.anchor.toInt
/-- The value I × 2^(A − 95) (R54). -/
def Entry.value (e : Entry) : Dy := ⟨e.i, e.a - 95⟩
def Entry.setI (e : Entry) (x : Int) : Entry := { e with int := BitVec.ofInt 112 x }
def Entry.setA (e : Entry) (x : Int) : Entry := { e with anchor := BitVec.ofInt 12 x }

/-- The 128 bits of an entry (R54). -/
def Entry.bits (e : Entry) : Nat :=
  e.int.toNat + (if e.nan then 2 ^ 112 else 0) + (if e.pinf then 2 ^ 113 else 0) + (if e.ninf then 2 ^ 114 else 0)
    + (if e.inexact then 2 ^ 115 else 0) + e.anchor.toNat * 2 ^ 116

/-- The carry bound C of R56; none for zero. -/
def Entry.carryBound (e : Entry) : Option Int :=
  if e.i = 0 then none else some ((Nat.log2 e.i.natAbs : Int) + 1 + e.a - 95)

/-- The larger of two bounds, where there is one. -/
def maxOpt : Option Int → Option Int → Option Int
  | none, b => b
  | a, none => a
  | some a, some b => some (max a b)

/-- The anchor from the product bound and the carry bound (R56). -/
def anchorOf (p c : Option Int) : Int :=
  match maxOpt p c with
  | none => -2048
  | some x => x + 1

/-- Re-alignment to a new anchor (R59). -/
def Entry.realign (e : Entry) (a : Int) : Entry :=
  let i := shiftFloor e.i (e.a - a)
  let lost := decide (e.a < a ∧ i * 2 ^ (a - e.a).toNat ≠ e.i)
  { ((e.setI i).setA a) with inexact := e.inexact || lost }

/-- A closure (R59): the entry's value is carried to the anchor of the next segment. -/
def Entry.close (e : Entry) (p : Option Int) : Entry :=
  { (e.realign (anchorOf p e.carryBound)) with kcount := 0, adds := e.adds + 1 }

/-- An exact product added: floor of it in window LSBs (R57). -/
def Entry.addProduct (e : Entry) (d : Dy) : Entry :=
  if d.m = 0 then e
  else
    let k := d.e - (e.a - 95)
    let q := shiftFloor d.m k
    let lost := decide (k < 0 ∧ q * 2 ^ (-k).toNat ≠ d.m)
    { (e.setI (e.i + q)) with inexact := e.inexact || lost }

/-- ceil (log2 n). -/
def ceilLog2 (n : Nat) : Nat := if n ≤ 1 then 0 else Nat.log2 (n - 1) + 1

/-- A merge of entries into one (R61). -/
def mergeEntries (es : List Entry) : Entry :=
  let st : Entry := es.foldl (fun a e =>
    { a with nan := a.nan || e.nan, pinf := a.pinf || e.pinf, ninf := a.ninf || e.ninf, inexact := a.inexact || e.inexact }) {}
  match es.foldl (fun b e => maxOpt b e.carryBound) none with
  | none => st
  | some c =>
    let a := c + (ceilLog2 es.length : Int) + 1
    let rs := es.map fun e => e.realign a
    let st := { st with inexact := st.inexact || rs.any fun e => e.inexact }
    (st.setI (rs.foldl (fun x e => x + e.i) 0)).setA a

/-- Which pieces each pass code sums (R64). -/
def passPieces : Nat → List (Nat × Nat)
  | 2 => [(0, 0), (0, 1), (1, 0)]
  | 3 => [(0, 0), (0, 1), (1, 0), (0, 2), (1, 1), (2, 0)]
  | _ => [(0, 0)]

/-- The three 8-bit pieces of a finite FP32 datum (R63). -/
def pieces (x : Dy) : List Dy :=
  if x.m = 0 then [⟨0, 0⟩, ⟨0, 0⟩, ⟨0, 0⟩]
  else
    let m := x.m.natAbs
    let sh := 23 - Nat.log2 m
    let m24 := m * 2 ^ sh
    let e := x.e - sh
    let sg : Int := if x.m < 0 then -1 else 1
    [⟨sg * (m24 / 65536 : Nat), e + 16⟩, ⟨sg * (m24 / 256 % 256 : Nat), e + 8⟩, ⟨sg * (m24 % 256 : Nat), e⟩]

/-- One product of two element values into an entry, with the exact sum of what is added for the checksums (R53, R57, R64,
R147). `split` is the list of piece pairs of an FP32 product. -/
def Entry.mulAdd (e : Entry) (split : Option (List (Nat × Nat))) (x y : Num) : Entry × Dy :=
  match x, y with
  | .nan, _ => ({ e with nan := true }, {})
  | _, .nan => ({ e with nan := true }, {})
  | .inf a, y => if y.isZero then ({ e with nan := true }, {})
    else if a != y.sign then ({ e with ninf := true }, {}) else ({ e with pinf := true }, {})
  | x, .inf b => if x.isZero then ({ e with nan := true }, {})
    else if x.sign != b then ({ e with ninf := true }, {}) else ({ e with pinf := true }, {})
  | x, y =>
    match split with
    | none => let p := x.dy.mul y.dy; (e.addProduct p, p)
    | some ps =>
      let xs := pieces x.dy
      let ys := pieces y.dy
      ps.foldl (fun (e, t) (i, j) =>
        let p := (xs.getD i {}).mul (ys.getD j {})
        (e.addProduct p, t.add p)) (e, {})

/-! ## Readout -/

/-- The entry as a datum times 2^t; the status bits take precedence (R66). -/
def Entry.datum (e : Entry) (t : Int) : Num :=
  if e.nan || (e.pinf && e.ninf) then .nan
  else if e.pinf then .inf false
  else if e.ninf then .inf true
  else .ofDy (e.value.scale t)

/-- A datum in an output format outside a block (R66, R67). -/
def readoutPlain (f : Nat) (x : Num) : Nat :=
  if f = 9 then
    match x with
    | .fin _ _ => pattern 32 (clampInt (-(2 ^ 31)) (2 ^ 31 - 1) (roundInt x.dy))
    | _ => 0
  else encodeFp .nearest f x

/-- e_top of R55. -/
def eTop : Nat → Int
  | 3 => 8 | 4 => 15 | 5 => 2 | 6 => 4 | 7 => 2 | 8 => 1 | _ => 0
/-- e_max of R55. -/
def eMax : Nat → Int
  | 3 => 8 | 4 => 15 | 5 => 2 | 6 => 4 | 7 => 2 | _ => 0

/-- The larger magnitude of two numbers. -/
def largerMag (a b : Dy) : Dy := if a.abs.lt b.abs then b.abs else a.abs

/-- One MX block of results (R68): its scale byte and its elements. -/
def mxBlock (f : Nat) (xs : List Num) : Nat × List Nat :=
  if xs.any Num.isNan then (0xFF, xs.map fun _ => 0)
  else
    let amax := xs.foldl (fun a x => largerMag a x.dy) {}
    let anyInf := xs.any fun x => match x with | .inf _ => true | _ => false
    if amax.m = 0 && !anyInf then (0, xs.map fun _ => 0)
    else
      let x : Int := if amax.m = 0 then 127 else clampInt (-127) 127 (amax.log2 - eMax f)
      let el (v : Num) : Nat :=
        if f = 8 then
          match v with
          | .inf n => pattern 8 (if n then -127 else 127)
          | v => pattern 8 (clampInt (-127) 127 (roundInt ((v.dy.scale (-x)).scale 6)))
        else
          match v with
          | .fin n d => if d.m = 0 then 0 else encodeSat f (.fin n (d.scale (-x)))
          | v => encodeSat f v
      ((x + 127).toNat, xs.map el)

end Sys2Proof.Machine
end

