-- ==== Sys2Proof/Config.lean ====
section
/-! DEFINITION. What the manual leaves open: values without a body, so that no proof can see what they are, and what one
implementation fixes. -/

namespace Sys2Proof.Config

/-- A byte of a 32-byte unit that one unit reads while another's write to it is in flight is the new byte where this
is true and the old one where it is false (R76): the draw number, then the unit's address. -/
opaque raceSeesNew : Nat → Nat → Bool

/-- The set of a memory-side cache bank that a line (its number in the stack) falls in (R246 gives 16,384 sets and
no rule of placement). -/
opaque mscSet : Nat → Nat

/-- Whether a way of a set becomes free by itself before an access (R246: which line is evicted, and when, is timing). -/
opaque mscEvicts : Nat → Nat → Bool

/-- Which unpinned entry of a full flow-table cache a fill replaces (R22, R23 name no policy): the draw number. -/
opaque fltVictim : Nat → Nat

/-- The starting packet sequence number and the R_Key that the device draws (R395). -/
opaque startPsn : Nat → BitVec 24
opaque rKey : Nat → BitVec 32

/-- The shared secret of an attestation session for a ciphertext (ML-KEM-768, R336): the session's draw, the ciphertext. -/
opaque kemSecret : Nat → List Byte → BitVec 256
/-- The encapsulation key bytes that a session draws (1,184 bytes, R337). -/
opaque kemKey : Nat → List Byte
/-- The device's attestation signature over report bytes (SLH-DSA-SHA2-128f, 17,088 bytes, R334, R337). -/
opaque attSign : List Byte → List Byte
/-- The 7,984 bytes of the identity record beyond those the manual fixes: SERIAL, ATT_PK, SIGNER and SIG (R334). -/
opaque serial : BitVec 128
opaque attPk : BitVec 256
opaque signer : Byte
opaque identitySig : List Byte
/-- Whether a signature verifies under a root slot (SLH-DSA-SHA2-128s, R335): slot, signed bytes, signature. -/
opaque sigValid : Nat → List Byte → List Byte → Bool
/-- The revocation bits and security-version floors held in fuses (R335). -/
opaque rootRevoked : Nat → Bool
opaque fwFloor : Nat
opaque packFloor : Nat
/-- The SHA-256 hash of the ROM, and the ROM version (R337, R417). -/
opaque romHash : BitVec 256
opaque romVersion : BitVec 16
/-- What the manual leaves to the flash device: its contents at power-up (R403). -/
opaque flashByte : Nat → Byte

/-- The bits that an uncorrectable error has turned in a stored 64-bit word (R149, R247, R341: the reader gets the bits as
read): the draw number, the word's place in the burst. -/
opaque badBits : Nat → Nat → BitVec 64

/-- The low 32 bits of a bridged or free field where a rule gives no value: the draw number. -/
opaque freeWord : Nat → BitVec 64

/-- How the four Sideboards of a package share a job (R190 gives no rule): of the counts left, what the next Sideboard
counts: the draw number, the counter, the Sideboard. -/
opaque sbdShare : Nat → Nat → Nat → Nat
/-- The code by which a statistics record names an outcome of R194 (R199 gives none). -/
opaque outcomeCode : Nat → BitVec 32
/-- Rows that another member's own spills take in its layout (R197, R200: its choice records are not this member's): the draw
number, member, expert, half. -/
opaque foreignSpills : Nat → Nat → Nat → Nat → Nat
/-- Bytes between the fetch list and the index lists of a permutation table (R199 places only the table and the list). -/
opaque listGap : Nat → Nat

/-- Bytes that fill the last unit of a chunk beyond its elements (R301 states none): the draw number, the place. -/
opaque padByte : Nat → Nat → Byte

/-- What a counter reads that counts cycles, or what no row of the table reports: the page, the counter, the view, the package
time, the draw number. -/
opaque unmeasured : Nat → Nat → Nat → Nat → Nat → BitVec 64

end Sys2Proof.Config
end

