-- ==== Sys2Proof/Machine/Fields.lean ====
section
/-! DEFINITION. The control pages as tables: which block a page belongs to (R33), the fields that its chapter places, with
access class and reset value, and the number of its counters (R36). -/

namespace Sys2Proof.Machine

/-- The access codes of a field (the table before R38). -/
inductive Acc where
  | ro | rw | w1c | w1s | wo | rc | rws | rwl
  deriving DecidableEq, Repr

/-- One field of a page: byte offset of its word, lowest bit, width, access, reset value, name in its chapter. -/
structure Field where
  off   : Nat
  lo    : Nat
  width : Nat
  acc   : Acc
  reset : Nat
  name  : String
  deriving DecidableEq, Repr

/-- The blocks that own a page (R33). -/
inductive Block where
  | seq | lde | mxe | vxe | ste | xce | trs | fts | tmon
  | hmc | msc | rtr | cle | upe | sbd | flt | key
  | bur | pwr | thm | tel | tst | age | hen | lct
  deriving DecidableEq, Repr

/-- The fields of the SEQ page (R96). -/
def seqFields : List Field :=
  [⟨0x100, 0, 13, .rwl, 0, "PROG_BASE"⟩, ⟨0x100, 16, 13, .rwl, 0, "PROG_SIZE"⟩,
   ⟨0x108, 0, 32, .rwl, 0, "ENTRY"⟩, ⟨0x110, 0, 1, .w1s, 0, "START"⟩,
   ⟨0x110, 1, 1, .w1s, 0, "HALT"⟩, ⟨0x110, 2, 2, .ro, 0, "STATE"⟩,
   ⟨0x110, 4, 1, .rw, 0, "MAINT"⟩, ⟨0x118, 0, 8, .rws, 225, "ORDER"⟩,
   ⟨0x120, 0, 6, .rws, 32, "STALL_EXP"⟩, ⟨0x128, 0, 32, .ro, 0, "PC"⟩,
   ⟨0x128, 32, 6, .ro, 0, "TASK"⟩, ⟨0x4C0, 0, 32, .ro, 0, "FL"⟩,
   ⟨0x4C0, 32, 32, .ro, 0, "FM"⟩, ⟨0x580, 0, 32, .ro, 0, "U_KIND"⟩] ++
  (List.range 5).flatMap (fun q => [⟨0x400 + 8 * q, 0, 13, .rwl, 0, "SPILL_BASE"⟩,
    ⟨0x400 + 8 * q, 16, 13, .rwl, 0, "SPILL_SIZE"⟩,
    ⟨0x440 + 8 * q, 0, 13, .rwl, 0, "CREC_BASE"⟩,
    ⟨0x440 + 8 * q, 16, 13, .rwl, 0, "CREC_SIZE"⟩]) ++
  (List.range 8).flatMap (fun q => [⟨0x480 + 8 * q, 0, 64, .ro, 0, "TOKENS"⟩]) ++
  (List.range 16).flatMap (fun q => [⟨0x500 + 8 * q, 0, 64, .ro, 0, "U"⟩])

/-- The fields of the LDE page (R97). -/
def ldeFields : List Field :=
  [⟨0x100, 0, 4, .rws, 4, "W"⟩, ⟨0x100, 4, 3, .rws, 4, "INFLIGHT"⟩]

/-- The fields of the MXE page (R150). -/
def mxeFields : List Field :=
  [⟨0x010, 32, 2, .rws, 1, "CTL.PASSES"⟩, ⟨0x010, 34, 1, .rws, 0, "CTL.CHK_FORCE"⟩,
   ⟨0x100, 0, 4, .rws, 0, "CHK.SLACK"⟩, ⟨0x108, 0, 1, .w1c, 0, "CHK.LOC.VALID"⟩,
   ⟨0x108, 1, 1, .ro, 0, "CHK.LOC.ROW"⟩, ⟨0x108, 2, 1, .ro, 0, "CHK.LOC.COL"⟩,
   ⟨0x108, 3, 1, .ro, 0, "CHK.LOC.BANK"⟩, ⟨0x108, 4, 7, .ro, 0, "CHK.LOC.ROWIDX"⟩,
   ⟨0x108, 11, 7, .ro, 0, "CHK.LOC.COLIDX"⟩, ⟨0x110, 0, 1, .ro, 0, "STATE.ARRAY_BUSY"⟩,
   ⟨0x110, 1, 1, .ro, 0, "STATE.READOUT_BUSY"⟩, ⟨0x110, 2, 1, .ro, 0, "STATE.GROUP_ACTIVE"⟩,
   ⟨0x110, 3, 2, .ro, 0, "STATE.CHK_VALID"⟩, ⟨0x400, 0, 5, .rwl, 0, "FEED.LDE_SHARE"⟩,
   ⟨0x408, 0, 1, .rws, 1, "ACC.SCRUB_EN"⟩] ++
  (List.range 2).flatMap (fun q => [⟨0x118 + 8 * q, 0, 28, .ro, 0, "CHKREG"⟩])

/-- The fields of the VXE page (R169). -/
def vxeFields : List Field :=
  [⟨0x100, 0, 64, .rws, 0, "RNG.KEY"⟩, ⟨0x108, 0, 8, .ro, 0, "PROG.VALID"⟩,
   ⟨0x110, 0, 48, .ro, 0, "PROG.LEN"⟩, ⟨0x118, 0, 3, .ro, 0, "PROG.BAD_SLOT"⟩,
   ⟨0x118, 3, 6, .ro, 0, "PROG.BAD_INDEX"⟩]

/-- The fields of the STE page (R98). -/
def steFields : List Field :=
  [⟨0x100, 4, 3, .rws, 4, "INFLIGHT"⟩]

/-- The fields of the XCE page (R278). -/
def xceFields : List Field :=
  [⟨0x100, 0, 13, .rwl, 0, "INBOX.BASE"⟩, ⟨0x100, 16, 13, .rwl, 0, "INBOX.SIZE"⟩,
   ⟨0x100, 29, 5, .rwl, 0, "INBOX.SIG_K"⟩, ⟨0x100, 34, 1, .rwl, 0, "INBOX.SIG_EN"⟩,
   ⟨0x108, 0, 23, .ro, 0, "INBOX.HEAD"⟩, ⟨0x110, 0, 23, .rw, 0, "INBOX.TAIL"⟩,
   ⟨0x118, 0, 9, .rws, 256, "OUT_MAX"⟩]

/-- The fields of the TRS page (R211). -/
def trsFields : List Field :=
  [⟨0x100, 0, 4, .rw, 0, "CMD.OP"⟩, ⟨0x100, 4, 4, .rw, 0, "CMD.USUM"⟩,
   ⟨0x100, 8, 1, .rw, 0, "CMD.UEN"⟩, ⟨0x100, 9, 1, .rw, 0, "CMD.SIG_EN"⟩,
   ⟨0x100, 10, 5, .rw, 0, "CMD.SIG_K"⟩, ⟨0x100, 15, 1, .w1s, 0, "CMD.GO"⟩,
   ⟨0x108, 0, 14, .rw, 0, "RT.RADDR"⟩, ⟨0x108, 14, 1, .rw, 0, "RT.FMT"⟩,
   ⟨0x108, 15, 12, .rw, 0, "RT.ROWS"⟩, ⟨0x108, 27, 14, .rw, 0, "RT.RSTRIDE"⟩,
   ⟨0x110, 0, 11, .rw, 0, "RT.EM1"⟩, ⟨0x110, 11, 3, .rw, 0, "RT.KACTM1"⟩,
   ⟨0x110, 14, 3, .rw, 0, "RT.KCANDM1"⟩, ⟨0x118, 0, 23, .rw, 0, "RT.OUT"⟩,
   ⟨0x118, 23, 23, .rw, 0, "RT.CNT"⟩, ⟨0x120, 0, 1, .ro, 0, "RT.RESULT.REFUSED"⟩,
   ⟨0x120, 1, 1, .ro, 0, "RT.RESULT.RUNNING"⟩, ⟨0x120, 32, 32, .ro, 0, "RT.RESULT.NANS"⟩,
   ⟨0x128, 0, 13, .rws, 0, "WALK.STAGE_BASE"⟩, ⟨0x128, 16, 13, .rws, 0, "WALK.STAGE_SIZE"⟩,
   ⟨0x130, 0, 1, .ro, 0, "WALK.ACTIVE"⟩, ⟨0x130, 1, 1, .ro, 0, "WALK.PASS"⟩,
   ⟨0x130, 32, 32, .ro, 0, "WALK.UNITS"⟩]

/-- The fields of the FTS page (R183). -/
def ftsFields : List Field :=
  [⟨0x100, 0, 4, .rwl, 0, "CMD.OP"⟩, ⟨0x100, 4, 4, .rwl, 0, "CMD.SLOT"⟩,
   ⟨0x100, 8, 1, .rwl, 0, "CMD.SIG_EN"⟩, ⟨0x100, 9, 5, .rwl, 0, "CMD.SIG_K"⟩,
   ⟨0x100, 14, 1, .w1s, 0, "CMD.GO"⟩, ⟨0x108, 0, 14, .rwl, 0, "SRC.RADDR"⟩,
   ⟨0x108, 14, 1, .rwl, 0, "SRC.FMT"⟩, ⟨0x108, 15, 1, .rwl, 0, "SRC.ABS"⟩,
   ⟨0x108, 16, 7, .rwl, 0, "SRC.ROWS"⟩, ⟨0x108, 23, 15, .rwl, 0, "SRC.COLS"⟩,
   ⟨0x108, 38, 15, .rwl, 0, "SRC.COFF"⟩, ⟨0x110, 0, 16, .rwl, 0, "GEOM.F"⟩,
   ⟨0x110, 16, 16, .rwl, 0, "GEOM.TOPK"⟩, ⟨0x110, 32, 14, .rwl, 0, "GEOM.RSTRIDE"⟩,
   ⟨0x118, 0, 32, .rwl, 0xff800000, "THRESH"⟩, ⟨0x118, 32, 1, .rwl, 0, "STRICT"⟩,
   ⟨0x120, 0, 23, .rwl, 0, "GS_BASE"⟩, ⟨0x120, 23, 23, .rwl, 0, "LIST"⟩,
   ⟨0x128, 0, 23, .rwl, 0, "MASK"⟩, ⟨0x128, 23, 10, .rwl, 0, "PHASE"⟩,
   ⟨0x130, 0, 64, .rwl, 0, "TOT_ACTIVE"⟩, ⟨0x138, 0, 64, .rwl, 0, "TOT_MISSED"⟩,
   ⟨0x140, 0, 16, .ro, 0, "RESULT.S"⟩, ⟨0x140, 16, 16, .ro, 0, "RESULT.A"⟩,
   ⟨0x140, 32, 1, .ro, 0, "RESULT.VALID"⟩, ⟨0x140, 33, 1, .ro, 0, "RESULT.CAPPED"⟩,
   ⟨0x140, 34, 1, .ro, 0, "RESULT.REFUSED"⟩] ++
  (List.range 16).flatMap (fun t => [⟨0x200 + 0x18 * t, 0, 2, .rwl, 0, "SLOT.MODE"⟩,
    ⟨0x200 + 0x18 * t, 2, 2, .ro, 0, "SLOT.NEXT"⟩,
    ⟨0x200 + 0x18 * t, 4, 4, .rwl, 0, "SLOT.AUDIT_SHIFT"⟩,
    ⟨0x200 + 0x18 * t, 8, 16, .rwl, 0, "SLOT.MISS_LIMIT"⟩,
    ⟨0x208 + 0x18 * t, 0, 64, .ro, 0, "SLOT.ACTIVE"⟩,
    ⟨0x210 + 0x18 * t, 0, 64, .ro, 0, "SLOT.MISSED"⟩])

/-- The fields of the TMON page (R376). -/
def tmonFields : List Field :=
  [⟨0x100, 0, 1, .rws, 1, "SCRUB_EN"⟩, ⟨0x108, 0, 16, .ro, 0, "SLACK.NOW"⟩,
   ⟨0x108, 16, 16, .ro, 0, "SLACK.MIN"⟩, ⟨0x110, 0, 1, .w1c, 0, "ECC_LOC.VALID"⟩,
   ⟨0x110, 1, 1, .ro, 0, "ECC_LOC.SPACE"⟩, ⟨0x110, 2, 20, .ro, 0, "ECC_LOC.WORD"⟩]

/-- The fields of the HMC page (R257). -/
def hmcFields : List Field :=
  [⟨0x100, 0, 8, .rws, 95, "THERM.T_THROTTLE"⟩, ⟨0x100, 8, 8, .rws, 108, "THERM.T_CRIT"⟩,
   ⟨0x100, 16, 4, .rws, 4, "THERM.HYST"⟩, ⟨0x108, 0, 8, .ro, 0, "THERM.TEMP"⟩,
   ⟨0x108, 8, 3, .ro, 0, "THERM.STEP"⟩, ⟨0x108, 11, 1, .ro, 0, "THERM.TEMP_VALID"⟩,
   ⟨0x108, 12, 1, .ro, 0, "THERM.CRIT"⟩, ⟨0x110, 0, 8, .rws, 12, "SCRUB.PATROL_HOURS"⟩,
   ⟨0x118, 0, 1, .w1c, 0, "ECC_LOC.VALID"⟩, ⟨0x118, 5, 47, .ro, 0, "ECC_LOC.ADDR"⟩,
   ⟨0x400, 0, 4, .rws, 1, "THERM.SAMPLE_MS"⟩]

/-- The fields of the MSC page (R258). -/
def mscFields : List Field :=
  [⟨0x100, 0, 5, .rws, 12, "HINTS.KEEP_WAYS"⟩, ⟨0x108, 0, 1, .w1s, 0, "CMD.FLUSH"⟩,
   ⟨0x108, 1, 1, .w1s, 0, "CMD.INVAL_ALL"⟩, ⟨0x108, 2, 2, .rw, 0, "CMD.HALF_OFF"⟩,
   ⟨0x110, 0, 1, .ro, 0, "STATE.FLUSHING"⟩, ⟨0x110, 1, 2, .ro, 0, "STATE.HALF_EMPTY"⟩,
   ⟨0x118, 0, 8, .rw, 0, "XLAT.CTX"⟩, ⟨0x118, 8, 1, .rw, 0, "XLAT.ALLCTX"⟩,
   ⟨0x118, 9, 1, .w1s, 0, "XLAT.GO"⟩, ⟨0x118, 10, 1, .ro, 1, "XLAT.DONE"⟩,
   ⟨0x120, 21, 27, .rw, 0, "XLAT.VA_BASE"⟩, ⟨0x128, 0, 27, .rw, 0, "XLAT.VA_PAGES"⟩]

/-- The fields of the RTR page (R279). -/
def rtrFields (slots : Nat) : List Field :=
  [⟨0x110, 0, 5, .rwl, 0, "POS.X"⟩, ⟨0x110, 5, 4, .rwl, 0, "POS.Y"⟩,
   ⟨0x110, 9, 4, .rwl, 0, "POS.Z"⟩, ⟨0x118, 0, 13, .rwl, 0, "LOG.OWN"⟩,
   ⟨0x118, 13, 13, .rwl, 0, "LOG.TAKEN"⟩, ⟨0x118, 26, 1, .rwl, 0, "LOG.TAKEN_VALID"⟩,
   ⟨0x120, 0, 52, .rws, 0, "ESC_BASE"⟩, ⟨0x128, 0, 52, .rws, 0, "REMAP_BASE"⟩,
   ⟨0x130, 0, 6, .rw, 0, "FAULT"⟩, ⟨0x400, 0, 4, .rws, 8, "REPLAY_MAX"⟩,
   ⟨0x400, 8, 8, .rws, 100, "RETRAIN_MS"⟩, ⟨0x400, 16, 6, .rws, 48, "HOP_LIMIT"⟩,
   ⟨0x400, 32, 32, .rws, 0x1000000, "FEC_LIMIT"⟩] ++
  (List.range slots).flatMap (fun q => [⟨0x100 + 8 * q, 0, 3, .ro, 0, "PORT.STATE"⟩,
    ⟨0x100 + 8 * q, 3, 5, .ro, 0, "PORT.WIDTH"⟩,
    ⟨0x100 + 8 * q, 8, 1, .rw, 1, "PORT.EN"⟩,
    ⟨0x100 + 8 * q, 9, 1, .w1s, 0, "PORT.RETRAIN"⟩,
    ⟨0x100 + 8 * q, 16, 16, .ro, 0, "PORT.RTT"⟩])

/-- The fields of the CLE page (R311). -/
def cleFields : List Field :=
  [⟨0x100, 0, 52, .rwl, 0, "PT_BASE"⟩, ⟨0x108, 0, 1, .rws, 1, "TLC.EN"⟩,
   ⟨0x108, 1, 1, .w1s, 0, "TLC.INVAL_ALL"⟩, ⟨0x110, 0, 5, .ro, 0, "STATE.ACTIVE"⟩,
   ⟨0x110, 8, 8, .ro, 0, "STATE.CTX"⟩, ⟨0x118, 0, 8, .rw, 0, "STEP.CTX"⟩,
   ⟨0x118, 8, 1, .w1s, 0, "STEP.COMMIT"⟩, ⟨0x118, 9, 1, .w1s, 0, "STEP.ROLLBACK"⟩,
   ⟨0x120, 0, 8, .rw, 0, "STEP.ATTEMPT"⟩, ⟨0x400, 0, 5, .rws, 8, "SCHED.MAXSTEPS"⟩]

/-- The fields of the UPE page (R237). -/
def upeFields : List Field :=
  [⟨0x100, 0, 52, .rwl, 0, "RT_BASE"⟩, ⟨0x108, 0, 5, .rws, 24, "BW.LIMIT"⟩,
   ⟨0x110, 0, 1, .ro, 0, "STATE.RUNNING"⟩, ⟨0x110, 8, 8, .ro, 0, "STATE.CTX"⟩,
   ⟨0x110, 16, 3, .ro, 0, "STATE.RING"⟩, ⟨0x110, 19, 6, .ro, 0, "STATE.BAD_INDEX"⟩,
   ⟨0x110, 32, 16, .ro, 0, "STATE.JOB"⟩, ⟨0x118, 0, 8, .rw, 0, "STEP.CTX"⟩,
   ⟨0x118, 8, 1, .w1s, 0, "STEP.COMMIT"⟩, ⟨0x118, 9, 1, .w1s, 0, "STEP.ROLLBACK"⟩,
   ⟨0x120, 0, 64, .wo, 0, "STEP.C_LOAD"⟩, ⟨0x400, 0, 4, .rws, 1, "SCHED.QUANTUM"⟩]

/-- The fields of the SBD page (R212). -/
def sbdFields : List Field :=
  [⟨0x100, 0, 64, .rw, 0, "JOB.ADDR"⟩, ⟨0x108, 0, 8, .rw, 0, "JOB.CTX"⟩,
   ⟨0x108, 8, 1, .w1s, 0, "JOB.GO"⟩, ⟨0x110, 0, 1, .ro, 0, "STATE.RUNNING"⟩,
   ⟨0x110, 8, 8, .ro, 0, "STATE.CTX"⟩, ⟨0x110, 16, 7, .ro, 0, "STATE.QUEUED"⟩,
   ⟨0x400, 0, 7, .rws, 64, "JOB.QMAX"⟩]

/-- The fields of the FLT page (R280). -/
def fltFields : List Field :=
  [⟨0x100, 0, 52, .rwl, 0, "TBASE"⟩, ⟨0x108, 0, 20, .rw, 0, "CMD.FLOW"⟩,
   ⟨0x108, 20, 8, .rw, 0, "CMD.CTX"⟩, ⟨0x108, 28, 1, .rw, 0, "CMD.BYCTX"⟩,
   ⟨0x108, 29, 1, .w1s, 0, "CMD.GO"⟩, ⟨0x108, 30, 1, .ro, 1, "CMD.DONE"⟩]

/-- The fields of the KEY page (R340). -/
def keyFields : List Field :=
  [⟨0x100, 0, 52, .rwl, 0, "CD_BASE"⟩, ⟨0x108, 0, 6, .rw, 0, "SWITCH.QUAD"⟩,
   ⟨0x108, 6, 8, .rw, 0, "SWITCH.CTX"⟩, ⟨0x108, 14, 2, .rw, 0, "SWITCH.MODE"⟩,
   ⟨0x108, 16, 1, .w1s, 0, "SWITCH.GO"⟩, ⟨0x108, 17, 1, .ro, 1, "SWITCH.DONE"⟩,
   ⟨0x108, 18, 1, .ro, 0, "SWITCH.REFUSED"⟩, ⟨0x110, 0, 8, .rw, 0, "RELOAD.CTX"⟩,
   ⟨0x110, 8, 1, .w1s, 0, "RELOAD.GO"⟩, ⟨0x118, 0, 8, .rw, 0, "ERASE.CTX"⟩,
   ⟨0x118, 8, 1, .rw, 0, "ERASE.MGMT"⟩, ⟨0x118, 9, 1, .w1s, 0, "ERASE.GO"⟩,
   ⟨0x140, 0, 1, .ro, 0, "MGMT_VALID"⟩, ⟨0x140, 8, 4, .ro, 0, "SESSIONS"⟩] ++
  (List.range 4).flatMap (fun q => [⟨0x120 + 8 * q, 0, 64, .ro, 0, "KEYVALID"⟩]) ++
  (List.range 48).flatMap (fun q => [⟨0x180 + 8 * (q / 4), 16 * (q % 4), 8, .ro, 0, "QUAD_OWNER.CTX"⟩,
    ⟨0x180 + 8 * (q / 4), 16 * (q % 4) + 8, 1, .ro, 0, "QUAD_OWNER.RESIDENT"⟩])

/-- The fields of the BUR page (R324, R379, R417). -/
def burFields : List Field :=
  [⟨0x300, 0, 2, .rws, 0, "SYNC.SRC"⟩, ⟨0x300, 2, 1, .rws, 0, "SYNC.MASTER"⟩,
   ⟨0x300, 3, 1, .rws, 0, "SYNC.BACKUP"⟩, ⟨0x300, 4, 6, .rws, 0, "SYNC.FWD_MASK"⟩,
   ⟨0x300, 10, 6, .rws, 63, "SYNC.ACCEPT_MASK"⟩, ⟨0x300, 16, 4, .rws, 4, "SYNC.FAULT_LIMIT"⟩,
   ⟨0x308, 0, 16, .rws, 1000, "SYNC.PERIOD_US"⟩, ⟨0x308, 16, 20, .rws, 0, "SYNC.FLOW"⟩,
   ⟨0x310, 0, 64, .ro, 0, "ROUND.COUNT"⟩, ⟨0x318, 0, 64, .ro, 0, "ROUND.LAST_TIME"⟩,
   ⟨0x320, 0, 2, .ro, 0, "SYNC.STATUS.LAST_SRC"⟩, ⟨0x320, 2, 12, .ro, 0, "SYNC.STATUS.OFFSET"⟩,
   ⟨0x320, 14, 2, .ro, 0, "SYNC.STATUS.FAULT"⟩, ⟨0x320, 16, 8, .ro, 0, "SYNC.STATUS.CONSEC"⟩,
   ⟨0x320, 24, 8, .ro, 0, "SYNC.STATUS.DEPTH"⟩, ⟨0x320, 32, 1, .ro, 0, "SYNC.STATUS.ORIGIN"⟩,
   ⟨0x320, 33, 1, .ro, 0, "SYNC.STATUS.ORIGINATING"⟩, ⟨0x328, 0, 1, .w1s, 0, "SYNC.RESYNC"⟩,
   ⟨0x340, 0, 52, .rwl, 0, "CT_BASE"⟩, ⟨0x348, 0, 8, .rws, 100, "HB.PERIOD_US"⟩,
   ⟨0x348, 8, 4, .rws, 5, "HB.MISS"⟩, ⟨0x348, 12, 20, .rws, 0, "HB.TWIN_FLOW"⟩,
   ⟨0x350, 0, 16, .rws, 1000, "VOTE_TIMEOUT_MS"⟩, ⟨0x350, 16, 16, .rws, 200, "PROBE_US"⟩,
   ⟨0x358, 0, 8, .rws, 3, "QUAR.LIMIT"⟩, ⟨0x358, 8, 8, .rws, 24, "QUAR.WINDOW_H"⟩,
   ⟨0x358, 16, 1, .w1s, 0, "QUAR.QUARANTINE"⟩, ⟨0x358, 17, 1, .ro, 0, "QUAR.QUARANTINED"⟩,
   ⟨0x358, 24, 8, .ro, 0, "QUAR.OFFENCES"⟩, ⟨0x360, 0, 3, .ro, 1, "SETTEE.STATE"⟩,
   ⟨0x360, 3, 1, .w1s, 0, "SETTEE.RETRY"⟩, ⟨0x360, 4, 1, .rwl, 0, "SETTEE.STANDBY"⟩,
   ⟨0x360, 16, 13, .ro, 0, "SETTEE.HELD"⟩, ⟨0x368, 0, 2, .ro, 0, "HANDLER.LEVEL"⟩,
   ⟨0x370, 0, 1, .w1s, 0, "PKG.QUIESCE"⟩, ⟨0x370, 1, 1, .w1s, 0, "PKG.READY"⟩,
   ⟨0x370, 2, 1, .ro, 0, "PKG.QUIESCED"⟩, ⟨0x370, 3, 1, .w1s, 0, "PKG.WARM_RESET"⟩,
   ⟨0x100, 0, 16, .ro, 0, "FW.ROM_VER"⟩, ⟨0x100, 16, 4, .ro, 0, "FW.PATCHES"⟩,
   ⟨0x108, 0, 8, .ro, 0, "BOOT.STAGE"⟩, ⟨0x108, 8, 12, .ro, 0, "BOOT.CODE"⟩,
   ⟨0x108, 20, 13, .ro, 0, "BOOT.STRAPS"⟩, ⟨0x108, 33, 1, .ro, 0, "BOOT.CFG_COPY"⟩,
   ⟨0x108, 34, 1, .ro, 0, "BOOT.PACK_SLOT"⟩]

/-- The fields of the PWR page (R418). -/
def pwrFields : List Field :=
  [⟨0x100, 0, 48, .rw, 0xffffffffffff, "QUAD_ON"⟩, ⟨0x108, 0, 16, .rw, 0xffff, "HBM_ON"⟩,
   ⟨0x108, 16, 8, .rw, 255, "MSC_ON"⟩, ⟨0x108, 24, 1, .ro, 0, "SWITCHING"⟩,
   ⟨0x110, 0, 12, .rws, 2400, "LIMIT_W"⟩, ⟨0x110, 12, 3, .ro, 0, "CAP"⟩,
   ⟨0x118, 0, 12, .ro, 0, "P_NOW"⟩, ⟨0x118, 16, 12, .rc, 0, "P_MAX"⟩] ++
  (List.range 48).flatMap (fun q => [⟨0x180 + 8 * (q / 8), 8 * (q % 8), 3, .rw, 0, "FSTEP_FLOOR"⟩,
    ⟨0x1C0 + 8 * (q / 8), 8 * (q % 8), 3, .ro, 0, "FSTEP_EFF"⟩])

/-- The fields of the THM page (R419). -/
def thmFields : List Field :=
  [⟨0x100, 0, 8, .rws, 100, "DIE_THROTTLE"⟩, ⟨0x100, 8, 8, .rws, 115, "DIE_CRIT"⟩,
   ⟨0x100, 16, 4, .rws, 3, "HYST"⟩, ⟨0x108, 32, 8, .ro, 0, "T_HBM"⟩,
   ⟨0x110, 12, 1, .ro, 0, "TRIP"⟩] ++
  (List.range 4).flatMap (fun q => [⟨0x108, 8 * q, 8, .ro, 0, "T_STACK"⟩,
    ⟨0x110, 3 * q, 3, .ro, 0, "STEP"⟩])

/-- The fields of the TEL page (R399). -/
def telFields : List Field :=
  [⟨0x100, 0, 16, .rws, 1000, "EVT.ACK_US"⟩, ⟨0x100, 16, 4, .rws, 8, "EVT.RETRIES"⟩,
   ⟨0x108, 0, 11, .ro, 0, "UTIL.NOW"⟩, ⟨0x110, 0, 12, .ro, 0, "EVT.STALLED"⟩]

/-- The fields of the TST page (R377). -/
def tstFields : List Field :=
  [⟨0x100, 0, 1, .w1s, 0, "RUN"⟩, ⟨0x100, 1, 1, .w1s, 0, "ABORT"⟩,
   ⟨0x100, 2, 2, .ro, 0, "STATE"⟩, ⟨0x108, 0, 32, .ro, 0, "PACK_VER"⟩,
   ⟨0x108, 32, 32, .ro, 0, "SVN"⟩, ⟨0x110, 0, 48, .ro, 0, "QUAD_FAIL"⟩,
   ⟨0x118, 0, 48, .ro, 0, "QUAD_UNTESTED"⟩, ⟨0x120, 0, 16, .ro, 0, "HBM_FAIL"⟩,
   ⟨0x120, 16, 16, .ro, 0, "HBM_REPAIRED"⟩, ⟨0x120, 32, 8, .ro, 0, "MSC_FAIL"⟩,
   ⟨0x120, 40, 6, .ro, 0, "PORT_FAIL"⟩, ⟨0x128, 0, 32, .ro, 0, "ELAPSED_MS"⟩,
   ⟨0x128, 32, 32, .ro, 0, "ITEMS_RUN"⟩]

/-- The fields of the AGE page (R378). -/
def ageFields : List Field :=
  [⟨0x100, 0, 8, .rws, 25, "GUARD_PS"⟩, ⟨0x100, 8, 8, .rws, 15, "BAND_PS"⟩,
   ⟨0x100, 16, 8, .rws, 10, "ALARM_PS"⟩, ⟨0x108, 0, 1, .w1s, 0, "REPLAN"⟩,
   ⟨0x108, 1, 1, .ro, 0, "BUSY"⟩, ⟨0x110, 0, 16, .ro, 0, "INDEX"⟩,
   ⟨0x110, 16, 32, .ro, 0, "LAST_H"⟩] ++
  (List.range 48).flatMap (fun q => [⟨0x180 + 8 * (q / 8), 8 * (q % 8), 5, .ro, 0, "OFFSET"⟩])

/-- The fields of the HEN page (R398). -/
def henFields : List Field :=
  [⟨0x100, 0, 2, .ro, 0, "LINK.STATE"⟩, ⟨0x100, 2, 1, .rw, 1, "LINK.EN"⟩,
   ⟨0x108, 0, 48, .rwl, 0, "NET.MAC"⟩, ⟨0x110, 0, 64, .rwl, 0, "IP6"⟩,
   ⟨0x118, 0, 64, .rwl, 0, "IP6"⟩, ⟨0x120, 0, 16, .rwl, 0xc422, "NET.UDP_PORT"⟩,
   ⟨0x120, 16, 14, .rwl, 0x2000, "NET.MAXPAY"⟩, ⟨0x120, 30, 12, .rwl, 0, "NET.VLAN"⟩,
   ⟨0x128, 0, 52, .rwl, 0, "ACL.BASE"⟩, ⟨0x128, 52, 1, .w1s, 0, "ACL.RELOAD"⟩,
   ⟨0x130, 0, 52, .rwl, 0, "HRT.BASE"⟩, ⟨0x130, 52, 1, .w1s, 0, "HRT.RELOAD"⟩,
   ⟨0x400, 0, 1, .rws, 0, "QOS.PFC_EN"⟩, ⟨0x400, 1, 3, .rws, 3, "QOS.PFC_PRIO"⟩,
   ⟨0x400, 4, 6, .rws, 26, "QOS.DSCP"⟩, ⟨0x400, 10, 1, .rws, 1, "QOS.ECN_EN"⟩]

/-- The fields of the LCT page (R420). -/
def lctFields : List Field :=
  [⟨0x100, 0, 1, .rw, 0, "ARM"⟩, ⟨0x100, 1, 1, .ro, 0, "FROZEN"⟩,
   ⟨0x108, 0, 64, .ro, 0, "FREEZE_TIME"⟩]

/-! ## Pages, named by the event channel number of R390 -/

/-- Page `p` of tile `t` (= d * 48 + n). -/
def tilePage (t p : Nat) : Nat := t * 9 + p
/-- Page `p` of the base die of stack `s`. -/
def basePage (s p : Nat) : Nat := 1728 + 11 * s + p
/-- Package page `p`. -/
def pkgPage (p : Nat) : Nat := 1772 + p

def seqPage (t : Nat) : Nat := tilePage t 0
def trsPage (t : Nat) : Nat := tilePage t 6
def ftsPage (t : Nat) : Nat := tilePage t 7
def tmonPage (t : Nat) : Nat := tilePage t 8
/-- The page of HBM controller h (0 to 15). -/
def hmcPage (h : Nat) : Nat := basePage (h / 4) (h % 4)
def mscPage (s : Nat) : Nat := basePage s 4
def rtrPage (s : Nat) : Nat := basePage s 5
def clePage (s : Nat) : Nat := basePage s 6
def upePage (s : Nat) : Nat := basePage s 7
def sbdPage (s : Nat) : Nat := basePage s 8
def fltPage (s : Nat) : Nat := basePage s 9
def keyPage (s : Nat) : Nat := basePage s 10
def burPage : Nat := pkgPage 0
def pwrPage : Nat := pkgPage 1
def thmPage : Nat := pkgPage 2
def telPage : Nat := pkgPage 3
def tstPage : Nat := pkgPage 4
def agePage : Nat := pkgPage 5
def henPage (port : Nat) : Nat := pkgPage (6 + port)
def lctPage : Nat := pkgPage 8

/-- The page of engine e on tile t (R33, R114). -/
def engPage (t : Nat) : Eng → Nat
  | .lde => tilePage t 1 | .mxe => tilePage t 2 | .vxe => tilePage t 3 | .ste => tilePage t 4 | .xce => tilePage t 5

/-- ENG code of R114. -/
def engNum : Eng → Nat
  | .lde => 0 | .mxe => 1 | .vxe => 2 | .ste => 3 | .xce => 4

/-- The block of page n (R33). -/
def blockOf (n : Nat) : Block :=
  if n < 1728 then
    match n % 9 with
    | 0 => .seq | 1 => .lde | 2 => .mxe | 3 => .vxe | 4 => .ste | 5 => .xce | 6 => .trs | 7 => .fts | _ => .tmon
  else if n < 1772 then
    match (n - 1728) % 11 with
    | 0 | 1 | 2 | 3 => .hmc | 4 => .msc | 5 => .rtr | 6 => .cle | 7 => .upe | 8 => .sbd | 9 => .flt | _ => .key
  else
    match n - 1772 with
    | 0 => .bur | 1 => .pwr | 2 => .thm | 3 => .tel | 4 => .tst | 5 => .age | 6 | 7 => .hen | _ => .lct

/-- BLOCK_ID of R33. -/
def Block.id : Block → Nat
  | .seq => 0x01 | .lde => 0x02 | .mxe => 0x03 | .vxe => 0x04 | .ste => 0x05 | .xce => 0x06 | .trs => 0x07 | .fts => 0x08
  | .tmon => 0x09 | .hmc => 0x10 | .msc => 0x11 | .rtr => 0x12 | .cle => 0x13 | .upe => 0x14 | .sbd => 0x15 | .flt => 0x16
  | .key => 0x17 | .bur => 0x20 | .pwr => 0x21 | .thm => 0x22 | .tel => 0x23 | .tst => 0x24 | .age => 0x25 | .hen => 0x26
  | .lct => 0x27

/-- IDENT.INSTANCE of page n (R33). -/
def instNo (n : Nat) : Nat :=
  if n < 1728 then n / 9 % 48
  else if n < 1772 then
    let s := (n - 1728) / 11
    let p := (n - 1728) % 11
    if p < 4 then 4 * s + p else 0
  else if n = 1779 then 1 else 0

/-- IDENT.DIE of page n: the die or stack; a package block is on the base die that carries it (R14). -/
def dieOf (n : Nat) : Nat :=
  if n < 1728 then n / 9 / 48
  else if n < 1772 then (n - 1728) / 11
  else if n = 1778 then 2 else 3

/-- Port slots of the RTR page of a die: dies 0 and 1 carry two torus ports, dies 2 and 3 one (R14, R279). -/
def portSlots (s : Nat) : Nat := if s < 2 then 2 else 1

/-- The fields that their chapters place on page n. -/
def fieldsOf (n : Nat) : List Field :=
  match blockOf n with
  | .seq => seqFields | .lde => ldeFields | .mxe => mxeFields | .vxe => vxeFields | .ste => steFields | .xce => xceFields
  | .trs => trsFields | .fts => ftsFields | .tmon => tmonFields | .hmc => hmcFields | .msc => mscFields
  | .rtr => rtrFields (portSlots (dieOf n)) | .cle => cleFields | .upe => upeFields | .sbd => sbdFields | .flt => fltFields
  | .key => keyFields | .bur => burFields | .pwr => pwrFields | .thm => thmFields | .tel => telFields | .tst => tstFields
  | .age => ageFields | .hen => henFields | .lct => lctFields

/-- The common fields of CTL that hold a value, and EVT_MASK (R36). STS, EVT_CAUSE, ERR_FIRST and ERR_COUNT are kept apart. -/
def commonFields : List Field :=
  [⟨0x010, 0, 1, .rw, 0, "ENABLE"⟩, ⟨0x010, 3, 1, .rws, 0, "EXPERT_EN"⟩, ⟨0x010, 4, 1, .rw, 0, "CNT_FREEZE"⟩,
   ⟨0x010, 8, 9, .rw, 0x100, "CNT_VIEW"⟩, ⟨0x028, 0, 48, .rw, 0, "EVT_MASK"⟩]

/-- Every field of page n that holds a value. -/
def allFields (n : Nat) : List Field := commonFields ++ fieldsOf n

/-- The fields of the word at offset o. -/
def wordFields (n o : Nat) : List Field := (allFields n).filter fun f => f.off = o

/-- The reset value of the word at offset o: its fields' reset values in their places. -/
def resetWord (n o : Nat) : Word :=
  (wordFields n o).foldl (fun w f => w ||| (BitVec.ofNat 64 f.reset <<< f.lo)) 0

/-- The mask of one field. -/
def Field.mask (f : Field) : Word := BitVec.ofNat 64 ((2 ^ f.width - 1) <<< f.lo)

/-- The bits of the word at offset o that hold fields of a class. -/
def classMask (n o : Nat) (p : Acc → Bool) : Word :=
  (wordFields n o).foldl (fun w f => if p f.acc then w ||| f.mask else w) 0

/-- COUNTERS of CAPS: how many counters the chapter lists for the page (R36). -/
def counterCount (n : Nat) : Nat :=
  match blockOf n with
  | .seq => 26 | .lde => 6 | .mxe => 19 | .vxe => 12 | .ste => 5 | .xce => 16 | .trs => 11 | .fts => 14 | .tmon => 6
  | .hmc => 13 | .msc => 14 | .rtr => 13 * portSlots (dieOf n) | .cle => 14 | .upe => 9 | .sbd => 12 | .flt => 11
  | .key => 10 | .bur => 7 | .pwr => 5 | .thm => 6 | .tel => 6 | .tst => 5 | .age => 4 | .hen => 13 | .lct => 3

/-- The number of distinct words with a field between two offsets (CAPS, R36). -/
def wordCount (n lo hi : Nat) : Nat :=
  (((fieldsOf n).filter fun f => lo ≤ f.off ∧ f.off < hi).map (·.off)).dedup.length

/-- The IDENT word of a page (R36). -/
def identWord (n : Nat) : Word :=
  BitVec.ofNat 64 ((blockOf n).id + instNo n * 2 ^ 8 + dieOf n * 2 ^ 16 + 1 * 2 ^ 20 + 0x4192 * 2 ^ 32 + 0xCA51 * 2 ^ 48)

/-- The CAPS word of a page (R36). -/
def capsWord (n : Nat) : Word :=
  let b := wordCount n 0x100 0x400
  let e := wordCount n 0x400 0xC00
  let c := counterCount n
  BitVec.ofNat 64 ((if e = 0 then 0 else 1) + (if c = 0 then 0 else 2) + b * 2 ^ 8 + e * 2 ^ 16 + c * 2 ^ 32)

/-- The page and the register offset that an address of the control window names (R32). -/
def pageAt (addr : Nat) : Option (Nat × Nat) :=
  let off := addr - 0x00F000000000
  let reg := off % 0x1000
  if addr < 0x00F000000000 ∨ 0x00F0FFFFFFFF < addr then none
  else if off < 0x04000000 then
    let d := off / 0x01000000
    let n := off % 0x01000000 / 0x10000
    let p := off % 0x10000 / 0x1000
    if n ≤ 47 ∧ p ≤ 8 then some (tilePage (d * 48 + n) p, reg) else none
  else if 0x80000000 ≤ off ∧ off < 0x84000000 then
    let s := (off - 0x80000000) / 0x01000000
    let p := off % 0x01000000 / 0x1000
    if p ≤ 10 then some (basePage s p, reg) else none
  else if 0xFF000000 ≤ off then
    let p := (off - 0xFF000000) / 0x1000
    if p ≤ 8 then some (pkgPage p, reg) else none
  else none

/-- The control-window address of offset o of page n (R32). -/
def pageAddr (n o : Nat) : Nat :=
  if n < 1728 then 0x00F000000000 + n / 9 / 48 * 0x01000000 + n / 9 % 48 * 0x10000 + n % 9 * 0x1000 + o
  else if n < 1772 then 0x00F080000000 + (n - 1728) / 11 * 0x01000000 + (n - 1728) % 11 * 0x1000 + o
  else 0x00F0FF000000 + (n - 1772) * 0x1000 + o

end Sys2Proof.Machine
end

