-- ==== Sys2Proof/Machine/Pages.lean ====
section
/-! DEFINITION. The named operations over the control pages: reading and writing fields, counters, events, and the ONE
operation by which any block reports an error (R36, R37, R343, R344, R390 to R393). -/

namespace Sys2Proof.Machine

/-! ## Bits of a word -/

/-- Bits [lo + n - 1 : lo] of a word, as a number. -/
def bits (w : Word) (lo n : Nat) : Nat := w.toNat / 2 ^ lo % 2 ^ n

/-- The word with bits [lo + n - 1 : lo] replaced by v. -/
def putBits (w : Word) (lo n v : Nat) : Word :=
  (w &&& ~~~(BitVec.ofNat 64 ((2 ^ n - 1) <<< lo))) ||| (BitVec.ofNat 64 ((v % 2 ^ n) <<< lo))

/-- 1 for true. -/
def flag (b : Bool) : Nat := if b then 1 else 0

/-- The entry k of a table changed by f. -/
def Tab.mod {α : Type} [DecidableEq α] (d : α) (m : Tab α) (k : Nat) (f : α → α) : Tab α :=
  Tab.set d m k (f (Tab.get d m k))

/-- Every value of the table changed by f; values that become the default leave it. -/
def Tab.mapVals {α : Type} [DecidableEq α] (d : α) (m : Tab α) (f : Nat → α → α) : Tab α :=
  m.filterMap fun e => if f e.1 e.2 = d then none else some (e.1, f e.1 e.2)

/-! ## Parts of the state -/

def State.page (s : State) (n : Nat) : Page := Tab.get {} s.pages n
def State.modPage (s : State) (n : Nat) (f : Page → Page) : State := { s with pages := Tab.mod {} s.pages n f }
def State.tile (s : State) (t : Nat) : Tile := Tab.get {} s.tiles t
def State.modTile (s : State) (t : Nat) (f : Tile → Tile) : State := { s with tiles := Tab.mod {} s.tiles t f }
def State.port (s : State) (p : Nat) : Port := Tab.get {} s.fab.ports p
def State.modPort (s : State) (p : Nat) (f : Port → Port) : State :=
  { s with fab := { s.fab with ports := Tab.mod {} s.fab.ports p f } }
def State.chan (s : State) (c : Nat) : Chan := Tab.get {} s.host.chans c
def State.modChan (s : State) (c : Nat) (f : Chan → Chan) : State :=
  { s with host := { s.host with chans := Tab.mod {} s.host.chans c f } }
def State.session (s : State) (i : Nat) : Session := Tab.get {} s.host.sessions i
def State.modSession (s : State) (i : Nat) (f : Session → Session) : State :=
  { s with host := { s.host with sessions := Tab.mod {} s.host.sessions i f } }
def State.commit (s : State) (c : Nat) : Commit := Tab.get {} s.bur.commits c
def State.modCommit (s : State) (c : Nat) (f : Commit → Commit) : State :=
  { s with bur := { s.bur with commits := Tab.mod {} s.bur.commits c f } }
def State.modMem (s : State) (f : Mem → Mem) : State := { s with mem := f s.mem }
def State.modFab (s : State) (f : Fabric → Fabric) : State := { s with fab := f s.fab }
def State.modBur (s : State) (f : Bureau → Bureau) : State := { s with bur := f s.bur }
def State.modPkg (s : State) (f : Pkg → Pkg) : State := { s with pkg := f s.pkg }
def State.modHost (s : State) (f : HostSide → HostSide) : State := { s with host := f s.host }
def State.modKey (s : State) (f : Keys → Keys) : State := { s with key := f s.key }
def State.modCle (s : State) (f : Cle → Cle) : State := { s with cle := f s.cle }
def State.modUpe (s : State) (f : Upe → Upe) : State := { s with upe := f s.upe }
def State.modSync (s : State) (f : Sync → Sync) : State := { s with sync := f s.sync }
def State.send (s : State) (o : Out) : State := { s with out := s.out ++ [o] }
/-- The number of a fresh free value, and the state that has taken it. -/
def State.draw (s : State) : Nat × State := (s.draws, { s with draws := s.draws + 1 })

/-! ## Fields -/

/-- The word at offset o as stored: what has been written and is in force (R38). -/
def State.raw (s : State) (n o : Nat) : Word := Tab.get 0 (s.page n).words (o / 8) ^^^ resetWord n o

/-- CTL.EXPERT_EN in force. -/
def State.expertEn (s : State) (n : Nat) : Bool := (s.raw n 0x010).getLsbD 3

/-- The word the block uses: the expert section is at its defaults while EXPERT_EN = 0 (R35). -/
def State.inForce (s : State) (n o : Nat) : Word :=
  if 0x400 ≤ o ∧ o < 0xC00 ∧ s.expertEn n = false then resetWord n o else s.raw n o

/-- A field in force, as a number: page, offset, lowest bit, width. -/
def State.fld (s : State) (n o lo w : Nat) : Nat := bits (s.inForce n o) lo w

/-- The word at offset o set to w by the hardware or by a write that is in force at once. -/
def State.setRaw (s : State) (n o : Nat) (w : Word) : State :=
  s.modPage n fun p => { p with words := Tab.set 0 p.words (o / 8) (w ^^^ resetWord n o) }

/-- One field set by the hardware. -/
def State.setFld (s : State) (n o lo w v : Nat) : State := s.setRaw n o (putBits (s.raw n o) lo w v)

/-- The word at offset o as software reads it: a staged value reads back at once (R38). -/
def State.written (s : State) (n o : Nat) : Word :=
  let m := Tab.get 0 (s.page n).pendMask (o / 8)
  (s.raw n o &&& ~~~m) ||| (Tab.get 0 (s.page n).pend (o / 8) &&& m)

/-- CTL.ENABLE. -/
def State.enabled (s : State) (n : Nat) : Bool := (s.raw n 0x010).getLsbD 0

/-- The block admits new work: enabled, and neither quiescing nor quiesced (R36, R41, R437). -/
def State.admits (s : State) (n : Nat) : Bool :=
  s.enabled n && !(s.page n).quiesceBit && !(s.page n).quiescing && !(s.page n).quiesced

/-! ## Counters -/

/-- The package quad of tile t = d * 48 + n (R5, R6). -/
def quadOf (t : Nat) : Nat := t / 48 * 12 + t % 48 / 16 * 4 + t % 8 / 2

/-- The context whose counts an event of page n belongs to: the one named, or on a tile page the resident context (R36, R327). -/
def State.countCtx (s : State) (n : Nat) (ctx : Option Nat) : Option Nat :=
  if n < 1728 then ctx.or (Tab.get none s.key.owner (quadOf (n / 9))) else ctx

/-- Counter i of page n counts k more, in the totals and, with a context, in its view (R36). -/
def State.count (s : State) (n i : Nat) (ctx : Option Nat := none) (k : Nat := 1) : State :=
  if (s.raw n 0x010).getLsbD 4 then s
  else s.modPage n fun p =>
    let c := Tab.mod 0 p.counts (256 * 128 + i) (· + BitVec.ofNat 64 k)
    { p with counts := match s.countCtx n ctx with
        | none => c
        | some x => Tab.mod 0 c (x * 128 + i) (· + BitVec.ofNat 64 k) }

/-! ## Event records (R392, R393) -/

/-- A record arrives at an event channel: dropped and counted where it is unbound or stalled; where the queue of 64 is
full, a record of severity Step-fatal or more displaces the oldest less severe one (R393). Counters 0 to 2 of TEL. -/
def State.queueRec (s : State) (c : Nat) (type : BitVec 4) (sev : Nat) (body : List Word) : State :=
  let ch := s.chan c
  if !ch.bound then (s.modChan c fun ch => { ch with dropped := ch.dropped + 1 }).count telPage 1
  else if ch.stalled then s.modChan c fun ch => { ch with dropped := ch.dropped + 1 }
  else
    let r : EvRec := { type := type, seqno := ch.recSeq, body := body, fatal := decide (3 ≤ sev), sev := sev, at' := s.time }
    let put (q : List EvRec) (s : State) : State :=
      (s.modChan c fun ch => { ch with queue := q ++ [r], recSeq := ch.recSeq + 1 }).count telPage 0
    if ch.queue.length < 64 then put ch.queue s
    else
      let s := (s.modChan c fun ch => { ch with dropped := ch.dropped + 1 }).count telPage 2
      if 3 ≤ sev then
        match ch.queue.findIdx? (fun e => decide (e.sev < sev)) with
        | some i => put (ch.queue.eraseIdx i) s
        | none => s
      else s

/-- Word 0 of an error or cause record (R343). -/
def recWord0 (n : Nat) (sev : Nat) (pre : Bool) (code : Nat) (ctx : Option Nat) (lc : Nat) : Word :=
  BitVec.ofNat 64 (sev + flag pre * 2 ^ 3 + code * 2 ^ 4 + (blockOf n).id * 2 ^ 16 + instNo n * 2 ^ 24 + dieOf n * 2 ^ 32
    + ctx.getD 0 * 2 ^ 36 + flag ctx.isSome * 2 ^ 44 + lc * 2 ^ 45)

/-- The logical coordinate of the package: LOG.OWN (R279). -/
def State.ownLc (s : State) : Nat := s.fld (rtrPage 0) 0x118 0 13

/-- The step s = C + 1 that a stack computes for a context (R227). -/
def State.stepOf (s : State) (ctx : Nat) (st : Nat := 0) : Word := Tab.get 0 s.upe.c (st * 256 + ctx) + 1
/-- ATTEMPT of a context on a stack (R311). -/
def State.attemptOf (s : State) (ctx : Nat) (st : Nat := 0) : Nat := (Tab.get 0 s.cle.attempt (st * 256 + ctx)).toNat

/-- Event bit b of page n: the cause bit sets, and an unmasked one sends a cause record on the page's channel (R36, R392). -/
def State.event (s : State) (n b : Nat) : State :=
  let s := s.modPage n fun p => { p with cause := p.cause ||| (1#48 <<< b) }
  if (s.raw n 0x028).getLsbD b then s
  else s.queueRec n 1 0 [recWord0 n 0 false 0 none s.ownLc, BitVec.ofNat 64 s.time, BitVec.ofNat 64 (2 ^ b), 0]

/-- The error record of R343 goes to the page's channel and, with a context, as a copy without LOC to the context's
channel k = 0, or k = 3 for the notes 0x158 and 0x159 (R390). -/
def State.errorRecord (s : State) (n sev : Nat) (pre : Bool) (code : Nat) (ctx : Option Nat) (loc : Word) : State :=
  if (s.raw n 0x028).getLsbD 0 then s
  else
    let w0 := recWord0 n sev pre code ctx s.ownLc
    let w2 := BitVec.ofNat 64 ((match ctx with | none => 0 | some c => (s.stepOf c).toNat % 2 ^ 32)
      + (match ctx with | none => 0 | some c => s.attemptOf c) * 2 ^ 32
      + min (s.page n).errCount.toNat (2 ^ 24 - 1) * 2 ^ 40)
    let s := s.queueRec n 0 sev [w0, BitVec.ofNat 64 s.time, w2, loc]
    match ctx with
    | none => s
    | some c =>
      s.queueRec (2048 + 8 * c + (if code = 0x158 ∨ code = 0x159 then 3 else 0)) 0 sev [w0, BitVec.ofNat 64 s.time, w2, 0]

/-- A block reports an error of severity sev (R11): ERR_FIRST captures it when it holds nothing or something less severe,
ERR_COUNT counts it otherwise (R36, R37); a capture sets cause bit 0 and sends the record (R343); a Step-fatal or
Package-fatal error reaches the Bureau in every case (R344). -/
def State.raise (s : State) (n sev code : Nat) (ctx : Option Nat := none) (loc : Word := 0) : State :=
  let e := (s.page n).err
  let s := if 3 ≤ sev then
      s.modBur fun b => { b with fatals := b.fatals ++ [{ page := n, code := code, sev := sev, ctx := ctx, loc := loc }] }
    else s
  if e.valid && decide (sev ≤ e.severity.toNat) then
    s.modPage n fun p => { p with errCount := if p.errCount = 0xFFFFFFFF then p.errCount else p.errCount + 1 }
  else
    let s := s.modPage n fun p =>
      { p with
        err := { severity := BitVec.ofNat 3 sev, valid := true, code := BitVec.ofNat 12 code,
                 context := BitVec.ofNat 8 (ctx.getD 0), contextValid := ctx.isSome, preempted := e.valid,
                 time := BitVec.ofNat 32 (s.time / 1000) }
        cause := p.cause ||| 1 }
    s.errorRecord n sev e.valid code ctx (if blockOf n = .msc then 0 else loc)

/-- A Contained error (R11). -/
def State.contained (s : State) (n code : Nat) (ctx : Option Nat := none) : State := s.raise n 2 code ctx
/-- A Note (R11). -/
def State.note (s : State) (n code : Nat) (ctx : Option Nat := none) : State := s.raise n 0 code ctx
/-- A Step-fatal error (R11). -/
def State.stepFatal (s : State) (n code : Nat) (ctx : Option Nat := none) (loc : Word := 0) : State := s.raise n 3 code ctx loc
/-- A Package-fatal error (R11). -/
def State.packageFatal (s : State) (n code : Nat) : State := s.raise n 4 code none

/-- A write at offset o of page n is rejected (R39). -/
def State.reject (s : State) (n o : Nat) : State :=
  (s.modPage n fun p => { p with writeRejected := true, rejectWord := if p.writeRejected then p.rejectWord else BitVec.ofNat 9 (o / 8) }).event n 1

/-! ## Work held by a block, staged writes, quiesce -/

/-- STS.BUSY: the block holds admitted work (R36). -/
def State.busy (s : State) (n : Nat) : Bool :=
  let t := s.tile (n / 9)
  let st := dieOf n
  let eng (e : Eng) : Bool := t.flights.any fun f => decide (f.eng = e)
  match blockOf n with
  | .seq => (decide (t.seq = .running) || decide (t.seq = .waiting)) && !t.stopped
  | .lde => eng .lde | .mxe => eng .mxe | .vxe => eng .vxe | .ste => eng .ste | .xce => eng .xce
  | .trs => t.route.isSome || t.flights.any fun f => decide (f.eng = .mxe) && decide (bits f.desc.w0 0 4 = 3)
  | .fts => t.fts.isSome
  | .tmon => false
  | .hmc => s.mem.writes.any fun w => decide (w.addr / 0x900000000 = instNo n)
  | .msc => s.mem.flushing.getLsbD st || (s.mem.xlatBusy && decide (st = 0))
  | .rtr => !s.fab.held.isEmpty
  | .cle => s.cle.runs.any fun r => decide (r.stack = st)
  | .upe => (Tab.get none s.upe.run st).isSome
  | .sbd => s.sbd.running.isSome
  | .flt => s.fab.invalid.isSome
  | .key => s.key.switch.isSome
  | .bur => !s.bur.levels.isEmpty
  | .pwr => !s.pkg.switching.isEmpty
  | .tst => s.pkg.testing
  | .age => s.sync.replanDue
  | .thm | .tel | .hen | .lct => false

/-- The staged writes of a page take effect together, and STAGED_APPLIED is raised (R38). -/
def State.applyStaged (s : State) (n : Nat) : State :=
  if (s.page n).pendMask.isEmpty then s
  else
    let ws := (s.page n).pendMask.map Prod.fst
    let s := ws.foldl (fun s k => s.setRaw n (8 * k) (s.written n (8 * k))) s
    (s.modPage n fun p => { p with pend := [], pendMask := [] }).event n 2

/-- A quiescing block that holds no admitted work is quiesced, and raises QUIESCED (R437). -/
def State.drained (s : State) (n : Nat) : State :=
  if (s.page n).quiescing && !s.busy n then
    (s.modPage n fun p => { p with quiescing := false, quiesced := true }).event n 3
  else s

/-- A quiesce begins (R36, R437). -/
def State.startQuiesce (s : State) (n : Nat) : State :=
  let s := if decide ((s.page n).quiesced) then s.modPage n fun p => { p with quiesceBit := true }
    else s.modPage n fun p => { p with quiesceBit := true, quiescing := true }
  match blockOf n with
  | .seq =>
    let s := s.modTile (n / 9) fun t =>
      if t.seq = .running ∨ t.seq = .waiting then { t with stopped := true } else t
    s.drained n
  | _ => s.drained n

end Sys2Proof.Machine
end

