-- ==== Sys2Proof/Machine/Ops.lean ====
section
/-! DEFINITION. The named operations over tile storage and memory: bytes, the local spaces of a tile (R116), the
memory-side cache over the stacks (R246 to R252), storage errors (R247, R341) and translation (R241 to R245). -/

namespace Sys2Proof.Machine

/-! ## Bytes (little-endian, R10) -/

/-- A number as n bytes, least significant first. -/
def toBytes : Nat → Nat → List Byte
  | 0, _ => []
  | n + 1, v => BitVec.ofNat 8 v :: toBytes n (v / 256)

/-- The number that bytes spell, least significant first. -/
def ofBytes : List Byte → Nat
  | [] => 0
  | b :: bs => b.toNat + 256 * ofBytes bs

/-- n bytes read from address a of a table. -/
def getBytes (m : Tab Byte) (a n : Nat) : List Byte := (List.range n).map fun i => Tab.get 0 m (a + i)

/-- Bytes written from address a of a table. -/
def putBytes : Tab Byte → Nat → List Byte → Tab Byte
  | m, _, [] => m
  | m, a, b :: bs => putBytes (Tab.set 0 m a b) (a + 1) bs

/-- Successive 64-bit words of a byte list. -/
def wordsOf : Nat → List Byte → List Word
  | 0, _ => []
  | n + 1, bs => BitVec.ofNat 64 (ofBytes (bs.take 8)) :: wordsOf n (bs.drop 8)

/-- Bytes of a list of words. -/
def bytesOf (ws : List Word) : List Byte := ws.flatMap fun w => toBytes 8 w.toNat

/-- A byte list cut into rows of n bytes. -/
def cutRows (n : Nat) : Nat → List Byte → List (List Byte)
  | 0, _ => []
  | k + 1, d => d.take n :: cutRows n k (d.drop n)

/-! ## Who owns a tile (R6, R327) -/

/-- The tiles of a package quad, in ascending d.n (R6). -/
def quadTiles (q : Nat) : List Nat :=
  let base := q / 12 * 48 + q % 12 / 4 * 16 + q % 4 * 2
  [base, base + 1, base + 8, base + 9]

/-- The resident context of a tile's quad (R327). -/
def State.ctxOf (s : State) (t : Nat) : Option Nat := Tab.get none s.key.owner (quadOf t)

/-- The descriptor copy in force of a context (R326). -/
def State.desc (s : State) (c : Nat) : CtxDesc := Tab.get {} s.key.descs c

/-- The context holds the provider role (R325). -/
def CtxDesc.prov (d : CtxDesc) : Bool := d.w0.getLsbD 1

/-- The role a tile acts in: the provider's while no context is resident (R30). -/
def State.tileAccess (s : State) (t : Fin 192) : Access :=
  { source := .tile t
    role := match s.ctxOf t with
      | none => none
      | some c => if (s.desc c).prov then none else some (Fin.ofNat 256 c) }

/-- The die of a tile. -/
def tileDie (t : Nat) : Nat := t / 48

/-- The package's base dies work: not held in reset, frozen or fail-stopped (R346, R413, R431). -/
def State.awake (s : State) : Bool := !s.pkg.porst && !s.pkg.frozen && s.pkg.powerOn && !s.pkg.stopped

/-- The tile's quad domain is powered, its clocks run and the package is not stopped (R346, R406, R413). -/
def State.tileRuns (s : State) (t : Nat) : Bool := s.pkg.powered.getLsbD (quadOf t) && s.awake

/-! ## Races (R76) -/

/-- Bytes of one 32-byte-unit read at `addr`, with every overlapping write in flight seen wholly or not at all in each
unit, by a free value. -/
def overlay (draw addr : Nat) : Nat → List (Nat × List Byte) → List Byte → List Byte
  | _, [], bs => bs
  | i, (wa, wd) :: ws, bs =>
    overlay draw addr (i + 1) ws
      (bs.mapIdx fun k b =>
        let a := addr + k
        if wa ≤ a ∧ a < wa + wd.length then
          (if Config.raceSeesNew (draw + i) (a / 32) then wd.getD (a - wa) b else b)
        else b)

/-- Whether the bytes [a, a + n) and [b, b + m) meet. -/
def overlaps (a n b m : Nat) : Bool := decide (a < b + m) && decide (b < a + n)

/-! ## Local spaces of a tile: tile store and register file (R116) -/

/-- Size of tile store and of the register file in bytes. -/
def storeBytes : Nat := 6 * 1024 * 1024
def rfBytes : Nat := 512 * 1024

/-- The writes of started descriptors of a tile that meet n bytes at address a of a space. -/
def Tile.racing (t : Tile) (rf : Bool) (a n : Nat) : List (Nat × List Byte) :=
  ((t.flights.flatMap fun f => f.writes) ++ (match t.fts with | some o => o.writes | none => [])
    ++ (match t.route with | some o => o.writes | none => [])).filterMap fun w =>
    if w.rf = rf ∧ overlaps a n w.addr w.data.length then some (w.addr, w.data) else none

/-- n bytes of a space as stored. -/
def Tile.bytes (t : Tile) (rf : Bool) (a n : Nat) : List Byte := getBytes (if rf then t.rf else t.store) a n

/-- n bytes read by an engine at byte address a of a tile's space; a write in flight is met as R76 says. -/
def State.localRead (s : State) (t : Nat) (rf : Bool) (a n : Nat) : List Byte × State :=
  let ti := s.tile t
  let ws := ti.racing rf a n
  let bs := ti.bytes rf a n
  match ws with
  | [] => (bs, s)
  | _ => (overlay s.draws a 0 ws bs, { s with draws := s.draws + ws.length })

/-- Bytes written at byte address a of a tile's space. -/
def Tile.write (t : Tile) (rf : Bool) (a : Nat) (d : List Byte) : Tile :=
  if rf then { t with rf := putBytes t.rf a d } else { t with store := putBytes t.store a d }

def State.localWrite (s : State) (t : Nat) (rf : Bool) (a : Nat) (d : List Byte) : State :=
  s.modTile t fun ti => ti.write rf a d

/-! ## Local HBM and its homes (R239, R240) -/

/-- Bytes of one stack, and of local HBM. -/
def stackBytes : Nat := 0x900000000
def hbmBytes : Nat := 0x9000000000

/-- The stack (and controller) that holds a local address (R240). -/
def homeOf (a : Nat) : Nat := a / stackBytes

/-- What a physical address reaches (R239); `own` is the package's tray member number. -/
inductive Region where
  | local (a : Nat)
  | tray (member off : Nat)
  | host (off : Nat)
  | unmapped
  deriving DecidableEq, Repr

def regionOf (own pa : Nat) : Region :=
  if pa < hbmBytes then .local pa
  else if 0x020000000000 ≤ pa ∧ pa < 0x060000000000 then
    let m := (pa - 0x020000000000) / 0x010000000000
    let off := (pa - 0x020000000000) % 0x010000000000
    if hbmBytes ≤ off then .unmapped else if m = own then .local off else .tray m off
  else if 0x100000000000 ≤ pa ∧ pa < 0x200000000000 then .host (pa - 0x100000000000)
  else .unmapped

/-- RTR.POS (R279). -/
def State.posX (s : State) : Nat := s.fld (rtrPage 0) 0x110 0 5
def State.posY (s : State) : Nat := s.fld (rtrPage 0) 0x110 5 4
def State.posZ (s : State) : Nat := s.fld (rtrPage 0) 0x110 9 4

/-- The package's tray member number (R8). -/
def State.member (s : State) : Nat := s.posX % 2 + 2 * (s.posY % 2)

/-- The stack's domain is on (R256, R406). -/
def State.stackOn (s : State) (h : Nat) : Bool := s.pkg.powered.getLsbD (48 + h)

/-! ## The memory-side cache (R246 to R252) -/

/-- One byte of local memory: what the stack holds, or the cache line over it. -/
def Mem.byte (m : Mem) (a : Nat) : Byte := Tab.get 0 m.hbm a ^^^ Tab.get 0 m.delta a

/-- n bytes of local memory. -/
def Mem.bytes (m : Mem) (a n : Nat) : List Byte := (List.range n).map fun i => m.byte (a + i)

/-- The canonical form of memory: addresses rise, and no listed byte is what an unlisted address reads as. -/
def Mem.wf (m : Mem) : Bool := Tab.wf 0 m.hbm && Tab.wf 0 m.delta

def Mem.line (m : Mem) (l : Nat) : Line := Tab.get {} m.lines l
def Mem.setLine (m : Mem) (l : Nat) (x : Line) : Mem := { m with lines := Tab.set {} m.lines l x }

/-- A line's bytes go back to the stack (R246, R252). -/
def Mem.writeBack (m : Mem) (l : Nat) : Mem :=
  let ds := m.delta.filter fun e => decide (e.1 / 256 = l)
  { m with hbm := ds.foldl (fun h e => Tab.set 0 h e.1 (m.byte e.1)) m.hbm
           delta := m.delta.filter fun e => decide (e.1 / 256 ≠ l) }

/-- A line leaves the cache without being written back (R250). -/
def Mem.dropLine (m : Mem) (l : Nat) : Mem :=
  ({ m with delta := m.delta.filter fun e => decide (e.1 / 256 ≠ l) }).setLine l {}

/-- A line leaves the cache, written back (R246). -/
def Mem.evict (m : Mem) (l : Nat) : Mem := (m.writeBack l).setLine l {}

/-- The stack of a line, and the base die of the stack. -/
def lineStack (l : Nat) : Nat := homeOf (l * 256)
def lineDie (l : Nat) : Nat := lineStack l / 4

/-- The present lines of the set that line l falls in: one bank per stack (R246). -/
def Mem.setLines (m : Mem) (l : Nat) : List (Nat × Line) :=
  m.lines.filter fun e => e.2.there && decide (lineStack e.1 = lineStack l) && decide (Config.mscSet e.1 = Config.mscSet l)

/-- The least recently used entry of a list of lines. -/
def lruLine : List (Nat × Line) → Option (Nat × Line)
  | [] => none
  | e :: es =>
    match lruLine es with
    | none => some e
    | some x => if e.2.used ≤ x.2.used then some e else some x

/-- The half h of a die is offline (R252). -/
def Mem.off (m : Mem) (die half : Nat) : Bool := m.halfOff.getLsbD (2 * die + half)

/-- Line l comes into the cache (R246). Nothing is allocated with both halves offline (R252); a full set gives up its
victim. `keep` is KEEP_WAYS. -/
def Mem.allocate (m : Mem) (l : Nat) (high dirty : Bool) (keep : Nat) : Mem :=
  let die := lineDie l
  if m.off die 0 && m.off die 1 then m
  else
    let ls := m.setLines l
    let highs := ls.filter fun e => e.2.high
    let cap := if m.off die 0 || m.off die 1 then 8 else 16
    let victim : Option (Nat × Line) :=
      if high && decide (keep ≤ highs.length) then lruLine highs
      else if cap ≤ ls.length then
        (match lruLine (ls.filter fun e => !e.2.high) with
         | some e => some e
         | none => lruLine ls)
      else none
    let lower := (ls.filter fun e => !e.2.upper).length
    let upper := match victim with
      | some e => e.2.upper
      | none => m.off die 0 || (!m.off die 1 && decide (8 ≤ lower))
    let m := match victim with
      | some e => m.evict e.1
      | none => m
    m.setLine l { there := true, dirty := dirty, high := high, upper := upper, used := m.clock }

/-- A present line becomes high under the keep limit (R246). -/
def Mem.raiseLine (m : Mem) (l keep : Nat) : Mem :=
  let x := m.line l
  if x.high then m
  else
    let highs := (m.setLines l).filter fun e => e.2.high
    let m := if keep ≤ highs.length then
        (match lruLine highs with
         | some e => m.setLine e.1 { e.2 with high := false }
         | none => m)
      else m
    m.setLine l { x with high := true }

/-- The hint an access of a page acts with: keep acts as default while KEEP_WAYS is 0 (R258). -/
def effHint (hint keep : Nat) : Nat := if hint = 2 ∧ keep = 0 then 0 else hint

/-- MSC.HINTS.KEEP_WAYS of a die (R258). -/
def State.keepWays (s : State) (die : Nat) : Nat := min 16 (s.fld (mscPage die) 0x100 0 5)

/-- What a read does to one line, after its data are taken (R249, R250). Counters 0, 1, 4 to 7 of MSC. -/
def State.lineRead (s : State) (ctx : Option Nat) (hint : Nat) (alloc : Bool) (l : Nat) : State :=
  let die := lineDie l
  let pg := mscPage die
  let keep := s.keepWays die
  let hint := effHint hint keep
  let m := { s.mem with clock := s.mem.clock + 1 }
  let x := m.line l
  if x.there then
    let s := s.count pg 0 ctx
    if hint = 3 then
      let s := s.count pg 6 ctx
      let s := if x.dirty then s.count pg 7 ctx else s
      { s with mem := m.dropLine l }
    else
      let m := if hint = 2 ∧ alloc then m.raiseLine l keep else m
      { s with mem := m.setLine l { m.line l with used := m.clock } }
  else
    let s := s.count pg 1 ctx
    if alloc ∧ (hint = 0 ∨ hint = 2) then
      ({ s with mem := m.allocate l (decide (hint = 2)) false keep }).count pg (if hint = 2 then 5 else 4) ctx
    else { s with mem := m }

/-- What a write does to one line before its bytes are written (R249). Counters 2 to 5 of MSC. -/
def State.lineWrite (s : State) (ctx : Option Nat) (hint : Nat) (alloc : Bool) (l : Nat) : State :=
  let die := lineDie l
  let pg := mscPage die
  let keep := s.keepWays die
  let hint := effHint hint keep
  let m := { s.mem with clock := s.mem.clock + 1 }
  if (m.line l).there then
    let m := if hint = 2 ∧ alloc then m.raiseLine l keep else m
    ({ s with mem := m.setLine l { m.line l with used := m.clock, dirty := true } }).count pg 2 ctx
  else
    let s := s.count pg 3 ctx
    if alloc ∧ hint ≠ 1 then
      ({ s with mem := m.allocate l (decide (hint = 2)) true keep }).count pg (if hint = 2 then 5 else 4) ctx
    else { s with mem := m }

/-- The lines that n bytes at address a touch. -/
def linesOf (a n : Nat) : List Nat := (List.range ((a + n + 255) / 256 - a / 256)).map (a / 256 + ·)

/-- A byte stored in local memory: in the line when the cache holds it, in the stack otherwise. -/
def Mem.putByte (m : Mem) (a : Nat) (b : Byte) : Mem :=
  if (m.line (a / 256)).there then { m with delta := Tab.set 0 m.delta a (b ^^^ Tab.get 0 m.hbm a) }
  else { m with hbm := Tab.set 0 m.hbm a (b ^^^ Tab.get 0 m.delta a) }

/-- Bytes stored from address a. -/
def Mem.put : Mem → Nat → List Byte → Mem
  | m, _, [] => m
  | m, a, b :: bs => Mem.put (m.putByte a b) (a + 1) bs

/-- The atomic unit's update: in the present line (which becomes dirty) or in the stack, without allocating (R251). -/
def Mem.putAtomic (m : Mem) (a : Nat) (d : List Byte) : Mem :=
  let m := (linesOf a d.length).foldl (fun m l =>
    let x := m.line l
    if x.there then m.setLine l { x with dirty := true } else m) m
  m.put a d

/-- A read of n bytes of local memory: writes in flight are met as R76 says, then the cache acts on the hint. -/
def State.memRead (s : State) (ctx : Option Nat) (a n hint : Nat) (alloc : Bool) : List Byte × State :=
  let ws := s.mem.writes.filterMap fun w =>
    if overlaps a n w.addr w.data.length then some (w.addr, w.data) else none
  let bs := s.mem.bytes a n
  let (bs, s) := match ws with
    | [] => (bs, s)
    | _ => (overlay s.draws a 0 ws bs, { s with draws := s.draws + ws.length })
  let s := (linesOf a n).foldl (fun s l => s.lineRead ctx hint alloc l) s
  (bs, s.count (hmcPage (homeOf a)) 0 ctx n)

/-- A write of bytes to local memory, with its hint. -/
def State.memWrite (s : State) (ctx : Option Nat) (a : Nat) (d : List Byte) (hint : Nat) (alloc : Bool) : State :=
  let s := (linesOf a d.length).foldl (fun s l => s.lineWrite ctx hint alloc l) s
  ({ s with mem := s.mem.put a d }).count (hmcPage (homeOf a)) 1 ctx d.length

/-- The identity of the memory writes of a tile's flight. -/
def memId (t id : Nat) : Nat := t * 2 ^ 32 + id

/-- The memory writes of a started operation are made good, in order (R84). -/
def State.flushWrites (s : State) (ctx : Option Nat) (id : Nat) : State :=
  let ws := s.mem.writes.filter fun w => decide (w.id = id)
  let s := { s with mem := { s.mem with writes := s.mem.writes.filter fun w => decide (w.id ≠ id) } }
  ws.foldl (fun s w => s.memWrite ctx w.addr w.data w.hint.toNat w.alloc) s

/-- A read by the device on its own behalf: default hint, no effect but on the cache (R249). -/
def State.peek (s : State) (a n : Nat) : List Byte := s.mem.bytes a n
/-- One 64-bit word of local memory. -/
def State.peekWord (s : State) (a : Nat) : Word := BitVec.ofNat 64 (ofBytes (s.mem.bytes a 8))

/-! ## Storage errors (R247, R341) -/

/-- What an access met: the most severe error, with the code its page gave it (R94). -/
structure Met where
  sev  : Nat := 0
  code : Nat := 0
  deriving DecidableEq, Repr

/-- The more severe of two, the first of equals. -/
def Met.join (a b : Met) : Met := if a.sev < b.sev then b else a

/-- The stored burst at a local address now holds the turned bits. -/
def Mem.spoil (m : Mem) (draw a : Nat) : Mem :=
  let b := a / 32 * 32
  (List.range 32).foldl (fun m i =>
    { m with hbm := Tab.mod 0 m.hbm (b + i) (· ^^^ BitVec.ofNat 8 ((Config.badBits draw (i / 8)).toNat / 2 ^ (8 * (i % 8)))) }) m

/-- The error report of a read of memory (R247): a corrected error changes nothing; an uncorrectable one leaves the bits
as read, and HMC.ECC_LOC keeps the first address. -/
def State.eccMem (s : State) (ctx : Option Nat) (e : Ecc) : Met × State :=
  match e with
  | .clean => ({}, s)
  | .corrected a =>
    let x := s.mem.line (a / 256)
    if x.there then (⟨1, 0x0D0⟩, (s.count (mscPage (lineDie (a / 256))) 12 ctx).raise (mscPage (lineDie (a / 256))) 1 0x0D0 ctx)
    else
      let pg := hmcPage (homeOf a)
      (⟨1, 0x0C0⟩, ((s.count pg 4 ctx).raise pg 1 0x0C0 ctx).event pg 5)
  | .uncorrectable a =>
    let x := s.mem.line (a / 256)
    let die := mscPage (lineDie (a / 256))
    if x.there && !x.dirty then
      (⟨1, 0x0D0⟩, ({ (s.count die 12 ctx) with mem := s.mem.dropLine (a / 256) }).raise die 1 0x0D0 ctx)
    else
      let (d, s) := s.draw
      let s := { s with mem := s.mem.spoil d a }
      if x.there then (⟨3, 0x0D1⟩, (s.count die 13 ctx).stepFatal die 0x0D1 ctx (BitVec.ofNat 64 (1 + a / 32 * 32)))
      else
        let pg := hmcPage (homeOf a)
        let s := if (s.raw pg 0x118).getLsbD 0 then s
          else s.setRaw pg 0x118 (BitVec.ofNat 64 (1 + a / 32 * 32))
        let s := (s.count pg 5 ctx).event pg 6
        (⟨3, 0x0C1⟩, s.stepFatal pg 0x0C1 ctx (s.raw pg 0x118))

/-- A 64-bit word of a tile's space turned by an uncorrectable error. -/
def State.spoilWord (s : State) (t : Nat) (rf : Bool) (w : Nat) : State :=
  let (d, s) := s.draw
  let old := (s.tile t).bytes rf (8 * w) 8
  s.localWrite t rf (8 * w) (toBytes 8 (ofBytes old ^^^ (Config.badBits d 0).toNat))

/-- The error report of a read of tile store or register file (R341, R376). `loc` is the 64-bit word index, plus 2^20 for
the register file. Counters 0 to 3 of TMON. -/
def State.eccTile (s : State) (t : Nat) (e : Ecc) : Met × State :=
  let pg := tmonPage t
  let ctx := s.ctxOf t
  match e with
  | .clean => ({}, s)
  | .corrected loc =>
    let rf := decide (2 ^ 20 ≤ loc)
    let code := if rf then 0x112 else 0x110
    (⟨1, code⟩, (((s.count pg (if rf then 2 else 0)).event pg 4).raise pg 1 code ctx))
  | .uncorrectable loc =>
    let rf := decide (2 ^ 20 ≤ loc)
    let w := loc % 2 ^ 20
    let code := if rf then 0x113 else 0x111
    let s := s.spoilWord t rf w
    let s := if (s.raw pg 0x110).getLsbD 0 then s
      else s.setRaw pg 0x110 (BitVec.ofNat 64 (1 + flag rf * 2 + w * 4))
    (⟨3, code⟩, (((s.count pg (if rf then 3 else 1)).event pg 5).stepFatal pg code ctx (s.raw pg 0x110)))

/-! ## Translation (R241 to R245) -/

/-- One mapped page (R242): physical address of the first byte, writable, never allocated in the MSC. -/
structure Mapped where
  pa      : Nat
  wr      : Bool
  noalloc : Bool
  kind    : Nat
  deriving DecidableEq, Repr

/-- The answer of a walk. -/
inductive Walk where
  | mapped (m : Mapped)
  | untranslated
  | malformed
  deriving DecidableEq, Repr

/-- A leaf entry of a page of `size` bytes, read as R242 says. -/
def leafOf (e : Word) (size off : Nat) : Walk :=
  let kind := bits e 3 2
  let addr := bits e 12 40 * 4096
  if kind = 3 ∨ bits e 7 5 / 2 ≠ 0 ∨ bits e 52 12 ≠ 0 ∨ addr % size ≠ 0 ∨ (kind < 2 ∧ hbmBytes < addr + size) then .malformed
  else
    .mapped { pa := (if kind = 1 then 0x020000000000 + bits e 5 2 * 0x010000000000 else if kind = 2 then 0x100000000000 else 0) + addr + off
              wr := e.getLsbD 2, noalloc := e.getLsbD 7, kind := kind }

/-- The two-level walk of R241 for a virtual address of a context. -/
def State.walk (s : State) (ctx va : Nat) : Walk :=
  let d := s.desc ctx
  if !d.w0.getLsbD 0 ∨ 2 ^ 48 ≤ va then .untranslated
  else
    let e1 := s.peekWord (bits d.w0 21 31 * 2 ^ 21 + 8 * (va / 2 ^ 30))
    if !e1.getLsbD 0 then .untranslated
    else if e1.getLsbD 1 then leafOf e1 (2 ^ 30) (va % 2 ^ 30)
    else if bits e1 8 4 ≠ 0 ∨ bits e1 52 12 ≠ 0 ∨ hbmBytes < bits e1 12 40 * 4096 + 4096 then .malformed
    else
      let e2 := s.peekWord (bits e1 12 40 * 4096 + 8 * (va / 2 ^ 21 % 512))
      if !e2.getLsbD 0 then .untranslated
      else if !e2.getLsbD 1 then .malformed
      else leafOf e2 (2 ^ 21) (va % 2 ^ 21)

/-- One run of bytes of an access, inside one 2 MiB page. -/
structure Seg where
  va      : Nat
  pa      : Nat
  len     : Nat
  noalloc : Bool
  kind    : Nat
  deriving DecidableEq, Repr

/-- The pieces of [va, va + n) by 2 MiB pages, with fuel for their number. -/
def pageRuns : Nat → Nat → Nat → List (Nat × Nat)
  | 0, _, _ => []
  | f + 1, va, n =>
    let k := min n (2 ^ 21 - va % 2 ^ 21)
    if n = 0 then [] else (va, k) :: pageRuns f (va + k) (n - k)

/-- Translation of a whole extent before any byte moves (R245): the segments, or none when it is refused. A malformed
entry is reported on the MSC page of the walking die. -/
def State.translate (s : State) (die : Nat) (ctx : Option Nat) (va n : Nat) (write : Bool) : Option (List Seg) × State :=
  match ctx with
  | none => (none, s)
  | some c =>
    (pageRuns (n / 2 ^ 21 + 2) va n).foldl (fun (acc, s) (v, k) =>
      match acc with
      | none => (none, s)
      | some segs =>
        match s.walk c v with
        | .untranslated => (none, s)
        | .malformed => (none, (s.event (mscPage die) 7).contained (mscPage die) 0x0D2 (some c))
        | .mapped m =>
          let unmapped := match regionOf s.member m.pa with
            | .unmapped => true
            | _ => false
          if (write && !m.wr) || unmapped then (none, s)
          else (some (segs ++ [{ va := v, pa := m.pa, len := k, noalloc := m.noalloc, kind := m.kind }]), s))
      (some [], s)

/-- The local address of a segment, when this package holds it. -/
def State.localOf (s : State) (g : Seg) : Option Nat :=
  match regionOf s.member g.pa with
  | .local a => some a
  | _ => none

/-- Translation of an extent that must lie in local HBM: its segments as local addresses. -/
def State.translateLocal (s : State) (die : Nat) (ctx : Option Nat) (va n : Nat) (write : Bool) :
    Option (List (Nat × Nat × Bool)) × State :=
  match s.translate die ctx va n write with
  | (none, s) => (none, s)
  | (some gs, s) =>
    (gs.foldr (fun g acc => match s.localOf g, acc with
      | some a, some l => some ((a, g.len, g.noalloc) :: l)
      | _, _ => none) (some []), s)

/-- The homes of local segments: every stack is on, or the first that is off (R256). -/
def State.homeOff (s : State) (as : List Nat) : Option Nat := (as.map homeOf).find? fun h => !s.stackOn h

/-- Some home's controller does not admit (R256): the access is held at its issuer (R41). -/
def State.homeHeld (s : State) (as : List Nat) : Bool := (as.map homeOf).any fun h => !s.admits (hmcPage h)

/-- The refusal of an access to a stack whose domain is off (R256). -/
def State.refuseOff (s : State) (h : Nat) (ctx : Option Nat) : State := s.contained (hmcPage h) 0x0C4 ctx

end Sys2Proof.Machine
end

