-- ==== Sys2Proof/Machine/Tiles.lean ====
section
/-! DEFINITION. The named operations of a tile: registers, tokens, summaries, tasks, queues and spill rings, the start of a
descriptor and its completion (R77 to R96, R114, R130). -/

namespace Sys2Proof.Machine

/-! ## Registers -/

/-- s[i]. -/
def Tile.reg (t : Tile) (i : Nat) : Word := Tab.get 0 t.s i
def Tile.setReg (t : Tile) (i : Nat) (v : Word) : Tile := { t with s := Tab.set 0 t.s i v }
/-- p[i]; p0 reads 1 (R73). -/
def Tile.pred (t : Tile) (i : Nat) : Bool := i == 0 || t.p.getLsbD i
/-- Writes to p0 are ignored (R73). -/
def Tile.setPred (t : Tile) (i : Nat) (v : Bool) : Tile :=
  if i = 0 then t else { t with p := if v then t.p ||| (1#8 <<< i) else t.p &&& ~~~(1#8 <<< i) }
/-- k[i]. -/
def Tile.tok (t : Tile) (i : Nat) : Nat := (Tab.get 0 t.k i).toNat
def Tile.setTok (t : Tile) (i v : Nat) : Tile := { t with k := Tab.set 0 t.k i (BitVec.ofNat 16 v) }
/-- u[i]. -/
def Tile.sum (t : Tile) (i : Nat) : Summary := Tab.get {} t.u i
def Tile.setSum (t : Tile) (i : Nat) (x : Summary) : Tile := { t with u := Tab.set {} t.u i x }
def Tile.taskAt (t : Tile) (i : Nat) : Task := Tab.get {} t.tasks i

/-- A signal of counter k: one more, saturating with code 0x010 and event TOKEN_SATURATED (R79, R80). -/
def State.signal (s : State) (t k : Nat) : State :=
  let v := (s.tile t).tok k
  if 0xFFFF ≤ v then (s.event (seqPage t) 6).contained (seqPage t) 0x010 (s.ctxOf t)
  else s.modTile t fun ti => ti.setTok k (v + 1)

/-- Two waits hold: one counter named twice needs the sum (R79). An amount of 0 is no wait. -/
def Tile.waitsHold (t : Tile) (ka amtA kb amtB : Nat) : Bool :=
  if amtA = 0 then decide (amtB ≤ t.tok kb)
  else if amtB = 0 then decide (amtA ≤ t.tok ka)
  else if ka = kb then decide (amtA + amtB ≤ t.tok ka)
  else decide (amtA ≤ t.tok ka) && decide (amtB ≤ t.tok kb)

/-- The amounts are subtracted (R79). -/
def Tile.takeWaits (t : Tile) (ka amtA kb amtB : Nat) : Tile :=
  let t := if amtA = 0 then t else t.setTok ka (t.tok ka - amtA)
  if amtB = 0 then t else t.setTok kb (t.tok kb - amtB)

/-! ## Summary registers (R85 to R87) -/

/-- A contribution of the register's own kind, combined (R85). -/
def Summary.combine (x : Summary) (v : Word) : Summary :=
  match x.kind with
  | .empty => x
  | .max => if x.val.toNat < v.toNat then { x with val := v } else x
  | .count => { x with val := if 2 ^ 64 ≤ x.val.toNat + v.toNat then BitVec.allOnes 64 else x.val + v }
  | .sum => { x with val := BitVec.ofNat 64 (fadd x.val.toNat v.toNat) }

/-- A contribution reaches register u: another kind leaves it unchanged and raises 0x012 on the producer's page (R85). -/
def State.contribute (s : State) (t pg : Nat) (c : Contrib) : State :=
  let x := (s.tile t).sum c.u
  if x.kind = c.kind ∧ c.kind ≠ .empty then s.modTile t fun ti => ti.setSum c.u (x.combine c.val)
  else
    let s := if blockOf pg = .vxe then s.event pg 5 else s
    s.contained pg 0x012 (s.ctxOf t)

/-- The pending count of a summary register changes (R86). -/
def Tile.pendSum (t : Tile) (u : Nat) : Tile := let x := t.sum u; t.setSum u { x with pending := x.pending + 1 }
def Tile.unpendSum (t : Tile) (u : Nat) : Tile := let x := t.sum u; t.setSum u { x with pending := x.pending - 1 }

/-! ## Descriptors (R114) -/

def Desc.word (d : Desc) (i : Nat) : Word := match i with | 0 => d.w0 | 1 => d.w1 | 2 => d.w2 | _ => d.w3
/-- Bits of word i of a descriptor. -/
def Desc.f (d : Desc) (i lo n : Nat) : Nat := bits (d.word i) lo n
def Desc.op (d : Desc) : Nat := d.f 0 3 5
def Desc.feed (d : Desc) : Bool := d.w0.getLsbD 8
def Desc.crec (d : Desc) : Bool := d.w0.getLsbD 9
def Desc.sigEn (d : Desc) : Bool := d.w0.getLsbD 10
def Desc.sigK (d : Desc) : Nat := d.f 0 11 5
def Desc.waAmt (d : Desc) : Nat := d.f 0 16 4
def Desc.waK (d : Desc) : Nat := d.f 0 20 5
def Desc.wbAmt (d : Desc) : Nat := d.f 0 25 4
def Desc.wbK (d : Desc) : Nat := d.f 0 29 5
def Desc.tag (d : Desc) : Nat := d.f 0 48 16

/-- The engine a code names (R114). -/
def engOf : Nat → Option Eng
  | 0 => some .lde | 1 => some .mxe | 2 => some .vxe | 3 => some .ste | 4 => some .xce | _ => none

def Desc.bytes (d : Desc) : List Byte := bytesOf [d.w0, d.w1, d.w2, d.w3]
def Desc.ofBytes (bs : List Byte) : Desc :=
  match wordsOf 4 bs with
  | [a, b, c, d] => ⟨a, b, c, d⟩
  | _ => {}

/-- The summary registers an issued descriptor names (R86): a DRAIN's USUM with UEN, a RUN's UA and UB with their enables. -/
def Desc.sums (e : Eng) (d : Desc) : List Nat :=
  match e with
  | .mxe => if d.op = 2 ∧ d.f 1 46 1 = 1 then [d.f 1 42 4] else []
  | .vxe => if d.op = 1 then (if d.f 2 55 1 = 1 then [d.f 2 47 4] else []) ++ (if d.f 2 56 1 = 1 then [d.f 2 51 4] else [])
    else []
  | _ => []

/-! ## Rings of the SEQ page (R96) -/

/-- A ring in tile store: start in bytes, number of entries. -/
structure RingAt where
  base : Nat
  size : Nat
  deriving DecidableEq, Repr

/-- The ring a word of the expert section describes; one that passes 6,144 KiB acts as of size 0. -/
def ringOf (w : Word) (entry : Nat) : RingAt :=
  let r : RingAt := ⟨bits w 0 13 * 1024, min 4096 (bits w 16 13)⟩
  if storeBytes < r.base + r.size * entry then { r with size := 0 } else r

def ringPasses (w : Word) (entry : Nat) : Bool :=
  decide (storeBytes < bits w 0 13 * 1024 + min 4096 (bits w 16 13) * entry)

/-- The spill ring of engine e: 32 bytes a descriptor (R78). -/
def State.spillRing (s : State) (t : Nat) (e : Eng) : RingAt := ringOf (s.inForce (seqPage t) (0x400 + 8 * (engNum e))) 32
/-- The completion ring of engine e: 16 bytes a record (R94). -/
def State.crecRing (s : State) (t : Nat) (e : Eng) : RingAt := ringOf (s.inForce (seqPage t) (0x440 + 8 * (engNum e))) 16

def Tile.queue (t : Tile) (e : Eng) : List Desc := Tab.get [] t.queues (engNum e)
def Tile.setQueue (t : Tile) (e : Eng) (q : List Desc) : Tile := { t with queues := Tab.set [] t.queues (engNum e) q }
def Tile.ringCount (t : Tile) (e : Eng) : Nat := Tab.get 0 t.ringLen (engNum e)

/-- A descriptor can be placed now (R77). -/
def State.canPlace (s : State) (t : Nat) (e : Eng) : Bool :=
  let ti := s.tile t
  let r := s.spillRing t e
  if ti.ringCount e = 0 ∧ (ti.queue e).length < 64 then true else decide (ti.ringCount e < r.size)

/-- The descriptor enters its queue, or the tail of the spill ring (R77); the summaries it names become pending (R86). -/
def State.place (s : State) (t : Nat) (e : Eng) (d : Desc) : State :=
  let ti := s.tile t
  let ti := (d.sums e).foldl Tile.pendSum ti
  if ti.ringCount e = 0 ∧ (ti.queue e).length < 64 then
    s.modTile t fun _ => ti.setQueue e (ti.queue e ++ [d])
  else
    let r := s.spillRing t e
    let slot := (Tab.get 0 ti.ringHead (engNum e) + ti.ringCount e) % r.size
    let ti := ti.write false (r.base + 32 * slot) d.bytes
    (s.modTile t fun _ => { ti with ringLen := Tab.set 0 ti.ringLen (engNum e) (ti.ringCount e + 1) }).count (seqPage t) 5

/-- The oldest ring entry moves into the queue when the queue has room (R77). -/
def State.refill (s : State) (t : Nat) (e : Eng) : State :=
  let ti := s.tile t
  let r := s.spillRing t e
  if ti.ringCount e = 0 ∨ 64 ≤ (ti.queue e).length ∨ r.size = 0 then s
  else
    let h := Tab.get 0 ti.ringHead (engNum e)
    let d := Desc.ofBytes (ti.bytes false (r.base + 32 * (h % r.size)) 32)
    (s.modTile t fun ti =>
      { (ti.setQueue e (ti.queue e ++ [d])) with
        ringHead := Tab.set 0 ti.ringHead (engNum e) ((h + 1) % r.size)
        ringLen := Tab.set 0 ti.ringLen (engNum e) (ti.ringCount e - 1) }).count (seqPage t) 6

/-! ## The running program (R88 to R96) -/

/-- The program region: first byte, number of instructions (R96, R99). -/
def State.progBase (s : State) (t : Nat) : Nat := s.fld (seqPage t) 0x100 0 13 * 1024
def State.progLen (s : State) (t : Nat) : Nat := s.fld (seqPage t) 0x100 16 13 * 128

/-- START is refused with code 0x014 (R96): region of size 0 or past tile store, or a ring past it with the EXPERT_EN that
will stand. -/
def State.startBad (s : State) (t : Nat) : Bool :=
  let pg := seqPage t
  let w := s.written pg 0x100
  let expert := (s.written pg 0x010).getLsbD 3
  decide (bits w 16 13 = 0) || decide (6144 < bits w 0 13 + bits w 16 13) ||
    (expert && (List.range 5).any fun q => ringPasses (s.written pg (0x400 + 8 * q)) 32 || ringPasses (s.written pg (0x440 + 8 * q)) 16)

/-- RUN.START takes effect: from ENTRY when idle, from PC when halted (R96); refused with 0x014. -/
def State.startSeq (s : State) (t : Nat) : State :=
  let pg := seqPage t
  if s.startBad t then s.contained pg 0x014 (s.ctxOf t)
  else s.modTile t fun ti =>
    match ti.seq with
    | .idle =>
      { ti with seq := .running, stall := .none, pc := BitVec.ofNat 32 (s.fld pg 0x108 0 32), fl := 0, fm := 0, held := false,
                haltDue := false, stopped := false }
    | .halted => { ti with seq := .running, stall := .none, held := false, haltDue := false, stopped := false }
    | _ => ti

/-- A write of RUN.START: held while SEQ is disabled, quiescing or quiesced (R41). -/
def State.runStartAct (s : State) (t : Nat) : State :=
  if s.admits (seqPage t) then s.startSeq t
  else s.modPage (seqPage t) fun p => { p with heldGo := true }

/-- The sequencer enters HALTED. -/
def State.haltSeq (s : State) (t : Nat) : State :=
  (s.modTile t fun ti => { ti with seq := .halted, stall := .none, haltDue := false, stopped := false }).drained (seqPage t)

/-- A write of RUN.HALT: after the current instruction, and a held START is cancelled (R41, R96). -/
def State.runHaltAct (s : State) (t : Nat) : State :=
  let s := s.modPage (seqPage t) fun p => { p with heldGo := false }
  let ti := s.tile t
  match ti.seq with
  | .idle | .halted => s
  | .waiting => s.haltSeq t
  | .running => if ti.stall = .none then s.haltSeq t else s.modTile t fun ti => { ti with haltDue := true }

/-- The sequencer halts with a Contained error of SEQ (R92, R102, R112). -/
def State.haltWith (s : State) (t code : Nat) : State := (s.contained (seqPage t) code (s.ctxOf t)).haltSeq t

/-- A list without its later repeats. -/
def firsts : List Nat → List Nat → List Nat
  | [], acc => acc
  | x :: xs, acc => firsts xs (if acc.contains x then acc else acc ++ [x])

/-- The classes in pick order (R96): a class named again is ignored, one not named follows in code order. -/
def pickOrder (o : Nat) : List Nat := firsts [o % 4, o / 4 % 4, o / 16 % 4, o / 64 % 4, 0, 1, 2, 3] []

def Task.ready (x : Task) (t : Tile) : Bool := x.armed && t.waitsHold x.ka.toNat x.amtA.toNat x.kb.toNat x.amtB.toNat

/-- The slot that a pick takes: the first class with a ready task, the lowest slot in it (R89). -/
def Tile.pickSlot (t : Tile) (order : Nat) : Option Nat :=
  (pickOrder order).findSome? fun c =>
    (List.range 64).find? fun i => (t.taskAt i).ready t && decide ((t.taskAt i).cls.toNat = c)

/-- A pick (R89). The boundary of SEQ's and TMON's staged writes lies before it (R38). With no slot armed the program ends
(PROG_END); with none ready the sequencer waits, its PC at the TEND. -/
def State.pick (s : State) (t : Nat) : State :=
  let ti := s.tile t
  if !(List.range 64).any fun i => (ti.taskAt i).armed then
    ((s.modTile t fun ti => { ti with seq := .idle, stall := .none, stopped := false, haltDue := false }).event (seqPage t) 5).drained (seqPage t)
  else
    match ti.pickSlot (bits (s.written (seqPage t) 0x118) 0 8) with
    | none => s.modTile t fun ti => { ti with seq := .waiting }
    | some i =>
      let x := ti.taskAt i
      let s := (s.applyStaged (seqPage t)).applyStaged (tmonPage t)
      let bad := s.expertEn (seqPage t) && (List.range 5).any fun q =>
        ringPasses (s.raw (seqPage t) (0x400 + 8 * q)) 32 || ringPasses (s.raw (seqPage t) (0x440 + 8 * q)) 16
      let s := if bad && !ti.ringBad then s.contained (seqPage t) 0x014 (s.ctxOf t) else s
      (s.modTile t fun ti =>
        { (ti.takeWaits x.ka.toNat x.amtA.toNat x.kb.toNat x.amtB.toNat) with
          tasks := Tab.set {} ti.tasks i { x with armed := false }
          pc := x.entry, task := BitVec.ofNat 6 i, seq := .running, ringBad := bad }).count (seqPage t) (7 + x.cls.toNat)

/-! ## Starting a descriptor (R79, R83, R84, R130) -/

/-- A tile's engines start nothing new: a watchdog halt (R93), a context switch of the quad (R95) or the context's rollback
(R358). -/
def State.enginesHeld (s : State) (t : Nat) : Bool :=
  (s.tile t).held
  || (match s.key.switch with | some w => decide (w.quad = quadOf t) | none => false)
  || (match s.ctxOf t with | some c => decide (2 ≤ (s.commit c).phase) | none => false)

/-- The started descriptors of one engine, oldest first. -/
def Tile.flightsOf (t : Tile) (e : Eng) : List Flight := t.flights.filter fun f => decide (f.eng = e)

/-- How many descriptors the engine may have in flight (R84, R97, R98; the MXE overlaps them under R142; the XCE sixteen, R277). -/
def State.inflightMax (s : State) (t : Nat) (e : Eng) : Nat :=
  match e with
  | .lde | .ste => let n := s.fld (engPage t e) 0x100 4 3; if n = 0 then 1 else min 4 n
  | .mxe => 64
  | .vxe => 1
  | .xce => 16

/-- LDE.W as it acts (R97). -/
def State.window (s : State) (t : Nat) : Nat := Nat.max 1 (s.fld (engPage t .lde) 0x100 0 4)

/-- The head of engine e's queue, when the engine can start it now. -/
def State.startable (s : State) (t : Nat) (e : Eng) : Option Desc :=
  let ti := s.tile t
  match ti.queue e with
  | [] => none
  | d :: _ =>
    let fl := ti.flightsOf e
    if s.tileRuns t && s.admits (engPage t e) && !s.enginesHeld t
        && decide (fl.length < s.inflightMax t e) && fl.all (fun f => decide (f.unsent = 0) || decide (e = .xce))
        && ti.waitsHold d.waK d.waAmt d.wbK d.wbAmt
        && (!(d.feed && decide (e = .lde)) || decide ((ti.fl - ti.fm).toNat < s.window t)) then some d
    else none

/-- The descriptor leaves the queue and starts: staged writes of the engine's page take effect (R38), the waits are
subtracted (R79), FL or FM counts it (R83), and it becomes a flight. -/
def State.takeDesc (s : State) (t : Nat) (e : Eng) (d : Desc) (f : Flight → Flight) : State :=
  let s := s.applyStaged (engPage t e)
  s.modTile t fun ti =>
    let ti := (ti.setQueue e ((ti.queue e).tail)).takeWaits d.waK d.waAmt d.wbK d.wbAmt
    let ti := if d.feed ∧ e = .lde then { ti with fl := ti.fl + 1 } else if d.feed ∧ e = .mxe then { ti with fm := ti.fm + 1 } else ti
    { ti with serial := ti.serial + 1
              flights := ti.flights ++ [f { id := ti.serial, eng := e, desc := d, pends := d.sums e }] }

/-- A refused descriptor (R130): a Contained error on the engine's page, no effect, and completion in its place. -/
def State.refuseDesc (s : State) (t : Nat) (e : Eng) (d : Desc) (code : Nat) : State :=
  (s.takeDesc t e d fun f => { f with refused := true, sev := 2, code := code }).contained (engPage t e) code (s.ctxOf t)

/-- A flight changed by f. -/
def State.modFlight (s : State) (t id : Nat) (f : Flight → Flight) : State :=
  s.modTile t fun ti => { ti with flights := ti.flights.map fun x => if x.id = id then f x else x }

/-- A flight meets an error (R94). -/
def Flight.meet (f : Flight) (m : Met) : Flight := if f.sev < m.sev then { f with sev := m.sev, code := m.code } else f

/-- The code of the first failing check, by number (R131). -/
def firstCode (cs : List (Bool × Nat)) : Option Nat := (cs.find? fun c => c.1).map Prod.snd

/-- The checks of word 0 that R131 gives every engine: 0x040 for misused FEED and unused counters, with the engine's own
reserved bits and required zeros; 0x041 for an undefined OP. -/
def Desc.commonBad (d : Desc) (e : Eng) (ownZero : Bool) : Bool :=
  !ownZero || (d.feed && decide (e ≠ .lde ∧ e ≠ .mxe)) || (!d.sigEn && decide (d.sigK ≠ 0)) || (decide (d.waAmt = 0) && decide (d.waK ≠ 0))
    || (decide (d.wbAmt = 0) && decide (d.wbK ≠ 0))

/-- Bits of word 0 that every command of an engine must leave 0 (R118, R128, R129); the MXE and the VXE differ by OP. -/
def Desc.ownZero (d : Desc) (e : Eng) : Bool :=
  match e with
  | .lde => decide (d.f 0 41 7 = 0)
  | .ste | .xce => decide (d.f 0 34 14 = 0)
  | .mxe | .vxe => true

/-! ## Completion (R81, R84, R94) -/

/-- A refused completion is charged to the context's present attempt, or to the next one after the vote (R350, R351). -/
def State.chargeRefusal (s : State) (c code : Nat) : State :=
  s.modCommit c fun x =>
    if x.voted then { x with laterRef := x.laterRef + 1, laterCode := x.laterCode.or (some code) }
    else { x with refused := x.refused + 1, refCode := x.refCode.or (some code) }


/-- The wait bucket of a time in ns (R94). -/
def waitBucket (ns : Nat) : Nat := let us := ns / 1000; if us = 0 then 0 else min 15 (Nat.log2 us + 1)

/-- The completion record (R94). -/
def crecBytes (f : Flight) (status wait : Nat) : List Byte :=
  toBytes 8 (f.desc.tag + status * 2 ^ 16 + wait * 2 ^ 18 + f.sev * 2 ^ 22 + f.code * 2 ^ 32)
    ++ toBytes 8 (if f.refused then 0 else f.bytes)

/-- A flight has nothing left to wait for. -/
def Flight.finished (f : Flight) : Bool := decide (f.left = 0) && decide (f.unsent = 0) && f.waitFor.isNone && f.flag.isNone

/-- Completion of a flight: its local writes become visible, its contributions are made, its record is written and its
counter is signalled; `heldNs` is how long it was held. WAIT of an XCE descriptor adds the delay of resends (R277), and counter 15 of
XCE adds what it was held at the source. -/
def State.completeFlight (s : State) (t : Nat) (e : Eng) (f : Flight) (heldNs : Nat) : State :=
  let pg := engPage t e
  let status := if f.refused then 2 else if e = .xce ∧ f.desc.op = 6 then 0 else if 1000 ≤ heldNs then 1 else 0  -- R289: a FENCE is served
  let s := s.flushWrites (s.ctxOf t) (memId t f.id)
  let s := s.modTile t fun ti =>
    let ti := { ti with flights := ti.flights.filter fun x => decide (x.id ≠ f.id) }
    let ti := f.writes.foldl (fun ti w => ti.write w.rf w.addr w.data) ti
    let ti := f.slots.foldl (fun ti p => { ti with slots := Tab.set [] ti.slots p.1 p.2 }) ti
    f.pends.foldl Tile.unpendSum ti
  let s := f.sums.foldl (fun s c => s.contribute t pg c) s
  let ring := s.crecRing t e
  let s := if f.desc.crec && decide (ring.size ≠ 0) then
      s.modTile t fun ti =>
        let pos := Tab.get 0 ti.crecPos (engNum e) % ring.size
        { (ti.write false (ring.base + 16 * pos) (crecBytes f status (waitBucket (heldNs + f.delay)))) with
          crecPos := Tab.set 0 ti.crecPos (engNum e) ((pos + 1) % ring.size) }
    else s
  let s := if f.desc.sigEn then s.signal t f.desc.sigK else s
  let s := s.count (seqPage t) (11 + 3 * (engNum e) + status)
  let s := match e with
    | .mxe => s.count pg (16 + status) | .vxe => s.count pg (9 + status) | .xce => (s.count pg status).count pg 15 none (if f.desc.op = 6 then 0 else heldNs)
    | _ => s
  let s := if f.refused then (match e with | .lde | .ste | .xce => s.event pg 4 | _ => s) else s
  let s := match s.ctxOf t with
    | some c => if f.refused then s.chargeRefusal c f.code else s
    | none => s
  (s.drained pg).drained (trsPage t)

end Sys2Proof.Machine
end

