-- ==== Sys2Proof/Machine/Mxe.lean ====
section
/-! DEFINITION. The Matrix Engine: products, readout, checksums and accumulator protection (R120 to R125, R130 to R150). -/

namespace Sys2Proof.Machine

/-! ## Operands (R122, R123, R124, R136, R137) -/

/-- The reserved bits of a descriptor word are zero outside the given ranges (lo, width). -/
def onlyBits (w : Word) (used : List (Nat × Nat)) : Bool :=
  (w &&& ~~~(used.foldl (fun m r => m ||| BitVec.ofNat 64 ((2 ^ r.2 - 1) <<< r.1)) 0)) == 0

/-- One operand of an MMA (words 1 and 2, R124). -/
structure Opnd where
  addr   : Nat
  rf     : Bool
  stride : Nat
  fmt    : Nat
  bm     : Nat
  t      : Bool
  sp     : Bool
  aux    : Nat
  pitch  : Nat
  deriving DecidableEq, Repr

def opndOf (w : Word) (pitch : Nat) : Opnd :=
  { addr := bits w 0 18 * 32, rf := w.getLsbD 18, stride := bits w 19 14 * 32, fmt := bits w 33 4, bm := bits w 37 2,
    t := w.getLsbD 39, sp := w.getLsbD 40, aux := bits w 41 23, pitch := pitch * 64 }

/-- The elements of a sub-byte or byte format packed from byte 0 take this many bytes (R47). -/
def packedBytes (f n : Nat) : Nat := if f = 5 ∨ f = 6 then (n + 3) / 4 * 3 else (n * fmtBits f + 7) / 8

def pad32 (n : Nat) : Nat := (n + 31) / 32 * 32

/-- The block size of a block mode (R50); 32 for the groups of mode 0b00. -/
def blockSize (bm : Nat) : Nat := if bm = 2 then 16 else 32

/-- Elements of a stored row, and its bytes: whole blocks along K (R49), compressed rows under R123. -/
def Opnd.rowBytes (o : Opnd) (along : Nat) : Nat :=
  if o.sp then
    let g := (along + 3) / 4
    pad32 (packedBytes o.fmt (2 * g)) + pad32 ((g + 1) / 2)
  else
    let n := if o.bm = 0 ∨ o.t then along else (along + blockSize o.bm - 1) / blockSize o.bm * blockSize o.bm
    packedBytes o.fmt n

/-- Rows and row extent of an operand with `ext` rows or columns of the region and K = l. -/
def Opnd.rows (o : Opnd) (ext l : Nat) : Nat := if o.t then l else ext
def Opnd.along (o : Opnd) (ext l : Nat) : Nat := if o.t then ext else l

/-- The first byte past the operand's storage. -/
def Opnd.extent (o : Opnd) (ext l : Nat) : Nat := o.addr + (o.rows ext l - 1) * o.stride + o.rowBytes (o.along ext l)

/-- K indices that one AUX byte covers (R122, R137). -/
def Opnd.span (o : Opnd) : Nat := if o.sp && !o.t && decide (o.bm = 0) then 64 else blockSize o.bm

/-- Plain INT8 has no AUX array (R122). -/
def Opnd.plainInt (o : Opnd) : Bool := decide (o.fmt = 8) && decide (o.bm = 0)

/-- The first byte past the AUX array over `kscan` K indices. -/
def Opnd.auxExtent (o : Opnd) (ext kscan : Nat) : Nat :=
  let n := (kscan + o.span - 1) / o.span
  if o.t then o.aux + (n - 1) * o.pitch + ext else o.aux + (ext - 1) * o.pitch + n

/-- The AUX byte of row or column i at K index k. -/
def Opnd.auxAddr (o : Opnd) (i k : Nat) : Nat := if o.t then o.aux + k / o.span * o.pitch + i else o.aux + i * o.pitch + k / o.span

/-- Element j of a packed row, given as one number (R47). -/
def elemAt (f row j : Nat) : Nat := row / 2 ^ (fmtBits f * j) % 2 ^ fmtBits f

/-- The element patterns at position j of a stored row: one, or for a compressed row those kept there, or a zero that is
left out (R123, R136). -/
def Opnd.patterns (o : Opnd) (along row j : Nat) : List Nat :=
  if o.sp then
    let g := (along + 3) / 4
    let info := row / 2 ^ (8 * pad32 (packedBytes o.fmt (2 * g)))
    let nib := info / 2 ^ (4 * (j / 4)) % 16
    let ps := (if nib % 4 = j % 4 then [elemAt o.fmt row (2 * (j / 4))] else [])
      ++ (if nib / 4 = j % 4 then [elemAt o.fmt row (2 * (j / 4) + 1)] else [])
    if ps.isEmpty then [0] else ps
  else [elemAt o.fmt row j]

/-- Rows of bytes read by an engine, each as one number. -/
def State.readRows (s : State) (t : Nat) (rf : Bool) (addr stride bytes : Nat) : Nat → List Nat × State
  | 0 => ([], s)
  | n + 1 =>
    let (rs, s) := s.readRows t rf addr stride bytes n
    let (b, s) := s.localRead t rf (addr + n * stride) bytes
    (rs ++ [ofBytes b], s)

/-- What the array sees of one operand: its rows and its AUX bytes. -/
structure Fed where
  o    : Opnd
  ext  : Nat
  l    : Nat
  rows : List Nat
  aux  : Tab Byte

/-- The AUX byte at (i, k). -/
def Fed.auxByte (f : Fed) (i k : Nat) : Nat := (Tab.get 0 f.aux (f.o.auxAddr i k)).toNat

/-- The block exponent β of row or column i at K index k (R55, R140). -/
def Fed.beta (f : Fed) (i k : Nat) : Option Int :=
  let b := f.auxByte i k
  if f.o.bm = 0 then (if b = 0 then none else some ((b : Int) - 128)) else some ((b : Int) - 127 + eTop f.o.fmt)

/-- The element values at row or column i and K index k, and whether one breaks its group's bound (R140). -/
def Fed.values (f : Fed) (i k : Nat) : List Num × Bool :=
  let o := f.o
  let row := f.rows.getD (if o.t then k else i) 0
  let ps := o.patterns (o.along f.ext f.l) row (if o.t then i else k)
  if o.bm ≠ 0 then
    let b := f.auxByte i k
    (ps.map fun p => if b = 255 then .nan else
      match decodeElem o.fmt true p with
      | .fin n d => .fin n (d.scale ((b : Int) - 127))
      | x => x, false)
  else if o.fmt = 8 then (ps.map (decodeElem 8 false), false)
  else
    let vs := ps.map fun p =>
      let x := decodeFp o.fmt p
      let bad := match x with
        | .fin _ d => decide (d.m ≠ 0) && (match f.beta i k with
          | none => true
          | some b => decide (b + 1 ≤ d.log2))
        | _ => false
      (if bad then Num.nan else x, bad)
    (vs.map Prod.fst, vs.any Prod.snd)

/-- The feed of one operand over its own range, with AUX bytes over `kscan` (R139). -/
def State.feed (s : State) (t : Nat) (o : Opnd) (ext l kscan : Nat) : Fed × State :=
  let (rows, s) := s.readRows t o.rf o.addr o.stride (o.rowBytes (o.along ext l)) (o.rows ext l)
  if o.plainInt then ({ o := o, ext := ext, l := l, rows := rows, aux := [] }, s)
  else
    let n := (kscan + o.span - 1) / o.span
    let (k, w) := if o.t then (n, ext) else (ext, n)
    let (aux, s) := (List.range k).foldl (fun (acc, s) i =>
      let (b, s) := s.localRead t false (o.aux + i * o.pitch) w
      (putBytes acc (o.aux + i * o.pitch) b, s)) (([] : Tab Byte), s)
    ({ o := o, ext := ext, l := l, rows := rows, aux := aux }, s)

/-! ## The fields of an MMA (R124) -/

structure MmaF where
  a      : Opnd
  b      : Opnd
  m      : Nat
  n      : Nat
  l      : Nat
  bank   : Nat
  moff   : Nat
  noff   : Nat
  start  : Bool
  passes : Nat
  chk    : Bool
  akx    : Nat
  deriving DecidableEq, Repr

/-- PASSES comes from MXE.CTL.PASSES with PASS_DEF, and acts only on FP32 (R64). -/
def mmaOf (d : Desc) (ctlPasses : Nat) (force : Bool) : MmaF :=
  let pc := if d.f 3 48 1 = 1 then ctlPasses else d.f 3 46 2
  { a := opndOf d.w1 (d.f 0 34 7), b := opndOf d.w2 (d.f 0 41 7), m := d.f 3 0 7 + 1, n := d.f 3 7 7 + 1, l := d.f 3 14 16 + 1,
    bank := d.f 3 30 1, moff := d.f 3 31 7, noff := d.f 3 38 7, start := d.w3.getLsbD 45,
    passes := if d.f 1 33 4 = 0 then max 1 pc else 1, chk := d.w3.getLsbD 49 || force, akx := d.f 3 50 12 }

/-- K indices of a segment (R59). -/
def MmaF.segLen (x : MmaF) : Nat := if x.passes = 1 then 65536 else 32768
def MmaF.kscan (x : MmaF) : Nat := if x.start then x.l + 16 * x.akx else x.l
def MmaF.split (x : MmaF) : Option (List (Nat × Nat)) := if x.a.fmt = 0 then some (passPieces x.passes) else none
def MmaF.intOnly (x : MmaF) : Bool := x.a.plainInt && x.b.plainInt

/-- The pairings of R51. -/
def pairOk (a b : Opnd) : Bool :=
  let small (o : Opnd) : Bool := decide (3 ≤ o.fmt ∧ o.fmt ≤ 7) && (decide (o.bm ≠ 0) || decide (o.fmt ≤ 4))
  (decide (a.fmt = b.fmt ∧ a.fmt ≤ 2) && decide (a.bm = 0 ∧ b.bm = 0)) || (small a && small b)
    || (decide (a.fmt = 8 ∧ b.fmt = 8) && (decide (a.bm = 0) == decide (b.bm = 0)))

def overRegion (m0 n0 m n m0' n0' m' n' : Nat) : Bool :=
  decide (m0 < m0' + m' ∧ m0' < m0 + m ∧ n0 < n0' + n' ∧ n0' < n0 + n)

/-- The checks of R131 on an MMA. -/
def mmaBad (d : Desc) (x : MmaF) : Option Nat :=
  let fmtBad (o : Opnd) : Bool := decide (11 ≤ o.fmt ∨ o.bm = 3)
  let past (o : Opnd) (ext : Nat) (rf : Bool) : Bool :=
    o.rf == rf && decide ((if rf then rfBytes else storeBytes) < o.extent ext x.l)
  let auxPast (o : Opnd) (ext : Nat) : Bool := !o.plainInt && decide (storeBytes < o.auxExtent ext x.kscan)
  firstCode [
    (d.commonBad .mxe (decide (d.f 3 62 2 = 0) && (x.start || decide (x.akx = 0))), 0x040),
    (fmtBad x.a || fmtBad x.b, 0x042),
    (!pairOk x.a x.b || (x.a.sp && decide (x.a.fmt = 0 ∨ x.a.fmt = 2 ∨ x.a.fmt = 8))
      || (x.b.sp && decide (x.b.fmt = 0 ∨ x.b.fmt = 2 ∨ x.b.fmt = 8)), 0x043),
    (past x.a x.m false || past x.b x.n false || auxPast x.a x.m || auxPast x.b x.n, 0x045),
    (past x.a x.m true || past x.b x.n true, 0x046),
    (decide (128 < x.moff + x.m ∨ 128 < x.noff + x.n ∨ x.segLen < x.l + 16 * x.akx)
      || ((x.a.sp || x.b.sp) && decide (x.l % 4 ≠ 0)), 0x048)]

/-! ## The accumulation (R56 to R60, R147) -/

/-- The product bound P of entry (i, j) over K indices [k0, k1) (R56). -/
def prodBound (x : MmaF) (a b : Fed) (i j k0 k1 : Nat) : Option Int :=
  if x.intOnly then some 15
  else
    let p := (List.range ((k1 + 15) / 16 - k0 / 16)).foldl (fun acc q =>
      let k := max k0 ((k0 / 16 + q) * 16)
      match a.beta i k, b.beta j k with
      | some u, some v => maxOpt acc (some (u + v))
      | _, _ => acc) none
    p.map (· + 2)

/-- The products of K indices k0 .. k0 + n − 1 into one entry, with their exact sum. -/
def addRange (x : MmaF) (a b : Fed) (i j : Nat) : Nat → Nat → Entry × Dy → Entry × Dy
  | _, 0, r => r
  | k, n + 1, (e, t) =>
    let vs := (a.values i k).1
    let ws := (b.values j k).1
    addRange x a b i j (k + 1) n
      (vs.foldl (fun r v => ws.foldl (fun (e, t) w =>
        let (e, p) := e.mulAdd x.split v w
        (e, t.add p)) r) (e, t))

/-- The segments of a command on one entry (R59): `fuel` bounds their number. Answers the entry, the exact sum added and the
number of closures. -/
def runSegments (x : MmaF) (a b : Fed) (i j : Nat) : Nat → Nat → Entry × Dy × Nat → Entry × Dy × Nat
  | 0, _, r => r
  | fuel + 1, k, (e, t, nc) =>
    if x.l ≤ k then (e, t, nc)
    else
      let full := decide (x.segLen ≤ e.kcount.toNat)
      let cnt := if full then 0 else e.kcount.toNat
      let k1 := min x.l (k + x.segLen - cnt)
      let p := if x.start ∧ k = 0 then none else prodBound x a b i j k k1
      let early := !full && !x.start && decide (k = 0) && (match p with
        | some v => decide (e.a - 1 < v)
        | none => false)
      let k1 := if early then min x.l (k + x.segLen) else k1
      let p := if early then prodBound x a b i j k k1 else p
      let e := if full || early then e.close p else e
      let (e, t) := addRange x a b i j k (k1 - k) (e, t)
      let per := match x.split with | none => 1 | some ps => ps.length
      let e := { e with kcount := BitVec.ofNat 17 (e.kcount.toNat + (k1 - k)), adds := e.adds + (k1 - k) * per }
      runSegments x a b i j fuel k1 (e, t, nc + (if full || early then 1 else 0))

def accKey (bank m n : Nat) : Nat := bank * 16384 + m * 128 + n
def Tile.entry (t : Tile) (bank m n : Nat) : Entry := Tab.get {} t.acc (accKey bank m n)
def Tile.setEntry (t : Tile) (bank m n : Nat) (e : Entry) : Tile := { t with acc := Tab.set {} t.acc (accKey bank m n) e }
def Tile.chk (t : Tile) (bank : Nat) : Chk := if bank = 0 then t.chk0 else t.chk1
def Tile.setChk (t : Tile) (bank : Nat) (c : Chk) : Tile := if bank = 0 then { t with chk0 := c } else { t with chk1 := c }

/-- The entry that a command opens or continues (R54, R56, R145). -/
def openEntry (x : MmaF) (a b : Fed) (i j : Nat) (e : Entry) : Entry :=
  if x.start then ({ intOnly := x.intOnly } : Entry).setA (anchorOf (prodBound x a b i j 0 x.kscan) none)
  else { e with intOnly := e.intOnly && x.intOnly }

/-- The checksum region of a bank when an MMA writes a region of it (R146): opened, continued, invalidated or untouched;
the flag says that it was invalidated. -/
def chkAfter (c : Chk) (x : MmaF) : Chk × Bool × Bool :=
  if x.start && x.chk then
    ({ valid := true, moff := BitVec.ofNat 7 x.moff, noff := BitVec.ofNat 7 x.noff, m := BitVec.ofNat 7 (x.m - 1),
       n := BitVec.ofNat 7 (x.n - 1) }, true, false)
  else if c.valid then
    if !x.start && x.chk && decide (c.moff.toNat = x.moff ∧ c.noff.toNat = x.noff ∧ c.m.toNat + 1 = x.m ∧ c.n.toNat + 1 = x.n) then
      (c, true, false)
    else if overRegion x.moff x.noff x.m x.n c.moff.toNat c.noff.toNat (c.m.toNat + 1) (c.n.toNat + 1) then ({}, false, true)
    else (c, false, false)
  else (c, false, false)

/-- One entry of the region: what it becomes, what its row and column lanes gain, its closures. -/
def mmaEntry (x : MmaF) (a b : Fed) (ti : Tile) (i j : Nat) : Entry × Dy × Nat :=
  runSegments x a b i j (x.l / x.segLen + 3) 0 (openEntry x a b i j (ti.entry x.bank (x.moff + i) (x.noff + j)), {}, 0)

/-- Every entry of the region (row by row), and the lanes where the checksum covers the command (R147); the closures of all entries and
of the one with most. -/
def mmaTile (x : MmaF) (a b : Fed) (lanes : Bool) (ti0 : Tile) : Tile × Nat × Nat :=
  (List.range x.m).foldl (fun acc i =>
    (List.range x.n).foldl (fun (ti, nc, most) j =>
      let (e, t, c) := mmaEntry x a b ti0 i j
      let ti := ti.setEntry x.bank (x.moff + i) (x.noff + j) e
      let ti := if lanes then
          let ck := ti.chk x.bank
          ti.setChk x.bank { ck with xs := Tab.mod {} ck.xs j (·.add t), ys := Tab.mod {} ck.ys i (·.add t) }
        else ti
      (ti, nc + c, max most c)) acc) (ti0, 0, 0)

/-! ## Steps (R132, R133, R136, R139) -/

/-- The base number of K indices per step (R132). -/
def baseRate (a b : Opnd) : Nat := if a.fmt ≤ 2 then 1 else if a.fmt = 7 ∧ b.fmt = 7 then 4 else 2
/-- Some operand's 2:4 pattern is exploited; some operand's is expanded (R136). -/
def MmaF.exploited (x : MmaF) : Bool := (x.a.sp && !x.a.t) || (x.b.sp && !x.b.t)
def MmaF.expanded (x : MmaF) : Bool := (x.a.sp && x.a.t) || (x.b.sp && x.b.t) || (x.a.sp && x.b.sp)
def MmaF.rate (x : MmaF) : Nat := baseRate x.a x.b * (if x.exploited then 2 else 1)
/-- A transposed E2M1 operand limits the rate (R134). -/
def MmaF.limited (x : MmaF) : Bool := ((x.a.fmt == 7 && x.a.t) || (x.b.fmt == 7 && x.b.t)) && decide (2 < x.rate)
/-- Steps of the command with its closures (R133). -/
def MmaF.steps (x : MmaF) (closures : Nat) : Nat :=
  let r := if x.limited then 2 else x.rate
  (if x.passes = 1 then 1 else if x.passes = 2 then 3 else 6) * ((x.l + r - 1) / r) + 2 * closures
/-- Cycles that the anchor scan holds the first step (R139). -/
def MmaF.lead (x : MmaF) : Nat :=
  if x.intOnly then 0 else
  let span := min x.a.span x.b.span
  ((x.kscan + span - 1) / span + 7) / 8 - 24

/-- How many elements of an operand break their group's bound (R140). -/
def Fed.violations (f : Fed) : Nat :=
  if f.o.bm ≠ 0 ∨ f.o.fmt = 8 then 0
  else ((List.range f.ext).map fun i => ((List.range f.l).filter fun k => (f.values i k).2).length).sum

/-! ## Accumulator errors (R149) -/

/-- The entries of a region that hold a double-bit error. -/
def Tile.badEntries (t : Tile) (bank m0 n0 m n : Nat) : Nat :=
  (t.acc.filter fun e => e.2.bad && decide (e.1 / 16384 = bank) && decide (m0 ≤ e.1 / 128 % 128 ∧ e.1 / 128 % 128 < m0 + m)
    && decide (n0 ≤ e.1 % 128 ∧ e.1 % 128 < n0 + n)).length

/-- A double-bit error turns the stored bits of entry `loc`. -/
def State.spoilEntry (s : State) (t loc : Nat) : State :=
  let (d, s) := s.draw
  s.modTile t fun ti =>
    { ti with acc := Tab.mod {} ti.acc loc fun e => { e with int := e.int ^^^ (Config.badBits d 0).zeroExtend 112, bad := true } }

/-- A read of accumulator entries: the error met now and the double-bit errors that stand in the region (R149). -/
def State.eccAcc (s : State) (t : Nat) (ecc : Ecc) (bank m0 n0 m n : Nat) : Met × State :=
  let pg := engPage t .mxe
  let ctx := s.ctxOf t
  let (m1, s) : Met × State := match ecc with
    | .clean => ({}, s)
    | .corrected _ => (⟨1, 0x030⟩, ((s.count pg 14).event pg 5).raise pg 1 0x030 ctx)
    | .uncorrectable loc => ({}, s.spoilEntry t (loc % 32768))
  match (s.tile t).badEntries bank m0 n0 m n with
  | 0 => (m1, s)
  | k + 1 =>
    let s := (List.range (k + 1)).foldl (fun s _ => (s.event pg 8).stepFatal pg 0x032 ctx) (s.count pg 15 none (k + 1))
    (m1.join ⟨3, 0x032⟩, s)

/-! ## Descriptors -/

/-- An engine meets the head of its queue: started where its conditions hold and its OP is `op`, refused by the first
failing check (R130); a descriptor whose OP the engine does not define is refused with 0x041 (R131). -/
def State.engineStart (s : State) (t : Nat) (e : Eng) (ops : List Nat) (op : Nat) (extra : Desc → Bool)
    (bad : Desc → State → Option Nat) (run : Desc → State → State) : State :=
  match s.startable t e with
  | none => s
  | some d =>
    if !ops.contains d.op then s.refuseDesc t e d (if d.commonBad e (d.ownZero e) then 0x040 else 0x041)
    else if d.op ≠ op ∨ !extra d then s
    else
      match bad d (s.applyStaged (engPage t e)) with
      | some code => s.refuseDesc t e d code
      | none => run d s

def mxeOps : List Nat := [1, 2, 3]

/-- No GROUP is running on the tile (R142). -/
def Tile.noGroup (t : Tile) : Bool := (t.flightsOf .mxe).all fun f => f.refused || decide (f.desc.op ≠ 3)

/-- An MMA's fields under the page values in force. -/
def State.mmaFields (s : State) (t : Nat) (d : Desc) : MmaF :=
  let pg := engPage t .mxe
  mmaOf d (s.fld pg 0x010 32 2) (decide (s.fld pg 0x010 34 1 = 1))

/-- An MMA that passed its checks: feeds, products, checksums, errors (R120, R139 to R149). -/
def State.mmaRun (t : Nat) (ecc : Ecc) (d : Desc) (s : State) : State :=
  let pg := engPage t .mxe
  let ctx := s.ctxOf t
  let id := (s.tile t).serial
  let s := s.takeDesc t .mxe d (fun f => f)
  let x := s.mmaFields t d
  let (m1, s) := if x.start then
      match ecc with
      | .corrected _ => s.eccAcc t ecc 2 0 0 0 0
      | _ => ({}, s)
    else s.eccAcc t ecc x.bank x.moff x.noff x.m x.n
  let (a, s) := s.feed t x.a x.m x.l x.kscan
  let (b, s) := s.feed t x.b x.n x.l x.kscan
  let viol := a.violations + b.violations
  let (ck, lanes, dropped) := chkAfter ((s.tile t).chk x.bank) x
  let s := if dropped then (s.event pg 7).count pg 12 else s
  let ti := (s.tile t).setChk x.bank ck
  let (ti, nc, most) := mmaTile x a b lanes ti
  let n := x.steps most
  let s := ((((s.modTile t fun _ => ti).count pg 7 none nc).count pg 0 none n).count pg 3 none x.lead).count pg 4 none (if x.exploited then n else 0)
  let s := (s.count pg 5 none (if x.expanded then n else 0)).count pg 6 none (if x.limited then n else 0)
  let (m2, s) := if viol = 0 then (({} : Met), s)
    else (⟨2, 0x034⟩, ((s.count pg 13 none viol).event pg 6).contained pg 0x034 ctx)
  let bytes := x.a.rows x.m x.l * x.a.rowBytes (x.a.along x.m x.l) + x.b.rows x.n x.l * x.b.rowBytes (x.b.along x.n x.l)
  s.modFlight t id fun f => { (f.meet (m1.join m2)) with bytes := bytes }

/-- MMA: the Matrix Engine starts a product into an accumulator region (R121, R124). -/
def execMma (t : Fin 192) (ecc : Ecc) (s : State) : Host.Outcome State Fault Refusal :=
  .next (s.engineStart t .mxe mxeOps 1 (fun _ => (s.tile t).noGroup) (fun d s => mmaBad d (s.mmaFields t d)) (State.mmaRun t ecc))

/-! ## Readout (R125, R66 to R68, R148) -/

structure DrainF where
  daddr    : Nat
  dstride  : Nat
  ofmt     : Nat
  obm      : Nat
  odim     : Bool
  t        : Int
  usum     : Nat
  uen      : Bool
  scaddr   : Nat
  scstride : Nat
  m        : Nat
  n        : Nat
  bank     : Nat
  moff     : Nat
  noff     : Nat
  deriving DecidableEq, Repr

def drainOf (d : Desc) : DrainF :=
  { daddr := d.f 1 0 14 * 32, dstride := d.f 1 14 14 * 32, ofmt := d.f 1 28 4, obm := d.f 1 32 2, odim := d.w1.getLsbD 34,
    t := signed 7 (d.f 1 35 7), usum := d.f 1 42 4, uen := d.w1.getLsbD 46, scaddr := d.f 1 48 14 * 32,
    scstride := d.f 2 29 14 * 32, m := d.f 2 0 7 + 1, n := d.f 2 7 7 + 1, bank := d.f 2 14 1, moff := d.f 2 15 7, noff := d.f 2 22 7 }

/-- Elements of an output row: whole blocks along N when blocks run along a row (R49, R68). -/
def DrainF.rowElems (x : DrainF) : Nat :=
  if x.obm ≠ 0 ∧ !x.odim then (x.n + blockSize x.obm - 1) / blockSize x.obm * blockSize x.obm else x.n

/-- Rows and row length of the scale array (R125: as R119 lays out). -/
def DrainF.scaleDims (x : DrainF) : Nat × Nat :=
  let b := blockSize x.obm
  if x.odim then ((x.m + b - 1) / b, x.n) else (x.m, (x.n + b - 1) / b)

/-- The checks of R131 on a DRAIN; INT32 needs entries of plain INT8 products (R145). -/
def drainBad (ti : Tile) (d : Desc) (x : DrainF) : Option Nat :=
  let small := decide (5 ≤ x.ofmt ∧ x.ofmt ≤ 8)
  let notInt := decide (x.ofmt = 9) && ((List.range x.m).any fun i => (List.range x.n).any fun j =>
    !(ti.entry x.bank (x.moff + i) (x.noff + j)).intOnly)
  let rowEnd := x.daddr + (x.m - 1) * x.dstride + packedBytes x.ofmt x.rowElems
  let (sr, sl) := x.scaleDims
  firstCode [
    (d.commonBad .mxe (d.f 0 34 14 == 0 && d.f 1 47 1 == 0 && d.f 1 62 2 == 0 && d.f 2 43 21 == 0 && d.w3 == 0), 0x040),
    (decide (11 ≤ x.ofmt ∨ x.obm = 3), 0x042),
    (decide (x.ofmt = 10) || (small && decide (x.obm = 0)) || (decide (x.ofmt = 9 ∧ x.obm ≠ 0))
      || (decide (x.ofmt ≤ 2 ∧ x.obm ≠ 0)) || notInt, 0x043),
    (decide (rfBytes < rowEnd) || (decide (x.obm ≠ 0) && decide (rfBytes < x.scaddr + (sr - 1) * x.scstride + sl)), 0x046),
    (decide (128 < x.moff + x.m ∨ 128 < x.noff + x.n), 0x048)]

/-- The bytes of a list of packed elements (R47). -/
def packElems (f n : Nat) (es : List Nat) : List Byte :=
  toBytes (packedBytes f n) ((es.foldr (fun e acc => e % 2 ^ fmtBits f + 2 ^ fmtBits f * acc) 0))

/-- The datum of the region's entry (i, j), and the output pattern grid with its scales. -/
def drainRows (x : DrainF) (ti : Tile) : List (List Nat) × List (List Nat) :=
  let dat (i j : Nat) : Num := (ti.entry x.bank (x.moff + i) (x.noff + j)).datum x.t
  let b := blockSize x.obm
  if x.obm = 0 then ((List.range x.m).map fun i => (List.range x.n).map fun j => readoutPlain x.ofmt (dat i j), [])
  else if x.odim then
    let blk (g j : Nat) : Nat × List Nat := mxBlock x.ofmt ((List.range (min b (x.m - b * g))).map fun r => dat (b * g + r) j)
    let gs := (x.m + b - 1) / b
    ((List.range x.m).map fun i => (List.range x.n).map fun j => (blk (i / b) j).2.getD (i % b) 0,
     (List.range gs).map fun g => (List.range x.n).map fun j => (blk g j).1)
  else
    let blk (i g : Nat) : Nat × List Nat := mxBlock x.ofmt ((List.range (min b (x.n - b * g))).map fun c => dat i (b * g + c))
    let gs := (x.n + b - 1) / b
    ((List.range x.m).map fun i => (List.range x.n).map fun j => (blk i (j / b)).2.getD (j % b) 0,
     (List.range x.m).map fun i => (List.range gs).map fun g => (blk i g).1)

/-- The local writes of a DRAIN: output rows, then scale rows. -/
def drainWrites (x : DrainF) (ti : Tile) : List LWrite :=
  let (rows, scs) := drainRows x ti
  (rows.mapIdx fun i r => { rf := true, addr := x.daddr + i * x.dstride, data := packElems x.ofmt x.rowElems r : LWrite })
    ++ (scs.mapIdx fun i r => { rf := true, addr := x.scaddr + i * x.scstride, data := r.map (BitVec.ofNat 8 ·) : LWrite })

/-- One test of R148: values, lane, the entries' largest anchor and count. -/
def chkTest (slack : Nat) (es : List Entry) (lane : Dy) : Bool :=
  let a := es.foldl (fun m e => max m e.a) (-2048)
  let tt := es.foldl (fun m e => max m e.adds) 0
  let sum := es.foldl (fun (d : Dy) e => d.add e.value) {}
  let lim : Dy := ⟨1, a - 95 + ceilLog2 tt + 9 + slack⟩
  lim.lt (sum.sub lane).abs

/-- The first failing row and column of a compared region, as offsets in it (R148). -/
def chkCompare (x : DrainF) (ti : Tile) (slack : Nat) : Option Nat × Option Nat :=
  let ck := ti.chk x.bank
  let e (i j : Nat) : Entry := ti.entry x.bank (x.moff + i) (x.noff + j)
  ((List.range x.m).find? fun i => chkTest slack ((List.range x.n).map (e i)) (Tab.get {} ck.ys i),
   (List.range x.n).find? fun j => chkTest slack ((List.range x.m).map fun i => e i j) (Tab.get {} ck.xs j))

/-- The drained region is exactly the bank's valid checksum region (R148). -/
def chkExact (x : DrainF) (c : Chk) : Bool :=
  c.valid && decide (c.moff.toNat = x.moff ∧ c.noff.toNat = x.noff ∧ c.m.toNat + 1 = x.m ∧ c.n.toNat + 1 = x.n)

/-- No earlier MMA or GROUP in flight writes an entry of the DRAIN's region (R142). -/
def Tile.drainClear (t : Tile) (x : DrainF) : Bool :=
  (t.flightsOf .mxe).all fun f => f.refused || decide (f.desc.op = 2) || (decide (f.desc.op = 1) &&
    !(decide (f.desc.f 3 30 1 = x.bank) && overRegion x.moff x.noff x.m x.n (f.desc.f 3 31 7) (f.desc.f 3 38 7)
        (f.desc.f 3 0 7 + 1) (f.desc.f 3 7 7 + 1)))

/-- A DRAIN that passed its checks. -/
def State.drainRun (t : Nat) (ecc : Ecc) (d : Desc) (s : State) : State :=
  let pg := engPage t .mxe
  let ctx := s.ctxOf t
  let id := (s.tile t).serial
  let s := s.takeDesc t .mxe d (fun f => f)
  let x := drainOf d
  let (m1, s) := s.eccAcc t ecc x.bank x.moff x.noff x.m x.n
  let ti := s.tile t
  let es := (List.range x.m).flatMap fun i => (List.range x.n).map fun j => ti.entry x.bank (x.moff + i) (x.noff + j)
  let s := (s.count pg 8).count pg 9 none (es.filter fun e => e.inexact).length
  let (m2, s) := if chkExact x (ti.chk x.bank) then
      let s := s.count pg 10
      match chkCompare x ti (s.fld pg 0x100 0 4) with
      | (none, none) => (({} : Met), s)
      | (r, c) =>
        let s := if (s.raw pg 0x108).getLsbD 0 then s
          else s.setRaw pg 0x108 (BitVec.ofNat 64 (1 + flag r.isSome * 2 + flag c.isSome * 4 + x.bank * 8
            + (match r with | some i => x.moff + i | none => 0) * 16 + (match c with | some j => x.noff + j | none => 0) * 2 ^ 11))
        (⟨3, 0x031⟩, (((s.count pg 11).event pg 4).stepFatal pg 0x031 ctx (s.raw pg 0x108)))
    else ({}, s)
  let ws := drainWrites x ti
  let mx := maxOf (es.map fun e => e.datum 0)
  s.modFlight t id fun f =>
    { (f.meet (m1.join m2)) with
      writes := ws, bytes := (ws.map fun w => w.data.length).sum
      sums := if x.uen then [{ u := x.usum, kind := .max, val := BitVec.ofNat 64 mx }] else [] }

/-- DRAIN: readout of an accumulator region into the register file (R121, R125). -/
def execDrain (t : Fin 192) (ecc : Ecc) (s : State) : Host.Outcome State Fault Refusal :=
  .next (s.engineStart t .mxe mxeOps 2 (fun d => (s.tile t).drainClear (drainOf d)) (fun d s => drainBad (s.tile t) d (drainOf d))
    (State.drainRun t ecc))

/-- ACC_SCRUB: the idle scrub reads an entry (R149): a single-bit error is corrected; a double-bit one is counted with its
event, without an error record. -/
def execAccScrub (t : Fin 192) (ecc : Ecc) (s : State) : Host.Outcome State Fault Refusal :=
  let pg := engPage t .mxe
  if !s.tileRuns t || s.fld pg 0x408 0 1 = 0 then .next s
  else
    match ecc with
    | .clean => .next s
    | .corrected _ => .next (((s.count pg 14).event pg 5).raise pg 1 0x030 (s.ctxOf t))
    | .uncorrectable loc =>
      let s := if (Tab.get {} (s.tile t).acc (loc % 32768)).bad then s else s.spoilEntry t (loc % 32768)
      .next ((s.count pg 15).event pg 8)

end Sys2Proof.Machine
end

