-- ==== Sys2Proof/Machine/Crypto.lean ====
section
/-! DEFINITION. The functions the manual names by their standards: CRC-32C (R271), AES-256-GCM (R274, R387), SHA-256, HKDF and
AES-KW (R336 to R338). -/

namespace Sys2Proof.Machine

/-! ## CRC-32C (polynomial 0x1EDC6F41, reflected; R271) -/

def crcBit (c : BitVec 32) : BitVec 32 := (c >>> 1) ^^^ (if c.getLsbD 0 then 0x82F63B78 else 0)
def crcByte (c : BitVec 32) (b : Byte) : BitVec 32 :=
  crcBit (crcBit (crcBit (crcBit (crcBit (crcBit (crcBit (crcBit (c ^^^ b.zeroExtend 32))))))))
/-- CRC-32C of bytes: initial value and final XOR 0xFFFFFFFF. -/
def crc32c (bs : List Byte) : BitVec 32 := bs.foldl crcByte 0xFFFFFFFF ^^^ 0xFFFFFFFF

/-! ## AES-256 -/

def xtime (b : Byte) : Byte := (b <<< 1) ^^^ (if b.getLsbD 7 then 0x1B else 0)
def gmulFrom : Nat → Byte → Byte → Byte
  | 0, _, _ => 0
  | n + 1, a, b => (if b.getLsbD 0 then a else 0) ^^^ gmulFrom n (xtime a) (b >>> 1)
/-- The product in the field of AES. -/
def gmul (a b : Byte) : Byte := gmulFrom 8 a b
/-- The inverse in the field (0 for 0): the 254th power. -/
def ginv (b : Byte) : Byte :=
  let b2 := gmul b b
  let b4 := gmul b2 b2
  let b8 := gmul b4 b4
  let b16 := gmul b8 b8
  let b32 := gmul b16 b16
  let b64 := gmul b32 b32
  gmul b2 (gmul b4 (gmul b8 (gmul b16 (gmul b32 (gmul b64 (gmul b64 b64))))))
def sbox (b : Byte) : Byte :=
  let i := ginv b
  i ^^^ i.rotateLeft 1 ^^^ i.rotateLeft 2 ^^^ i.rotateLeft 3 ^^^ i.rotateLeft 4 ^^^ 0x63
def sboxInv (b : Byte) : Byte := ginv (b.rotateLeft 1 ^^^ b.rotateLeft 3 ^^^ b.rotateLeft 6 ^^^ 0x05)

def xorBytes (a b : List Byte) : List Byte := List.zipWith (· ^^^ ·) a b

/-- The words of the key schedule, four bytes each. -/
def keyWords (key : List Byte) : Nat → List (List Byte)
  | 0 => (List.range 8).map fun i => (key.drop (4 * i)).take 4
  | n + 1 =>
    let ws := keyWords key n
    let i := n + 8
    let prev := ws.getD (i - 1) []
    let t := if i % 8 = 0 then
        xorBytes (((prev.drop 1) ++ prev.take 1).map sbox) [(List.range (i / 8 - 1)).foldl (fun r _ => xtime r) 1, 0, 0, 0]
      else if i % 8 = 4 then prev.map sbox else prev
    ws ++ [xorBytes (ws.getD (i - 8) []) t]

/-- The fifteen round keys. -/
def roundKeys (key : List Byte) : List (List Byte) :=
  let ws := keyWords key 52
  (List.range 15).map fun r => ((ws.drop (4 * r)).take 4).flatten

def shiftRows (b : List Byte) : List Byte := (List.range 16).map fun i => b.getD ((i + 4 * (i % 4)) % 16) 0
def unshiftRows (b : List Byte) : List Byte := (List.range 16).map fun i => b.getD ((i + 12 * (i % 4)) % 16) 0
/-- Columns multiplied by a circulant of four coefficients. -/
def mixWith (m : List Byte) (b : List Byte) : List Byte := (List.range 16).map fun i =>
  (List.range 4).foldl (fun x j => x ^^^ gmul (m.getD ((j + 4 - i % 4) % 4) 0) (b.getD (i / 4 * 4 + j) 0)) 0

/-- One block encrypted under expanded keys. -/
def aesEnc (ks : List (List Byte)) (b : List Byte) : List Byte :=
  let b := xorBytes b (ks.getD 0 [])
  let b := (List.range 13).foldl (fun b r => xorBytes (mixWith [2, 3, 1, 1] (shiftRows (b.map sbox))) (ks.getD (r + 1) [])) b
  xorBytes (shiftRows (b.map sbox)) (ks.getD 14 [])

/-- One block decrypted under expanded keys. -/
def aesDec (ks : List (List Byte)) (b : List Byte) : List Byte :=
  let b := (unshiftRows (xorBytes b (ks.getD 14 []))).map sboxInv
  let b := (List.range 13).foldl (fun b r => (unshiftRows (mixWith [14, 11, 13, 9] (xorBytes b (ks.getD (13 - r) [])))).map sboxInv) b
  xorBytes b (ks.getD 0 [])

/-- A number as n bytes, most significant first. -/
def toBytesBE (n v : Nat) : List Byte := (toBytes n v).reverse
def ofBytesBE (bs : List Byte) : Nat := ofBytes bs.reverse

/-! ## GCM -/

/-- The product of GHASH. -/
def ghashMul (x y : BitVec 128) : BitVec 128 :=
  ((List.range 128).foldl (fun (p : BitVec 128 × BitVec 128) i =>
    (if x.getMsbD i then p.1 ^^^ p.2 else p.1, (p.2 >>> 1) ^^^ (if p.2.getLsbD 0 then (0xE1#128 <<< 120) else 0))) (0, y)).1

/-- Sixteen-byte blocks, the last padded with zeros. -/
def blocks16 (bs : List Byte) : List (BitVec 128) :=
  (List.range ((bs.length + 15) / 16)).map fun i =>
    let b := (bs.drop (16 * i)).take 16
    BitVec.ofNat 128 (ofBytesBE (b ++ List.replicate (16 - b.length) 0))

def ghash (h : BitVec 128) (aad ct : List Byte) : BitVec 128 :=
  (blocks16 aad ++ blocks16 ct ++ [BitVec.ofNat 128 (aad.length * 8 * 2 ^ 64 + ct.length * 8)]).foldl (fun y x => ghashMul (y ^^^ x) h) 0

/-- The key stream from counter 2, and the tag mask. -/
def gcmStream (ks : List (List Byte)) (iv : List Byte) (n : Nat) : List Byte :=
  ((List.range ((n + 15) / 16)).flatMap fun i => aesEnc ks (iv ++ toBytesBE 4 (i + 2))).take n

def gcmTag (ks : List (List Byte)) (iv aad ct : List Byte) : BitVec 128 :=
  let h := BitVec.ofNat 128 (ofBytesBE (aesEnc ks (List.replicate 16 0)))
  ghash h aad ct ^^^ BitVec.ofNat 128 (ofBytesBE (aesEnc ks (iv ++ [0, 0, 0, 1])))

/-- AES-256-GCM: cipher text and tag. -/
def gcmSeal (key : BitVec 256) (iv aad pt : List Byte) : List Byte × BitVec 128 :=
  let ks := roundKeys (toBytesBE 32 key.toNat)
  let ct := xorBytes pt (gcmStream ks iv pt.length)
  (ct, gcmTag ks iv aad ct)

/-- The plain text, when the tag holds. -/
def gcmOpen (key : BitVec 256) (iv aad ct : List Byte) (tag : BitVec 128) : Option (List Byte) :=
  let ks := roundKeys (toBytesBE 32 key.toNat)
  if gcmTag ks iv aad ct = tag then some (xorBytes ct (gcmStream ks iv ct.length)) else none

/-! ## SHA-256, HMAC, HKDF, AES key wrap -/

def shaK : List (BitVec 32) :=
  [0x428a2f98, 0x71374491, 0xb5c0fbcf, 0xe9b5dba5, 0x3956c25b, 0x59f111f1, 0x923f82a4, 0xab1c5ed5]
    ++ [0xd807aa98, 0x12835b01, 0x243185be, 0x550c7dc3, 0x72be5d74, 0x80deb1fe, 0x9bdc06a7, 0xc19bf174]
    ++ [0xe49b69c1, 0xefbe4786, 0x0fc19dc6, 0x240ca1cc, 0x2de92c6f, 0x4a7484aa, 0x5cb0a9dc, 0x76f988da]
    ++ [0x983e5152, 0xa831c66d, 0xb00327c8, 0xbf597fc7, 0xc6e00bf3, 0xd5a79147, 0x06ca6351, 0x14292967]
    ++ [0x27b70a85, 0x2e1b2138, 0x4d2c6dfc, 0x53380d13, 0x650a7354, 0x766a0abb, 0x81c2c92e, 0x92722c85]
    ++ [0xa2bfe8a1, 0xa81a664b, 0xc24b8b70, 0xc76c51a3, 0xd192e819, 0xd6990624, 0xf40e3585, 0x106aa070]
    ++ [0x19a4c116, 0x1e376c08, 0x2748774c, 0x34b0bcb5, 0x391c0cb3, 0x4ed8aa4a, 0x5b9cca4f, 0x682e6ff3]
    ++ [0x748f82ee, 0x78a5636f, 0x84c87814, 0x8cc70208, 0x90befffa, 0xa4506ceb, 0xbef9a3f7, 0xc67178f2]

def shaInit : List (BitVec 32) := [0x6a09e667, 0xbb67ae85, 0x3c6ef372, 0xa54ff53a, 0x510e527f, 0x9b05688c, 0x1f83d9ab, 0x5be0cd19]

/-- The 64 words of the message schedule. -/
def shaSchedule (ws : List (BitVec 32)) : Nat → List (BitVec 32)
  | 0 => ws
  | n + 1 =>
    let w := shaSchedule ws n
    let i := n + 16
    let a := w.getD (i - 15) 0
    let b := w.getD (i - 2) 0
    let s0 := a.rotateRight 7 ^^^ a.rotateRight 18 ^^^ (a >>> 3)
    let s1 := b.rotateRight 17 ^^^ b.rotateRight 19 ^^^ (b >>> 10)
    w ++ [w.getD (i - 16) 0 + s0 + w.getD (i - 7) 0 + s1]

/-- One round. -/
def shaRound (v : List (BitVec 32)) (kw : BitVec 32) : List (BitVec 32) :=
  match v with
  | [a, b, c, d, e, f, g, h] =>
    let s1 := e.rotateRight 6 ^^^ e.rotateRight 11 ^^^ e.rotateRight 25
    let t1 := h + s1 + ((e &&& f) ^^^ (~~~e &&& g)) + kw
    let s0 := a.rotateRight 2 ^^^ a.rotateRight 13 ^^^ a.rotateRight 22
    let t2 := s0 + ((a &&& b) ^^^ (a &&& c) ^^^ (b &&& c))
    [t1 + t2, a, b, c, d + t1, e, f, g]
  | _ => v

/-- One block of 64 bytes. -/
def shaBlock (h : List (BitVec 32)) (b : List Byte) : List (BitVec 32) :=
  let ws := (List.range 16).map fun i => BitVec.ofNat 32 (ofBytesBE ((b.drop (4 * i)).take 4))
  List.zipWith (· + ·) h ((List.zipWith (· + ·) shaK (shaSchedule ws 48)).foldl shaRound h)

/-- SHA-256 of bytes, as 32 bytes. -/
def sha256 (bs : List Byte) : List Byte :=
  let pad := (119 - bs.length % 64) % 64
  let m := bs ++ [0x80] ++ List.replicate pad 0 ++ toBytesBE 8 (8 * bs.length)
  ((List.range (m.length / 64)).foldl (fun h i => shaBlock h ((m.drop (64 * i)).take 64)) shaInit).flatMap fun w => toBytesBE 4 w.toNat

def hmac (key msg : List Byte) : List Byte :=
  let k := key ++ List.replicate (64 - key.length) 0
  sha256 (k.map (· ^^^ 0x5C) ++ sha256 (k.map (· ^^^ 0x36) ++ msg))

/-- HKDF-SHA-256 with a 32-byte output (R336). -/
def hkdf32 (salt ikm info : List Byte) : List Byte := hmac (hmac salt ikm) (info ++ [1])

/-- AES-KW unwrap of n + 1 blocks of eight bytes: the key, when the integrity check holds (R336). -/
def kwUnwrap (kek wrapped : List Byte) : Option (List Byte) :=
  let ks := roundKeys kek
  let n := wrapped.length / 8 - 1
  let init : List Byte × List (List Byte) := (wrapped.take 8, (List.range n).map fun i => (wrapped.drop (8 * (i + 1))).take 8)
  let r := (List.range (6 * n)).foldl (fun (p : List Byte × List (List Byte)) q =>
    let t := 6 * n - q
    let i := (t - 1) % n
    let b := aesDec ks (xorBytes p.1 (toBytesBE 8 t) ++ p.2.getD i [])
    (b.take 8, p.2.set i (b.drop 8))) init
  if r.1 = List.replicate 8 0xA6 then some r.2.flatten else none

end Sys2Proof.Machine
end

