-- ==== Sys2Proof/Machine/Packet.lean ====
section
/-! DEFINITION. Korurha packets: coordinates, fields, protection, routing, credits and links (R259 to R274). -/

namespace Sys2Proof.Machine

/-! ## Coordinates (R262) -/

/-- The logical coordinate of a position. -/
def coordOf (x y z : Nat) : Nat := x % 2 + 2 * (y % 2) + z % 16 * 4 + y / 2 % 8 * 64 + x / 2 % 16 * 512

/-- The position of a coordinate: x, y, z. -/
def positionOf (c : Nat) : Nat × Nat × Nat := (2 * (c / 512 % 16) + c % 2, 2 * (c / 64 % 8) + c / 2 % 2, c / 4 % 16)

/-- The coordinate of a package's twin: its partner in x (R9). -/
def twinOf (c : Nat) : Nat := if c % 2 = 0 then c + 1 else c - 1

/-- A package's own coordinate and the one it has taken over (R262, R279). -/
def State.takenLc (s : State) : Option Nat := if s.fld (rtrPage 0) 0x118 26 1 = 1 then some (s.fld (rtrPage 0) 0x118 13 13) else none

def State.isOwn (s : State) (c : Nat) : Bool := decide (c = s.ownLc) || decide (s.takenLc = some c)

/-- The physical position that a logical coordinate leads to through the remap table (R262). -/
def State.physOf (s : State) (c : Nat) : Nat × Nat × Nat :=
  match (s.fab.remap.find? fun w => w.getLsbD 26 && decide (bits w 0 13 = c)) with
  | some w => (bits w 13 5, bits w 18 4, bits w 22 4)
  | none => positionOf c

/-- TSEL of a request to coordinate c: its remap entry leads to its twin's position (R265). -/
def State.tselOf (s : State) (c : Nat) : Bool :=
  decide (s.physOf c ≠ positionOf c) && decide (s.physOf c = positionOf (twinOf c))

/-! ## Fields (R265, R266) -/

def pktPop (p : Packet) : Nat := bits p.w0 38 5
def pktBulk (p : Packet) : Bool := decide (bits p.w0 0 2 = 0)
def pktVc (p : Packet) : Nat := bits p.w0 2 2
def pktEcl (p : Packet) : Nat := bits p.w0 4 2
def pktHops (p : Packet) : Nat := bits p.w0 6 6
def pktDst (p : Packet) : Nat × Nat × Nat := (bits p.w0 12 5, bits p.w0 17 4, bits p.w0 21 4)
def pktEpoch (p : Packet) : Nat := bits p.w0 52 12
def pktFlow (p : Packet) : Nat := bits p.w1 0 20
def pktSeq (p : Packet) : Nat := bits p.w1 20 32
def pktResend (p : Packet) : Nat := bits p.w1 52 4
def pktPart (p : Packet) : Nat := bits p.w1 56 8

/-- Class and virtual channel of each POP (R266): bulk?, VC. -/
def popClass : Nat → Option (Bool × Nat)
  | 1 => some (true, 0) | 2 => some (false, 2) | 3 => some (true, 1) | 4 => some (true, 0) | 5 => some (true, 0)
  | 6 => some (false, 2) | 7 => some (false, 2) | 8 => some (false, 2) | 9 => some (false, 2) | 10 => some (true, 0)
  | 11 => some (true, 0) | 12 => some (false, 3) | 13 => some (false, 3) | 14 => some (false, 2) | _ => none

/-- A malformed packet (R266). -/
def malformed (p : Packet) : Bool :=
  decide (2 ≤ bits p.w0 0 2 ∨ pktEcl p = 3) || decide (popClass (pktPop p) ≠ some (pktBulk p, pktVc p))
    || (!pktBulk p && decide (bits p.w0 43 8 ≠ 0)) || (pktBulk p && decide (bits p.w2 57 7 ≠ 0 ∨ bits p.w3 62 2 ≠ 0))

/-- Bytes on the wire, and credits of 64 bytes (R265, R267). -/
def pktBytes (p : Packet) : Nat := if pktBulk p then 48 + p.body.length else 64
def pktCredits (p : Packet) : Nat := if pktBulk p then (48 + p.body.length + 63) / 64 else 1

/-- Word 0 with bits [11:4] as 0 (R265). -/
def maskW0 (w : Word) : Word := putBits w 4 8 0

/-- The authenticated data (R274). -/
def pktAad (p : Packet) : List Byte :=
  if pktBulk p then bytesOf [maskW0 p.w0, p.w1, p.w2, putBits p.w3 0 32 0] else bytesOf [maskW0 p.w0, p.w1]

/-- The end-to-end CRC (R271). -/
def pktCrc (p : Packet) : BitVec 32 := crc32c (pktAad p ++ p.body ++ toBytesBE 16 p.tag.toNat)

/-- The CRC that the packet carries. -/
def pktSentCrc (p : Packet) : BitVec 32 := if pktBulk p then BitVec.ofNat 32 (bits p.w3 0 32) else p.ccrc

/-- The IV of R274, its bits laid into twelve bytes from the lowest. -/
def ivOf (owner kind flow fgen seq resend part : Nat) : List Byte :=
  toBytes 12 (owner % 2 ^ 13 + kind * 2 ^ 13 + flow % 2 ^ 20 * 2 ^ 15 + fgen % 2 ^ 16 * 2 ^ 35 + seq % 2 ^ 32 * 2 ^ 51 + resend % 16 * 2 ^ 83
    + part % 256 * 2 ^ 87)

/-- The kind of R274: 0 request, 1 DATA, 2 ACK or NACK, 3 READY or management. -/
def ivKind (pop : Nat) : Nat := match pop with | 3 => 1 | 8 => 2 | 9 => 2 | 12 => 3 | 13 => 3 | 14 => 3 | _ => 0

/-- What a packet is built from. -/
structure Form where
  pop    : Nat
  reply  : Bool := false
  flow   : Nat
  fgen   : Nat
  seq    : Nat := 0
  resend : Nat := 0
  part   : Nat := 0
  epoch  : Nat := 0
  owner  : Nat                  -- logical coordinate that owns the request
  target : Nat                  -- logical coordinate it travels to
  w2     : Word := 0            -- TVA, SPACE and the operation
  len    : Nat := 0             -- GET: units minus 1
  data   : List Byte := []      -- bulk payload in clear
  arg    : List Byte := []      -- cell operand, twelve bytes

/-- The cell body in clear (R265). -/
def cellBody (f : Form) (tsel : Bool) : List Byte :=
  toBytes 8 f.w2.toNat ++ toBytes 8 (f.fgen % 2 ^ 16 + f.owner % 2 ^ 13 * 2 ^ 16 + flag tsel * 2 ^ 29 + f.len % 2 ^ 16 * 2 ^ 30)
    ++ (f.arg ++ List.replicate (12 - f.arg.length) 0).take 12

/-- The packet as it leaves its source, sealed under a key, with a CRC over what is sent (R265, R271, R274). -/
def State.build (s : State) (key : BitVec 256) (f : Form) : Packet :=
  let (bulk, vc) := (popClass f.pop).getD (false, 2)
  let (dx, dy, dz) := s.physOf f.target
  let tsel := s.tselOf f.target
  let w0 := BitVec.ofNat 64 ((if bulk then 0 else 1) + vc * 4 + dx * 2 ^ 12 + dy * 2 ^ 17 + dz * 2 ^ 21 + s.posX * 2 ^ 25 + s.posY * 2 ^ 30
    + s.posZ * 2 ^ 34 + f.pop * 2 ^ 38 + (if bulk then (f.data.length / 32 - 1) % 256 else 0) * 2 ^ 43 + flag f.reply * 2 ^ 51
    + f.epoch % 2 ^ 12 * 2 ^ 52)
  let w1 := BitVec.ofNat 64 (f.flow % 2 ^ 20 + f.seq % 2 ^ 32 * 2 ^ 20 + f.resend % 16 * 2 ^ 52 + f.part % 256 * 2 ^ 56)
  let w3 := if bulk then BitVec.ofNat 64 (f.fgen % 2 ^ 16 * 2 ^ 32 + f.owner % 2 ^ 13 * 2 ^ 48 + flag tsel * 2 ^ 61) else 0
  let p : Packet := { w0 := w0, w1 := w1, w2 := if bulk then f.w2 else 0, w3 := w3, body := if bulk then f.data else cellBody f tsel,
                      ccrc := 0, tag := 0 }
  let (ct, tag) := gcmSeal key (ivOf f.owner (ivKind f.pop) f.flow f.fgen f.seq f.resend f.part) (pktAad p) p.body
  let p := { p with body := ct, tag := tag }
  if bulk then { p with w3 := putBits p.w3 0 32 (pktCrc p).toNat } else { p with ccrc := pktCrc p }

/-- A packet opened: its words 2 and 3 as the body or the header gives them, and its payload or operand. -/
structure Opened where
  w2    : Word
  fgen  : Nat
  owner : Nat
  tsel  : Bool
  len   : Nat
  data  : List Byte
  deriving DecidableEq, Repr

/-- Opening under one candidate owner and generation; a bulk packet names its own. -/
def openAs (key : BitVec 256) (p : Packet) (owner fgen : Nat) : Option Opened :=
  match gcmOpen key (ivOf owner (ivKind (pktPop p)) (pktFlow p) fgen (pktSeq p) (pktResend p) (pktPart p)) (pktAad p) p.body p.tag with
  | none => none
  | some d =>
    if pktBulk p then
      some { w2 := p.w2, fgen := fgen, owner := owner, tsel := p.w3.getLsbD 61, len := bits p.w0 43 8, data := d }
    else
      let b := BitVec.ofNat 64 (ofBytes ((d.drop 8).take 8))
      some { w2 := BitVec.ofNat 64 (ofBytes (d.take 8)), fgen := bits b 0 16, owner := bits b 16 13, tsel := b.getLsbD 29, len := bits b 30 16,
             data := d.drop 16 }

/-! ## Ports (R259, R261, R267) -/

def portDie (p : Nat) : Nat := p % 4
def portSlot (p : Nat) : Nat := p / 4
/-- The port of a slot of a die. -/
def portAt (die slot : Nat) : Nat := die + 4 * slot
/-- Counter i of a port's slot on its RTR page. -/
def State.countPort (s : State) (p i : Nat) (k : Nat := 1) : State := s.count (rtrPage (portDie p)) (13 * portSlot p + i) none k

def Port.isUp (p : Port) : Bool := decide (p.state = .up) || decide (p.state = .reduced)

/-- Credits of a channel (R267): class 0 adaptive, 1 and 2 escape. -/
def creditCap (vc cls : Nat) : Nat :=
  if cls = 0 then (match vc with | 0 => 3328 | 1 => 3328 | 2 => 512 | _ => 256) else (match vc with | 0 => 128 | 1 => 128 | _ => 64)
def Port.freeCredits (p : Port) (vc cls : Nat) : Nat := creditCap vc cls - Tab.get 0 p.used (vc * 3 + cls)

/-! ## Routing (R268 to R270) -/

/-- The productive ports towards a position, in ascending order (R268). -/
def productive (here there : Nat × Nat × Nat) : List Nat :=
  let dim (d n a b : Nat) : List Nat :=
    let k := (b + n - a) % n
    if k = 0 then [] else (if n ≤ 2 * k then [2 * d] else []) ++ (if 2 * k ≤ n then [2 * d + 1] else [])
  dim 0 32 here.1 there.1 ++ dim 1 16 here.2.1 there.2.1 ++ dim 2 16 here.2.2 there.2.2

/-- Where a packet goes next. -/
inductive Hop where
  | here
  | out (port cls : Nat)
  | wait
  | drop
  deriving DecidableEq, Repr

def State.here (s : State) : Nat × Nat × Nat := (s.posX, s.posY, s.posZ)

/-- The port with the most free adaptive credits, the first of equals (R268). -/
def State.bestPort (s : State) (vc : Nat) : List Nat → Option Nat
  | [] => none
  | p :: ps =>
    match s.bestPort vc ps with
    | none => some p
    | some q => if (s.port p).freeCredits vc 0 < (s.port q).freeCredits vc 0 then some q else some p

/-- The escape route (R269). -/
def State.escapeHop (s : State) (p : Packet) : Hop :=
  let (x, y, z) := pktDst p
  let e := (Tab.get 0 s.fab.escape (x * 256 + y * 16 + z)).toNat
  let port := e % 8
  if 6 ≤ port ∨ e / 8 % 4 = 3 ∨ e / 32 ≠ 0 ∨ !(s.port port).isUp then .drop
  else
    let cls := match e / 8 % 4 with | 0 => (if pktEcl p = 0 then 1 else pktEcl p) | 1 => 2 | _ => 1
    if pktCredits p ≤ (s.port port).freeCredits (pktVc p) cls then .out port cls else .wait

/-- The hop of a packet at this router (R268). -/
def State.hopOf (s : State) (p : Packet) : Hop :=
  if pktDst p = s.here then .here
  else if pktEcl p ≠ 0 then s.escapeHop p
  else
    let ok := (productive s.here (pktDst p)).filter fun q =>
      (s.port q).isUp && !(s.raw (rtrPage 0) 0x130).getLsbD q && decide (pktCredits p ≤ (s.port q).freeCredits (pktVc p) 0)
    match s.bestPort (pktVc p) ok with
    | some q => .out q 0
    | none => s.escapeHop p

/-- A packet leaves on a port in a class: credits, hop count and counters. -/
def State.sendOn (s : State) (port cls : Nat) (p : Packet) : State :=
  let vc := pktVc p
  let s := s.modPort port fun q => { q with used := Tab.mod 0 q.used (vc * 3 + cls) (· + pktCredits p) }
  let s := s.countPort port (3 + vc) (pktBytes p)
  let s := if cls ≠ 0 ∧ pktEcl p = 0 then s.countPort port 7 else s
  s.send (.packet port { p with w0 := putBits (putBits p.w0 4 2 cls) 6 6 (pktHops p + 1) })

/-- The buffer of an arrived packet is free again: its credits go back to the neighbour (R267). -/
def State.giveCredits (s : State) (src : Option Nat) (p : Packet) : State :=
  match src with
  | none => s
  | some q => s.send (.credits q (pktVc p) (pktEcl p) (pktCredits p))

/-- The RTR page that answers for a packet: its port's, or the one of its base die. -/
def srcPage (src : Option Nat) (die : Nat) : Nat := rtrPage (match src with | some q => portDie q | none => die)

/-- A packet or a request needs its flow's entry: a hit, a merged miss or a miss (R23, R280). -/
def State.touchFlow (s : State) (f : Nat) : State :=
  match Tab.get none s.fab.cache f with
  | some e => s.count (fltPage (f % 4)) 0 (some (bits e.w0 2 8))
  | none =>
    if s.fab.missing.contains f then s.count (fltPage (f % 4)) 2
    else s.modFab fun x => { x with missing := x.missing ++ [f] }

/-- A packet is delivered here. -/
def State.deliver (s : State) (src : Option Nat) (die : Nat) (p : Packet) : State :=
  (s.touchFlow (pktFlow p)).modFab fun f => { f with inbound := f.inbound ++ [{ port := src, die := die, pkt := p }] }

/-- A packet at this router: delivered, forwarded, held or dropped (R268, R269). -/
def State.routePkt (s : State) (src : Option Nat) (die : Nat) (p : Packet) : State :=
  match s.hopOf p with
  | .here => (s.giveCredits src p).deliver src die p
  | .out q cls => (s.giveCredits src p).sendOn q cls p
  | .wait => s.modFab fun f => { f with held := f.held ++ [(src, p)] }
  | .drop =>
    let s := s.giveCredits src p
    let s := match src with
      | some q => s.countPort q 10
      | none => s.count (rtrPage die) 10
    s.note (srcPage src die) 0x0E4

/-- The order of an output's arbitration: management, control, bulk response, bulk request (R267). -/
def vcRank (p : Packet) : Nat := 3 - pktVc p

/-- Held packets are tried again, by virtual channel and then in order of arrival. -/
def State.retryHeld (s : State) : State :=
  let hs := (List.range 4).flatMap fun r => s.fab.held.filter fun h => decide (vcRank h.2 = r)
  hs.foldl (fun s h => s.routePkt h.1 (match h.1 with | some q => portDie q | none => 0) h.2) (s.modFab fun f => { f with held := [] })

/-- A packet of the package's own leaves, or comes back on a loopback flow without meeting the fabric (R282). -/
def State.launch (s : State) (die target : Nat) (p : Packet) : State :=
  if s.isOwn target then s.deliver none die p
  else s.routePkt none die p

end Sys2Proof.Machine
end

