-- ==== Sys2Proof/Machine/Flows.lean ====
section
/-! DEFINITION. Flows: the flow table, requests from their issue to their final answer, completion counts, fences and flags
(R272 to R277, R281, R282, R286 to R290). -/

namespace Sys2Proof.Machine

/-! ## Flow entries (R275) -/

def Flow.valid (e : Flow) : Bool := e.w0.getLsbD 0
def Flow.mgmt (e : Flow) : Bool := e.w0.getLsbD 1
def Flow.ctx (e : Flow) : Nat := bits e.w0 2 8
def Flow.peer (e : Flow) : Nat := bits e.w0 10 13
def Flow.gen (e : Flow) : Nat := bits e.w0 23 16
def Flow.resendMax (e : Flow) : Nat := if bits e.w0 39 4 = 0 then 7 else bits e.w0 39 4
def Flow.timeoutNs (e : Flow) : Nat := 2 ^ (max 3 (bits e.w0 43 5)) * 1000
def Flow.prio (e : Flow) : Nat := bits e.w0 48 2
def Flow.next (e : Flow) : Nat := bits e.w1 0 32
def Flow.low (e : Flow) : Nat := bits e.w1 32 32
def Flow.completed (e : Flow) : Nat := bits e.w2 0 32
def Flow.issued (e : Flow) : Nat := bits e.w2 32 32
def Flow.recvBase (e : Flow) : Nat := bits e.w3 0 32
def Flow.replyArea (e : Flow) : Nat := e.w5.toNat
/-- Pinned: requests outstanding or a non-empty window (R23, R275). -/
def Flow.pinned (e : Flow) : Bool := decide (e.next ≠ e.low) || decide (e.w4 ≠ 0)

def flowOfWords (ws : List Word) : Flow :=
  match ws with
  | [a, b, c, d, e, f, g, h] => ⟨a, b, c, d, e, f, g, h⟩
  | _ => {}

/-- The address of an entry: TBASE + 64f (R275). -/
def State.flowAddr (s : State) (f : Nat) : Nat := bits (s.raw (fltPage 0) 0x100) 0 52 + 64 * f
def State.cached (s : State) (f : Nat) : Option Flow := Tab.get none s.fab.cache f
def State.setFlow (s : State) (f : Nat) (e : Flow) : State :=
  s.modFab fun x => { x with cache := Tab.set none x.cache f (some e) }
def State.modFlow (s : State) (f : Nat) (g : Flow → Flow) : State :=
  match s.cached f with
  | none => s
  | some e => s.setFlow f (g e)
/-- The entry as it stands: cached, or in HBM. -/
def State.flowNow (s : State) (f : Nat) : Flow :=
  match s.cached f with
  | some e => e
  | none => flowOfWords (wordsOf 8 (s.peek (s.flowAddr f) 64))

/-- An entry goes back to HBM: words 1 to 4 and 6 (R275). The device has written none of them while its copy was invalid, so an
invalid copy is not written over the entry created again (R276). -/
def State.writeBackFlow (s : State) (f : Nat) (e : Flow) : State :=
  if !e.valid then s
  else (s.memWrite none (s.flowAddr f + 8) (bytesOf [e.w1, e.w2, e.w3, e.w4]) 0 true).memWrite none (s.flowAddr f + 48) (bytesOf [e.w6]) 0 true

/-- The entry leaves the cache, written back. -/
def State.dropFlow (s : State) (f : Nat) : State :=
  match s.cached f with
  | none => s
  | some e => (s.writeBackFlow f e).modFab fun x => { x with cache := Tab.set none x.cache f none }

/-- The key a flow's packets are sealed under (R274). -/
def State.keyOf (s : State) (e : Flow) : Option (BitVec 256) :=
  if e.mgmt then s.key.mgmt else Tab.get none s.key.keys e.ctx

/-! ## Tiles here and in save areas (R95, R329) -/

/-- Tile t changed as context c's: in place while c is resident, else in c's save area. -/
def State.modTileOf (s : State) (c t : Nat) (f : Tile → Tile) : State :=
  if s.ctxOf t = some c then s.modTile t f
  else s.modKey fun k => { k with saved := Tab.mod {} k.saved (c * 192 + t) f }

def State.tileOf (s : State) (c t : Nat) : Tile :=
  if s.ctxOf t = some c then s.tile t else Tab.get {} s.key.saved (c * 192 + t)

def mapFlight (id : Nat) (g : Flight → Flight) (t : Tile) : Tile :=
  { t with flights := t.flights.map fun x => if x.id = id then g x else x }

/-! ## Count words and virtual stores of the device -/

/-- CSTEP and ATTEMPT of a context as R299 and R302 stamp them. -/
def State.cstep (s : State) (st c : Nat) : Nat := (s.stepOf c st).toNat % 2 ^ 16
/-- The stamp of a count word of the context: ATTEMPT in [23:16], CSTEP[7:0] in [31:24] (R302). -/
def State.stampOf (s : State) (st c : Nat) : Nat := s.attemptOf c st * 2 ^ 16 + s.cstep st c % 256 * 2 ^ 24
/-- The count a stored word carries under the present stamp. -/
def State.countOf (s : State) (st c w : Nat) : Nat := if w / 2 ^ 16 * 2 ^ 16 = s.stampOf st c then w % 2 ^ 16 else 0

/-- The way of a cell to this package's own Bureau, outside the 20-bit flows: it needs no flow (R349, R352). -/
def ownWay : Nat := 2 ^ 20

/-- Bytes stored at a virtual address of a context, when its whole extent translates to writable local memory. -/
def State.storeVirt (s : State) (die c va : Nat) (d : List Byte) (hint : Nat) : Bool × State :=
  match s.translateLocal die (some c) va d.length true with
  | (none, s) => (false, s)
  | (some segs, s) =>
    let r := segs.foldl (fun (r : State × List Byte) g => (r.1.memWrite (some c) g.1 (r.2.take g.2.1) hint (!g.2.2), r.2.drop g.2.1)) (s, d)
    (true, r.1)

/-- Bytes of a context's local memory at a virtual address. -/
def State.loadVirt (s : State) (die c va n hint : Nat) : Option (List Byte) × State :=
  match s.translateLocal die (some c) va n false with
  | (none, s) => (none, s)
  | (some segs, s) =>
    let r := segs.foldl (fun (r : List Byte × State) g =>
      let (b, s) := r.2.memRead (some c) g.1 g.2.1 hint (!g.2.2)
      (r.1 ++ b, s)) (([] : List Byte), s)
    (some r.1, r.2)

/-- A count word takes one more under the present stamp, or is set to n (R302, R303). -/
def State.countUp (s : State) (die c va : Nat) : Bool × State :=
  match s.loadVirt die c va 4 0 with
  | (none, s) => (false, s)
  | (some b, s) => s.storeVirt die c va (toBytes 4 (s.stampOf die c + (s.countOf die c (ofBytes b) + 1) % 2 ^ 16)) 0
def State.countSet (s : State) (die c va n : Nat) : Bool × State := s.storeVirt die c va (toBytes 4 (s.stampOf die c + n)) 0

/-! ## Requests -/

/-- The unit that issues for an owner: tiles first, then each base die's engines, then the Bureau. -/
def unitOf : Owner → Nat
  | .tile t _ => t
  | .upe s => 192 + s
  | .mirror _ _ => 196
  | .restore _ => 197
  | .handover => 198
  | .bureau => 199
  | .sbd => 200
  | .rdma _ => 201
  | .cle s _ _ => 204 + s

/-- XCE.OUT_MAX of a tile (R278). -/
def State.outMax (s : State) (t : Nat) : Nat := max 1 (min 256 (s.fld (engPage t .xce) 0x118 0 9))

/-- Packets of a unit that are outstanding. -/
def State.outstanding (s : State) (u : Nat) : Nat := (s.fab.reqs.filter fun r => decide (unitOf r.owner = u) && !r.waiting).length

/-- The block whose page a request belongs to counts and reports on that page only if it is an XCE. -/
def isXce (page : Nat) : Bool := decide (blockOf page = .xce)

/-- The context that a request is charged to; a management cell that concerns none has context 256. -/
def Req.ctxOpt (r : Req) : Option Nat := if r.ctx < 256 then some r.ctx else none

/-- A request is handed to its flow; its payload counts in the context's fabric bytes of the period (R330). -/
def State.request (s : State) (r : Req) : State :=
  let k := if decide ((popClass r.pop).map Prod.fst = some true) && !r.mgmt then r.arg.length else 0
  (s.touchFlow r.flow).modFab fun f => { f with unsent := f.unsent ++ [{ req := r }], spent := Tab.mod 0 f.spent r.ctx (· + k) }

/-- Request i of the unsent list may take its SEQ now: first of its flow, entry cached, window open (R272), below the tile's
limit (R277). -/
def State.sendable (s : State) (i : Nat) (u : Unsent) : Bool :=
  ((s.fab.unsent.take i).all fun v => decide (v.req.flow ≠ u.req.flow))
  && (match s.cached u.req.flow with
      | none => false
      | some e => decide ((e.next + 2 ^ 32 - e.low) % 2 ^ 32 < 64))
  && (decide (192 ≤ unitOf u.req.owner) || decide (s.outstanding (unitOf u.req.owner) < s.outMax (unitOf u.req.owner)))

def State.prioOf (s : State) (f : Nat) : Nat := match s.cached f with | some e => e.prio | none => 0

/-- The request that goes next (R277): of the first unit that can send, the highest PRIO, then the flow after the one it
served last. -/
def State.nextSend (s : State) : Option Nat :=
  let all := (List.range s.fab.unsent.length).filterMap fun i =>
    match s.fab.unsent[i]? with
    | some u => if s.sendable i u then some (i, u.req) else none
    | none => none
  match all with
  | [] => none
  | (_, r) :: _ =>
    let mine := all.filter fun x => decide (unitOf x.2.owner = unitOf r.owner)
    let top := mine.foldl (fun m x => max m (s.prioOf x.2.flow)) 0
    let best := mine.filter fun x => decide (s.prioOf x.2.flow = top)
    let last := if unitOf r.owner < 192 then (s.tile (unitOf r.owner)).lastFlow else 0
    let low (l : List (Nat × Req)) : Option (Nat × Req) := l.foldl (fun m x => match m with
      | none => some x
      | some y => if x.2.flow < y.2.flow then some x else some y) none
    match low (best.filter fun x => decide (last < x.2.flow)) with
    | some x => some x.1
    | none => (low best).map Prod.fst

/-- The packet of a request (R265): resent with its RESEND, under the epoch of its block. -/
def State.packetOf (s : State) (key : BitVec 256) (e : Flow) (r : Req) : Packet :=
  s.build key
    { pop := r.pop, flow := r.flow, fgen := e.gen, seq := r.seq, resend := r.resend, epoch := (s.page r.page).epoch.toNat, owner := s.ownLc,
      target := e.peer, w2 := r.w2, len := r.len, data := if (popClass r.pop).isSome && decide ((popClass r.pop).map Prod.fst = some true)
        then r.arg else [], arg := r.arg }

/-- A request's packet leaves (R272). -/
def State.transmit (s : State) (e : Flow) (r : Req) : State :=
  match s.keyOf e with
  | none => s
  | some key =>
    let p := s.packetOf key e r
    let s := s.count (keyPage r.die) 4 r.ctxOpt
    let s := if isXce r.page then (s.count r.page 3).count r.page 4 none (if pktBulk p then p.body.length else 0)
      else if r.pop = 10 then s.count r.page 3 (some r.ctx) else s
    s.launch r.die e.peer p

/-! ## Queue pairs: errors, and the answers to inbound RDMA requests (R394, R396, R397) -/

def State.qp (s : State) (n : Nat) : Qp := Tab.get {} s.host.qps n
def State.modQp (s : State) (n : Nat) (f : Qp → Qp) : State := s.modHost fun h => { h with qps := Tab.mod {} h.qps n f }

/-- The packets that carry n bytes at a path MTU: at least one (R394). -/
def packetsOf (mtu n : Nat) : Nat := max 1 ((n + max 1 mtu - 1) / max 1 mtu)

/-- The packets of one RoCEv2 message that the device sends. -/
def rocePackets (mtu : Nat) : Out → Nat
  | .rdmaWrite _ _ _ d => packetsOf mtu d.length
  | .rdmaData _ d => packetsOf mtu d.length
  | _ => 1

/-- RoCEv2 packets are sent on a port: HEN counters 1 and 8. -/
def State.roceOut (s : State) (q k : Nat) : State := (s.count (henPage q) 8 none k).count (henPage q) 1 none k

/-- An answer leaves on a QP's port; HEN counter 9 counts a NAK. -/
def State.qpSay (s : State) (n : Nat) (o : Out) : State :=
  let q := s.qp n
  let s := (s.send o).roceOut q.port (rocePackets q.mtu o)
  match o with
  | .rdmaNak _ _ => s.count (henPage q.port) 9
  | _ => s

/-- A QP enters ERROR (R397): every descriptor outstanding on it is refused with 0x022, reported on the LDE and STE pages, and a
QP error record is queued. -/
def State.qpError (s : State) (n syndrome : Nat) : State :=
  let q := s.qp n
  if !q.there || q.error then s
  else
    let s := ((s.modQp n fun q => { q with error := true, ops := [] }).count (henPage q.port) 11).event (henPage q.port) 6
    let s := q.ops.foldl (fun s o => s.modTileOf q.ctx o.t (mapFlight o.flight fun f =>
      { (f.meet ⟨2, 0x022⟩) with refused := true, left := f.left - 1, unsent := f.unsent - flag (!o.sent) })) s
    let s := (firsts (q.ops.map fun o => (o.t * 2 + flag o.read) * 2 ^ 64 + o.flight) []).foldl (fun s k =>
      s.contained (engPage (k / 2 ^ 65) (if k / 2 ^ 64 % 2 = 1 then .lde else .ste)) 0x022 (some q.ctx)) s
    s.queueRec (2048 + 8 * q.ctx + 2) 3 0 [BitVec.ofNat 64 (n % 2 ^ 24 + syndrome % 256 * 2 ^ 24), 0, 0, 0]

/-- NAK syndromes of the InfiniBand AETH. -/
def nakInvalid : Nat := 0x61
def nakAccess : Nat := 0x62
def nakRnr : Nat := 0x20

/-- Answers leave in the order of their requests: the first of each QP that is due (R394: RC). -/
def State.answerRdma : Nat → State → State
  | 0, s => s
  | k + 1, s =>
    match s.host.inbound.find? fun x => decide (x.left = 0) && !(s.host.inbound.takeWhile fun y => decide (y.id ≠ x.id)).any fun y => decide (y.qpn = x.qpn) with
    | none => s
    | some x =>
      let s := s.modHost fun h => { h with inbound := h.inbound.filter fun y => decide (y.id ≠ x.id) }
      let s := if (s.qp x.qpn).error then s
        else match x.answer with
          | 0 => s.qpSay x.qpn (.rdmaAck x.qpn)
          | 1 => s.qpSay x.qpn (.rdmaData x.qpn (getBytes x.got 0 x.len))
          | 2 => (s.qpSay x.qpn (.rdmaNak x.qpn nakAccess)).qpError x.qpn nakAccess
          | 3 => (s.qpSay x.qpn (.rdmaNak x.qpn nakInvalid)).qpError x.qpn nakInvalid
          | _ => s.qpSay x.qpn (.rdmaNak x.qpn nakRnr)
      State.answerRdma k s

def State.answersDue (s : State) : State := State.answerRdma s.host.inbound.length s

/-! ## Final answers (R272, R288) -/

/-- What a unit has gathered, with the data of one more answer. -/
def gotBy (r : Req) (got : Tab Byte) (data : List Byte) : Tab Byte := match r.dest with | .buf pa => putBytes got pa data | _ => got

/-- What the owner of a request makes of its end: refused or not, the error met, the data of a GET. -/
def State.ownerEnd (s : State) (r : Req) (refused : Bool) (m : Met) (data : List Byte) : State :=
  match r.owner with
  | .tile t id =>
    s.modTileOf r.ctx t (mapFlight id fun f =>
      let f := { (f.meet m) with left := f.left - 1, refused := f.refused || refused }
      if refused then f
      else match r.dest with
        | .store _ a => { f with writes := f.writes ++ [{ rf := false, addr := a, data := data }] }
        | .rf _ a => { f with writes := f.writes ++ [{ rf := true, addr := a, data := data }] }
        | .buf pa => { f with got := putBytes f.got pa data }
        | _ => f)
  | .upe st =>
    s.modUpe fun u => { u with run := Tab.mod none u.run st fun x => x.map fun j =>
      { j with left := j.left - 1
               got := gotBy r j.got data
               status := if refused then 2 else j.status
               sev := max j.sev m.sev, code := if j.sev < m.sev then m.code else j.code } }
  | .sbd =>
    { s with sbd := { s.sbd with running := s.sbd.running.map fun j =>
      { j with left := j.left - 1
               got := gotBy r j.got data
               code := if refused then 0x081 else j.code } } }
  | .rdma id =>
    (s.modHost fun h => { h with inbound := h.inbound.map fun x =>
      if x.id = id then { x with left := x.left - 1, got := gotBy r x.got data, answer := if refused then 2 else x.answer } else x }).answersDue
  | .mirror c k =>
    let left := Tab.get 0 s.upe.mirrorLeft (c * 65536 + k) - 1
    let s := s.modUpe fun u => { u with mirrorLeft := Tab.set 0 u.mirrorLeft (c * 65536 + k) left }
    let bad := (s.commit c).resend.contains k
    if refused then
      (if bad then s
       else (s.modCommit c fun x => { x with mirrorBad := x.mirrorBad || decide (r.tag = 0), resend := x.resend ++ [k] }).stepFatal burPage 0x154 (some c))
    else if left = 0 ∧ r.tag = 0 ∧ !bad then s.modUpe fun u => { u with mirrorDone := u.mirrorDone ++ [(c, k)] }
    else s
  | .restore c =>
    (match r.dest with
     | .mem _ va =>
       if refused then s.modCommit c fun x => { x with lost := true }
       else
         let s := (s.storeVirt r.die c va data 0).2
         let s := s.modBur fun b => { b with damaged := b.damaged.filter fun d => !(decide (d.1 = c) && decide (d.2.1 = va)) }
         (s.event burPage 26).count burPage 5
     | _ => s)
  | .handover => s
  | .bureau =>
    let kind := r.tag % 256
    let c := r.tag / 256 % 256
    if kind = 0x11 then                      -- DLOG: what it withheld goes now (R353)
      let n := r.tag / 65536
      let go := (s.commit c).dlogWait.filter fun w => decide (w.1 = n)
      let s := s.modCommit c fun x => { x with dlogWait := x.dlogWait.filter fun w => decide (w.1 ≠ n) }
      go.foldl (fun s w => if w.2.1 = ownWay then s.modBur fun b => { b with own := b.own ++ [(c, w.2.2)] } else s.request
        { flow := w.2.1, seq := 0, pop := 13, ctx := c, owner := .bureau, mgmt := true, arg := w.2.2, page := burPage, die := 3,
          tag := (w.2.2.headD 0).toNat + 256 * c }) s
    else if kind = 0x07 ∧ refused then s.stepFatal burPage 0x156 (some c)      -- R362
    else s
  | .cle st c q =>
    let (ok, s) := match r.dest with
      | .mem _ va => if refused then (true, s) else s.storeVirt r.die c va data 0
      | _ => (true, s)
    s.modCle fun u => { u with runs := u.runs.map fun j =>
      if j.stack = st ∧ j.ctx = c ∧ j.q = q then
        { j with left := j.left - 1
                 got := gotBy r j.got data
                 status := if refused || !ok then 2 else j.status
                 sev := max j.sev (if ok then m.sev else 2)
                 code := if j.sev < m.sev then m.code else if !ok && decide (j.sev < 2) then 0x0B1 else j.code }
      else j }

/-- SEND_LOW follows the oldest request that has no answer yet. -/
def State.sendLow (s : State) (f : Nat) : State :=
  s.modFlow f fun e =>
    let out := (s.fab.reqs.filter fun r => decide (r.flow = f) && !r.waiting).map Req.seq
    { e with w1 := putBits e.w1 32 32 (out.foldl min e.next) }

/-- The captured counts that a COMPLETED value has reached: (COMPLETED − captured) mod 2^32 < 2^31 (R289). -/
def reached (completed captured : Nat) : Bool := decide ((completed + 2 ^ 32 - captured) % 2 ^ 32 < 2 ^ 31)

/-- One flight's fence and flag after an answer (R289, R290): a fence that is reached ends; a flag that is due is requested,
or dropped when the descriptor's own data were refused. -/
def State.settleFlight (s : State) (c t : Nat) (f : Flight) : State :=
  let s := match f.waitFor with
    | none => s
    | some (all, fl, cap) =>
      let done := if all then (Tab.get 0 s.fab.doneAll c).toNat else (s.flowNow fl).completed
      if reached done cap then s.modTileOf c t (mapFlight f.id fun f => { f with waitFor := none }) else s
  match f.flag with
  | none => s
  | some (fl, w, cap) =>
    if f.refused && decide (f.left = 0) then s.modTileOf c t (mapFlight f.id fun f => { f with flag := none })
    else match cap with
      | none => s
      | some n =>
        if f.left = 0 ∧ reached (s.flowNow fl).completed n then
          (s.modTileOf c t (mapFlight f.id fun f => { f with flag := none, left := 1, unsent := 1 })).request
            { flow := fl, seq := 0, pop := 6, ctx := c, owner := .tile t f.id, w2 := w, arg := toBytes 8 w.toNat ++ toBytes 4 1,
              page := engPage t .xce, die := tileDie t }
        else s

/-- Fences and flags of every tile, resident and saved. -/
def State.settle (s : State) : State :=
  let here := s.tiles.flatMap fun e => match s.ctxOf e.1 with
    | none => []
    | some c => (e.2.flights.filter fun f => f.waitFor.isSome || f.flag.isSome).map fun f => (c, e.1, f)
  let away := s.key.saved.flatMap fun e =>
    (e.2.flights.filter fun f => f.waitFor.isSome || f.flag.isSome).map fun f => (e.1 / 192, e.1 % 192, f)
  (here ++ away).foldl (fun s x => s.settleFlight x.1 x.2.1 x.2.2) s

/-- The error of a request's end on its block's page. -/
def State.reqError (s : State) (r : Req) (sev code : Nat) : State := s.raise r.page sev code r.ctxOpt

/-- The count word of a FETCH record is set when its last GET has landed (R306). -/
def State.fetchMark (s : State) (r : Req) (refused : Bool) : State :=
  match r.owner, r.dest with
  | .cle st c q, .mem _ _ =>
    if refused || r.tag = 0 || (s.fab.reqs.any fun x => decide (x.owner = r.owner) && decide (x.tag = r.tag))
        || (s.fab.unsent.any fun x => decide (x.req.owner = r.owner) && decide (x.req.tag = r.tag)) then s
    else match s.cle.runs.find? fun j => decide (j.stack = st ∧ j.ctx = c ∧ j.q = q) with
      | some j => if j.status = 2 then s else (s.countSet st c ((j.words.getD 9 0).toNat + 4 * (r.tag - 1)) 1).2
      | none => s
  | _, _ => s

/-- The XCE descriptor of a finally answered request keeps the longest delay that a resend added to one of its packets (R277). -/
def State.noteDelay (s : State) (r : Req) : State :=
  match r.owner, r.delayFrom with
  | .tile t id, some since =>
    if isXce r.page then s.modTileOf r.ctx t (mapFlight id fun f => { f with delay := max f.delay (s.time - since) }) else s
  | _, _ => s

/-- A request that has taken its SEQ gets its final answer (R288): code 0 is success. -/
def State.finalReq (s : State) (r : Req) (sev code : Nat) (data : List Byte) : State :=
  let refused := decide (code ≠ 0)
  let s := s.modFab fun f => { f with reqs := f.reqs.filter (fun x => !(decide (x.flow = r.flow) && decide (x.seq = r.seq)))
                                      doneAll := if r.mgmt then f.doneAll else Tab.mod 0 f.doneAll r.ctx (· + 1) }
  let s := (s.sendLow r.flow).modFlow r.flow fun e => { e with w2 := putBits e.w2 0 32 (e.completed + 1) }
  let s := if code = 0 ∧ r.resend ≠ 0 then s.reqError r 1 0x091 else s
  let s := if refused then s.reqError r sev code else s
  let m : Met := if refused then ⟨sev, code⟩ else if r.resend ≠ 0 then ⟨1, 0x091⟩ else {}
  (((s.noteDelay r).ownerEnd r refused m data).fetchMark r refused).settle

/-! ## Sending (R272) -/

/-- A request takes its SEQ and its packet leaves; without a key it is refused with code 0x096 (R274). -/
def State.sendReq (s : State) (i : Nat) : State :=
  match s.fab.unsent[i]? with
  | none => s
  | some u =>
    let r := u.req
    let s := s.modFab fun f => { f with unsent := f.unsent.eraseIdx i }
    let issued (s : State) : State := match r.owner with
      | .tile t id => s.modTileOf r.ctx t (mapFlight id fun f => { f with unsent := f.unsent - 1 })
      | _ => s
    match s.cached r.flow with
    | none => s
    | some e =>
      if (s.keyOf e).isNone then
        (((issued s).reqError r 2 0x096).ownerEnd r true ⟨2, 0x096⟩ []).settle
      else
        let r := { r with seq := e.next, resend := 0, parts := [], sentAt := s.time, firstAt := s.time, delayFrom := none, waiting := false }
        let e := { e with w1 := putBits e.w1 0 32 (e.next + 1), w2 := if u.again then e.w2 else putBits e.w2 32 32 (e.issued + 1) }
        let s := s.setFlow r.flow e
        let s := s.modFab fun f =>
          { f with reqs := f.reqs ++ [r], worn := if r.seq = 0xFFFFFFFF then f.worn ++ [r.flow] else f.worn
                   issuedAll := if u.again || r.mgmt then f.issuedAll else Tab.mod 0 f.issuedAll r.ctx (· + 1) }
        let s := issued s
        let s := match r.owner with
          | .tile t id =>
            (s.modTileOf r.ctx t (mapFlight id fun f => match f.flag with
              | some (fl, w, none) => if f.unsent = 0 then { f with flag := some (fl, w, some e.issued) } else f
              | _ => f)).modTile t fun ti => { ti with lastFlow := r.flow }
          | _ => s
        s.transmit e r

/-- Every request that can go goes; `n` bounds their number. -/
def State.pumpN : Nat → State → State
  | 0, s => s
  | n + 1, s =>
    match s.nextSend with
    | none => s
    | some i => State.pumpN n (s.sendReq i)

def State.pump (s : State) : State := State.pumpN (s.fab.unsent.length + 1) s

/-- A final answer, and the requests that it lets go. -/
def State.endReq (s : State) (r : Req) (sev code : Nat) (data : List Byte) : State := (s.finalReq r sev code data).pump

/-- A resend under the same SEQ, or giving up (R272); `since` is from when it delays the packet (R277). -/
def State.resend (s : State) (r : Req) (since : Nat) : State :=
  match s.cached r.flow with
  | none => s
  | some e =>
    if e.resendMax ≤ r.resend then
      let s := if isXce r.page then (s.count r.page 11).event r.page 5 else s
      s.endReq r 3 0x093 []
    else
      let r := { r with resend := r.resend + 1, parts := [], sentAt := s.time, delayFrom := some since }
      let e := { e with w6 := putBits e.w6 0 32 (min 0xFFFFFFFF (bits e.w6 0 32 + 1)) }
      let s := (s.setFlow r.flow e).modFab fun f =>
        { f with reqs := f.reqs.map fun x => if x.flow = r.flow ∧ x.seq = r.seq then r else x }
      let s := if isXce r.page then s.count r.page 5 else s
      s.transmit e r

/-- A request NACKed as quiescing is issued again under a new SEQ (R272, R273). -/
def State.reissue (s : State) (r : Req) : State :=
  let s := s.modFab fun f =>
    { f with reqs := f.reqs.filter (fun x => !(decide (x.flow = r.flow) && decide (x.seq = r.seq))), unsent := f.unsent ++ [{ req := r, again := true }] }
  match r.owner with
  | .tile t id => (s.modTileOf r.ctx t (mapFlight id fun f => { f with unsent := f.unsent + 1 })).pump
  | _ => s.pump

/-- RESEND_TIMEOUT: 2^TIMEOUT_EXP µs without an answer (R272): a resend, or a re-issue of a request that waits for READY. -/
def execResendTimeout (flow : BitVec 20) (seq : BitVec 32) (s : State) : Host.Outcome State Fault Refusal :=
  if !s.awake then .next s else
  match s.fab.reqs.find? fun r => decide (r.flow = flow.toNat ∧ r.seq = seq.toNat), s.cached flow.toNat with
  | some r, some e =>
    if !s.awake || decide (s.time < r.sentAt + e.timeoutNs) then .next s
    else if r.waiting then .next (s.reissue r)
    else .next (s.resend r r.firstAt)
  | _, _ => .next s

/-! ## Answers at the source (R272, R286) -/

/-- The first delivered packet of a POP whose flow entry is cached, and the state without it; a delivered packet of that
POP whose entry is not cached asks for it (R22). -/
def State.takePkt (s : State) (pop : Nat) : Option (Inbound × Flow) × State :=
  if !s.awake then (none, s)
  else match s.fab.inbound.findIdx? fun x => decide (pktPop x.pkt = pop) && (s.cached (pktFlow x.pkt)).isSome with
  | some i =>
    (match s.fab.inbound[i]? with
     | some x => (match s.cached (pktFlow x.pkt) with
        | some e => (some (x, e), s.modFab fun f => { f with inbound := f.inbound.eraseIdx i })
        | none => (none, s))
     | none => (none, s))
  | none =>
    (match s.fab.inbound.find? fun x => decide (pktPop x.pkt = pop) && !s.fab.missing.contains (pktFlow x.pkt) with
     | some x => (none, s.modFab fun f => { f with missing := f.missing ++ [pktFlow x.pkt] })
     | none => (none, s))

/-- An answer opened at its source: CRC and tag must hold, else it is taken as lost. -/
def State.openAnswer (s : State) (e : Flow) (p : Packet) : Option Opened :=
  if pktCrc p ≠ pktSentCrc p then none
  else match s.keyOf e with
    | none => none
    | some k => openAs k p (if pktBulk p then bits p.w3 48 13 else s.ownLc) (if pktBulk p then bits p.w3 32 16 else e.gen)

/-- An answer that matches no outstanding packet, or carries an old epoch, is dropped and counted (R272). -/
def State.stale (s : State) (page : Option Nat) : State :=
  match page with
  | some n => if isXce n then s.count n 12 else s
  | none => s

/-- The request that SEQ of a flow names, as far as an answer's RESEND and EPOCH match. -/
def State.matching (s : State) (p : Packet) : Option Req :=
  s.fab.reqs.find? fun r => decide (r.flow = pktFlow p ∧ r.seq = pktSeq p ∧ r.resend = pktResend p) && !r.waiting
    && decide (pktEpoch p = (s.page r.page).epoch.toNat % 2 ^ 12)

/-- The page of the request an answer names, matched or not. -/
def State.reqPage (s : State) (p : Packet) : Option Nat :=
  (s.fab.reqs.find? fun r => decide (r.flow = pktFlow p ∧ r.seq = pktSeq p)).map Req.page

/-- POP_DATA: one part of a GET's reply (R286). -/
def execPopData (s : State) : Host.Outcome State Fault Refusal :=
  match s.takePkt 3 with
  | (none, s) => .next s
  | (some (x, e), s) =>
    let p := x.pkt
    match s.openAnswer e p, s.matching p with
    | none, _ => .next s
    | some _, none => .next (s.stale (s.reqPage p))
    | some o, some r =>
      let n := (32 * (r.len + 1) + 8191) / 8192
      if r.pop ≠ 2 ∨ n ≤ pktPart p then .next (s.stale (some r.page))
      else
        let s := s.count (keyPage x.die) 5 r.ctxOpt
        let parts := Tab.set [] r.parts (pktPart p) o.data
        if parts.length < n then
          .next (s.modFab fun f => { f with reqs := f.reqs.map fun q => if q.flow = r.flow ∧ q.seq = r.seq then { q with parts := parts } else q })
        else .next (s.endReq r 0 0 ((List.range n).flatMap fun i => Tab.get [] parts i))

/-- POP_ACK: SEQ, and every SEQ + 1 + i of its map, completes (R266, R272). -/
def execPopAck (s : State) : Host.Outcome State Fault Refusal :=
  match s.takePkt 8 with
  | (none, s) => .next s
  | (some (x, e), s) =>
    let p := x.pkt
    match s.openAnswer e p with
    | none => .next s
    | some o =>
      let s := s.count (keyPage x.die) 5 (some e.ctx)
      let s := match s.matching p with
        | some r => if r.pop = 2 then s.stale (some r.page) else s.endReq r 0 0 []
        | none => s.stale (s.reqPage p)
      let map := ofBytes (o.data.take 8)
      let more := (List.range 64).filter fun i => decide (map / 2 ^ i % 2 = 1)
      .next (more.foldl (fun s i =>
        match s.fab.reqs.find? fun r => decide (r.flow = pktFlow p ∧ r.seq = pktSeq p + 1 + i ∧ r.pop ≠ 2) && !r.waiting
            && decide (pktEpoch p = (s.page r.page).epoch.toNat % 2 ^ 12) with
        | some r => s.endReq r 0 0 []
        | none => s) s)

/-- POP_NACK: by its reason a resend, a wait for READY, or a refusal (R272). -/
def execPopNack (s : State) : Host.Outcome State Fault Refusal :=
  match s.takePkt 9 with
  | (none, s) => .next s
  | (some (x, e), s) =>
    let p := x.pkt
    match s.openAnswer e p, s.matching p with
    | none, _ => .next s
    | some _, none => .next (s.stale (s.reqPage p))
    | some o, some r =>
      let s := s.count (keyPage x.die) 5 r.ctxOpt
      let reason := (o.data.getD 0 0).toNat
      let reason := if 4 < reason then 2 else reason
      let s := if isXce r.page then s.count r.page (6 + reason) else s
      match reason with
      | 0 => .next (s.resend r (r.delayFrom.getD s.time))
      | 1 =>
        let s := s.modFab fun f => { f with reqs := f.reqs.map fun q => if q.flow = r.flow ∧ q.seq = r.seq then { q with waiting := true, sentAt := s.time } else q }
        .next ((s.sendLow r.flow).pump)
      | 2 => .next (s.endReq r 2 0x092 [])
      | 3 => .next ((if isXce r.page then s.event r.page 7 else s).endReq r 2 0x096 [])
      | _ => .next (s.endReq r 2 0x095 [])

/-- POP_READY: requests of the flow that were NACKed as quiescing are issued again (R273). -/
def execPopReady (s : State) : Host.Outcome State Fault Refusal :=
  match s.takePkt 14 with
  | (none, s) => .next s
  | (some (x, e), s) =>
    let p := x.pkt
    let ok := decide (pktCrc p = pktSentCrc p) && (match s.keyOf e with
      | none => false
      | some k => (openAs k p e.peer e.gen).isSome)
    if !ok then .next s
    else .next ((s.fab.reqs.filter fun r => decide (r.flow = pktFlow p) && r.waiting).foldl State.reissue s)

/-! ## Misses, evictions and invalidation (R22, R23, R275, R276) -/

/-- The cached entries of a die. -/
def State.dieFlows (s : State) (die : Nat) : List (Nat × Option Flow) := s.fab.cache.filter fun e => decide (e.1 % 4 = die)

/-- FLOW_FILL: the read of a missing entry returns (R22); a full die evicts an unpinned entry, and holds the miss when all are
pinned (R23). An uncorrectable entry stays held with code 0x0F0. -/
def execFlowFill (flow : BitVec 20) (ecc : Ecc) (s : State) : Host.Outcome State Fault Refusal :=
  let f := flow.toNat
  let pg := fltPage (f % 4)
  if !s.awake || !s.fab.missing.contains f then .next s
  else
    match ecc with
    | .uncorrectable _ => .next ((s.eccMem none ecc).2.stepFatal pg 0x0F0)
    | _ =>
      let s := (s.eccMem none ecc).2
      let mine := s.dieFlows (f % 4)
      let full := decide (16384 ≤ mine.length)
      let free := mine.filter fun e => match e.2 with | some x => !x.pinned | none => false
      if full && free.isEmpty then .next ((s.event pg 5).count pg 4)
      else
        let s := if full then
            let (d, s) := s.draw
            match free[Config.fltVictim d % free.length]? with
            | some v => (s.dropFlow v.1).count pg 3
            | none => s
          else s
        let (b, s) := s.memRead none (s.flowAddr f) 64 0 true
        let e := flowOfWords (wordsOf 8 b)
        let s := (s.setFlow f e).modFab fun x => { x with missing := x.missing.filter fun g => decide (g ≠ f) }
        .next ((s.count pg 1 (some e.ctx)).pump)

/-- The cached entries that an invalidation names. -/
def State.namedFlows (s : State) (x : Option Nat × Nat) : List (Nat × Flow) :=
  s.fab.cache.filterMap fun e => match e.2 with
    | none => none
    | some w => (match x.1 with
      | some f => if e.1 = f then some (e.1, w) else none
      | none => if w.ctx = x.2 then some (e.1, w) else none)

/-- INVAL_DONE: every named entry is unpinned, written back and dropped (R276). -/
def execInvalDone (s : State) : Host.Outcome State Fault Refusal :=
  if !s.awake then .next s else
  match s.fab.invalid with
  | none => .next s
  | some x =>
    let es := s.namedFlows x
    if es.any fun e => e.2.pinned then .next s
    else
      let s := es.foldl (fun s e => s.dropFlow e.1) s
      .next (((s.modFab fun f => { f with invalid := none }).event (fltPage 0) 4).drained (fltPage 0))

/-- FAB_BUDGET_PERIOD: a 100 µs period of package time ends (R330). -/
def execFabBudgetPeriod (s : State) : Host.Outcome State Fault Refusal :=
  if !s.awake then .next s else .next (s.modFab fun f => { f with spent := [] })

/-! ## Tray memory (R281) -/

/-- The flow of a context to tray member m. -/
def State.trayFlow (s : State) (c m : Nat) : Nat := bits (s.desc c).w3 0 20 / 4 * 4 + m

/-- The tray flow serves an access: valid, of the context, to the member, with sequence space left. -/
def State.trayOk (s : State) (c m : Nat) : Bool :=
  let f := s.trayFlow c m
  let e := s.flowNow f
  e.valid && !e.mgmt && decide (e.ctx = c) && decide (e.peer = s.ownLc / 4 * 4 + m) && !s.fab.worn.contains f

/-- GET requests that cover n bytes of a member's memory from offset a: at most 2 MiB each (R282). -/
def trayGets : Nat → Nat → Nat → List (Nat × Nat)
  | 0, _, _ => []
  | k + 1, a, n => if n = 0 then [] else (a, min n (2 ^ 21)) :: trayGets k (a + min n (2 ^ 21)) (n - min n (2 ^ 21))

/-- Requests split at 8 KiB boundaries of the remote address (R282). -/
def trayPuts : Nat → Nat → List Byte → List (Nat × List Byte)
  | 0, _, _ => []
  | k + 1, a, d =>
    let m := 8192 - a % 8192
    if d.isEmpty then [] else (a, d.take m) :: trayPuts k (a + m) (d.drop m)

/-- A read of tray memory for a unit, its data to be gathered by physical address. -/
def State.trayRead (s : State) (c : Nat) (o : Owner) (page die tag m off n : Nat) (dest : Nat → Dest) : Nat × State :=
  let gs := trayGets (n / 2 ^ 21 + 2) off n
  (gs.length, gs.foldl (fun s g => s.request
    { flow := s.trayFlow c m, seq := 0, pop := 2, ctx := c, owner := o, w2 := BitVec.ofNat 64 (g.1 % 2 ^ 48), len := (g.2 + 31) / 32 - 1,
      dest := dest (g.1 - off), page := page, die := die, tag := tag }) s)

/-- The tray-window address of a member's offset (R239). -/
def trayPa (m off : Nat) : Nat := 0x020000000000 + m * 0x010000000000 + off

/-- Tray line cache lines are keyed by die, context and line (R291). -/
def tlcKey (die c pa : Nat) : Nat := (die * 256 + c) * 2 ^ 40 + pa / 256

/-- Lines of a tray range leave all four tray line caches (R291). -/
def State.dropTlc (s : State) (pa n : Nat) : State :=
  s.modMem fun m => { m with tlc := m.tlc.filter fun e => !(decide (pa / 256 ≤ e.1 % 2 ^ 40) && decide (e.1 % 2 ^ 40 * 256 < pa + n)) }

/-- A write of tray memory for a unit: the lines leave all four tray line caches first (R291). -/
def State.trayWrite (s : State) (c : Nat) (o : Owner) (page die tag m off : Nat) (d : List Byte) : Nat × State :=
  let ps := trayPuts (d.length / 8192 + 2) off d
  (ps.length, ps.foldl (fun s g => s.request
    { flow := s.trayFlow c m, seq := 0, pop := 1, ctx := c, owner := o, w2 := BitVec.ofNat 64 (g.1 % 2 ^ 48), arg := g.2, page := page, die := die,
      tag := tag }) (s.dropTlc (trayPa m off) d.length))

end Sys2Proof.Machine
end

