-- ==== Sys2Proof/Machine/Target.lean ====
section
/-! DEFINITION. The target of a request: the checks of R273, deduplication and recorded replies (R293, R294), and what each
operation does (R278, R284 to R286, R290, R292, R297). -/

namespace Sys2Proof.Machine

/-! ## Answers -/

/-- An answer to a request leaves, with the request's SEQ, RESEND and EPOCH (R272, R294); without a key none can be sealed. -/
def State.answer (s : State) (x : Inbound) (e : Flow) (pop owner part : Nat) (data arg : List Byte) : State :=
  match s.keyOf e with
  | none => s
  | some k =>
    let p := x.pkt
    let a := s.build k { pop := pop, reply := true, flow := pktFlow p, fgen := e.gen, seq := pktSeq p, resend := pktResend p, part := part,
                         epoch := pktEpoch p, owner := owner, target := owner, data := data, arg := arg }
    (s.count (keyPage x.die) 4 (some e.ctx)).launch x.die owner a

def State.ack (s : State) (x : Inbound) (e : Flow) (owner : Nat) : State := s.answer x e 8 owner 0 [] []
/-- A NACK with its reason (R272), counted on the FLT page. -/
def State.nack (s : State) (x : Inbound) (e : Flow) (owner reason : Nat) : State :=
  (s.count (fltPage (pktFlow x.pkt % 4)) (5 + reason) (some e.ctx)).answer x e 9 owner 0 [] [BitVec.ofNat 8 reason]
/-- The DATA parts of a GET (R266): one for each 8 KiB. -/
def State.dataParts (s : State) (x : Inbound) (e : Flow) (owner : Nat) (d : List Byte) : State :=
  (List.range ((d.length + 8191) / 8192)).foldl (fun s i => s.answer x e 3 owner i ((d.drop (8192 * i)).take 8192) []) s

/-! ## The reply area (R293) -/

def slotAddr (e : Flow) (seq : Nat) : Nat := e.replyArea + 8 * (seq % 64)

/-- Bits of RECV_MAP shifted down past each run of set low bits, with RECV_BASE (R275). -/
def advance : Nat → Nat → Nat → Nat × Nat
  | 0, base, map => (base, map)
  | n + 1, base, map => if map % 2 = 1 then advance n (base + 1) (map / 2) else (base, map)

/-- A request's reply is recorded, in the same action that applies it (R293). KIND 1 ACK, 2 NACK, 3 READ. -/
def State.record (s : State) (f seq kind reason : Nat) (applied : Bool) : State :=
  match s.cached f with
  | none => s
  | some e =>
    let s := s.memWrite none (slotAddr e seq) (toBytes 8 (seq + kind * 2 ^ 32 + reason * 2 ^ 34)) 0 true
    let map := e.w4.toNat ||| 2 ^ (seq - e.recvBase)
    let (base, map) := advance 64 e.recvBase map
    let w3 := putBits e.w3 0 32 base
    let w3 := if applied then putBits w3 32 32 (bits e.w3 32 32 + 1) else w3
    s.setFlow f { e with w3 := w3, w4 := BitVec.ofNat 64 map }

/-! ## The checks of R273 -/

/-- What the checks leave to do. -/
inductive Checked where
  | done                    -- answered, or dropped
  | again (o : Opened)      -- a duplicate of a GET, to be read again
  | fresh (o : Opened)      -- new, to be applied
  | waitCopy                -- a copy of the same SEQ is being applied (R294)
  deriving DecidableEq, Repr

/-- The candidate owners of a cell's request: the entry's PEER, and this package where PEER is the coordinate it has taken
over (R273). -/
def State.owners (s : State) (e : Flow) : List Nat :=
  e.peer :: (if s.takenLc = some e.peer then [s.ownLc] else [])

/-- Step 2 of R273 for a bulk packet, whose header names OWNER, FGEN and TSEL. -/
def State.flowMatch (s : State) (p : Packet) (e : Flow) : Bool :=
  e.valid && (!pktBulk p ||
    (decide (bits p.w3 32 16 = e.gen) && (!p.w3.getLsbD 61 || s.takenLc.isSome)
      && (decide (bits p.w3 48 13 = e.peer) || (p.w3.getLsbD 61 && decide (s.takenLc = some e.peer)))))

/-- Step 3: the packet opened. -/
def State.openReq (s : State) (p : Packet) (e : Flow) : Option Opened :=
  match s.keyOf e with
  | none => none
  | some k =>
    if pktBulk p then openAs k p (bits p.w3 48 13) e.gen
    else (s.owners e).findSome? fun o => openAs k p o e.gen

/-- Steps 1 to 4 of R273 on a request, with the duplicates of R294. -/
def State.checkReq (s : State) (x : Inbound) (e : Flow) : Checked × State :=
  let p := x.pkt
  let f := pktFlow p
  let seq := pktSeq p
  let owner := if pktBulk p then bits p.w3 48 13 else e.peer
  if pktCrc p ≠ pktSentCrc p then (.done, s.nack x e owner 0)
  else if !s.flowMatch p e then (.done, s.nack x e owner 4)
  else match s.openReq p e with
    | none =>
      let s := (s.contained (fltPage (f % 4)) 0x0F1 (some e.ctx)).count (keyPage x.die) 6 (some e.ctx)
      (.done, s.nack x e owner 3)
    | some o =>
      let s := s.count (keyPage x.die) 5 (some e.ctx)
      if o.tsel && s.takenLc.isNone then (.done, s.nack x e o.owner 4)
      else if e.replyArea = 0 then (.done, s.nack x e o.owner 2)
      else if e.recvBase + 64 ≤ seq then (.done, s.nack x e o.owner 2)
      else if (s.fab.combine.any fun c => decide (c.flow = f) && decide (pktSeq c.pkt = seq)) then (.waitCopy, s)
      else if seq < e.recvBase ∨ e.w4.getLsbD (seq - e.recvBase) then
        let w := s.peekWord (slotAddr e seq)
        let s := s.count (fltPage (f % 4)) 10
        if bits w 0 32 ≠ seq then (.done, s.ack x e o.owner)
        else match bits w 32 2 with
          | 2 => (.done, s.nack x e o.owner (bits w 34 8))
          | 3 => (.again o, s)
          | _ => (.done, s.ack x e o.owner)
      else (.fresh o, s)

/-- Step 5: the first of some blocks that does not admit; the request is recorded as NACKed QUIESCING, and its flow gets
READY when that block reports ready (R41, R273). -/
def State.quiesceCheck (s : State) (x : Inbound) (e : Flow) (owner : Nat) (pages : List Nat) : Option State :=
  match pages.find? fun n => !s.admits n with
  | none => none
  | some n =>
    let f := pktFlow x.pkt
    let s := s.modPage n fun p => { p with readyFlows := if p.readyFlows.contains f then p.readyFlows else p.readyFlows ++ [f] }
    some ((s.record f (pktSeq x.pkt) 2 1 false).nack x e owner 1)

/-- A request refused by its operation: recorded and answered (R284). -/
def State.refuseReq (s : State) (x : Inbound) (e : Flow) (owner : Nat) : State :=
  (s.record (pktFlow x.pkt) (pktSeq x.pkt) 2 2 false).nack x e owner 2
/-- A request applied: recorded and acknowledged. -/
def State.acceptReq (s : State) (x : Inbound) (e : Flow) (owner : Nat) : State :=
  (s.record (pktFlow x.pkt) (pktSeq x.pkt) 1 0 true).ack x e owner

/-- READY cells on every flow that a block's quiesce NACKed (R273). -/
def State.sendReady (s : State) (n : Nat) : State :=
  let fs := (s.page n).readyFlows
  let s := s.modPage n fun p => { p with readyFlows := [] }
  fs.foldl (fun s f =>
    let e := s.flowNow f
    match s.keyOf e with
    | none => s
    | some k => s.launch 0 e.peer (s.build k { pop := 14, flow := f, fgen := e.gen, owner := s.ownLc, target := e.peer })) s

/-! ## The target's memory -/

/-- The die that walks for a request: its port's, or its own unit's on a loopback flow (R243). -/
def Opened.va (o : Opened) : Nat := bits o.w2 0 48
def Opened.space (o : Opened) : Bool := o.w2.getLsbD 48

/-- The local pieces of a request's extent, when all of it translates and its stacks are on (R284, R256). -/
def State.targetSegs (s : State) (die : Nat) (e : Flow) (va n : Nat) (write : Bool) : Option (List (Nat × Nat × Bool)) × State :=
  match s.translateLocal die (some e.ctx) va n write with
  | (none, s) => (none, s)
  | (some segs, s) =>
    match s.homeOff (segs.map fun g => g.1) with
    | some h => (none, s.refuseOff h (some e.ctx))
    | none => (some segs, s)

/-- The blocks whose quiesce holds a request off: the router slice, the flow table slice and the homes (R41, R256, R273). -/
def reqPages (x : Inbound) (segs : List (Nat × Nat × Bool)) : List Nat :=
  [rtrPage x.die, fltPage (pktFlow x.pkt % 4)] ++ segs.map fun g => hmcPage (homeOf g.1)

/-- Bytes written over pieces, in order. -/
def State.writeSegs (s : State) (ctx : Option Nat) (hint : Nat) (segs : List (Nat × Nat × Bool)) (d : List Byte) : State :=
  (segs.foldl (fun (r : State × List Byte) g => (r.1.memWrite ctx g.1 (r.2.take g.2.1) hint (!g.2.2), r.2.drop g.2.1)) (s, d)).1

/-- Bytes read over pieces, in order. -/
def State.readSegs (s : State) (ctx : Option Nat) (hint : Nat) (segs : List (Nat × Nat × Bool)) : List Byte × State :=
  segs.foldl (fun (r : List Byte × State) g =>
    let (b, s) := r.2.memRead ctx g.1 g.2.1 hint (!g.2.2)
    (r.1 ++ b, s)) (([] : List Byte), s)

/-- POP_PUT and POP_MIRROR: the payload is written to the translated address (R284, R356). -/
def State.applyPut (s : State) (x : Inbound) (e : Flow) (o : Opened) : State :=
  if o.space then s.refuseReq x e o.owner
  else match s.targetSegs x.die e o.va o.data.length true with
    | (none, s) => s.refuseReq x e o.owner
    | (some segs, s) =>
      match s.quiesceCheck x e o.owner (reqPages x segs) with
      | some s => s
      | none => (s.writeSegs (some e.ctx) 0 segs o.data).acceptReq x e o.owner

/-- A request of a POP is checked and, where it is new, applied. -/
def State.serve (s : State) (pop : Nat) (apply : Inbound → Flow → Opened → State → State) : State :=
  match s.takePkt pop with
  | (none, s) => s
  | (some (x, e), s) =>
    match s.checkReq x e with
    | (.fresh o, s) => apply x e o s
    | (.waitCopy, s) => s.modFab fun f => { f with inbound := x :: f.inbound }
    | (_, s) => s

def execPopPut (s : State) : Host.Outcome State Fault Refusal := .next (s.serve 1 fun x e o s => s.applyPut x e o)
def execPopMirror (s : State) : Host.Outcome State Fault Refusal := .next (s.serve 11 fun x e o s => s.applyPut x e o)

/-- The read of a GET: its data, or none when it is refused. -/
def State.getData (s : State) (x : Inbound) (e : Flow) (o : Opened) (ecc : Ecc) : Option (List Byte × List (Nat × Nat × Bool)) × State :=
  if o.space then (none, s)
  else match s.targetSegs x.die e o.va (32 * (o.len + 1)) false with
    | (none, s) => (none, s)
    | (some segs, s) =>
      let s := (s.eccMem (some e.ctx) ecc).2
      let (d, s) := s.readSegs (some e.ctx) 0 segs
      (some (d, segs), s)

/-- POP_GET: LEN + 1 units are read and sent as DATA parts (R284, R286); a duplicate is read again (R294). -/
def execPopGet (ecc : Ecc) (s : State) : Host.Outcome State Fault Refusal :=
  match s.takePkt 2 with
  | (none, s) => .next s
  | (some (x, e), s) =>
    match s.checkReq x e with
    | (.waitCopy, s) => .next (s.modFab fun f => { f with inbound := x :: f.inbound })
    | (.done, s) => .next s
    | (.again o, s) =>
      (match s.getData x e o ecc with
       | (none, s) => .next (s.nack x e o.owner 2)
       | (some (d, _), s) => .next (s.dataParts x e o.owner d))
    | (.fresh o, s0) =>
      if o.space then .next (s0.refuseReq x e o.owner)
      else match s0.targetSegs x.die e o.va (32 * (o.len + 1)) false with
        | (none, s) => .next (s.refuseReq x e o.owner)
        | (some segs, s) =>
          match s.quiesceCheck x e o.owner (reqPages x segs) with
          | some s => .next s
          | none =>
            let s := (s.eccMem (some e.ctx) ecc).2
            let (d, s) := s.readSegs (some e.ctx) 0 segs
            .next ((s.record (pktFlow x.pkt) (pktSeq x.pkt) 3 0 true).dataParts x e o.owner d)

/-! ## Reductions (R285, R297) -/

/-- The element widths of RTYPE (R285), in bytes. -/
def redWidth (rtype : Nat) : Nat := match rtype with | 1 => 8 | 3 => 8 | 5 => 2 | _ => 4
/-- The types a ROP allows (R129). -/
def redOk (rop rtype : Nat) : Bool := (decide (rop = 1) && decide (rtype < 4)) || (decide (rop = 2) && decide (rtype = 4 ∨ rtype = 5))
  || (decide (rop = 3 ∨ rop = 4) && decide (rtype < 6))

/-- One element combined (R285). -/
def redOne (rop rtype m v : Nat) : Nat :=
  let w := 8 * redWidth rtype
  if rtype < 4 then
    let key (a : Nat) : Int := if rtype < 2 then signed w a else a
    match rop with
    | 1 => (m + v) % 2 ^ w
    | 3 => if key v < key m then v else m
    | _ => if key m < key v then v else m
  else
    let f := if rtype = 4 then 0 else 1
    let a := decodeFp f m
    let b := decodeFp f v
    match rop with
    | 2 => encodeFp .nearest f (a.add b)
    | 3 => encodeFp .nearest f (a.min b)
    | _ => encodeFp .nearest f (a.max b)

/-- Elements of a byte list, and back. -/
def elemsOf (w : Nat) (n : Nat) (d : List Byte) : List Nat := (List.range n).map fun i => ofBytes ((d.drop (w * i)).take w)
def bytesOfElems (w : Nat) (es : List Nat) : List Byte := es.flatMap (toBytes w)

/-- A payload combined into stored bytes, element by element. -/
def redBytes (rop rtype : Nat) (old d : List Byte) : List Byte :=
  let w := redWidth rtype
  let n := d.length / w
  bytesOfElems w (List.zipWith (redOne rop rtype) (elemsOf w n old) (elemsOf w n d))

/-- The home's atomic unit applies a reduction over pieces (R251). Counter 2 of HMC. -/
def State.atomicSegs (s : State) (ctx : Option Nat) (rop rtype : Nat) (segs : List (Nat × Nat × Bool)) (d : List Byte) : State :=
  (segs.foldl (fun (r : State × List Byte) g =>
    let old := r.1.mem.bytes g.1 g.2.1
    ((r.1.modMem fun m => m.putAtomic g.1 (redBytes rop rtype old (r.2.take g.2.1))).count (hmcPage (homeOf g.1)) 2 ctx, r.2.drop g.2.1)) (s, d)).1

/-- POP_RED: element-wise reduction by the home's atomic unit (R285); a floating reduction marked COMB waits in the combining
queue (R297). -/
def State.applyRed (ecc : Ecc) (x : Inbound) (e : Flow) (o : Opened) (s : State) : State :=
  let rop := bits o.w2 49 3
  let rtype := bits o.w2 52 3
  let w := redWidth rtype
  if o.space || !redOk rop rtype || decide (o.va % w ≠ 0) then s.refuseReq x e o.owner
  else match s.targetSegs x.die e o.va o.data.length true with
    | (none, s) => s.refuseReq x e o.owner
    | (some segs, s) =>
      match s.quiesceCheck x e o.owner (reqPages x segs) with
      | some s => s
      | none =>
        if rop = 2 ∧ o.w2.getLsbD 56 then
          s.modFab fun f => { f with combine := f.combine ++
            [{ flow := pktFlow x.pkt, ctx := e.ctx, pkt := x.pkt, plain := o.data, pa := (segs.map fun g => g.1).headD 0, owner := o.owner,
               die := x.die, w2 := o.w2 }] }
        else ((s.eccMem (some e.ctx) ecc).2.atomicSegs (some e.ctx) rop rtype segs o.data).acceptReq x e o.owner

/-- POP_RED (R285, R297). -/
def execPopRed (ecc : Ecc) (s : State) : Host.Outcome State Fault Refusal := .next (s.serve 4 (State.applyRed ecc))

/-- Floating contributions summed exactly and rounded once (R297). -/
def combineSum (rtype : Nat) (ds : List (List Byte)) : List Byte :=
  let w := redWidth rtype
  let f := if rtype = 4 then 0 else 1
  let n := (ds.headD []).length / w
  bytesOfElems w ((List.range n).map fun i =>
    encodeFp .nearest f ((ds.map fun d => decodeFp f (ofBytes ((d.drop (w * i)).take w))).foldl Num.add (Num.fin true {})))

/-- COMBINE_DRAIN: the requests that stand together with the oldest one are combined, applied once, and each recorded and
answered on its own (R297). -/
def execCombineDrain (s : State) : Host.Outcome State Fault Refusal :=
  match (if s.awake then s.fab.combine else []) with
  | [] => .next s
  | c :: _ =>
    let same (d : Combined) : Bool := decide (d.ctx = c.ctx ∧ d.pa = c.pa ∧ d.plain.length = c.plain.length) && decide (bits d.w2 49 8 = bits c.w2 49 8)
    let set := s.fab.combine.filter same
    let s := s.modFab fun f => { f with combine := f.combine.filter fun d => !same d }
    match s.targetSegs c.die (s.flowNow c.flow) (bits c.w2 0 48) c.plain.length true with
    | (none, s) => .next (set.foldl (fun s d => s.refuseReq { port := none, die := d.die, pkt := d.pkt } (s.flowNow d.flow) d.owner) s)
    | (some segs, s) =>
      let s := s.atomicSegs (some c.ctx) 2 (bits c.w2 52 3) segs (combineSum (bits c.w2 52 3) (set.map fun d => d.plain))
      .next (set.foldl (fun s d => s.acceptReq { port := none, die := d.die, pkt := d.pkt } (s.flowNow d.flow) d.owner) s)

/-! ## Inboxes (R23, R278) -/

/-- The head of an inbox record (R278): source, flow, PAD, SEQ, payload units. -/
def inboxHead (src flow seq units : Nat) (pad : Bool) : List Byte :=
  toBytes 8 (src % 2 ^ 13 + flow % 2 ^ 20 * 2 ^ 13 + flag pad * 2 ^ 33) ++ toBytes 8 (seq % 2 ^ 32 + units * 2 ^ 32) ++ List.replicate 16 0

/-- A record enters a tile's inbox ring, with a PAD record where it would pass the ring's end; none when it does not fit.
HEAD is at 0x108 of the XCE page. -/
def State.inboxPut (s : State) (t : Nat) (src flow seq : Nat) (d : List Byte) : Option State :=
  let pg := engPage t .xce
  let size := s.fld pg 0x100 16 13 * 1024
  if size = 0 then none
  else
    let base := s.fld pg 0x100 0 13 * 1024
    let head := s.fld pg 0x108 0 23 % size
    let tail := s.fld pg 0x110 0 23 % size
    let used := (head + size - tail) % size
    let need := 32 + d.length
    let pad := if size < head + need then size - head else 0
    if size < used + pad + need + 32 then none
    else
      let s := if pad = 0 then s else s.localWrite t false (base + head) (inboxHead src flow seq 0 true)
      let at' := if pad = 0 then head else 0
      let s := s.localWrite t false (base + at') (inboxHead src flow seq (d.length / 32) false ++ d)
      let s := (s.setFld pg 0x108 0 23 ((at' + need) % size)).count pg 13
      some (if s.fld pg 0x100 34 1 = 1 then s.signal t (s.fld pg 0x100 29 5) else s)

/-- Bytes of one inbox in a save area (R325). -/
def inboxBytes : Nat := 1008 * 1024

/-- A record for tile t of a context: into the ring while the context is resident, else into the inbox of its save area
(R23); none when it is refused. -/
def State.inboxTo (s : State) (c t : Nat) (src flow seq : Nat) (d : List Byte) : Option State :=
  if s.ctxOf t = some c then s.inboxPut t src flow seq d
  else if (s.desc c).w0.getLsbD 0 && (s.desc c).w1.getLsbD (quadOf t) then
    let used := ((s.key.inbox.filter fun h => decide (h.ctx = c ∧ h.tile = t)).map fun h => h.data.length).sum
    if inboxBytes < used + 32 + d.length then none
    else some (s.modKey fun k => { k with inbox := k.inbox ++ [{ ctx := c, tile := t, data := inboxHead src flow seq (d.length / 32) false ++ d }] })
  else none

/-- A delivery to an inbox: quiesce of the tile's XCE, room, then record and answer; an absent or full ring refuses it. -/
def State.applyInbox (s : State) (x : Inbound) (e : Flow) (o : Opened) (va : Nat) (d : List Byte) : State :=
  let t := va % 256
  if va / 256 ≠ 0 ∨ 192 ≤ t then s.refuseReq x e o.owner
  else
    let pages := [rtrPage x.die, fltPage (pktFlow x.pkt % 4)] ++ (if s.ctxOf t = some e.ctx then [engPage t .xce] else [])
    match s.quiesceCheck x e o.owner pages with
    | some s => s
    | none =>
      match s.inboxTo e.ctx t o.owner (pktFlow x.pkt) (pktSeq x.pkt) d with
      | some s => s.acceptReq x e o.owner
      | none =>
        let s := if s.ctxOf t = some e.ctx ∧ s.fld (engPage t .xce) 0x100 16 13 ≠ 0 then
            (s.count (engPage t .xce) 14).event (engPage t .xce) 6
          else s
        s.refuseReq x e o.owner

/-- POP_SEND: one inbox record (R284). -/
def execPopSend (s : State) : Host.Outcome State Fault Refusal :=
  .next (s.serve 5 fun x e o s => if o.space then s.applyInbox x e o o.va o.data else s.refuseReq x e o.owner)

/-- POP_FLAG: one is added to the UINT32 at FADDR, or a flag record delivered (R290). -/
def execPopFlag (s : State) : Host.Outcome State Fault Refusal :=
  .next (s.serve 6 fun x e o s =>
    let w := BitVec.ofNat 64 (ofBytes (o.data.take 8))
    if w.getLsbD 48 then s.applyInbox x e o (bits w 0 48) []
    else if bits w 0 48 % 32 ≠ 0 then s.refuseReq x e o.owner
    else match s.targetSegs x.die e (bits w 0 48) 4 true with
      | (none, s) => s.refuseReq x e o.owner
      | (some segs, s) =>
        match s.quiesceCheck x e o.owner (reqPages x segs) with
        | some s => s
        | none => (s.atomicSegs (some e.ctx) 1 2 segs ((o.data.drop 8).take 4)).acceptReq x e o.owner)

/-- The physical pieces of a context's range, wherever they lie; none when it does not translate. -/
def State.physOfRange (s : State) (die c va n : Nat) : Option (List Seg) × State := s.translate die (some c) va n false

/-- POP_INVAL: tray line cache lines of the context that meet the range leave all four dies (R292). -/
def execPopInval (s : State) : Host.Outcome State Fault Refusal :=
  .next (s.serve 7 fun x e o s =>
    let n := ofBytes (o.data.take 8)
    if o.space then s.refuseReq x e o.owner
    else match s.translate x.die (some e.ctx) o.va n false with
      | (none, s) => s.refuseReq x e o.owner
      | (some segs, s) =>
        match s.quiesceCheck x e o.owner [rtrPage x.die, fltPage (pktFlow x.pkt % 4)] with
        | some s => s
        | none =>
          let hit (k : Nat) : Bool := decide (k / 2 ^ 40 % 256 = e.ctx)
            && segs.any fun g => decide (g.pa / 256 ≤ k % 2 ^ 40) && decide (k % 2 ^ 40 * 256 < g.pa + g.len)
          (s.modMem fun m => { m with tlc := m.tlc.filter fun l => !hit l.1 }).acceptReq x e o.owner)

end Sys2Proof.Machine
end

