-- ==== Sys2Proof/Machine/Reach.lean ====
section
/-! DEFINITION. Memory as an engine reaches it: translated whole before any byte moves (R245), in local HBM (R256) or in a tray
member's memory over the context's tray flows (R281). -/

namespace Sys2Proof.Machine

/-- What a range of memory is to a unit. -/
inductive Reach where
  | refused (code : Nat)        -- 0: with the requester's translation code (R245); else that code, already reported
  | ok (segs : List Seg)
  deriving DecidableEq, Repr

/-- The tray member a segment lies in, when it is another package's. -/
def State.trayOf (s : State) (g : Seg) : Option (Nat × Nat) :=
  match regionOf s.member g.pa with
  | .tray m off => some (m, off)
  | _ => none

def State.isHost (s : State) (g : Seg) : Bool := match regionOf s.member g.pa with | .host _ => true | _ => false

/-- A range of memory reached by a unit other than the Load and Store Engines: host memory refuses it (R24). -/
def State.reach (s : State) (die : Nat) (ctx : Option Nat) (va n : Nat) (write : Bool) : Reach × State :=
  match s.translate die ctx va n write with
  | (none, s) => (.refused 0, s)
  | (some gs, s) =>
    if gs.any s.isHost then (.refused 0, s)
    else if gs.any fun g => match s.trayOf g with
        | some (m, _) => (match ctx with | some c => !s.trayOk c m | none => true)
        | none => false then (.refused 0, s)
    else match s.homeOff (gs.filterMap s.localOf) with
      | some h => (.refused 0x0C4, s.refuseOff h ctx)
      | none => (.ok gs, s)

/-- Several ranges reached: the segments of each, or the first refusal. -/
def State.reachAll (s : State) (die : Nat) (ctx : Option Nat) (write : Bool) (rs : List (Nat × Nat)) : (Nat ⊕ List (List Seg)) × State :=
  rs.foldl (fun (acc : (Nat ⊕ List (List Seg)) × State) r =>
    match acc with
    | (.inl c, s) => (.inl c, s)
    | (.inr gs, s) =>
      match s.reach die ctx r.1 r.2 write with
      | (.refused c, s) => (.inl c, s)
      | (.ok g, s) => (.inr (gs ++ [g]), s)) (.inr [], s)

/-- A home of some segment does not admit: the access is held at its issuer (R41, R256). -/
def State.segsHeld (s : State) (gs : List Seg) : Bool := s.homeHeld (gs.filterMap s.localOf)

/-- An access by address is held at its issuer. -/
def State.vaHeld (s : State) (die c va n : Nat) (write : Bool) : Bool :=
  match (s.reach die (some c) va n write).1 with | .ok gs => s.segsHeld gs | .refused _ => false

/-- Writes of an issuer are held, their homes not admitting. -/
def State.writesHeld (s : State) (id : Nat) : Bool := s.homeHeld ((s.mem.writes.filter fun w => decide (w.id = id)).map fun w => w.addr)

/-- What of the segments lies in other members: member, offset, address, length. -/
def State.trayParts (s : State) (gs : List Seg) : List (Nat × Nat × Nat × Nat) :=
  gs.filterMap fun g => match s.trayOf g with
    | some (m, off) => some (m, off, g.pa, g.len)
    | none => none

/-- GETs for everything that lies in other members, gathered by physical address; their number. -/
def State.gather (s : State) (c : Nat) (o : Owner) (page die tag : Nat) (gs : List Seg) : Nat × State :=
  (s.trayParts gs).foldl (fun (acc : Nat × State) x =>
    let (n, s) := acc.2.trayRead c o page die tag x.1 x.2.1 x.2.2.2 (fun k => .buf (x.2.2.1 + k))
    (acc.1 + n, s)) (0, s)

/-- Bytes of segments in order: local memory through the cache, other members' from what was gathered. -/
def State.reachBytes (s : State) (ctx : Option Nat) (hint : Nat) (got : Tab Byte) (gs : List Seg) : List Byte × State :=
  gs.foldl (fun (r : List Byte × State) g =>
    match r.2.localOf g with
    | some a =>
      let (b, s) := r.2.memRead ctx a g.len hint (!g.noalloc)
      (r.1 ++ b, s)
    | none => (r.1 ++ getBytes got g.pa g.len, r.2)) (([] : List Byte), s)

/-- Bytes written over segments: local ones wait under an identity until their operation completes, other members' leave as
PUT requests, whose number is answered. -/
def State.reachWrite (s : State) (c : Nat) (o : Owner) (page die tag id hint : Nat) (gs : List Seg) (d : List Byte) : Nat × State :=
  let r := gs.foldl (fun (r : Nat × State × List Byte) g =>
    let (n, s, d) := r
    let x := d.take g.len
    match s.localOf g, s.trayOf g with
    | some a, _ =>
      (n, s.modMem fun m => { m with writes := m.writes ++ [{ id := id, addr := a, data := x, hint := BitVec.ofNat 2 hint, alloc := !g.noalloc }] },
       d.drop g.len)
    | none, some (m, off) =>
      let (k, s) := s.trayWrite c o page die tag m off x
      (n + k, s, d.drop g.len)
    | none, none => (n, s, d.drop g.len)) (0, s, d)
  (r.1, r.2.1)

end Sys2Proof.Machine
end

