-- ==== Sys2Proof/Machine/Trs.lean ====
section
/-! DEFINITION. The route unit (R185 to R188) and the Trestle walker (R203 to R207, R211). -/

namespace Sys2Proof.Machine

/-! ## The route unit -/

/-- A field of the parameter words copied at GO. -/
structure RouteF where
  op     : Nat
  usum   : Nat
  uen    : Bool
  raddr  : Nat
  bf16   : Bool
  rows   : Nat
  stride : Nat
  e      : Nat
  kact   : Nat
  kcand  : Nat
  out    : Nat
  cnt    : Nat
  deriving DecidableEq, Repr

def RouteOp.fields (o : RouteOp) : RouteF :=
  { op := bits o.cmd 0 4, usum := bits o.cmd 4 4, uen := o.cmd.getLsbD 8, raddr := bits o.rt0 0 14 * 32, bf16 := o.rt0.getLsbD 14,
    rows := bits o.rt0 15 12 + 1, stride := bits o.rt0 27 14 * 32, e := bits o.rt1 0 11 + 1, kact := bits o.rt1 11 3 + 1,
    kcand := bits o.rt1 14 3 + 1, out := bits o.rt2 0 23, cnt := bits o.rt2 23 23 }

/-- GO: the parameter words are copied (R185); an undefined OP or reserved bits end it refused with 0x070 (R211). -/
def State.trsGo (s : State) (t : Nat) (resv : Bool) : State :=
  let pg := trsPage t
  let cmd := s.raw pg 0x100
  let o : RouteOp := { cmd := cmd, rt0 := s.raw pg 0x108, rt1 := s.raw pg 0x110, rt2 := s.raw pg 0x118 }
  let bad := resv || decide (bits cmd 0 4 ≠ 1 ∧ bits cmd 0 4 ≠ 2)
  let pend := decide (bits cmd 0 4 = 1) && cmd.getLsbD 8
  let s := s.modTile t fun ti =>
    { (if pend then ti.pendSum (bits cmd 4 4) else ti) with route := some { o with pend := pend, done := bad, code := if bad then 0x070 else 0 } }
  if bad then s.contained pg 0x070 (s.ctxOf t) else s

/-- A write of CMD.GO: held while the block admits nothing (R437). -/
def State.trsGoAct (s : State) (t : Nat) (resv : Bool) : State :=
  if s.admits (trsPage t) then s.trsGo t resv else s.modPage (trsPage t) fun p => { p with heldGo := true, heldBad := resv }

def State.routeEnd (s : State) (t : Nat) (f : RouteOp → RouteOp) : State :=
  s.modTile t fun ti => { ti with route := ti.route.map fun o => { (f o) with done := true } }

/-- The operation ends refused with a code (R185). -/
def State.routeRefuse (s : State) (t code : Nat) : State :=
  (s.routeEnd t fun o => { o with code := code }).contained (trsPage t) code (s.ctxOf t)

/-- The running operation is OP `op` and has not come about yet. -/
def State.routeDue (s : State) (t op : Nat) : Option RouteF :=
  match (s.tile t).route with
  | some o => if s.tileRuns t && !o.done && decide (o.fields.op = op) then some o.fields else none
  | none => none

/-- Score i ranks above score j (R186). -/
def ranksAbove (g : List Num) (i j : Nat) : Bool :=
  let a := g.getD i .nan
  let b := g.getD j .nan
  if a.isNan then b.isNan && decide (i < j) else b.isNan || b.lt a || (a.eq b && decide (i < j))

/-- The first k experts in rank order (R186). -/
def ranked (g : List Num) (k : Nat) : List Nat :=
  let n := g.length
  (List.range k).filterMap fun r => (List.range n).find? fun i => decide (((List.range n).filter fun j => ranksAbove g j i).length = r)

/-- A choice record (R187). -/
def choiceRec (kact r e : Nat) (x : Num) : List Byte :=
  toBytes 8 (f32 x + e * 2 ^ 32 + r * 2 ^ 43 + flag (decide (kact ≤ r)) * 2 ^ 46 + flag x.isNan * 2 ^ 47)

/-- The scores of each token row, widened (R186). -/
def State.gateRows (s : State) (t : Nat) (x : RouteF) : Nat → List (List Num) × State
  | 0 => ([], s)
  | n + 1 =>
    let (rs, s) := s.gateRows t x n
    let w := if x.bf16 then 2 else 4
    let (bs, s) := s.localRead t true (x.raddr + n * x.stride) (x.e * w)
    let v := ofBytes bs
    (rs ++ [(List.range x.e).map fun c => decodeFp (if x.bf16 then 1 else 0) (v / 2 ^ (8 * w * c) % 2 ^ (8 * w))], s)

/-- ROUTE: choice records, counts of active choices, NaN scores (R186 to R188). -/
def execRoute (t : Fin 192) (ecc : Ecc) (s : State) : Host.Outcome State Fault Refusal :=
  match s.routeDue t 1 with
  | none => .next s
  | some x =>
    match firstCode [
      (decide (x.kcand < x.kact ∨ x.e < x.kcand), 0x070),
      (decide (rfBytes < x.raddr + (x.rows - 1) * x.stride + x.e * (if x.bf16 then 2 else 4) ∨ x.out % 8 ≠ 0 ∨ storeBytes < x.out + 8 * x.kcand * x.rows
        ∨ x.cnt % 32 ≠ 0 ∨ storeBytes < x.cnt + 4 * x.e), 0x071)] with
    | some c => .next (s.routeRefuse t c)
    | none =>
      let (_, s) := s.eccTile t ecc
      let (rows, s) := s.gateRows t x x.rows
      let picks := rows.map fun g => ranked g x.kcand
      let recs := List.zipWith (fun g p => p.mapIdx fun r e => choiceRec x.kact r e (g.getD e .nan)) rows picks
      let active := picks.flatMap fun p => p.take x.kact
      let (old, s) := s.localRead t false x.cnt (4 * x.e)
      let hit := (List.range x.e).filter fun e => active.contains e
      let cnts : List LWrite := hit.map fun e =>
        { rf := false, addr := x.cnt + 4 * e,
          data := toBytes 4 (min (2 ^ 32 - 1) (ofBytes ((old.drop (4 * e)).take 4) + (active.filter fun a => decide (a = e)).length)) }
      let nans := (rows.map fun g => (g.filter Num.isNan).length).sum
      let ws : List LWrite := [{ rf := false, addr := x.out, data := (recs.map List.flatten).flatten }]
      .next ((s.count (trsPage t) 1 none x.rows).routeEnd t fun o => { o with nans := nans, writes := ws ++ cnts })

/-- CLRCNT: the E words of the count array become 0 (R185). -/
def execClrcnt (t : Fin 192) (s : State) : Host.Outcome State Fault Refusal :=
  match s.routeDue t 2 with
  | none => .next s
  | some x =>
    if x.cnt % 32 ≠ 0 ∨ storeBytes < x.cnt + 4 * x.e then .next (s.routeRefuse t 0x071)
    else .next (s.routeEnd t fun o => { o with writes := [{ rf := false, addr := x.cnt, data := List.replicate (4 * x.e) 0 }] })

/-- ROUTE_COMPLETE: the writes become visible, the NaN count is contributed and the token signalled (R185, R188). -/
def execRouteComplete (t : Fin 192) (s : State) : Host.Outcome State Fault Refusal :=
  if !s.tileRuns t then .next s else
  match (s.tile t).route with
  | none => .next s
  | some o =>
    if !o.done then .next s
    else
      let pg := trsPage t
      let x := o.fields
      let refused := decide (o.code ≠ 0)
      let s := s.modTile t fun ti =>
        let ti := o.writes.foldl (fun ti w => ti.write w.rf w.addr w.data) { ti with route := none }
        if o.pend then ti.unpendSum x.usum else ti
      let s := s.setFld pg 0x120 0 1 (flag refused)
      let s := if refused then s.event pg 4
        else if x.op = 1 then
          let s := ((s.setFld pg 0x120 32 32 o.nans).count pg 0).count pg 2 none o.nans
          let s := if o.nans = 0 then s else s.event pg 5
          if o.pend then s.contribute t pg { u := x.usum, kind := .count, val := BitVec.ofNat 64 o.nans } else s
        else s
      let s := if o.cmd.getLsbD 9 then s.signal t (bits o.cmd 10 5) else s
      .next (s.drained pg)

/-! ## Trestle entries (R203) -/

structure TrsE where
  tok    : Nat
  tokdim : Bool
  gather : Bool
  chk    : Bool
  skip   : Bool
  p      : Nat
  q      : Nat
  a      : Opnd          -- addresses are virtual; aux and pitch of MX scale arrays too
  b      : Opnd
  ofmt   : Nat
  obm    : Nat
  odim   : Bool
  ts     : Int
  passes : Nat
  usum   : Nat
  uen    : Bool
  caddr  : Nat
  idx    : Nat
  osc    : Nat
  cstr   : Nat
  oscp   : Nat
  part   : Nat
  resv   : Bool
  deriving DecidableEq, Repr

def trsOf (ws : List Word) : TrsE :=
  let w (i : Nat) : Word := ws.getD i 0
  let od (o addr stride aux pitch : Nat) : Opnd :=
    { addr := addr, rf := false, stride := stride * 32, fmt := bits (w 1) o 4, bm := bits (w 1) (o + 4) 2, t := (w 1).getLsbD (o + 6),
      sp := (w 1).getLsbD (o + 7), aux := aux, pitch := pitch * 64 }
  { tok := bits (w 0) 0 21, tokdim := (w 0).getLsbD 21, gather := (w 0).getLsbD 22, chk := (w 0).getLsbD 23, skip := (w 0).getLsbD 24,
    p := bits (w 0) 32 16 + 1, q := bits (w 0) 48 16 + 1,
    a := od 0 (w 2).toNat (bits (w 9) 0 32) (w 6).toNat (bits (w 10) 32 16), b := od 8 (w 3).toNat (bits (w 9) 32 32) (w 7).toNat (bits (w 10) 48 16),
    ofmt := bits (w 1) 16 4, obm := bits (w 1) 20 2, odim := (w 1).getLsbD 22, ts := signed 7 (bits (w 1) 23 7), passes := bits (w 1) 30 2,
    usum := bits (w 1) 32 4, uen := (w 1).getLsbD 36, caddr := (w 4).toNat, idx := (w 5).toNat, osc := (w 8).toNat, cstr := bits (w 10) 0 32 * 32,
    oscp := bits (w 11) 0 16 * 32, part := (w 12).toNat,
    resv := decide (bits (w 0) 25 7 ≠ 0 ∨ bits (w 1) 37 27 ≠ 0 ∨ bits (w 11) 16 48 ≠ 0) || w 13 != 0 || w 14 != 0 || w 15 != 0 }

/-- M, N and K of an entry (R203). -/
def TrsE.m (x : TrsE) : Nat := if x.tokdim then x.p else x.tok
def TrsE.n (x : TrsE) : Nat := x.q
def TrsE.k (x : TrsE) : Nat := if x.tokdim then x.tok else x.p

/-- The product of an entry, as the array takes it. -/
def TrsE.mma (x : TrsE) : MmaF :=
  { a := x.a, b := x.b, m := x.m, n := x.n, l := x.k, bank := 0, moff := 0, noff := 0, start := true,
    passes := if x.a.fmt = 0 then max 1 x.passes else 1, chk := x.chk, akx := 0 }

def TrsE.spanLen (x : TrsE) : Nat := x.mma.segLen
/-- Segments of a TOKDIM = 1 block (R181, R205). -/
def TrsE.segs (x : TrsE) : Nat := (x.tok + 2047) / 2048
def TrsE.rowBlocks (x : TrsE) : Nat := (x.m + 127) / 128
def TrsE.colBlocks (x : TrsE) : Nat := (x.n + 127) / 128

/-- 0x074: an entry outside the format rules of R204. -/
def TrsE.badFmt (x : TrsE) : Bool :=
  let fb (o : Opnd) : Bool := decide (11 ≤ o.fmt ∨ o.bm = 3)
  let spBad (o : Opnd) : Bool := o.sp && decide (o.fmt = 0 ∨ o.fmt = 2 ∨ o.fmt = 8)
  x.resv || decide (2 ^ 20 < x.tok) || fb x.a || fb x.b || !pairOk x.a x.b || spBad x.a || spBad x.b
    || ((x.a.sp || x.b.sp) && decide (x.k % 4 ≠ 0))
    || decide (11 ≤ x.ofmt ∨ x.obm = 3 ∨ x.ofmt = 10 ∨ (5 ≤ x.ofmt ∧ x.ofmt ≤ 8 ∧ x.obm = 0) ∨ (x.ofmt = 9 ∧ x.obm ≠ 0) ∨ (x.ofmt ≤ 2 ∧ x.obm ≠ 0))
    || (decide (x.ofmt = 9) && !x.mma.intOnly)

/-- Stored rows of an operand: their number, their length. -/
def opRows (o : Opnd) (ext k : Nat) : Nat × Nat :=
  if ext = 0 ∨ k = 0 then (0, 0) else (o.rows ext k, o.rowBytes (o.along ext k))
/-- The row that an index list gives for stored row i. -/
def rowAt (idx : List Nat) (i : Nat) : Nat := idx.getD i i
/-- Ranges of an operand's stored rows. -/
def opRanges (o : Opnd) (ext k : Nat) (idx : List Nat) : List (Nat × Nat) :=
  let (n, len) := opRows o ext k
  (List.range n).map fun i => (o.addr + rowAt idx i * o.stride, len)
/-- Rows of an MX operand's scale array, and their ranges; token rows follow the index list where they run along it. -/
def auxRows (o : Opnd) (ext k : Nat) : Nat × Nat :=
  if o.bm = 0 ∨ ext = 0 ∨ k = 0 then (0, 0)
  else let g := (k + o.span - 1) / o.span; if o.t then (g, ext) else (ext, g)
def auxRanges (o : Opnd) (ext k : Nat) (idx : List Nat) : List (Nat × Nat) :=
  let (n, len) := auxRows o ext k
  (List.range n).map fun i => (o.aux + (if o.t then i else rowAt idx i) * o.pitch, len)

/-- The index lists that apply to A and to B (R203). -/
def TrsE.idxA (x : TrsE) (l : List Nat) : List Nat := if x.gather then l else []
def TrsE.idxB (x : TrsE) (l : List Nat) : List Nat := if x.gather && x.tokdim then l else []

/-- The output as a DRAIN of a block of rows m and columns n would give it. -/
def TrsE.drain (x : TrsE) (m n : Nat) : DrainF :=
  { daddr := 0, dstride := 0, ofmt := x.ofmt, obm := x.obm, odim := x.odim, t := x.ts, usum := x.usum, uen := x.uen, scaddr := 0, scstride := 0,
    m := m, n := n, bank := 0, moff := 0, noff := 0 }

/-- Ranges of the output and of its scale array. -/
def TrsE.outRanges (x : TrsE) : List (Nat × Nat) :=
  if x.m = 0 then []
  else
    let d := x.drain x.m x.n
    let (sr, sl) := d.scaleDims
    ((List.range x.m).map fun i => (x.caddr + i * x.cstr, packedBytes x.ofmt d.rowElems))
      ++ (if x.obm = 0 then [] else (List.range sr).map fun i => (x.osc + i * x.oscp, sl))

/-- 0x075: a used address or stride that is not a multiple of 32 (R204). -/
def TrsE.misaligned (x : TrsE) : Bool :=
  let bad (a : Nat) : Bool := decide (a % 32 ≠ 0)
  bad x.a.addr || bad x.b.addr || bad x.caddr || (x.gather && bad x.idx) || (decide (x.a.bm ≠ 0) && bad x.a.aux) || (decide (x.b.bm ≠ 0) && bad x.b.aux)
    || (decide (x.obm ≠ 0) && bad x.osc) || (x.tokdim && decide (1 < x.segs) && bad x.part)

/-! ## Units and the deal (R205, R206) -/

/-- r of R132 and R133 for an operand pair. -/
def trsRate (a b : Opnd) : Nat :=
  let base := if a.fmt ≤ 2 then 1 else if a.fmt = 7 ∧ b.fmt = 7 then 4 else 2
  let r := if (a.sp && !a.t) || (b.sp && !b.t) then 2 * base else base
  if (decide (a.fmt = 7) && a.t) || (decide (b.fmt = 7) && b.t) then min r 2 else r
/-- Sweeps of R64 and R133. -/
def TrsE.sweeps (x : TrsE) : Nat := if x.a.fmt = 0 then (match x.mma.passes with | 2 => 3 | 3 => 6 | _ => 1) else 1
/-- The work of a unit of reduction length l (R205). -/
def TrsE.work (x : TrsE) (l : Nat) : Nat := x.sweeps * ((l + trsRate x.a x.b - 1) / trsRate x.a x.b) + 64

/-- A unit: entry, block, segment, work. -/
structure Unit where
  entry : Nat
  block : Nat
  seg   : Nat
  w     : Nat
  deriving DecidableEq, Repr

/-- The units of one entry, in order (R205). -/
def TrsE.units (x : TrsE) (i : Nat) : List Unit :=
  if x.skip ∨ (x.tok = 0 ∧ !x.tokdim) then []
  else
    (List.range (x.rowBlocks * x.colBlocks)).flatMap fun b =>
      if x.tokdim then
        if x.tok = 0 then [{ entry := i, block := b, seg := 0, w := x.work 0 }]
        else (List.range x.segs).map fun j => { entry := i, block := b, seg := j, w := x.work (min 2048 (x.tok - 2048 * j)) }
      else [{ entry := i, block := b, seg := 0, w := x.work x.p }]

/-- Every unit with its share (R206). -/
def dealUnits (us : List Unit) (shares : Nat) : List (Unit × Nat) :=
  let total := (us.map Unit.w).sum
  (us.foldl (fun (r : List (Unit × Nat) × Nat) u => (r.1 ++ [(u, r.2 * (shares + 1) / total)], r.2 + u.w)) ([], 0)).1

/-- A run: consecutive segments of one block and one span that fall to one share. -/
structure Run where
  entry : Nat
  block : Nat
  first : Nat
  len   : Nat
  share : Nat
  deriving DecidableEq, Repr

/-- The runs of dealt units; a run does not cross a span. -/
def runsOf (xs : List TrsE) (us : List (Unit × Nat)) : List Run :=
  us.foldl (fun (rs : List Run) u =>
    let x := xs.getD u.1.entry (trsOf [])
    let per := x.spanLen / 2048
    match rs.getLast? with
    | some r =>
      if r.entry = u.1.entry ∧ r.block = u.1.block ∧ r.share = u.2 ∧ r.first + r.len = u.1.seg ∧ r.first / per = u.1.seg / per then
        rs.dropLast ++ [{ r with len := r.len + 1 }]
      else rs ++ [{ entry := u.1.entry, block := u.1.block, first := u.1.seg, len := 1, share := u.2 }]
    | none => [{ entry := u.1.entry, block := u.1.block, first := u.1.seg, len := 1, share := u.2 }]) []

/-! ## Operands in memory -/

/-- The block exponent byte of a group of elements (R55, R119). -/
def bexpByte (f : Nat) (ps : List Nat) : Nat :=
  let low : Int := 1 - (layOf f).bias
  match ps.foldl (fun (m : Option Int) p => match decodeFp f p with
      | .fin _ d => if d.m = 0 then m else maxOpt m (some (max low d.log2))
      | _ => m) none with
  | none => 0
  | some e => (e + 128).toNat % 256

/-- Segments of successive ranges read as numbers. -/
def State.reachRows (s : State) (ctx : Option Nat) (got : Tab Byte) (gs : List (List Seg)) : List Nat × State :=
  gs.foldl (fun (r : List Nat × State) g =>
    let (b, s) := r.2.reachBytes ctx 0 got g
    (r.1 ++ [ofBytes b], s)) (([] : List Nat), s)

/-- What the array sees of an operand in memory: its rows, with block exponents computed as they are loaded (R203) or its
scale array as stored. -/
def fedOf (o : Opnd) (ext k : Nat) (rows aux : List Nat) : Fed :=
  let o := { o with aux := 0, pitch := 2 ^ 21 }
  let f : Fed := { o := o, ext := ext, l := k, rows := rows, aux := [] }
  if o.plainInt then f
  else if o.bm ≠ 0 then
    let (n, len) := auxRows o ext k
    { f with aux := (List.range n).foldl (fun m i => putBytes m (i * o.pitch) (toBytes len (aux.getD i 0))) [] }
  else
    { f with aux := (List.range ext).foldl (fun m i => (List.range ((k + o.span - 1) / o.span)).foldl (fun m g =>
        let ps := (List.range (min o.span (k - g * o.span))).flatMap fun j =>
          o.patterns (o.along ext k) (rows.getD (if o.t then g * o.span + j else i) 0) (if o.t then i else g * o.span + j)
        putBytes m (o.auxAddr i (g * o.span)) [BitVec.ofNat 8 (bexpByte o.fmt ps)]) m) [] }

/-! ## Entries of a block -/

/-- A raw entry read back from its 128 bits (R54). -/
def entryOfBits (v : Nat) : Entry :=
  { int := BitVec.ofNat 112 v, nan := v / 2 ^ 112 % 2 = 1, pinf := v / 2 ^ 113 % 2 = 1, ninf := v / 2 ^ 114 % 2 = 1, inexact := v / 2 ^ 115 % 2 = 1,
    anchor := BitVec.ofNat 12 (v / 2 ^ 116) }

/-- Two partials of one span added as integers, their status bits ORed (R182). -/
def addPartial (a b : Entry) : Entry :=
  { (a.setI (a.i + b.i)) with nan := a.nan || b.nan, pinf := a.pinf || b.pinf, ninf := a.ninf || b.ninf, inexact := a.inexact || b.inexact }

/-- The entry of segments [j0, j0 + n) of a TOKDIM = 1 block, in one span, at the span anchor (R182, R207). -/
def segEntry (x : TrsE) (a b : Fed) (j0 n i j : Nat) : Entry :=
  let sp := j0 * 2048 / x.spanLen
  let e : Entry := ({ intOnly := x.mma.intOnly } : Entry).setA
    (anchorOf (prodBound x.mma a b i j (sp * x.spanLen) (min x.tok ((sp + 1) * x.spanLen))) none)
  (addRange x.mma a b i j (j0 * 2048) (min (n * 2048) (x.tok - j0 * 2048)) (e, {})).1

/-- The whole reduction of a block's entry: one product for TOKDIM = 0, spans folded in order for TOKDIM = 1 (R182). -/
def wholeEntry (x : TrsE) (a b : Fed) (i j : Nat) : Entry :=
  if x.tokdim then
    let per := x.spanLen / 2048
    let spans := (x.segs + per - 1) / per
    match (List.range spans).map fun sp => segEntry x a b (sp * per) (min per (x.segs - sp * per)) i j with
    | [] => {}
    | e :: es => es.foldl (fun acc e => mergeEntries [acc, e]) e
  else
    let e : Entry := ({ intOnly := x.mma.intOnly } : Entry).setA (anchorOf (prodBound x.mma a b i j 0 (min x.p x.spanLen)) none)
    (runSegments x.mma a b i j (x.p / x.spanLen + 3) 0 (e, {}, 0)).1

/-- First row, first column, rows and columns of a block. -/
def TrsE.blockAt (x : TrsE) (b : Nat) : Nat × Nat × Nat × Nat :=
  let r := b / x.colBlocks * 128
  let c := b % x.colBlocks * 128
  (r, c, min 128 (x.m - r), min 128 (x.n - c))

/-- A block's results: bytes to write with their addresses, and its running maximum (R125). -/
def blockOut (x : TrsE) (blk : Nat) (es : Nat → Nat → Entry) : List (Nat × List Byte) × Nat :=
  let (r0, c0, m, n) := x.blockAt blk
  let d := x.drain m n
  let ti : Tile := (List.range m).foldl (fun ti i => (List.range n).foldl (fun ti j => ti.setEntry 0 i j (es i j)) ti) {}
  let (rows, scs) := drainRows d ti
  let b := blockSize x.obm
  let ws := rows.mapIdx fun i r => (x.caddr + (r0 + i) * x.cstr + c0 * fmtBits x.ofmt / 8, packElems x.ofmt d.rowElems r)
  let ss := scs.mapIdx fun i r => (x.osc + (if x.odim then (r0 / b + i) * x.oscp + c0 else (r0 + i) * x.oscp + c0 / b), r.map (BitVec.ofNat 8 ·))
  (ws ++ ss, maxOf ((List.range m).flatMap fun i => (List.range n).map fun j => (es i j).datum 0))

/-! ## GROUP -/

/-- The checks of R131 on a GROUP. -/
def groupBad (d : Desc) : Option Nat :=
  firstCode [
    (d.commonBad .mxe (d.f 0 34 14 == 0 && d.f 3 16 48 == 0), 0x040),
    (decide (d.w1.toNat % 32 ≠ 0), 0x045),
    (decide (d.f 2 32 32 = 0 ∨ d.f 3 8 8 < d.f 3 0 8 ∨ 191 < d.f 3 8 8), 0x048)]

/-- The GROUP is refused (R204): the code on the TRS page and in the completion record. -/
def State.groupRefuse (s : State) (t id code : Nat) : State :=
  let pg := trsPage t
  let s := if code = 0x0C4 then s else s.contained pg code (s.ctxOf t)
  ((s.event pg 4).count pg 4).modFlight t id fun f => { f with refused := true, sev := 2, code := code, phase := 3 }

/-- The staging area (R211): 0x077 below 1,024 KiB or outside tile store. -/
def State.stageBad (s : State) (t : Nat) : Bool :=
  let b := s.fld (trsPage t) 0x128 0 13
  let n := s.fld (trsPage t) 0x128 16 13
  decide (n < 1024 ∨ 6144 < b + n)

/-- Everything an entry names besides its index list, checked and reached: input and output segments, and the PART area. -/
structure EntAt where
  x    : TrsE
  idx  : List Nat
  ins  : List (List Seg)     -- rows of A, of B, scale rows of A, of B
  part : List Seg
  deriving DecidableEq, Repr

def TrsE.inRanges (x : TrsE) (l : List Nat) : List (Nat × Nat) :=
  opRanges x.a x.m x.k (x.idxA l) ++ opRanges x.b x.n x.k (x.idxB l) ++ auxRanges x.a x.m x.k (x.idxA l) ++ auxRanges x.b x.n x.k (x.idxB l)

/-- Bytes of a partial area: every block's count word and raw entries (R207). -/
def TrsE.partBytes (x : TrsE) : Nat := x.rowBlocks * x.colBlocks * (64 + x.segs * 262144)

/-- One entry's ranges translated (R204): 0x075 where one is not mapped, 0x076 for a PART area outside the package's own HBM. -/
def State.entryReach (s : State) (die : Nat) (ctx : Option Nat) (x : TrsE) (l : List Nat) : (Nat ⊕ EntAt) × State :=
  match s.reachAll die ctx false (x.inRanges l) with
  | (.inl c, s) => (.inl (if c = 0 then 0x075 else c), s)
  | (.inr ins, s) =>
    match s.reachAll die ctx true x.outRanges with
    | (.inl c, s) => (.inl (if c = 0 then 0x075 else c), s)
    | (.inr _, s) =>
      if x.tokdim ∧ 1 < x.segs then
        match s.reach die ctx x.part x.partBytes true with
        | (.refused c, s) => (.inl (if c = 0 then 0x075 else c), s)
        | (.ok gs, s) => if (gs.all fun g => (s.localOf g).isSome) then (.inr { x := x, idx := l, ins := ins, part := gs }, s) else (.inl 0x076, s)
      else (.inr { x := x, idx := l, ins := ins, part := [] }, s)

/-- Local addresses of a part of the PART area. -/
def State.partSegs (s : State) (gs : List Seg) (off n : Nat) : List (Nat × Nat × Bool) :=
  (gs.foldl (fun (r : List (Nat × Nat × Bool) × Nat) g =>
    let lo := max off r.2
    let hi := min (off + n) (r.2 + g.len)
    (match s.localOf g with
     | some a => if lo < hi then r.1 ++ [(a + (lo - r.2), hi - lo, g.noalloc)] else r.1
     | none => r.1, r.2 + g.len)) ([], 0)).1

/-- What a GROUP has produced so far. -/
structure GroupAcc where
  left  : Nat := 0
  sums  : List Contrib := []
  met   : Met := {}
  bytes : Nat := 0
  deriving DecidableEq, Repr

/-- A finished block's results leave for C. -/
def State.blockWrite (s : State) (t c id : Nat) (x : TrsE) (blk : Nat) (es : Nat → Nat → Entry) (acc : GroupAcc) : GroupAcc × State :=
  let (ws, mx) := blockOut x blk es
  let r := ws.foldl (fun (r : Nat × State) w =>
    match r.2.reach (tileDie t) (some c) w.1 w.2.length true with
    | (.ok gs, s) =>
      let (n, s) := s.reachWrite c (.tile t id) (engPage t .mxe) (tileDie t) 0 (memId t id) 0 gs w.2
      (r.1 + n, s)
    | (.refused _, s) => (r.1, s)) (0, s)
  ({ acc with left := acc.left + r.1, bytes := acc.bytes + (ws.map fun w => w.2.length).sum
              sums := if x.uen then acc.sums ++ [{ u := x.usum, kind := .max, val := BitVec.ofNat 64 mx }] else acc.sums }, r.2)

/-- One run of this tile (R207): a whole block is written at once; a part of one goes through the partial area. -/
def State.groupRun (s : State) (t c id : Nat) (es : List EntAt) (feds : List (Fed × Fed)) (runs : List Run) (acc : GroupAcc) (r : Run) :
    GroupAcc × State :=
  match es[r.entry]?, feds[r.entry]? with
  | some ent, some (a, b) =>
    let x := ent.x
    let (r0, c0, m, n) := x.blockAt r.block
    let pg := trsPage t
    let blockRuns := runs.filter fun q => decide (q.entry = r.entry ∧ q.block = r.block)
    let s := s.count pg 6 none r.len
    if blockRuns.all fun q => decide (q.share = r.share) then
      if r.first = 0 then s.blockWrite t c id x r.block (fun i j => wholeEntry x a b (r0 + i) (c0 + j)) acc else (acc, s)
    else
      let area := r.block * (64 + x.segs * 262144)
      let mine (i j : Nat) : Entry := segEntry x a b r.first r.len (r0 + i) (c0 + j)
      let raw := (List.range 128).flatMap fun i => (List.range 128).flatMap fun j =>
        toBytes 16 (if i < m ∧ j < n then mine i j else {}).bits
      let s := (s.writeSegs (some c) 0 (s.partSegs ent.part (area + 64 + r.first * 262144) 262144) raw).count pg 7
      let cw := s.partSegs ent.part area 8
      let (ob, s) := s.readSegs (some c) 0 cw
      let old := ofBytes ob
      let s := s.atomicSegs (some c) 1 3 cw (toBytes 8 r.len)
      if x.segs < old + r.len then ({ acc with met := acc.met.join ⟨2, 0x076⟩ }, s.contained pg 0x076 (some c))
      else if old + r.len < x.segs then (acc, s)
      else
        let others := blockRuns.filter fun q => decide (q ≠ r)
        let (parts, s) := others.foldl (fun (p : List (Run × List Byte) × State) q =>
          let (d, s) := p.2.readSegs (some c) 0 (p.2.partSegs ent.part (area + 64 + q.first * 262144) 262144)
          (p.1 ++ [(q, d)], s)) (([] : List (Run × List Byte)), s)
        let per := x.spanLen / 2048
        let all (i j : Nat) : List (Nat × Entry) := (blockRuns.map fun q =>
          (q.first / per, if q = r then mine i j
            else match parts.find? fun p => decide (p.1 = q) with
              | some p => entryOfBits (ofBytes ((p.2.drop (2048 * i + 16 * j)).take 16))
              | none => {}))
        let whole (i j : Nat) : Entry :=
          let es := all i j
          let spans := (x.segs + per - 1) / per
          match (List.range spans).map fun sp => (match (es.filter fun e => decide (e.1 = sp)).map Prod.snd with
              | [] => ({} : Entry)
              | e :: rest => rest.foldl addPartial e) with
          | [] => {}
          | e :: rest => rest.foldl (fun acc e => mergeEntries [acc, e]) e
        let (acc, s) := (s.count pg 8).blockWrite t c id x r.block whole acc
        (acc, s.writeSegs (some c) 0 (s.partSegs ent.part area 8) (toBytes 8 0))
  | _, _ => (acc, s)

/-- After a GROUP the accumulators hold what its walk left in them, which the manual does not state (R145). -/
def freeAcc (d : Nat) : Tab Entry :=
  (List.range 32768).foldl (fun m k =>
    Tab.set {} m k { int := BitVec.ofNat 112 ((Config.badBits d (4 * k)).toNat + (Config.badBits d (4 * k + 1)).toNat * 2 ^ 64)
                     anchor := BitVec.ofNat 12 (Config.badBits d (4 * k + 2)).toNat
                     nan := (Config.badBits d (4 * k + 3)).getLsbD 0, pinf := (Config.badBits d (4 * k + 3)).getLsbD 1
                     ninf := (Config.badBits d (4 * k + 3)).getLsbD 2, inexact := (Config.badBits d (4 * k + 3)).getLsbD 3
                     intOnly := (Config.badBits d (4 * k + 3)).getLsbD 4 }) []

/-- Both banks' checksum regions are invalidated (R146). -/
def State.dropChk (s : State) (t bank : Nat) : State :=
  if ((s.tile t).chk bank).valid then
    let pg := engPage t .mxe
    ((s.modTile t fun ti => ti.setChk bank {}).event pg 7).count pg 12
  else s

/-- The second pass: this tile's units (R205 to R207). -/
def State.groupCompute (s : State) (t c : Nat) (ecc : Ecc) (f : Flight) (es : List EntAt) : State :=
  let (m, s) := s.eccMem (some c) ecc
  let s := (s.dropChk t 0).dropChk t 1
  let (feds, s) := es.foldl (fun (r : List (Fed × Fed) × State) ent =>
    let x := ent.x
    let na := (opRows x.a x.m x.k).1
    let nb := (opRows x.b x.n x.k).1
    let (xa, _) := auxRows x.a x.m x.k
    let (ra, s) := r.2.reachRows (some c) f.got (ent.ins.take na)
    let (rb, s) := s.reachRows (some c) f.got ((ent.ins.drop na).take nb)
    let (ua, s) := s.reachRows (some c) f.got ((ent.ins.drop (na + nb)).take xa)
    let (ub, s) := s.reachRows (some c) f.got (ent.ins.drop (na + nb + xa))
    (r.1 ++ [(fedOf x.a x.m x.k ra ua, fedOf x.b x.n x.k rb ub)], s)) (([] : List (Fed × Fed)), s)
  let xs := es.map fun e => e.x
  let us := (xs.mapIdx fun i x => x.units i).flatten
  let runs := runsOf xs (dealUnits us (f.desc.f 3 8 8))
  let (acc, s) := (runs.filter fun r => decide (r.share = f.desc.f 3 0 8)).foldl
    (fun (p : GroupAcc × State) r => p.2.groupRun t c f.id es feds runs p.1 r) (({} : GroupAcc), s)
  let (d, s) := s.draw
  let s := s.modTile t fun ti => { ti with acc := freeAcc d }
  let s := (s.count (trsPage t) 3).setFld (trsPage t) 0x130 1 1 1
  (s.modFlight t f.id fun f =>
    { ((f.meet m).meet acc.met) with phase := 3, left := f.left + acc.left, unsent := f.unsent + acc.left, sums := acc.sums, bytes := acc.bytes }).pump

/-- The index list of an entry, as its bytes give it. -/
def idxList (n : Nat) (d : List Byte) : List Nat := (List.range n).map fun i => ofBytes ((d.drop (4 * i)).take 4)

/-- GETs for tray memory that a GROUP reads, when there is any; the next phase otherwise. -/
def State.groupGather (s : State) (t c : Nat) (f : Flight) (phase : Nat) (gs : List Seg) : Bool × State :=
  let (n, s) := s.gather c (.tile t f.id) (engPage t .mxe) (tileDie t) 0 gs
  (decide (n = 0), (s.modFlight t f.id fun f => { f with phase := phase, left := f.left + n, unsent := f.unsent + n }).pump)

/-- The walk of a started GROUP (R204): the table, then what its entries name, then the units; it waits where a controller does not
admit (R41). `fuel` bounds the phases. -/
def State.groupWalk (t c : Nat) (ecc : Ecc) : Nat → Flight → State → State
  | 0, _, s => s
  | fuel + 1, f, s0 =>
    let s := s0
    let d := f.desc
    let die := tileDie t
    let cnt := d.f 2 32 32
    let base := d.w1.toNat + 128 * d.f 2 0 32
    if s.stageBad t then s.groupRefuse t f.id 0x077
    else match s.reach die (some c) base (128 * cnt) false with
      | (.refused k, s) => s.groupRefuse t f.id (if k = 0 then 0x075 else k)
      | (.ok gs, s1) =>
        if s.segsHeld gs then s0
        else if f.phase = 0 then
          let (go, s) := s1.groupGather t c f 1 gs
          if go then State.groupWalk t c ecc fuel { f with phase := 1 } s else s
        else
          let (tb, s) := s1.reachBytes (some c) 0 f.got gs
          let xs := (List.range cnt).map fun i => trsOf (wordsOf 16 ((tb.drop (128 * i)).take 128))
          let s := if f.phase = 1 then s.count (trsPage t) 5 none cnt else s
          if xs.any TrsE.badFmt then s.groupRefuse t f.id 0x074
          else if xs.any TrsE.misaligned then s.groupRefuse t f.id 0x075
          else match s.reachAll die (some c) false (xs.map fun x => (x.idx, if x.gather then 4 * x.tok else 0)) with
            | (.inl k, s) => s.groupRefuse t f.id (if k = 0 then 0x075 else k)
            | (.inr lists, s) =>
              if s.segsHeld lists.flatten then s0
              else if f.phase = 1 then
                let (go, s) := s.groupGather t c f 2 lists.flatten
                if go then State.groupWalk t c ecc fuel { f with phase := 2 } s else s
              else
                let (ls, s) := lists.foldl (fun (r : List (List Byte) × State) g =>
                  let (b, s) := r.2.reachBytes (some c) 0 f.got g
                  (r.1 ++ [b], s)) (([] : List (List Byte)), s)
                let (res, s) := (List.range cnt).foldl (fun (acc : (Nat ⊕ List EntAt) × State) i =>
                  match acc with
                  | (.inl k, s) => (.inl k, s)
                  | (.inr es, s) =>
                    let x := xs.getD i (trsOf [])
                    match s.entryReach die (some c) x (idxList (if x.gather then x.tok else 0) (ls.getD i [])) with
                    | (.inl k, s) => (.inl k, s)
                    | (.inr e, s) => (.inr (es ++ [e]), s)) ((.inr [] : Nat ⊕ List EntAt), s)
                match res with
                | .inl k => s.groupRefuse t f.id k
                | .inr es =>
                  if s.segsHeld (es.flatMap fun e => e.ins.flatten ++ e.part) || (es.any fun e => e.x.outRanges.any fun w => s.vaHeld die c w.1 w.2 true) then s0
                  else if f.phase = 2 then
                    let (go, s) := s.groupGather t c f 4 (es.flatMap fun e => e.ins.flatten)
                    if go then s.groupCompute t c ecc { f with phase := 4 } es else s
                  else s.groupCompute t c ecc f es

/-- The GROUP that has started and is not computed yet. -/
def Tile.walking (t : Tile) : Option Flight := t.flights.find? fun f => decide (f.eng = .mxe ∧ f.desc.op = 3 ∧ f.phase ≠ 3) && !f.refused

/-- A GROUP that passed the checks of R131: it starts, and walks. -/
def State.groupRunDesc (t : Nat) (ecc : Ecc) (d : Desc) (s : State) : State :=
  let id := (s.tile t).serial
  let s := (s.takeDesc t .mxe d (fun f => f)).setRaw (trsPage t) 0x130 0
  let s := s.applyStaged (trsPage t)
  match s.ctxOf t with
  | none => s.groupRefuse t id 0x075
  | some c => State.groupWalk t c ecc 4 { id := id, eng := .mxe, desc := d } s

/-- GROUP: the walker reads a Trestle table and computes this tile's units (R204 to R207). It starts with the Matrix Engine
idle (R142); where it reads tray memory it goes on once that has arrived (R281). -/
def execGroup (t : Fin 192) (ecc : Ecc) (s : State) : Host.Outcome State Fault Refusal :=
  if !s.tileRuns t then .next s else
  match (s.tile t).walking, s.ctxOf t with
  | some f, some c => if f.left = 0 then .next (State.groupWalk t c ecc 4 f s) else .next s
  | _, _ =>
    if !s.admits (trsPage t) then .next s
    else .next (s.engineStart t .mxe mxeOps 3 (fun _ => ((s.tile t).flightsOf .mxe).all fun f => f.refused) (fun d _ => groupBad d)
      (State.groupRunDesc t ecc))

end Sys2Proof.Machine
end

