-- ==== Sys2Proof/Machine/Sbd.lean ====
section
/-! DEFINITION. The Sideboard: what a job decides and writes (R189 to R202, R212). -/

namespace Sys2Proof.Machine

/-- The job descriptor (R191). -/
structure SbdF where
  e      : Nat
  g      : Nat
  p      : Nat
  kact   : Nat
  kcand  : Nat
  mode   : Nat
  ovf    : Nat
  ntpl   : Nat
  t0     : Nat
  t1     : Nat
  tokB   : Nat
  cap    : Nat
  fbase  : Nat
  fsize  : Nat
  cm     : Nat
  choice : Nat
  etab   : Nat
  tpl    : Nat
  tbl    : Nat
  perm   : Nat
  cmap   : Nat
  inv    : Nat
  stats  : Nat
  rows   : Nat
  zrow   : Nat
  part   : Nat
  pstep  : Nat
  done   : Nat
  resv   : Bool
  deriving DecidableEq, Repr

def sbdOf (ws : List Word) : SbdF :=
  let w (i : Nat) : Word := ws.getD i 0
  { e := bits (w 0) 0 11 + 1, g := bits (w 0) 11 8 + 1, p := bits (w 0) 19 8, kact := bits (w 0) 27 3 + 1, kcand := bits (w 0) 30 3 + 1,
    mode := bits (w 0) 33 2, ovf := bits (w 0) 35 2, ntpl := bits (w 0) 37 2 + 1, t0 := bits (w 1) 0 21, t1 := bits (w 1) 21 21,
    tokB := bits (w 2) 0 32, cap := bits (w 2) 32 21, fbase := (w 3).toNat, fsize := bits (w 4) 0 40, cm := (w 5).toNat,
    choice := (w 6).toNat, etab := (w 7).toNat, tpl := (w 8).toNat, tbl := (w 9).toNat, perm := (w 10).toNat, cmap := (w 11).toNat,
    inv := (w 12).toNat, stats := (w 13).toNat, rows := bits (w 14) 0 32, zrow := bits (w 14) 32 32, part := (w 15).toNat,
    pstep := bits (w 16) 0 32 * 4096, done := (w 17).toNat,
    resv := decide (bits (w 0) 39 25 ≠ 0 ∨ bits (w 1) 42 22 ≠ 0 ∨ bits (w 2) 53 11 ≠ 0 ∨ bits (w 4) 40 24 ≠ 0 ∨ bits (w 16) 32 32 ≠ 0) }

/-- Tokens of the micro-batch. -/
def SbdF.t (x : SbdF) : Nat := x.t0 + x.t1

/-- 0x080: a descriptor outside R193. -/
def SbdF.bad (x : SbdF) : Bool :=
  x.resv || decide (x.mode = 3 ∨ x.ovf = 3 ∨ x.kcand < x.kact ∨ x.e < x.kcand ∨ 131072 < x.g * x.e ∨ x.g ≤ x.p ∨ 2 ^ 20 < x.t0 + x.t1)
    || decide (x.done % 8 ≠ 0)
    || [x.fbase, x.cm, x.choice, x.etab, x.tpl, x.tbl, x.perm, x.cmap, x.inv, x.stats, x.part].any fun a => decide (a % 32 ≠ 0)

/-- An expert record (R192). -/
structure Expert where
  owner  : Nat
  policy : Nat
  fbytes : Nat
  wpages : Nat
  gpages : Nat
  waddr  : Word
  gaddr  : Word
  resv   : Bool
  deriving DecidableEq, Repr

def expertOf (ws : List Word) : Expert :=
  let w (i : Nat) : Word := ws.getD i 0
  { owner := bits (w 0) 0 8, policy := bits (w 0) 8 2, fbytes := bits (w 0) 16 40, wpages := bits (w 1) 0 16, gpages := bits (w 1) 16 16,
    waddr := w 2, gaddr := w 3, resv := decide (bits (w 0) 10 6 ≠ 0 ∨ bits (w 0) 56 8 ≠ 0 ∨ bits (w 1) 32 32 ≠ 0) }

/-- A WADDR or GADDR in the local form or the global form of memory (R263). -/
def badAddr (a : Word) : Bool := decide (1 < bits a 62 2) || (decide (bits a 62 2 = 1) && a.getLsbD 48)

/-- The address it gives in its own package. -/
def localAddr (a : Word) : Nat := if bits a 62 2 = 0 then a.toNat else bits a 0 48

/-- The outcomes of R194. -/
inductive Outc where
  | here | none | dispatch | fetch
  deriving DecidableEq, Repr

def Outc.num : Outc → Nat
  | .here => 0 | .none => 1 | .dispatch => 2 | .fetch => 3

/-- Everything a job decides from: descriptor, expert table, count matrix. -/
structure SbdIn where
  x  : SbdF
  ex : List Expert
  cm : List Nat
  deriving DecidableEq, Repr

def SbdIn.exp (i : SbdIn) (e : Nat) : Expert := i.ex.getD e (expertOf [])
/-- c(h, q, e) (R189). -/
def SbdIn.c (i : SbdIn) (h q e : Nat) : Nat := i.cm.getD ((h * i.x.g + q) * i.x.e + e) 0

/-- The outcome of a pair before the fetch area (R194). -/
def SbdIn.first (i : SbdIn) (q e : Nat) : Outc :=
  let n := i.c 0 q e + i.c 1 q e
  let r := i.exp e
  if q = r.owner then .here
  else if n = 0 then .none
  else if i.x.mode = 1 ∨ (i.x.mode = 0 ∧ r.policy = 1) then .dispatch
  else if i.x.mode = 2 ∨ (i.x.mode = 0 ∧ r.policy = 2) then .fetch
  else if r.fbytes < n * i.x.tokB then .fetch else .dispatch

/-- The outcomes of a member in expert order with their slots in bytes, and the fetches denied (R195). -/
def SbdIn.outcomes (i : SbdIn) (q : Nat) : List (Outc × Nat) × Nat :=
  let r := (List.range i.x.e).foldl (fun (r : List (Outc × Nat) × Nat × Nat) e =>
    let (l, used, den) := r
    match i.first q e with
    | .fetch =>
      let n := ((i.exp e).wpages + (i.exp e).gpages) * 4096
      if i.x.fsize < used + n then (l ++ [(.dispatch, 0)], used, den + 1) else (l ++ [(.fetch, used)], used + n, den)
    | o => (l ++ [(o, 0)], used, den)) (([] : List (Outc × Nat)), 0, 0)
  (r.1, r.2.2)

/-- A job with its outcomes, by member. -/
structure Dec where
  i   : SbdIn
  out : List (List (Outc × Nat))
  den : Nat                        -- FETCH_DENIED of this member
  deriving DecidableEq, Repr

def SbdIn.decide (i : SbdIn) : Dec :=
  let all := (List.range i.x.g).map i.outcomes
  { i := i, out := all.map Prod.fst, den := (all.getD i.x.p ([], 0)).2 }

def Dec.o (d : Dec) (q e : Nat) : Outc := ((d.out.getD q []).getD e (.none, 0)).1
def Dec.slot (d : Dec) (q e : Nat) : Nat := ((d.out.getD q []).getD e (.none, 0)).2
def Dec.cap (d : Dec) : Nat := d.i.x.cap

/-- The member whose replica computes q's tokens of e. -/
def Dec.home (d : Dec) (q e : Nat) : Nat := if d.o q e = .fetch then q else (d.i.exp e).owner
/-- Members whose assignments the replica of e at m admits, ascending (R196). -/
def Dec.members (d : Dec) (m e : Nat) : List Nat :=
  if m = (d.i.exp e).owner then (List.range d.i.x.g).filter fun q => decide (d.o q e = .here ∨ d.o q e = .dispatch) else [m]
/-- Member m holds a replica of e. -/
def Dec.has (d : Dec) (m e : Nat) : Bool := decide (m = (d.i.exp e).owner) || decide (d.o m e = .fetch)

/-- How many of n candidates that start at place `start` the bound accepts. -/
def Dec.accept (d : Dec) (start n : Nat) : Nat := if d.cap = 0 then n else min n (d.cap - start)

/-- Candidates of half 0 before member q's. -/
def Dec.start0 (d : Dec) (m e q : Nat) : Nat := (((d.members m e).filter fun r => decide (r < q)).map fun r => d.i.c 0 r e).sum
/-- What member q has accepted in half 0, and what it queues under QUEUE. -/
def Dec.acc0 (d : Dec) (m e q : Nat) : Nat := d.accept (d.start0 m e q) (d.i.c 0 q e)
def Dec.queued (d : Dec) (m e q : Nat) : Nat := if d.i.x.ovf = 2 then d.i.c 0 q e - d.acc0 m e q else 0
/-- Places of half 1 before q's queued and before its half-1 assignments. -/
def Dec.startQ (d : Dec) (m e q : Nat) : Nat := (((d.members m e).filter fun r => decide (r < q)).map fun r => d.queued m e r).sum
def Dec.start1 (d : Dec) (m e q : Nat) : Nat :=
  ((d.members m e).map fun r => d.queued m e r).sum + (((d.members m e).filter fun r => decide (r < q)).map fun r => d.i.c 1 r e).sum
def Dec.accQ (d : Dec) (m e q : Nat) : Nat := d.accept (d.startQ m e q) (d.queued m e q)
def Dec.acc1 (d : Dec) (m e q : Nat) : Nat := d.accept (d.start1 m e q) (d.i.c 1 q e)
/-- Accepted rows of a half at a replica, spills apart. -/
def Dec.rows (d : Dec) (m e h : Nat) : Nat :=
  let ms := d.members m e
  if h = 0 then d.accept 0 (ms.map fun q => d.i.c 0 q e).sum
  else d.accept 0 ((ms.map fun q => d.queued m e q).sum + (ms.map fun q => d.i.c 1 q e).sum)

/-! ## This member's assignments -/

/-- One assignment of a token: its rank, the expert whose replica takes it, the member of the replica, the half and the row
within it; `dest` none when it is passed. `home` is the expert that it chose. -/
structure Asg where
  t     : Nat
  r     : Nat
  home  : Nat
  late  : Bool := false
  queue : Bool := false
  spill : Bool := false
  score : Nat := 0
  dest  : Option (Nat × Nat × Nat × Nat) := none   -- member, expert, half, row in the half
  deriving DecidableEq, Repr

/-- Choice record r of token t (R187): score and expert. -/
def choiceAt (x : SbdF) (cs : List Byte) (t r : Nat) : Nat × Nat :=
  let v := ofBytes ((cs.drop (8 * (x.kcand * t + r))).take 8)
  (v % 2 ^ 32, v / 2 ^ 32 % 2 ^ 11)

/-- The active choices of one expert in one half, in ascending token index: token, rank, score. -/
def chosen (x : SbdF) (cs : List Byte) (h e : Nat) : List (Nat × Nat × Nat) :=
  let lo := if h = 0 then 0 else x.t0
  let n := if h = 0 then x.t0 else x.t1
  (List.range n).flatMap fun k => (List.range x.kact).filterMap fun r =>
    let c := choiceAt x cs (lo + k) r
    if c.2 = e then some (lo + k, r, c.1) else none

/-- The assignments of one expert before spills (R196, R197). -/
def Dec.assign (d : Dec) (cs : List Byte) (e : Nat) : List Asg :=
  let x := d.i.x
  let p := x.p
  let m := d.home p e
  let ok := decide (d.o p e ≠ .none)
  let a0 := if ok then d.acc0 m e p else 0
  let aq := if ok then d.accQ m e p else 0
  let a1 := if ok then d.acc1 m e p else 0
  let mk (c : Nat × Nat × Nat) : Asg := { t := c.1, r := c.2.1, home := e, score := c.2.2 }
  let h0 := (chosen x cs 0 e).mapIdx fun k c =>
    if k < a0 then { mk c with dest := some (m, e, 0, d.start0 m e p + k) }
    else if x.ovf = 2 then
      { mk c with late := true, queue := true, dest := if k - a0 < aq then some (m, e, 1, d.startQ m e p + (k - a0)) else none }
    else { mk c with late := true }
  let h1 := (chosen x cs 1 e).mapIdx fun k c =>
    if k < a1 then { mk c with dest := some (m, e, 1, d.start1 m e p + k) } else { mk c with late := true }
  h0 ++ h1

/-- The overflowing assignments of SPILL move to spares with room on the member (R197); the spills so far are counted by
half * 4096 + expert. -/
def Dec.spill (d : Dec) (cs : List Byte) (as : List Asg) : List Asg × Tab Nat :=
  let x := d.i.x
  as.foldl (fun (r : List Asg × Tab Nat) a =>
    if x.ovf = 1 ∧ a.late then
      let h := if a.t < x.t0 then 0 else 1
      let room (e : Nat) : Bool := d.has x.p e && decide (d.rows x.p e h + Tab.get 0 r.2 (h * 4096 + e) < d.cap)
      match ((List.range (x.kcand - x.kact)).map fun k => choiceAt x cs a.t (x.kact + k)).find? fun c => room c.2 with
      | none => (r.1 ++ [a], r.2)
      | some c =>
        let n := Tab.get 0 r.2 (h * 4096 + c.2)
        (r.1 ++ [{ a with spill := true, score := c.1, dest := some (x.p, c.2, h, d.rows x.p c.2 h + n) }], Tab.set 0 r.2 (h * 4096 + c.2) (n + 1))
    else (r.1 ++ [a], r.2)) (([] : List Asg), [])

/-- All assignments of the member in token order (half, token, rank), spilled where they spill, and the spills. -/
def Dec.assignments (d : Dec) (cs : List Byte) : List Asg × Tab Nat :=
  let as := (List.range d.i.x.e).flatMap fun e => d.assign cs e
  let sorted := (List.range d.i.x.t).flatMap fun t => (List.range d.i.x.kact).flatMap fun r => as.filter fun a => decide (a.t = t ∧ a.r = r)
  d.spill cs sorted

/-- A job decided, with the member's assignments. -/
structure Plan where
  d     : Dec
  draw  : Nat
  as    : List Asg
  spills : Tab Nat
  deriving DecidableEq, Repr

/-- Rows of a half of a replica, spills included; another member's own spills are a free value. -/
def Plan.half (k : Plan) (m e h : Nat) : Nat :=
  let sp := if k.d.i.x.ovf ≠ 1 then 0
    else if m = k.d.i.x.p then Tab.get 0 k.spills (h * 4096 + e)
    else Config.foreignSpills k.draw m e h
  k.d.rows m e h + sp

/-- The replicas of a member in row order: owned experts, then fetched ones (R200). -/
def Dec.replicas (d : Dec) (m : Nat) : List Nat :=
  let all := List.range d.i.x.e
  (all.filter fun e => decide ((d.i.exp e).owner = m)) ++ (all.filter fun e => decide (d.o m e = .fetch))

/-- First EIN row of a replica's half at a member. -/
def Plan.row0 (k : Plan) (m e h : Nat) : Nat :=
  let before := (k.d.replicas m).takeWhile fun f => decide (f ≠ e)
  (before.map fun f => k.half m f 0 + k.half m f 1).sum + (if h = 0 then 0 else k.half m e 0)

/-- L: this member's EIN rows. -/
def Plan.own (k : Plan) : Nat := ((k.d.replicas k.d.i.x.p).map fun f => k.half k.d.i.x.p f 0 + k.half k.d.i.x.p f 1).sum

/-- A run of R200: destination member, half, first destination row, the assignments it carries. -/
structure PRun where
  q   : Nat
  h   : Nat
  row : Nat
  as  : List Asg
  deriving DecidableEq, Repr

/-- The runs: for each member, expert and half, the assignments by their rows, cut where their rows do not follow on. -/
def Plan.runs (k : Plan) : List PRun :=
  let x := k.d.i.x
  (List.range x.g).flatMap fun q => (List.range x.e).flatMap fun e => (List.range 2).flatMap fun h =>
    let mine := k.as.filterMap fun a => match a.dest with
      | some (m, f, g, r) => if m = q ∧ f = e ∧ g = h then some (r, a) else none
      | none => none
    let ordered := (List.range (k.half q e h + 1)).flatMap fun r => (mine.filter fun y => decide (y.1 = r))
    ordered.foldl (fun (rs : List PRun) y =>
      match rs.getLast? with
      | some l =>
        if l.row + l.as.length = k.row0 q e h + y.1 then rs.dropLast ++ [{ l with as := l.as ++ [y.2] }]
        else rs ++ [{ q := q, h := h, row := k.row0 q e h + y.1, as := [y.2] }]
      | none => [{ q := q, h := h, row := k.row0 q e h + y.1, as := [y.2] }]) ([] : List PRun)

/-- The Y row of every assignment that is served: local rows as they lie, returns from L on in run order (R200, R201). -/
def Plan.yRows (k : Plan) (rs : List PRun) : List (Asg × Nat) :=
  (rs.foldl (fun (r : List (Asg × Nat) × Nat) u =>
    if u.q = k.d.i.x.p then (r.1 ++ u.as.mapIdx (fun j a => (a, u.row + j)), r.2)
    else (r.1 ++ u.as.mapIdx (fun j a => (a, r.2 + j)), r.2 + u.as.length)) (([] : List (Asg × Nat)), k.own)).1

/-! ## What the job writes -/

def words4 (ns : List Nat) : List Byte := ns.flatMap (toBytes 4)

/-- The dispatch table, the fetch list and the index lists of its runs (R199, R305, R306). -/
def Plan.permBytes (k : Plan) (rs : List PRun) : List Byte :=
  let x := k.d.i.x
  let fetched := (List.range x.e).filter fun e => decide (k.d.o x.p e = .fetch)
  let gap := Config.listGap k.draw
  let base := x.perm + 64 + 32 * rs.length + 32 * fetched.length + gap
  let head := bytesOf [BitVec.ofNat 64 (rs.length % 2 ^ 32), BitVec.ofNat 64 (x.tokB / 4 % 2 ^ 32 + k.own % 2 ^ 32 * 2 ^ 32), 0, 0]
  let recs := (rs.foldl (fun (r : List Byte × Nat) u =>
    (r.1 ++ bytesOf [BitVec.ofNat 64 (u.q + 2 ^ 8 + u.h * 2 ^ 9 + u.as.length * 2 ^ 32), BitVec.ofNat 64 (u.row % 2 ^ 32 * 2 ^ 32),
       BitVec.ofNat 64 r.2, 0], r.2 + 4 * u.as.length)) (([] : List Byte), base)).1
  let fl := bytesOf [BitVec.ofNat 64 fetched.length, 0, 0, 0] ++ fetched.flatMap fun e =>
    let r := k.d.i.exp e
    bytesOf [BitVec.ofNat 64 (e + r.owner * 2 ^ 11 + k.d.slot x.p e / 4096 * 2 ^ 32), BitVec.ofNat 64 r.wpages, r.waddr, 0]
  head ++ recs ++ fl ++ List.replicate gap 0 ++ rs.flatMap fun u => words4 (u.as.map Asg.t)

/-- The combine map (R201). -/
def Plan.cmapBytes (k : Plan) (ys : List (Asg × Nat)) : List Byte :=
  let x := k.d.i.x
  (List.range x.kact).flatMap fun r =>
    let at' := (List.range x.t).map fun t => ys.find? fun y => decide (y.1.t = t ∧ y.1.r = r)
    words4 (at'.map fun y => match y with | some y => y.2 | none => x.zrow) ++ words4 (at'.map fun y => match y with | some y => y.1.score | none => 0)

/-- The inverse map (R201). -/
def Plan.invBytes (k : Plan) (ys : List (Asg × Nat)) : List Byte :=
  let x := k.d.i.x
  let n := ys.foldl (fun n y => max n (y.2 + 1)) k.own
  words4 ((List.range n).map fun row => match ys.find? fun y => decide (y.2 = row) with
    | some y => y.1.t * x.kact + y.1.r
    | none => x.zrow)

/-- The statistics of one expert (R199). -/
def Plan.stat (k : Plan) (e : Nat) : List Nat :=
  let mine := k.as.filter fun a => decide (a.home = e)
  let n (f : Asg → Bool) : Nat := (mine.filter f).length
  [n fun a => a.dest.isSome && !a.spill, n Asg.late, n Asg.spill, n Asg.queue, n fun a => a.dest.isNone]

def Plan.statBytes (k : Plan) : List Byte :=
  (List.range k.d.i.x.e).flatMap fun e =>
    words4 (k.stat e ++ [((List.range k.d.i.x.g).filter fun q => decide (k.d.o q e = .fetch)).length,
      (Config.outcomeCode (k.d.o k.d.i.x.p e).num).toNat, 0])

/-- One table entry from its template (R202): kind 0 to 4, template t, position at, expert e. -/
def Plan.entry (k : Plan) (tpl : List Word) (kind t pos e : Nat) : List Word :=
  let x := k.d.i.x
  let w (i : Nat) : Word := tpl.getD i 0
  if !k.d.has x.p e then tpl.mapIdx fun i v => if i = 0 then v ||| (1#64 <<< 24) else v
  else
    let r := k.d.i.exp e
    let mineOwn := decide (r.owner = x.p)
    let wb := if mineOwn then localAddr r.waddr else x.fbase + k.d.slot x.p e
    let gb := if mineOwn then localAddr r.gaddr else x.fbase + k.d.slot x.p e + r.wpages * 4096
    let tok := if kind = 4 then k.half x.p e 0 + k.half x.p e 1 else k.half x.p e (kind % 2)
    let row := k.row0 x.p e (if kind = 4 then 0 else kind % 2)
    let up (v : Word) (n : Nat) : Word := v + BitVec.ofNat 64 n
    let astr := bits (w 9) 0 32 * 32
    let bstr := bits (w 9) 32 32 * 32
    let cstr := bits (w 10) 0 32 * 32
    tpl.mapIdx fun i v =>
      if i = 0 then putBits v 0 21 tok
      else if kind = 4 then
        (match i with
         | 2 => up v (row * astr) | 3 => up v (row * bstr) | 4 => up v gb | 12 => BitVec.ofNat 64 (x.part + (t * x.e + pos) * x.pstep) | _ => v)
      else (match i with | 2 => up v (row * astr) | 3 => up v wb | 4 => up v (row * cstr) | _ => v)

/-- The five Trestle tables (R199, R202); the templates of the classes FWD, BWI and BWW follow each other at TPL. -/
def Plan.tableBytes (k : Plan) (tpls : List Byte) : List Byte :=
  let x := k.d.i.x
  let all := List.range x.e
  let order := (all.filter fun e => decide ((k.d.i.exp e).owner = x.p)) ++ (all.filter fun e => decide ((k.d.i.exp e).owner ≠ x.p))
  (List.range 5).flatMap fun kind => (List.range x.ntpl).flatMap fun t =>
    let tpl := wordsOf 16 ((tpls.drop (128 * (kind / 2 * x.ntpl + t))).take 128)
    (order.mapIdx fun pos e => bytesOf (k.entry tpl kind t pos e)).flatten

/-- The matrix hash (R199). -/
def cmHash (cm : List Nat) : Word := BitVec.ofNat 64 ((cm.mapIdx fun i v => v * (2 * i + 1)).sum)

/-! ## Jobs -/

/-- The four Sideboards admit. -/
def State.sbdAdmits (s : State) : Bool := (List.range 4).all fun st => s.admits (sbdPage st)

/-- QMAX as it acts (R212). -/
def State.qMax (s : State) : Nat := max 1 (min 64 (s.fld (sbdPage 0) 0x400 0 7))

/-- Held starts take the places that have come free (R190). -/
def State.sbdFill (s : State) : State :=
  if s.sbdAdmits then
    let n := s.qMax - s.sbd.queue.length
    { s with sbd := { s.sbd with queue := s.sbd.queue ++ s.sbd.waiting.take n, waiting := s.sbd.waiting.drop n } }
  else s

/-- A job is started (R190). -/
def State.sbdQueue (s : State) (addr ctx : Nat) : State :=
  State.sbdFill { s with sbd := { s.sbd with waiting := s.sbd.waiting ++ [{ addr := addr, ctx := ctx }] } }

/-- The identity of a Sideboard job's memory writes. -/
def sbdMem : Nat := memId 200 0

def State.modSbd (s : State) (f : SbdRun → SbdRun) : State := { s with sbd := { s.sbd with running := s.sbd.running.map f } }

/-- The job is refused: Contained (R193). -/
def State.sbdRefuse (s : State) (j : SbdRun) (code : Nat) : State :=
  let s := if code = 0x0C4 then s else s.contained (sbdPage 0) code (some j.job.ctx)
  s.modSbd fun r => { r with code := code, phase := 3 }

/-- A job counts n of counter i, by shares that the manual does not give (R190, R212). -/
def State.sbdCount (s : State) (ctx i n : Nat) : State :=
  let (d, s) := s.draw
  ((List.range 4).foldl (fun (r : State × Nat) st =>
    let k := if st = 3 then r.2 else min r.2 (Config.sbdShare d i st)
    (r.1.count (sbdPage st) i (some ctx) k, r.2 - k)) (s, n)).1

/-- GETs for the tray memory that a stage reads: none needed, or the job waits in a phase. -/
def State.sbdGather (s : State) (c phase : Nat) (gs : List Seg) : Bool × State :=
  let (n, s) := s.gather c .sbd (sbdPage 0) 0 0 gs
  (decide (n = 0), (s.modSbd fun r => { r with phase := phase, left := r.left + n }).pump)

/-- The decided job's outputs leave. -/
def State.sbdWrite (s : State) (j : SbdRun) (k : Plan) (ws : List (Nat × List Byte)) : State :=
  let c := j.job.ctx
  match s.reachAll 0 (some c) true (ws.map fun w => (w.1, w.2.length)) with
  | (.inl code, s) => s.sbdRefuse j (if code = 0 then 0x081 else code)
  | (.inr gss, s) =>
    let (n, s) := (gss.zip ws).foldl (fun (r : Nat × State) y =>
      let (m, s) := r.2.reachWrite c .sbd (sbdPage 0) 0 0 sbdMem 0 y.1 y.2.2
      (r.1 + m, s)) (0, s)
    let d := k.d
    let p := d.i.x.p
    let es := List.range d.i.x.e
    let tot (f : Asg → Bool) : Nat := (k.as.filter f).length
    let counts := [d.i.x.e * d.i.x.g, (es.filter fun e => decide (d.o p e = .dispatch)).length, (es.filter fun e => decide (d.o p e = .fetch)).length,
      d.den, tot fun a => a.dest.isSome && !a.spill, tot Asg.late, tot Asg.spill, tot Asg.queue, tot fun a => a.dest.isNone]
    (s.modSbd fun r => { r with phase := 3, left := r.left + n, hash := cmHash d.i.cm, counts := counts,
                                passed := k.as.any fun a => a.dest.isNone }).pump

/-- A job decides and writes, once its inputs are read. -/
def State.sbdDecide (s : State) (j : SbdRun) (ecc : Ecc) (x : SbdF) (et cm cs tp : List Byte) : State :=
  let c := j.job.ctx
  let (_, s) := s.eccMem (some c) ecc
  match ecc with
  | .uncorrectable _ => (s.stepFatal (sbdPage 0) 0x083 (some c)).modSbd fun r => { r with phase := 3, fatal := true, code := 0x083 }
  | _ =>
    let ex := (List.range x.e).map fun e => expertOf (wordsOf 4 ((et.drop (32 * e)).take 32))
    if ex.any fun r => r.resv || decide (r.policy = 3 ∨ x.g ≤ r.owner) || badAddr r.waddr || badAddr r.gaddr then s.sbdRefuse j 0x080
    else
      let d := ({ x := x, ex := ex, cm := (List.range (2 * x.g * x.e)).map fun i => ofBytes ((cm.drop (4 * i)).take 4) } : SbdIn).decide
      let (as, sp) := d.assignments cs
      let (n, s) := s.draw
      let k : Plan := { d := d, draw := n, as := as, spills := sp }
      if x.rows < k.own then s.sbdRefuse j 0x082
      else
        let rs := k.runs
        let ys := k.yRows rs
        s.sbdWrite j k [(x.tbl, k.tableBytes tp), (x.perm, k.permBytes rs), (x.cmap, k.cmapBytes ys), (x.inv, k.invBytes ys), (x.stats, k.statBytes)]

/-- The walk of a started job: its descriptor, its inputs, its decisions; `fuel` bounds the phases. -/
def State.sbdWalk (ecc : Ecc) : Nat → SbdRun → State → State
  | 0, _, s => s
  | fuel + 1, j, s =>
    let c := j.job.ctx
    if j.job.addr % 32 ≠ 0 then s.sbdRefuse j 0x080
    else match s.reach 0 (some c) j.job.addr 144 false with
      | (.refused k, s) => s.sbdRefuse j (if k = 0 then 0x081 else k)
      | (.ok gs, s1) =>
        if s.segsHeld gs then s
        else if j.phase = 0 then
          let (go, s) := s1.sbdGather c 1 gs
          if go then State.sbdWalk ecc fuel { j with phase := 1 } s else s
        else
          let (b, s) := s1.reachBytes (some c) 0 j.got gs
          let x := sbdOf (wordsOf 18 b)
          let s := s.modSbd fun r => { r with done := some x.done }
          if x.bad then s.sbdRefuse j 0x080
          else
            let ranges := [(x.etab, 32 * x.e), (x.cm, 8 * x.g * x.e), (x.choice, 8 * x.kcand * x.t), (x.tpl, 384 * x.ntpl)]
            match s.reachAll 0 (some c) false ranges with
            | (.inl k, s) => s.sbdRefuse j (if k = 0 then 0x081 else k)
            | (.inr gss, s) =>
              if s.segsHeld gss.flatten then s
              else if j.phase = 1 then
                let (go, s) := s.sbdGather c 2 gss.flatten
                if go then State.sbdWalk ecc fuel { j with phase := 2 } s else s
              else
                let (bs, s) := gss.foldl (fun (r : List (List Byte) × State) g =>
                  let (b, s) := r.2.reachBytes (some c) 0 j.got g
                  (r.1 ++ [b], s)) (([] : List (List Byte)), s)
                s.sbdDecide j ecc x (bs.getD 0 []) (bs.getD 1 []) (bs.getD 2 []) (bs.getD 3 [])

/-- A walk whose outputs go to a controller that does not admit is held: it has not happened yet (R41, R256). -/
def State.sbdStep (s t : State) : State :=
  match t.sbd.running with
  | some j => if (decide (j.phase = 3 ∧ j.code = 0) && !j.fatal) && t.writesHeld sbdMem then s else t
  | none => t

/-- SBD_JOB_START: the oldest queued job runs (R190); one that reads tray memory goes on once that has arrived. -/
def execSbdJobStart (ecc : Ecc) (s : State) : Host.Outcome State Fault Refusal :=
  if !s.awake then .next s
  else match s.sbd.running with
    | some j => if j.phase ≠ 3 ∧ j.left = 0 then .next (s.sbdStep (State.sbdWalk ecc 3 j s)) else .next s
    | none =>
      if !s.sbdAdmits then .next s
      else
        let s := s.sbdFill
        match s.sbd.queue.find? fun j => !s.upe.halted.contains j.ctx with
        | none => .next s
        | some q =>
          let rest := s.sbd.queue.erase q
          let j : SbdRun := { job := q }
          .next (s.sbdStep (State.sbdWalk ecc 3 j (State.sbdFill { s with sbd := { s.sbd with queue := rest, running := some j } })))

/-- Bytes written by the device at a virtual address, wherever it lies: nobody waits for a tray answer. -/
def State.storeAny (s : State) (die c page va hint : Nat) (d : List Byte) : Bool × State :=
  match s.reach die (some c) va d.length true with
  | (.refused _, s) => (false, s)
  | (.ok gs, s) =>
    let id := memId 201 0
    let (_, s) := s.reachWrite c .bureau page die 0 id hint gs d
    (true, (s.flushWrites (some c) id).pump)

/-- SBD_JOB_COMPLETE: outputs become visible, then DONE; counters and events (R190, R199, R212). -/
def execSbdJobComplete (busyNs : Nat) (s : State) : Host.Outcome State Fault Refusal :=
  if !s.awake then .next s else
  match s.sbd.running with
  | none => .next s
  | some j =>
    if j.phase ≠ 3 ∨ j.left ≠ 0 || (match j.done with
        | some a => !j.fatal && decide (a % 8 = 0) && s.vaHeld 0 j.job.ctx a (if j.code = 0 then 16 else 8) true
        | none => false) then .next s
    else
      let c := j.job.ctx
      let pg := sbdPage 0
      let s := if j.code = 0 then s.flushWrites (some c) sbdMem
        else s.modMem fun m => { m with writes := m.writes.filter fun w => decide (w.id ≠ sbdMem) }
      let s := match j.done with
        | none => s
        | some a =>
          if j.fatal ∨ a % 8 ≠ 0 then s
          else (s.storeAny 0 c pg a 0 (toBytes 8 (if j.code = 0 then 0 else 2 + j.code * 2 ^ 4) ++ (if j.code = 0 then toBytes 8 j.hash.toNat else []))).2
      let s := (List.range 4).foldl (fun s st => s.count (sbdPage st) 11 (some c) busyNs) s
      let s := if j.fatal then s
        else if j.code = 0 then
          let s := (s.count pg 0 (some c)).event pg 4
          let s := if j.passed then s.event pg 6 else s
          (j.counts.mapIdx fun i n => (i + 2, n)).foldl (fun s y => s.sbdCount c y.1 y.2) s
        else ((s.count pg 1 (some c)).event pg 5).chargeRefusal c j.code
      let s := State.sbdFill { s with sbd := { s.sbd with running := none } }
      .next ((List.range 4).foldl (fun s st => s.drained (sbdPage st)) s)

end Sys2Proof.Machine
end

