-- ==== Sys2Proof/Machine/Elem.lean ====
section
/-! DEFINITION. Element programs of the Vector Engine on one lane (R152, R153, R155 to R167): encoding, legality, arithmetic
and the counter-based generator. -/

namespace Sys2Proof.Machine

/-! ## Integer roots and the four functions, rounded once (R160) -/

/-- floor (sqrt n) by Newton steps from above, with fuel. -/
def isqrtFrom : Nat → Nat → Nat → Nat
  | 0, _, x => x
  | f + 1, n, x => let y := (x + n / x) / 2; if y < x then isqrtFrom f n y else x
def isqrt (n : Nat) : Nat := if n = 0 then 0 else isqrtFrom 700 n (2 ^ (Nat.log2 n / 2 + 1))

/-- FP32 of a number known as k units of 2^e and a bit more (a strict excess below one unit). -/
def f32Sticky (neg : Bool) (k : Nat) (e : Int) : Nat := encodeFp .nearest 0 (.fin neg ⟨2 * k + 1, e - 1⟩)

/-- Bits of working precision of EXP2. -/
def expBits : Nat := 160

/-- The product of 2^(2^-i) over the set bits of f, i counted from 1, in units of 2^-expBits: `root` is 2^(2^-(i-1)). -/
def expBitsProd : Nat → Nat → Nat → Nat → Nat
  | 0, _, _, acc => acc
  | n + 1, f, root, acc =>
    let r := isqrt (root * 2 ^ expBits)
    let acc := if f / 2 ^ n % 2 = 1 then acc * r / 2 ^ expBits else acc
    expBitsProd n f r acc

/-- 2^A (R160). -/
def fexp2 (v : Nat) : Nat :=
  match ofF32 v with
  | .nan => 0x7FC00000
  | .inf n => if n then 0 else 0x7F800000
  | x =>
    let d := x.dy
    if d.m = 0 then 0x3F800000
    else if (Dy.mk 129 0).le d then 0x7F800000
    else if d.lt ⟨-200, 0⟩ then 0
    else if d.abs.lt ⟨1, -26⟩ then 0x3F800000
    else
      let n := shiftFloor d.m d.e
      let f := (d.sub ⟨n, 0⟩).scale 52
      let fi := (shiftFloor f.m f.e).toNat
      if fi = 0 then f32 (.fin false ⟨1, n⟩)
      else f32Sticky false (expBitsProd 52 fi (2 * 2 ^ expBits) (2 ^ expBits)) (n - expBits)

/-- Fraction bits and working precision of LOG2. -/
def logFrac : Nat := 140
def logBits : Nat := 400

/-- The first n fraction bits of log2 y, y in [1, 2) in units of 2^-logBits. -/
def logDigits : Nat → Nat → Nat → Nat
  | 0, _, acc => acc
  | n + 1, y, acc =>
    let y := y * y / 2 ^ logBits
    if 2 ^ (logBits + 1) ≤ y then logDigits n (y / 2) (2 * acc + 1) else logDigits n y (2 * acc)

/-- log2 A (R160). -/
def flog2 (v : Nat) : Nat :=
  match ofF32 v with
  | .nan => 0x7FC00000
  | .inf n => if n then 0x7FC00000 else 0x7F800000
  | .fin n d =>
    if d.m = 0 then 0xFF800000
    else if n then 0x7FC00000
    else
      let m := d.m.natAbs
      let b := Nat.log2 m
      let e : Int := d.e + b
      if m = 2 ^ b then f32 (.ofDy ⟨e, 0⟩)
      else
        let fr := logDigits logFrac (m * 2 ^ (logBits - b)) 0
        f32 (.ofDy ⟨e * 2 ^ (logFrac + 1) + 2 * fr + 1, -(logFrac + 1 : Int)⟩)

/-- 1 ÷ A (R160). -/
def frcp (v : Nat) : Nat :=
  match ofF32 v with
  | .nan => 0x7FC00000
  | .inf n => signBit 0 n
  | .fin n d =>
    if d.m = 0 then infBits 0 n
    else
      let m := d.m.natAbs
      let q := 2 ^ 200 / m
      if q * m = 2 ^ 200 then f32 (.fin n ⟨q, -200 - d.e⟩) else f32Sticky n q (-200 - d.e)

/-- 1 ÷ √A (R160). -/
def frsq (v : Nat) : Nat :=
  match ofF32 v with
  | .nan => 0x7FC00000
  | .inf n => if n then 0x7FC00000 else 0
  | .fin n d =>
    if d.m = 0 then infBits 0 n
    else if n then 0x7FC00000
    else
      let odd := d.e % 2 ≠ 0
      let m := d.m.natAbs * (if odd then 2 else 1)
      let e := (if odd then d.e - 1 else d.e) / 2
      let q := isqrt (2 ^ 400 / m)
      if q * q * m = 2 ^ 400 then f32 (.fin false ⟨q, -200 - e⟩) else f32Sticky false q (-200 - e)

/-! ## The counter-based generator (R166) -/

def rotl32 (x : BitVec 32) (n : Nat) : BitVec 32 := x.rotateLeft n

structure Rng where
  x0 : BitVec 32
  x1 : BitVec 32
  x2 : BitVec 32
  x3 : BitVec 32
  deriving DecidableEq, Repr

/-- One round. -/
def Rng.round (i : Nat) (kr : BitVec 32) (r : Rng) : Rng :=
  let w : BitVec 32 := BitVec.ofNat 32 ((i + 1) * 0x9E3779B9)
  let x0 := r.x0 + r.x1 + kr
  let x3 := rotl32 (r.x3 ^^^ x0) 16
  let x2 := r.x2 + x3 + w
  let x1 := rotl32 (r.x1 ^^^ x2) 12
  ⟨x0, x1, x2, x3⟩

/-- The four output words for a counter and a key. -/
def rngWords (c0 c1 c2 c3 k0 k1 : BitVec 32) : List (BitVec 32) :=
  let r := (List.range 10).foldl (fun r i => r.round i (if i % 2 = 0 then k0 else k1)) (⟨c0, c1, c2, c3⟩ : Rng)
  [r.x0 + k0, r.x1 + k1, r.x2, r.x3]

/-! ## Element instructions (R155 to R158, R161, R162) -/

structure EIns where
  opc : Nat
  d   : Nat
  a   : Nat
  b   : Nat
  c   : Nat
  md  : Nat
  imm : Nat
  deriving DecidableEq, Repr

def einsOf (w : Word) : EIns :=
  let n := w.toNat
  { opc := n % 256, d := n / 2 ^ 8 % 16, a := n / 2 ^ 12 % 32, b := n / 2 ^ 17 % 32, c := n / 2 ^ 22 % 32, md := n / 2 ^ 27 % 32,
    imm := n / 2 ^ 32 }

/-- How many sources an opcode reads (0 for none), or none where the opcode does not exist. -/
def EIns.arity (i : EIns) : Option Nat :=
  if i.opc = 0x00 ∨ i.opc = 0x38 then some 0
  else if i.opc = 0x07 ∨ i.opc = 0x08 ∨ (0x10 ≤ i.opc ∧ i.opc ≤ 0x13) ∨ i.opc = 0x40 ∨ i.opc = 0x30 ∨ i.opc = 0x48 then some 1
  else if i.opc = 0x04 ∨ i.opc = 0x1A then some 3
  else if (1 ≤ i.opc ∧ i.opc ≤ 6) ∨ i.opc = 0x18 ∨ i.opc = 0x19 ∨ (0x20 ≤ i.opc ∧ i.opc ≤ 0x2A) then some 2
  else none

/-- ST and CVT read source C for stochastic rounding when their modifier says so. -/
def EIns.srOn (i : EIns) : Bool := (i.opc = 0x48 && i.md / 4 % 2 = 1) || (i.opc = 0x30 && i.md / 16 % 2 = 1)

/-- The opcode uses IMM for option bits (R157): CVT and ST name a register in IMM[1:0], RNG a draw, EQI a pattern. -/
def EIns.usesImm (i : EIns) : Bool := i.opc = 0x30 || i.opc = 0x48 || i.opc = 0x38 || (i.opc = 0x40 && i.md % 8 = 4)

/-- The sources an instruction names. -/
def EIns.sources (i : EIns) : List Nat :=
  match i.arity with
  | some 1 => if i.srOn then [i.a, i.c] else [i.a]
  | some 2 => [i.a, i.b]
  | some 3 => [i.a, i.b, i.c]
  | _ => []

/-- Legality of an element instruction (R157, R158, R161, R162). -/
def EIns.legal (i : EIns) : Bool :=
  match i.arity with
  | none => false
  | some n =>
    let unused := (decide (1 ≤ n) || i.a == 0) && (decide (2 ≤ n) || i.b == 0) && (decide (n = 3) || i.srOn || i.c == 0)
    let noDest := i.opc = 0x00 || i.opc = 0x40 || i.opc = 0x48
    let md := match i.opc with
      | 0x18 => decide (i.md < 6)
      | 0x19 => decide (i.md < 10)
      | 0x30 => (let k := i.md % 16; (k == 0 || k == 9) && i.md < 16 || (decide (1 ≤ k ∧ k ≤ 4)))
      | 0x38 => decide (i.md < 4)
      | 0x40 => decide (i.md < 16 ∧ i.md % 8 < 6)
      | 0x48 => decide (i.md < 8) && !(i.md / 4 % 2 == 1 && i.md / 2 % 2 == 1)
      | _ => i.md == 0
    let imm := match i.opc with
      | 0x30 => decide (i.imm < 3) && (i.md % 16 != 0 || i.imm == 0)
      | 0x48 => decide (i.imm < 3) && (i.md / 2 % 2 == 0 || i.imm == 0)
      | 0x38 => decide (i.imm < 256)
      | 0x40 => i.md % 8 == 4 || i.imm == 0 || i.sources.contains 19
      | _ => i.imm == 0 || i.sources.contains 19
    unused && (!noDest || i.d == 0) && md && imm && i.sources.all (fun c => decide (c < 23))
      && !(i.usesImm && i.sources.contains 19)

/-- What one lane has gathered: output patterns, and contributions to UA and UB (R162, R163). -/
structure Gather where
  mx   : Nat := 0
  cnt  : Nat := 0
  sum  : Dy := {}
  nan  : Bool := false
  pinf : Bool := false
  ninf : Bool := false
  deriving DecidableEq, Repr

def Gather.addMax (g : Gather) (x : Num) : Gather := { g with mx := Nat.max g.mx ((captureMax x).getD 0) }
def Gather.addSum (g : Gather) : Num → Gather
  | .nan => { g with nan := true }
  | .inf false => { g with pinf := true }
  | .inf true => { g with ninf := true }
  | x => { g with sum := g.sum.add x.dy }
/-- Contributions of two sets of lanes together (R163). -/
def Gather.merge (a b : Gather) : Gather :=
  { mx := Nat.max a.mx b.mx, cnt := a.cnt + b.cnt, sum := a.sum.add b.sum, nan := a.nan || b.nan, pinf := a.pinf || b.pinf,
    ninf := a.ninf || b.ninf }
/-- The SUM contribution, rounded once (R163). -/
def Gather.sumBits (g : Gather) : Nat :=
  if g.nan || (g.pinf && g.ninf) then 0x7FC00000
  else if g.pinf then 0x7F800000
  else if g.ninf then 0xFF800000
  else f32 (.ofDy g.sum)

/-- A lane: temporaries, outputs, gathered contributions, NaNs written and elements saturated. -/
structure Lane where
  v    : List Nat := List.replicate 16 0
  out0 : Option Nat := none
  out1 : Option Nat := none
  out2 : Option Nat := none   -- OUT2 and OUT3 of an Update Engine job (R232)
  out3 : Option Nat := none
  ga   : Gather := {}
  gb   : Gather := {}
  nans : Nat := 0
  sats : Nat := 0
  deriving DecidableEq, Repr

/-- The constants of a lane of a RUN. -/
structure LaneIn where
  ins  : List Nat      -- the three input patterns
  lane : Nat
  row  : Nat
  of0  : Nat
  of1  : Nat
  key  : Word
  rctr : Word
  of2  : Nat := 0
  of3  : Nat := 0
  more : List Nat := []       -- sources 23 to 30 of an Update Engine job (R232)
  step : BitVec 32 := 0       -- what STEPCTR adds to c3 (R232)
  deriving DecidableEq, Repr

def LaneIn.ofs (x : LaneIn) (k : Nat) : Nat := match k with | 0 => x.of0 | 1 => x.of1 | 2 => x.of2 | _ => x.of3
def Lane.setOut (l : Lane) (k p : Nat) : Lane :=
  match k with | 0 => { l with out0 := some p } | 1 => { l with out1 := some p } | 2 => { l with out2 := some p } | _ => { l with out3 := some p }
/-- The output an ST names: MOD[0], and MOD[3] in the Update Engine (R153, R232). -/
def EIns.outNum (i : EIns) : Nat := i.md % 2 + 2 * (i.md / 8 % 2)

def Lane.src (l : Lane) (x : LaneIn) (imm c : Nat) : Nat :=
  if c < 16 then l.v.getD c 0
  else if c < 19 then x.ins.getD (c - 16) 0
  else if c = 19 then imm
  else if c = 20 then x.lane
  else if c = 21 then x.row
  else if c = 22 then 0
  else x.more.getD (c - 23) 0

/-- An input element as a lane pattern (R152). -/
def widen (f v : Nat) : Nat :=
  if f = 8 then pattern 32 (signed 8 v)
  else if f = 9 ∨ f = 0 then v
  else f32 (decodeFp f v)

/-- FP32 to INT32 with the rounding and saturation of R153. -/
def toInt (lo hi : Int) : Num → Int
  | .nan => 0
  | .inf n => if n then lo else hi
  | x => clampInt lo hi (roundInt x.dy)

/-- A conversion to a format without an infinity takes the largest finite value in place of the datum (R67). -/
def saturates (f : Nat) : Num → Bool
  | .fin _ d => !hasInf f && decide (maxFinite f < roundPattern .nearest f d)
  | .inf _ => !hasInf f
  | .nan => false

/-- ST's conversion (R153), with whether the element was saturated. -/
def stConvert (f : Nat) (asInt sr : Bool) (r v : Nat) : Nat × Bool :=
  if asInt then
    let i := signed 32 v
    if f = 9 then (v, false)
    else if f = 8 then (pattern 8 (clampInt (-127) 127 i), decide (i < -127 ∨ 127 < i))
    else (encodeFp .nearest f (.ofDy ⟨i, 0⟩), saturates f (.ofDy ⟨i, 0⟩))
  else
    let x := ofF32 v
    if f = 0 then (v, false)
    else if f = 8 then (pattern 8 (toInt (-127) 127 x), match x with
      | .fin _ _ => decide (roundInt x.dy < -127 ∨ 127 < roundInt x.dy)
      | .inf _ => true
      | .nan => false)
    else if f = 9 then (pattern 32 (toInt (-(2 ^ 31)) (2 ^ 31 - 1) x), match x with
      | .fin _ _ => decide (roundInt x.dy < -(2 ^ 31) ∨ 2 ^ 31 - 1 < roundInt x.dy)
      | .inf _ => true
      | .nan => false)
    else
      (if sr then stochastic f (r % 65536) x else encodeFp .nearest f x, saturates f x)

/-- Signed comparison codes of R105 on n-bit patterns. -/
def icond (n cc a b : Nat) : Option Bool :=
  let x := signed n a
  let y := signed n b
  match cc with
  | 0 => some (decide (a = b)) | 1 => some (decide (a ≠ b)) | 2 => some (decide (x < y)) | 3 => some (decide (y ≤ x))
  | 4 => some (decide (a < b)) | 5 => some (decide (b ≤ a)) | 6 => some (decide (y < x)) | 7 => some (decide (x ≤ y))
  | 8 => some (decide (b < a)) | 9 => some (decide (a ≤ b)) | _ => none

/-- FCMP's codes 0 to 5: EQ, NE, LT, GE, GT, LE (R158). -/
def vfcond (cc : Nat) (a b : Nat) : Bool :=
  (fcond (if cc < 4 then cc else cc + 2) (ofF32 a) (ofF32 b)).getD false

/-- One element instruction on one lane (R158). -/
def EIns.run (i : EIns) (x : LaneIn) (l : Lane) : Lane :=
  let a := l.src x i.imm i.a
  let b := l.src x i.imm i.b
  let c := l.src x i.imm i.c
  let set (r : Nat) : Lane := { l with v := l.v.set i.d (r % 2 ^ 32) }
  let named (k : Nat) (n : Num) (l : Lane) : Lane :=
    if k = 1 then { l with ga := l.ga.addMax n } else if k = 2 then { l with gb := l.gb.addMax n } else l
  match i.opc with
  | 0x01 => set (fadd a b) | 0x02 => set (fsub a b) | 0x03 => set (fmul a b) | 0x04 => set (ffma a b c)
  | 0x05 => set (fmin a b) | 0x06 => set (fmax a b)
  | 0x07 => set (if (ofF32 a).isNan then 0x7FC00000 else a % 2 ^ 31)
  | 0x08 => set (if (ofF32 a).isNan then 0x7FC00000 else a ^^^ 0x80000000)
  | 0x10 => set (fexp2 a) | 0x11 => set (flog2 a) | 0x12 => set (frcp a) | 0x13 => set (frsq a)
  | 0x18 => set (if vfcond i.md a b then 0xFFFFFFFF else 0)
  | 0x19 => set (if (icond 32 i.md a b).getD false then 0xFFFFFFFF else 0)
  | 0x1A => set (if c ≠ 0 then a else b)
  | 0x20 => set (a + b) | 0x21 => set (a + 2 ^ 32 - b) | 0x22 => set (a * b)
  | 0x23 => set (a &&& b) | 0x24 => set (a ||| b) | 0x25 => set (a ^^^ b)
  | 0x26 => set (a * 2 ^ (b % 32)) | 0x27 => set (a / 2 ^ (b % 32)) | 0x28 => set (pattern 32 (signed 32 a / 2 ^ (b % 32)))
  | 0x29 => set (if signed 32 a ≤ signed 32 b then a else b)
  | 0x2A => set (if signed 32 a ≤ signed 32 b then b else a)
  | 0x30 =>
    let k := i.md % 16
    let l := named i.imm (ofF32 a) l
    let r :=
      if k = 0 then f32 (.ofDy ⟨signed 32 a, 0⟩)
      else if k = 9 then pattern 32 (toInt (-(2 ^ 31)) (2 ^ 31 - 1) (ofF32 a))
      else f32 (decodeFp k (if i.md / 16 = 1 then stochastic k (c % 65536) (ofF32 a) else encodeFp .nearest k (ofF32 a)))
    let sat := decide (k ≠ 0) && (if k = 9 then (stConvert 9 false false 0 a).2 else (stConvert k false (i.md / 16 == 1) c a).2)
    { l with v := l.v.set i.d r, sats := l.sats + (if sat then 1 else 0) }
  | 0x38 =>
    let ws := rngWords (BitVec.ofNat 32 (256 * x.row + x.lane)) (BitVec.ofNat 32 i.imm) (x.rctr.setWidth 32)
      ((x.rctr >>> 32).setWidth 32 + x.step) (x.key.setWidth 32) ((x.key >>> 32).setWidth 32)
    set ((ws.getD i.md 0).toNat)
  | 0x40 =>
    let n := ofF32 a
    let up (g : Gather) : Gather :=
      match i.md % 8 with
      | 0 => g.addMax n
      | 1 => g.addSum n
      | 2 => if n.isZero then g else { g with cnt := g.cnt + 1 }
      | 3 => if n.isNan then { g with cnt := g.cnt + 1 } else g
      | 4 => if a = i.imm then { g with cnt := g.cnt + 1 } else g
      | _ => if a ≠ 0 then { g with cnt := g.cnt + 1 } else g
    if i.md / 8 % 2 = 1 then { l with gb := up l.gb } else { l with ga := up l.ga }
  | 0x48 =>
    let f := x.ofs i.outNum
    let asInt := i.md / 2 % 2 = 1
    let (p, sat) := stConvert f asInt (i.md / 4 % 2 = 1) c a
    let l := if asInt then l else named i.imm (ofF32 a) l
    let l := { l with sats := l.sats + (if sat then 1 else 0),
                      nans := l.nans + (if f < 8 ∧ !asInt ∧ (ofF32 a).isNan then 1 else 0) }
    l.setOut i.outNum p
  | _ => l

/-- The kinds of contribution a program makes to UA (false) or UB (true). -/
def progKinds (prog : List EIns) (ub : Bool) : List SumKind :=
  let one (i : EIns) : List SumKind :=
    if i.opc = 0x40 ∧ (i.md / 8 % 2 = 1) = ub then
      (match i.md % 8 with | 0 => [.max] | 1 => [.sum] | _ => [.count])
    else if (i.opc = 0x30 ∨ i.opc = 0x48) ∧ i.imm = (if ub then 2 else 1) then [.max] else []
  let ks := prog.flatMap one
  (if ks.contains .max then [SumKind.max] else []) ++ (if ks.contains .count then [.count] else [])
    ++ (if ks.contains .sum then [.sum] else [])

end Sys2Proof.Machine
end

