-- ==== Sys2Proof/Machine/Vxe.lean ====
section
/-! DEFINITION. The Vector Engine's descriptors (R127, R151 to R154, R157, R162, R163, R168). -/

namespace Sys2Proof.Machine

def vxeOps : List Nat := [1, 2, 3]

structure RunF where
  ins  : List Nat          -- register-file byte addresses of IN0 to IN2
  outs : List Nat          -- of OUT0, OUT1
  rows : Nat
  ifs  : List Nat
  ofs  : List Nat
  slot : Nat
  ua   : Nat
  ub   : Nat
  uaen : Bool
  uben : Bool
  rctr : Word
  deriving DecidableEq, Repr

def runOf (d : Desc) : RunF :=
  { ins := [d.f 1 0 14 * 32, d.f 1 14 14 * 32, d.f 1 28 14 * 32], outs := [d.f 1 42 14 * 32, d.f 2 0 14 * 32], rows := d.f 2 14 9 + 1,
    ifs := [d.f 2 24 4, d.f 2 28 4, d.f 2 32 4], ofs := [d.f 2 36 4, d.f 2 40 4], slot := d.f 2 44 3, ua := d.f 2 47 4, ub := d.f 2 51 4,
    uaen := d.w2.getLsbD 55, uben := d.w2.getLsbD 56, rctr := d.w3 }

/-- The program of a slot, decoded. -/
def Tile.prog (t : Tile) (slot : Nat) : List EIns := (Tab.get [] t.slots slot).map einsOf

/-- Input stream k is read by the program; output stream k is written. -/
def usesIn (p : List EIns) (k : Nat) : Bool := p.any fun i => i.sources.contains (16 + k)
def usesOut (p : List EIns) (k : Nat) : Bool := p.any fun i => i.opc = 0x48 && i.md % 2 = k

/-- A format allowed in vector lanes (R43). -/
def laneFmt (f : Nat) : Bool := decide (f ≤ 4 ∨ f = 8 ∨ f = 9)

/-- Bytes of a lane row of a stream. -/
def laneRowBytes (f : Nat) : Nat := 32 * fmtBits f

/-- The checks of R131 on a RUN. -/
def runBad (ti : Tile) (d : Desc) (x : RunF) : Option Nat :=
  let p := ti.prog x.slot
  let used := ((List.range 3).filter (usesIn p)).map (fun k => (x.ins.getD k 0, x.ifs.getD k 0))
    ++ ((List.range 2).filter (usesOut p)).map (fun k => (x.outs.getD k 0, x.ofs.getD k 0))
  firstCode [
    (d.commonBad .vxe (d.f 0 34 14 == 0 && d.f 1 56 8 == 0 && d.f 2 23 1 == 0 && d.f 2 57 7 == 0), 0x040),
    (used.any fun u => decide (11 ≤ u.2), 0x042),
    (used.any fun u => decide (u.2 < 11) && !laneFmt u.2, 0x043),
    (used.any fun u => decide (rfBytes < u.1 + x.rows * laneRowBytes u.2), 0x046),
    (p.isEmpty, 0x049)]

/-- What a RUN has gathered over the rows so far. -/
structure RunAcc where
  writes : List LWrite := []
  ga     : Gather := {}
  gb     : Gather := {}
  nans   : Nat := 0
  sats   : Nat := 0
  deriving DecidableEq, Repr

/-- One lane row through the program: lane by lane (R151). -/
def runRow (p : List EIns) (x : RunF) (key : Word) (row : Nat) (ins : List Nat) : List Lane :=
  (List.range 256).map fun j =>
    let li : LaneIn := { ins := (List.range 3).map fun k => widen (x.ifs.getD k 0) (elemAt (x.ifs.getD k 0) (ins.getD k 0) j),
                         lane := j, row := row, of0 := x.ofs.getD 0 0, of1 := x.ofs.getD 1 0, key := key, rctr := x.rctr }
    p.foldl (fun l i => i.run li l) {}

/-- The input row of one stream: other engines' writes in flight and the RUN's own earlier rows are met as R76 says
(R154). -/
def State.laneRead (s : State) (t a n : Nat) (own : List LWrite) : Nat × State :=
  let (bs, s) := s.localRead t true a n
  match own.filterMap (fun w => if overlaps a n w.addr w.data.length then some (w.addr, w.data) else none) with
  | [] => (ofBytes bs, s)
  | ws => (ofBytes (overlay s.draws a 0 ws bs), { s with draws := s.draws + ws.length })

/-- The rows of a RUN in order. -/
def runRows (t : Nat) (p : List EIns) (x : RunF) (key : Word) : Nat → RunAcc × State → RunAcc × State
  | 0, r => r
  | n + 1, r =>
    let (acc, s) := runRows t p x key n r
    let (ins, s) := (List.range 3).foldl (fun (ins, s) k =>
      if usesIn p k then
        let rb := laneRowBytes (x.ifs.getD k 0)
        let (v, s) := State.laneRead s t (x.ins.getD k 0 + n * rb) rb acc.writes
        (ins ++ [v], s)
      else (ins ++ [0], s)) (([] : List Nat), s)
    let ls := runRow p x key n ins
    let wr (k : Nat) (o : Lane → Option Nat) : List LWrite :=
      if usesOut p k then
        let f := x.ofs.getD k 0
        [{ rf := true, addr := x.outs.getD k 0 + n * laneRowBytes f, data := packElems f 256 (ls.map fun l => (o l).getD 0) }]
      else []
    ({ writes := acc.writes ++ wr 0 Lane.out0 ++ wr 1 Lane.out1
       ga := ls.foldl (fun g l => g.merge l.ga) acc.ga
       gb := ls.foldl (fun g l => g.merge l.gb) acc.gb
       nans := acc.nans + (ls.map Lane.nans).sum
       sats := acc.sats + (ls.map Lane.sats).sum }, s)

/-- The contributions of a RUN to an enabled register (R163). -/
def runSums (p : List EIns) (ub en : Bool) (u : Nat) (g : Gather) : List Contrib :=
  if en then
    (progKinds p ub).map fun k => { u := u, kind := k, val := BitVec.ofNat 64 (match k with | .max => g.mx | .count => g.cnt | _ => g.sumBits) }
  else []

/-- A RUN that passed its checks. -/
def State.runRun (t : Nat) (ecc : Ecc) (d : Desc) (s : State) : State :=
  let pg := engPage t .vxe
  let id := (s.tile t).serial
  let s := s.takeDesc t .vxe d (fun f => f)
  let x := runOf d
  let p := (s.tile t).prog x.slot
  let (m, s) := s.eccTile t ecc
  let (acc, s) := runRows t p x (s.raw pg 0x100) x.rows ({}, s)
  let s := (s.count pg 1 none x.rows).count pg 0
  let s := (s.count pg 4 none (x.rows * (p.filter fun i => decide (0x10 ≤ i.opc ∧ i.opc ≤ 0x13)).length)).count pg 5 none
    (x.rows * (p.filter fun i => decide (i.opc = 0x38)).length)
  let s := (s.count pg 6 none acc.sats).count pg 7 none acc.nans
  s.modFlight t id fun f =>
    { (f.meet m) with
      writes := acc.writes, bytes := (acc.writes.map fun w => w.data.length).sum
      sums := runSums p false x.uaen x.ua acc.ga ++ runSums p true x.uben x.ub acc.gb }

/-- RUN: the Vector Engine runs a loaded element program over register-file rows (R127, R151). -/
def execRun (t : Fin 192) (ecc : Ecc) (s : State) : Host.Outcome State Fault Refusal :=
  .next (s.engineStart t .vxe vxeOps 1 (fun _ => true) (fun d s => runBad (s.tile t) d (runOf d)) (State.runRun t ecc))

/-- The checks of R131 on a LOADP. -/
def loadpBad (d : Desc) : Option Nat :=
  firstCode [
    (d.commonBad .vxe (d.f 0 34 14 == 0 && d.f 1 23 41 == 0 && d.w2 == 0 && d.w3 == 0), 0x040),
    (decide (rfBytes < d.f 1 0 14 * 32 + d.f 1 17 6 * 8), 0x046),
    (decide (d.f 1 17 6 = 0 ∨ 48 < d.f 1 17 6), 0x048)]

/-- A LOADP that passed the checks of R131: the slot is filled at completion, or left unloaded with 0x050 (R157). -/
def State.loadpRun (t : Nat) (ecc : Ecc) (d : Desc) (s : State) : State :=
  let pg := engPage t .vxe
  let ctx := s.ctxOf t
  let id := (s.tile t).serial
  let s := s.takeDesc t .vxe d (fun f => f)
  let slot := d.f 1 14 3
  let len := d.f 1 17 6
  let (m, s) := s.eccTile t ecc
  let (bs, s) := s.localRead t true (d.f 1 0 14 * 32) (8 * len)
  let ws := wordsOf len bs
  match ws.findIdx? (fun w => !(einsOf w).legal) with
  | none => s.modFlight t id fun f => { (f.meet m) with slots := [(slot, ws)], bytes := 8 * len }
  | some i =>
    let s := s.modTile t fun ti => { ti with slots := Tab.set [] ti.slots slot [] }
    let s := s.setRaw pg 0x118 (BitVec.ofNat 64 (slot + i * 8))
    let s := (s.event pg 4).contained pg 0x050 ctx
    s.modFlight t id fun f => { ((f.meet ⟨2, 0x050⟩).meet m) with refused := true }

/-- LOADP: the Vector Engine loads and checks a program into a slot (R127, R157). -/
def execLoadp (t : Fin 192) (ecc : Ecc) (s : State) : Host.Outcome State Fault Refusal :=
  .next (s.engineStart t .vxe vxeOps 2 (fun _ => true) (fun d _ => loadpBad d) (State.loadpRun t ecc))

/-- The checks of R131 on a RAWACC; 0x047 outside maintenance mode (R91). -/
def rawaccBad (d : Desc) (maint : Bool) : Option Nat :=
  let rows := d.f 1 22 7 + 1
  firstCode [
    (d.commonBad .vxe (d.f 0 34 14 == 0 && d.f 1 29 35 == 0 && d.w2 == 0 && d.w3 == 0), 0x040),
    (decide (rfBytes < d.f 1 0 14 * 32 + rows * 2048), 0x046),
    (!maint, 0x047),
    (decide (128 < d.f 1 15 7 + rows), 0x048)]

/-- A RAWACC that passed its checks: raw 128-bit entries to the register file (R127, R168). -/
def State.rawaccRun (t : Nat) (ecc : Ecc) (d : Desc) (s : State) : State :=
  let pg := engPage t .vxe
  let id := (s.tile t).serial
  let s := s.takeDesc t .vxe d (fun f => f)
  let bank := d.f 1 14 1
  let row0 := d.f 1 15 7
  let rows := d.f 1 22 7 + 1
  let (m, s) := s.eccAcc t ecc bank row0 0 rows 128
  let ti := s.tile t
  let ws : List LWrite := (List.range rows).map fun r =>
    { rf := true, addr := d.f 1 0 14 * 32 + r * 2048,
      data := (List.range 128).flatMap fun j => toBytes 16 (ti.entry bank (row0 + r) j).bits }
  let s := s.count pg 8 none rows
  s.modFlight t id fun f => { (f.meet m) with writes := ws, bytes := rows * 2048 }

/-- RAWACC: the Vector Engine copies raw accumulator entries in maintenance mode (R91, R168). -/
def execRawacc (t : Fin 192) (ecc : Ecc) (s : State) : Host.Outcome State Fault Refusal :=
  .next (s.engineStart t .vxe vxeOps 3 (fun _ => true) (fun d s => rawaccBad d ((s.raw (seqPage t) 0x110).getLsbD 4))
    (State.rawaccRun t ecc))

end Sys2Proof.Machine
end

