-- ==== Sys2Proof/Machine/Upe.lean ====
section
/-! DEFINITION. The Update Engines: rings, jobs, banks, programs (R225 to R237). -/

namespace Sys2Proof.Machine

/-! ## Rings -/

def ringKey (c r : Nat) : Nat := c * 8 + r
def State.ring (s : State) (c r : Nat) : Ring := Tab.get {} s.upe.rings (ringKey c r)
def State.modRing (s : State) (c r : Nat) (f : Ring → Ring) : State := s.modUpe fun u => { u with rings := Tab.mod {} u.rings (ringKey c r) f }
def State.upeRun (s : State) (st : Nat) : Option UpeRun := Tab.get none s.upe.run st
def State.setUpeRun (s : State) (st : Nat) (j : Option UpeRun) : State := s.modUpe fun u => { u with run := Tab.set none u.run st j }
def State.modUpeRun (s : State) (st : Nat) (f : UpeRun → UpeRun) : State := s.setUpeRun st ((s.upeRun st).map f)

/-- The ring is served and has a job left. -/
def Ring.live (r : Ring) : Bool := r.en && !r.bad && decide (r.pos < r.jobs.toNat)
/-- The ring has reached its end; one that is not served counts as ended (R225). -/
def Ring.ended (r : Ring) : Bool := !r.live
/-- Virtual address of the job at the ring's position. -/
def Ring.at (r : Ring) : Nat := r.base.toNat + 256 * r.pos

/-- One entry of the ring table: its ring, or none where it is not enabled (R225). -/
def ringOfEntry (b : List Byte) : Ring :=
  let base := BitVec.ofNat 64 (ofBytes (b.take 8))
  let w := ofBytes (b.drop 8)
  if w / 2 ^ 16 % 2 = 0 then {}
  else { base := base, jobs := BitVec.ofNat 16 w, en := true,
         bad := decide (w / 2 ^ 17 ≠ 0 ∨ w % 2 ^ 16 = 0 ∨ base.toNat % 256 ≠ 0) }

/-- A read of the ring table by one UPE: unchanged rings keep their position; an invalid entry raises 0x0A3 and is charged as
a refused completion (R225, R237, R438). -/
def State.readRings (s : State) (st : Nat) : State :=
  let pg := upePage st
  let base := s.fld pg 0x100 0 52
  let keys := (List.range 256).flatMap fun c => [ringKey c st, ringKey c (st + 4)]
  if hbmBytes < base + 32768 then
    (s.modUpe fun u => { u with noTable := if u.noTable.contains st then u.noTable else u.noTable ++ [st]
                                rings := keys.foldl (fun m k => Tab.set {} m k {}) u.rings }).contained pg 0x0A3
  else
    let s := s.modUpe fun u => { u with noTable := u.noTable.filter fun x => decide (x ≠ st) }
    keys.foldl (fun s k =>
      let r := ringOfEntry (s.peek (base + 16 * k) 16)
      let old := Tab.get {} s.upe.rings k
      let r := if r.bad = false ∧ old.base = r.base ∧ old.jobs = r.jobs ∧ old.en = r.en ∧ old.bad = false then old else r
      let s := s.modUpe fun u => { u with rings := Tab.set {} u.rings k r }
      if r.bad then (s.contained pg 0x0A3 (some (k / 8))).chargeRefusal (k / 8) 0x0A3 else s) s

/-- The refused completion that each attempt counts while a table lies beyond local HBM (R438). -/
def State.chargeNoTable (s : State) (c : Nat) : State :=
  let s := if s.upe.noTable.isEmpty then s else s.chargeRefusal c 0x0A3
  if s.cle.noTable.isEmpty then s else s.chargeRefusal c 0x0B3

/-- C of a context on one UPE advances; its rings there go back to job 0 (R227). -/
def State.upeCommitAct (s : State) (st c : Nat) : State :=
  let s := s.modUpe fun u =>
    { u with c := Tab.mod 0 u.c (st * 256 + c) (· + 1)
             rings := [ringKey c st, ringKey c (st + 4)].foldl (fun m k => Tab.mod {} m k fun r => { r with pos := 0, head := none }) u.rings }
  s.readRings st

/-- A context's rings on one UPE go back to job 0 with every READY word 0 (R227). -/
def State.upeRollbackAct (s : State) (st c : Nat) : State :=
  let s := [st, st + 4].foldl (fun s r =>
    let g := s.ring c r
    let s := if g.en && !g.bad then
        (List.range g.jobs.toNat).foldl (fun s k => (s.storeAny st c (upePage st) (g.base.toNat + 256 * k + 64) 0 (toBytes 4 0)).2) s
      else s
    s.modRing c r fun g => { g with pos := 0, head := none }) s
  s.readRings st

/-- A job of the context runs on the UPE. -/
def State.upeBusyFor (s : State) (st c : Nat) : Bool :=
  match s.upeRun st with | some j => decide (j.ctx = c) | none => false

/-! ## The end of a job -/

/-- The DONE word of R230. -/
def doneWord (status wait sev code : Nat) : Nat := status + wait * 2 ^ 2 + sev * 2 ^ 6 + code * 2 ^ 12

/-- The job at the head is over: READY to 0, DONE, the next job (R226). -/
def State.upeEnd (s : State) (st c r done status wait sev code : Nat) : State :=
  let pg := upePage st
  let g := s.ring c r
  let s := (s.storeAny st c pg (g.at + 64) 0 (toBytes 4 0)).2
  let s := if done = 0 ∨ done % 8 ≠ 0 then s else (s.storeAny st c pg done 0 (toBytes 8 (doneWord status wait sev code))).2
  let s := s.modRing c r fun g => { g with pos := g.pos + 1, head := none }
  let s := match status with
    | 0 => s.count pg 1 (some c)
    | 1 => s.count pg 2 (some c)
    | _ => ((s.count pg 3 (some c)).event pg 4).chargeRefusal c code
  if (s.ring c st).ended && (s.ring c (st + 4)).ended then s.event pg 6 else s

/-- The words that end a job or step, READY and DONE, wait for a controller (R41, R256). -/
def State.endHeld (s : State) (st c ready done : Nat) : Bool :=
  s.vaHeld st c ready 4 true || (decide (done ≠ 0 ∧ done % 8 = 0) && s.vaHeld st c done 8 true)

/-- A job is refused with a code (R235). -/
def State.upeRefuse (s : State) (st c r done wait code : Nat) : State :=
  let s := if code = 0x0C4 then s else s.contained (upePage st) code (some c)
  (s.setUpeRun st none).upeEnd st c r done 2 wait 2 code

/-! ## Reaching the head -/

/-- Words 0 to 3 of a head job decide: a bad PHASE refuses it, a failed interval test skips it, else it waits (R226). -/
def State.headDecide (s : State) (st c r : Nat) (ws : List Word) : State :=
  let w0 := ws.getD 0 0
  let n := max 1 (bits w0 32 16)
  let phase := bits w0 48 16
  let done := (ws.getD 3 0).toNat
  if n ≤ phase then s.upeRefuse st c r done 0 0x0A0
  else if (s.stepOf c st).toNat % n ≠ phase then s.upeEnd st c r done 1 0 0 0
  else s.modRing c r fun g => { g with head := some (bits w0 16 16), headAt := s.time }

/-- A head job that ends at once, refused or skipped, waits for its READY and DONE words. -/
def State.headHeld (s : State) (st c r : Nat) (ws : List Word) : Bool :=
  let w0 := ws.getD 0 0
  let n := max 1 (bits w0 32 16)
  decide (n ≤ bits w0 48 16 ∨ (s.stepOf c st).toNat % n ≠ bits w0 48 16) && s.endHeld st c ((s.ring c r).at + 64) (ws.getD 3 0).toNat

/-- The UPE takes no job now: not admitting, or the context is halted by a rollback (R229, R358). -/
def State.upeHeld (s : State) (st c : Nat) : Bool := !s.awake || !s.admits (upePage st) || s.upe.halted.contains c

/-- UPE_JOB_HEAD: the UPE reads words 0 and 1 of a job that has reached its ring's head (R226). -/
def execUpeJobHead (stack : Fin 4) (ctx : Fin 256) (ring : Fin 8) (s : State) : Host.Outcome State Fault Refusal :=
  let st := stack.val
  let c := ctx.val
  let r := ring.val
  let g := s.ring c r
  if r % 4 ≠ st ∨ s.upeHeld st c ∨ !g.live ∨ g.head.isSome then .next s
  else match s.reach st (some c) g.at 256 false with
    | (.refused k, s1) => if s.endHeld st c (g.at + 64) 0 then .next s else .next (s1.upeRefuse st c r 0 0 (if k = 0 then 0x0A1 else k))
    | (.ok gs, s1) =>
      if s.segsHeld gs then .next s
      else if (s1.trayParts gs).isEmpty then
        let (b, s2) := s1.reachBytes (some c) 0 [] gs
        if s.headHeld st c r (wordsOf 4 b) then .next s else .next (s2.headDecide st c r (wordsOf 4 b))
      else match s.upeRun st with
        | some j =>
          if j.ctx = c ∧ j.ring = r ∧ j.phase = 8 ∧ j.left = 0 then
            let (b, s2) := s1.reachBytes (some c) 0 j.got gs
            if s.headHeld st c r (wordsOf 4 b) then .next s else .next ((s2.setUpeRun st none).headDecide st c r (wordsOf 4 b))
          else .next s
        | none =>
          let s := s1.setUpeRun st (some { ctx := c, ring := r, idx := g.pos, phase := 8 })
          let (n, s) := s.gather c (.upe st) (upePage st) st 0 gs
          .next ((s.modUpeRun st fun j => { j with left := n }).pump)

/-! ## The descriptor (R230, R231) -/

/-- One stream of a job: its number (0 to 9), address in the bank it uses, format, hint. -/
structure UStream where
  k    : Nat
  addr : Nat
  fmt  : Nat
  hint : Nat
  bank : Nat
  spar : Bool
  frozen : Bool
  base : Nat
  deriving DecidableEq, Repr

/-- Stream k of a descriptor for a context with C committed steps. -/
def ustream (ws : List Word) (c k : Nat) : UStream :=
  let w (i : Nat) : Word := ws.getD i 0
  let n := max 1 (bits (w 0) 32 16)
  let f := w (11 + 2 * k)
  let bank := bits f 4 2
  let com := if f.getLsbD 6 then c % 2 else (c + 1) / n % 2
  let which := if bank = 1 then com else if bank = 2 then 1 - com else 0
  { k := k, addr := (w (10 + 2 * k)).toNat + which * bits f 8 40 * 4096, fmt := bits f 0 4, hint := bits f 48 2, bank := bank, spar := f.getLsbD 6,
    frozen := f.getLsbD 7, base := (w (10 + 2 * k)).toNat }

/-- An element instruction as the UPE takes it (R232): legal where the VXE's form with the UPE's sources and outputs is. -/
def EIns.upeLegal (i : EIns) : Bool :=
  let src (c : Nat) : Nat := if 23 ≤ c ∧ c ≤ 30 then 16 else c
  let j := { i with a := src i.a, b := src i.b, c := src i.c, md := if i.opc = 0x48 ∧ i.md < 16 then i.md % 8 else i.md }
  j.legal && !(decide (i.opc = 0x30 ∨ i.opc = 0x48) && decide (2 ≤ i.imm)) && !(decide (i.opc = 0x40) && decide (8 ≤ i.md))

/-- Input k (0 to 5) is read by the program; output k (0 to 3) is named by an ST. -/
def upeIn (p : List EIns) (k : Nat) : Bool := p.any fun i => i.sources.contains (if k < 3 then 16 + k else 20 + k)
def upeOut (p : List EIns) (k : Nat) : Bool := p.any fun i => decide (i.opc = 0x48) && decide (i.outNum = k)

/-- The streams a program uses. -/
def upeStreams (ws : List Word) (c : Nat) (p : List EIns) : List UStream :=
  (((List.range 6).filter (upeIn p)) ++ (((List.range 4).filter (upeOut p)).map (6 + ·))).map (ustream ws c)

def UStream.bytes (x : UStream) (n : Nat) : Nat := n * (fmtBits x.fmt / 8)

/-- 0x0A0 from the descriptor's own words (R235). -/
def upeBadWords (ws : List Word) : Bool :=
  let w (i : Nat) : Word := ws.getD i 0
  let plen := bits (w 0) 0 6
  decide (bits (w 0) 10 6 ≠ 0 ∨ bits (w 1) 32 32 ≠ 0 ∨ bits (w 8) 32 32 ≠ 0) || w 30 != 0 || w 31 != 0
    || ((w 0).getLsbD 7 && (w 7 != 0 || decide ((w 6).toNat % 16 ≠ 0)))
    || ((List.range 10).any fun k => decide (bits (w (11 + 2 * k)) 50 14 ≠ 0))
    || decide (48 < plen ∨ (plen = 0 ∧ bits (w 1) 0 32 ≠ 0) ∨ max 1 (bits (w 0) 32 16) ≤ bits (w 0) 48 16)
    || decide ((w 2).toNat % 32 ≠ 0 ∧ plen ≠ 0) || decide ((w 3).toNat % 8 ≠ 0)
    || (decide (bits (w 0) 8 2 ≠ 0) && decide ((w 9).toNat % 8 ≠ 0))

/-- 0x0A0 from a stream the program uses (R219, R231, R235). -/
def UStream.bad (x : UStream) (n phase : Nat) : Bool :=
  !laneFmt x.fmt || decide (x.base % 32 ≠ 0 ∨ x.bank = 3) || x.frozen
    || (decide (6 ≤ x.k) && (decide (x.bank = 1) || (decide (x.bank = 2) && !x.spar && decide (phase ≠ n - 1))))

/-! ## The program (R232, R233) -/

/-- What a job has produced over the rows so far. -/
structure UAcc where
  out  : List (List Byte)      -- by output
  g    : Gather := {}
  deriving DecidableEq, Repr

/-- Bytes of an input row met by the job's own earlier rows where another stream's extent overlaps it (R154). -/
def ownRows (draw : Nat) (acc : UAcc) (outs : List UStream) (a : Nat) (b : List Byte) : List Byte :=
  overlay draw a 0 (outs.map fun o => (o.addr, acc.out.getD (o.k - 6) [])) b

/-- The rows of a job in order. -/
def upeRows (draw : Nat) (ws : List Word) (p : List EIns) (xs : List UStream) (data : List (List Byte)) (scal : List Nat) (step : Word) (count : Nat) :
    Nat → UAcc
  | 0 => { out := [[], [], [], []] }
  | r + 1 =>
    let acc := upeRows draw ws p xs data scal step count r
    let w (i : Nat) : Word := ws.getD i 0
    let n := max 1 (bits (w 0) 32 16)
    let ins := xs.filter fun x => decide (x.k < 6)
    let outs := xs.filter fun x => decide (6 ≤ x.k)
    let m := min 256 (count - 256 * r)
    let fmtAt (k : Nat) : Nat := match outs.find? fun x => decide (x.k = 6 + k) with | some x => x.fmt | none => 0
    let rows := ins.mapIdx fun i x =>
      let eb := fmtBits x.fmt / 8
      (x.k, x.fmt, ofBytes (ownRows (draw + r) acc outs (x.addr + 256 * r * eb) (((data.getD i []).drop (256 * r * eb)).take (m * eb))))
    let elem (k j : Nat) : Nat := match rows.find? fun y => decide (y.1 = k) with
      | some y => widen y.2.1 (elemAt y.2.1 y.2.2 j)
      | none => 0
    let lanes := (List.range m).map fun j =>
      let li : LaneIn := { ins := (List.range 3).map fun k => elem k j, lane := j, row := r, of0 := fmtAt 0, of1 := fmtAt 1, of2 := fmtAt 2, of3 := fmtAt 3,
                           key := w 4, rctr := w 5, more := [elem 3 j, elem 4 j, elem 5 j] ++ scal ++ [step.toNat % n],
                           step := if (w 0).getLsbD 6 then step.setWidth 32 else 0 }
      p.foldl (fun l i => i.run li l) {}
    let put (k : Nat) (o : Lane → Option Nat) : List Byte :=
      acc.out.getD k [] ++ (if upeOut p k then packElems (fmtAt k) m (lanes.map fun l => (o l).getD 0) else [])
    { out := [put 0 Lane.out0, put 1 Lane.out1, put 2 Lane.out2, put 3 Lane.out3], g := lanes.foldl (fun g l => g.merge l.ga) acc.g }

/-- The kind that SUMKIND names. -/
def sumKindOf (k : Nat) : Option SumKind := match k with | 1 => some .max | 2 => some .count | 3 => some .sum | _ => none

/-- The contribution of a job in its kind (R163, R233). -/
def sumVal (k : SumKind) (g : Gather) : Word := BitVec.ofNat 64 (match k with | .max => g.mx | .count => g.cnt | _ => g.sumBits)

/-! ## Running a job -/

/-- GETs for the tray memory that a stage reads: none needed, or the job waits in a phase. -/
def State.upeGather (s : State) (st c phase : Nat) (gs : List Seg) : Bool × State :=
  let (n, s) := s.gather c (.upe st) (upePage st) st 0 gs
  (decide (n = 0), (s.modUpeRun st fun j => { j with phase := phase, left := j.left + n }).pump)

def upeMem (st : Nat) : Nat := memId (192 + st) 0

/-- The code of a refused range. -/
def upeCode (k : Nat) : Nat := if k = 0 then 0x0A1 else k

/-- A checked job computes (R232), and its writes leave. -/
def State.upeCompute (s : State) (st c : Nat) (j : UpeRun) (ecc : Ecc) (p : List EIns) (xs : List UStream) (gss : List (List Seg)) (sa : List Seg) : State :=
  let w (i : Nat) : Word := j.words.getD i 0
  let pg := upePage st
  let n := bits (w 1) 0 32
  let (m, s) := s.eccMem (some c) ecc
  let (m, s) := if 3 ≤ m.sev then ((⟨3, 0x0A5⟩ : Met), s.stepFatal pg 0x0A5 (some c)) else (({} : Met), s)
  let (sb, s) := s.reachBytes (some c) 0 j.got sa
  let scal := if (w 0).getLsbD 7 then (List.range 4).map fun i => ofBytes ((sb.drop (4 * i)).take 4)
    else [bits (w 6) 0 32, bits (w 6) 32 32, bits (w 7) 0 32, bits (w 7) 32 32]
  let both := xs.zip gss
  let ins := both.filter fun y => decide (y.1.k < 6)
  let (data, s) := ins.foldl (fun (r : List (List Byte) × State) y =>
    let (b, s) := r.2.reachBytes (some c) y.1.hint j.got y.2
    (r.1 ++ [b], s)) (([] : List (List Byte)), s)
  let (d, s) := s.draw
  let rows := (n + 255) / 256
  let acc := upeRows d j.words p xs data scal (s.stepOf c st) n rows
  let s := { s with draws := s.draws + rows }
  let outs := both.filter fun y => decide (6 ≤ y.1.k)
  let (left, s) := outs.foldl (fun (r : Nat × State) y =>
    let (k, s) := r.2.reachWrite c (.upe st) pg st 0 (upeMem st) y.1.hint y.2 (acc.out.getD (y.1.k - 6) [])
    (r.1 + k, s)) (0, s)
  let kinds := progKinds p false
  let mine := sumKindOf (bits (w 0) 8 2)
  let odd := kinds.any fun k => decide (some k ≠ mine)
  let s := if odd then s.contained pg 0x012 (some c) else s
  let m := if odd then m.join ⟨2, 0x012⟩ else m
  let sum := match mine with
    | some k => if kinds.contains k then some (k, sumVal k acc.g) else none
    | none => none
  (s.modUpeRun st fun j =>
    { j with phase := 4, left := j.left + left, sum := sum, elems := n, rd := (ins.map fun y => y.1.bytes n).sum, wr := (outs.map fun y => y.1.bytes n).sum
             sev := max j.sev m.sev, code := if j.sev < m.sev then m.code else j.code }).pump

/-- The walk of a started job: its descriptor, its program and checks, its data; `fuel` bounds the phases. -/
def State.upeWalk (st c r : Nat) (ecc : Ecc) : Nat → UpeRun → State → State
  | 0, _, s => s
  | fuel + 1, j, s =>
    let pg := upePage st
    let g := s.ring c r
    let wait := waitBucket j.heldNs
    match s.reach st (some c) g.at 256 false with
    | (.refused k, s) => s.upeRefuse st c r 0 wait (upeCode k)
    | (.ok gs, s) =>
      if j.phase = 0 then
        let (go, s) := s.upeGather st c 1 gs
        if go then State.upeWalk st c r ecc fuel { j with phase := 1 } s else s
      else if j.phase = 1 then
        let (b, s) := s.reachBytes (some c) 0 j.got gs
        let ws := wordsOf 32 b
        let ready := bits (ws.getD 8 0) 0 32
        let need := g.head.getD 0
        if ready < need then s.setUpeRun st none
        else
          let waited := s.time - g.headAt - j.heldNs
          let s := s.count pg 7 (some c) waited
          let more := decide (need < ready)
          let s := if more then (s.contained pg 0x0A4 (some c)).event pg 5 else s
          let j := { j with words := ws, sev := if more then 2 else 0, code := if more then 0x0A4 else 0 }
          let s := s.setUpeRun st (some j)
          if upeBadWords ws then s.upeRefuse st c r (ws.getD 3 0).toNat wait 0x0A0
          else match s.reach st (some c) (ws.getD 2 0).toNat (8 * bits (ws.getD 0 0) 0 6) false with
            | (.refused k, s) => s.upeRefuse st c r (ws.getD 3 0).toNat wait (upeCode k)
            | (.ok ps, s) =>
              let (go, s) := s.upeGather st c 2 ps
              if go then State.upeWalk st c r ecc fuel { j with phase := 2 } s else s
      else
        let w (i : Nat) : Word := j.words.getD i 0
        let done := (w 3).toNat
        let plen := bits (w 0) 0 6
        match s.reach st (some c) (w 2).toNat (8 * plen) false with
        | (.refused k, s) => s.upeRefuse st c r done wait (upeCode k)
        | (.ok ps, s) =>
          let (pb, s) := s.reachBytes (some c) 0 j.got ps
          let p := (wordsOf plen pb).map einsOf
          let illegal := p.findIdx? fun i => !i.upeLegal
          let xs := upeStreams j.words (Tab.get 0 s.upe.c (st * 256 + c)).toNat p
          let n := bits (w 1) 0 32
          let per := max 1 (bits (w 0) 32 16)
          let sum := decide (bits (w 0) 8 2 ≠ 0)
          if xs.any fun x => x.bad per (bits (w 0) 48 16) then s.upeRefuse st c r done wait 0x0A0
          else match s.reachAll st (some c) false ((xs.filter fun x => decide (x.k < 6)).map fun x => (x.addr, x.bytes n)) with
            | (.inl k, s) => s.upeRefuse st c r done wait (upeCode k)
            | (.inr gin, s) =>
              match s.reachAll st (some c) true (((xs.filter fun x => decide (6 ≤ x.k)).map fun x => (x.addr, x.bytes n))
                  ++ (if done = 0 then [] else [(done, 8)]) ++ (if sum then [((w 9).toNat, 8)] else [])) with
              | (.inl k, s) => s.upeRefuse st c r done wait (upeCode k)
              | (.inr gout, s) =>
                match s.reach st (some c) (w 6).toNat (if (w 0).getLsbD 7 then 16 else 0) false with
                | (.refused k, s) => s.upeRefuse st c r done wait (upeCode k)
                | (.ok sa, s) =>
                  match illegal with
                  | some i => (s.modUpe fun u => { u with badIndex := Tab.set 0 u.badIndex st i }).upeRefuse st c r done wait 0x0A2
                  | none =>
                    let sg := if sum then gout.getLastD [] else []
                    if s.segsHeld (gin.flatten ++ gout.flatten ++ sa) then s
                    else if j.phase = 2 then
                      let (go, s) := s.upeGather st c 3 (gin.flatten ++ sa ++ sg)
                      if go then s.upeCompute st c { j with phase := 3 } ecc p xs (gin ++ gout) sa else s
                    else s.upeCompute st c j ecc p xs (gin ++ gout) sa

/-- The rings of a UPE whose head job has been released, ascending (R226, R229); READY words in tray memory are read by the job's
own start. -/
def State.released (s : State) (st : Nat) : List Nat :=
  (s.upe.rings.filter fun e =>
    decide (e.1 % 4 = st) && e.2.live && !s.upe.halted.contains (e.1 / 8) && (match e.2.head with
      | none => false
      | some n => (match (s.reach st (some (e.1 / 8)) (e.2.at + 64) 4 false).1 with
          | .ok gs => decide (n = 0) || !(s.trayParts gs).isEmpty || decide (n ≤ ofBytes (s.reachBytes none 0 [] gs).1)
          | .refused _ => true))).map Prod.fst

/-- The next ring in turn (R229): the one in its quantum, else the first after it, wrapping. -/
def inTurn (last left : Nat) (ks : List Nat) : Option Nat :=
  if last ≠ 0 ∧ left ≠ 0 ∧ ks.contains (last - 1) then some (last - 1)
  else match ks.find? fun k => decide (last ≤ k) with
    | some k => some k
    | none => ks.head?

/-- The DONE address of a head job, as far as its descriptor has been read. -/
def State.headDone (s : State) (st c r : Nat) (got : Tab Byte) : Nat :=
  match (s.reach st (some c) (s.ring c r).at 256 false).1 with
  | .ok gs => ((wordsOf 4 (s.reachBytes none 0 got gs).1).getD 3 0).toNat
  | .refused _ => 0

/-- A refusal whose READY or DONE word waits for a controller has not happened yet (R41, R256). -/
def State.upeStep (s : State) (st c r : Nat) (got : Tab Byte) (t : State) : State :=
  if (decide ((t.ring c r).pos ≠ (s.ring c r).pos) && s.endHeld st c ((s.ring c r).at + 64) (s.headDone st c r got)) then s else t

/-- UPE_JOB_START: the released head job whose turn it is starts (R226, R229); one that reads tray memory goes on once that has
arrived. -/
def execUpeJobStart (stack : Fin 4) (ctx : Fin 256) (ring : Fin 8) (heldNs : Nat) (ecc : Ecc) (s : State) : Host.Outcome State Fault Refusal :=
  if !s.awake then .next s else
  let st := stack.val
  let c := ctx.val
  let r := ring.val
  match s.upeRun st with
  | some j =>
    if j.ctx = c ∧ j.ring = r ∧ 1 ≤ j.phase ∧ j.phase ≤ 3 ∧ j.left = 0 then .next (s.upeStep st c r j.got (State.upeWalk st c r ecc 4 j s)) else .next s
  | none =>
    let t := Tab.get 0 s.upe.turn st
    if s.upeHeld st c ∨ inTurn (t / 32) (t % 32) (s.released st) ≠ some (ringKey c r) then .next s
    else
      let q := max 1 (s.fld (upePage st) 0x400 0 4)
      let left := if t / 32 = ringKey c r + 1 ∧ t % 32 ≠ 0 then t % 32 - 1 else q - 1
      let s1 := s.modUpe fun u => { u with turn := Tab.set 0 u.turn st ((ringKey c r + 1) * 32 + left) }
      let j : UpeRun := { ctx := c, ring := r, idx := (s.ring c r).pos, heldNs := heldNs }
      .next (s.upeStep st c r [] (State.upeWalk st c r ecc 4 j (s1.setUpeRun st (some j))))

/-- The contribution meets the summary word (R233). -/
def State.upeSum (s : State) (st c va : Nat) (got : Tab Byte) (k : SumKind) (v : Word) : State :=
  match s.reach st (some c) va 8 false with
  | (.refused _, s) => s
  | (.ok gs, s) =>
    let (b, s) := s.reachBytes (some c) 0 got gs
    (s.storeAny st c (upePage st) va 0 (toBytes 8 (({ kind := k, val := BitVec.ofNat 64 (ofBytes b) } : Summary).combine v).val.toNat)).2

/-- UPE_JOB_COMPLETE: every write of the job has been applied; READY, DONE and the next job (R226, R233). -/
def execUpeJobComplete (stack : Fin 4) (busyNs : Nat) (s : State) : Host.Outcome State Fault Refusal :=
  if !s.awake then .next s else
  let st := stack.val
  let pg := upePage st
  match s.upeRun st with
  | none => .next s
  | some j =>
    let c := j.ctx
    if j.phase ≠ 4 ∨ j.left ≠ 0 then .next s
    else if s.endHeld st c ((s.ring c j.ring).at + 64) (j.words.getD 3 0).toNat
        || (j.sum.isSome && s.vaHeld st c (j.words.getD 9 0).toNat 8 true) then .next s
    else
      let s := s.flushWrites (some c) (upeMem st)
      let s := match j.sum with
        | some (k, v) => if j.status = 2 then s else s.upeSum st c (j.words.getD 9 0).toNat j.got k v
        | none => s
      let s := (((s.count pg 4 (some c) j.elems).count pg 5 (some c) j.rd).count pg 6 (some c) j.wr).count pg 8 (some c) busyNs
      let s := (s.setUpeRun st none).upeEnd st c j.ring (j.words.getD 3 0).toNat j.status (waitBucket j.heldNs) j.sev j.code
      .next (s.drained pg)

end Sys2Proof.Machine
end

