-- ==== Sys2Proof/Machine/Cle.lean ====
section
/-! DEFINITION. The Collective Engines: queues, steps, COLL packets, merges, permutations, fetches, digests (R298 to R311). -/

namespace Sys2Proof.Machine

/-! ## Queues (R298, R299) -/

def State.cleQ (s : State) (c q : Nat) : CleQueue := Tab.get {} s.cle.queues (ringKey c q)
def State.modCleQ (s : State) (c q : Nat) (f : CleQueue → CleQueue) : State :=
  s.modCle fun u => { u with queues := Tab.mod {} u.queues (ringKey c q) f }
def CleQueue.live (g : CleQueue) : Bool := !g.bad && decide (g.pos < g.steps.toNat)
def CleQueue.at (g : CleQueue) : Nat := g.base.toNat + 128 * g.pos

def State.cleRun (s : State) (st c q : Nat) : Option CleRun := s.cle.runs.find? fun j => decide (j.stack = st ∧ j.ctx = c ∧ j.q = q)
def State.modCleRun (s : State) (st c q : Nat) (f : CleRun → CleRun) : State :=
  s.modCle fun u => { u with runs := u.runs.map fun j => if j.stack = st ∧ j.ctx = c ∧ j.q = q then f j else j }
def State.endCleRun (s : State) (st c q : Nat) : State :=
  s.modCle fun u => { u with runs := u.runs.filter fun j => !decide (j.stack = st ∧ j.ctx = c ∧ j.q = q) }

/-- The entry of a context breaks R298. -/
def planBad (ws : List Word) : Bool :=
  decide ((ws.getD 0 0).toNat % 4096 ≠ 0) || ((List.range 8).any fun q => decide (bits (ws.getD (2 + q) 0) 0 48 % 128 ≠ 0))
    || ((List.range 6).any fun k => ws.getD (10 + k) 0 != 0)

/-- A read of the plan table by one CLE: unchanged queues keep their position; an invalid entry raises 0x0B3 and is charged as a
refused completion (R298, R438). -/
def State.readQueues (s : State) (st : Nat) : State :=
  let pg := clePage st
  let base := s.fld pg 0x100 0 52
  let keys := (List.range 256).flatMap fun c => [ringKey c st, ringKey c (st + 4)]
  if hbmBytes < base + 32768 then
    (s.modCle fun u => { u with noTable := if u.noTable.contains st then u.noTable else u.noTable ++ [st]
                                queues := keys.foldl (fun m k => Tab.set {} m k {}) u.queues }).contained pg 0x0B3
  else
    let s := s.modCle fun u => { u with noTable := u.noTable.filter fun x => decide (x ≠ st) }
    (List.range 256).foldl (fun s c =>
      let ws := wordsOf 16 (s.peek (base + 128 * c) 128)
      let bad := planBad ws
      let s := s.modCle fun u =>
        { u with dbase := Tab.set 0 u.dbase (st * 256 + c) (if bad then 0 else ws.getD 0 0)
                 dkey := Tab.set 0 u.dkey (st * 256 + c) (if bad then 0 else ws.getD 1 0)
                 queues := [st, st + 4].foldl (fun m q =>
                   let w := ws.getD (2 + q) 0
                   let old := Tab.get {} m (ringKey c q)
                   let g : CleQueue := { base := BitVec.ofNat 64 (bits w 0 48), steps := BitVec.ofNat 16 (bits w 48 16), bad := bad }
                   Tab.set {} m (ringKey c q) (if !bad && !old.bad && old.base == g.base && old.steps == g.steps then old else g)) u.queues }
      if bad then (s.contained pg 0x0B3 (some c)).chargeRefusal c 0x0B3 else s) s

/-- A context's queues on one CLE go back to step 0 (R299). -/
def State.cleCommitAct (s : State) (st c : Nat) : State :=
  (s.modCle fun u => { u with queues := [st, st + 4].foldl (fun m q => Tab.mod {} m (ringKey c q) fun g => { g with pos := 0 }) u.queues }).readQueues st

/-- Steps in flight are abandoned; READY words are cleared, the queues return to step 0 and ATTEMPT counts up (R299). What has taken
a SEQ still gets its answer, for nobody. -/
def State.cleRollbackAct (s : State) (st c : Nat) : State :=
  let mine (o : Owner) : Bool := match o with | .cle a b _ => decide (a = st ∧ b = c) | _ => false
  let s := s.modCle fun u => { u with runs := u.runs.filter fun j => !decide (j.stack = st ∧ j.ctx = c) }
  let s := s.modFab fun f => { f with unsent := f.unsent.filter fun u => !mine u.req.owner
                                      reqs := f.reqs.map fun r => if mine r.owner then { r with owner := .bureau, tag := 0 } else r }
  let s := [st, st + 4].foldl (fun s q =>
    let g := s.cleQ c q
    let s := if g.bad then s
      else (List.range g.steps.toNat).foldl (fun s k => (s.storeAny st c (clePage st) (g.base.toNat + 128 * k + 16) 0 (toBytes 4 0)).2) s
    s.modCleQ c q fun g => { g with pos := 0 }) s
  (s.modCle fun u => { u with attempt := Tab.mod 0 u.attempt (st * 256 + c) (· + 1) }).readQueues st

/-- A step of the context runs on the CLE. -/
def State.cleBusyFor (s : State) (st c : Nat) : Bool := s.cle.runs.any fun j => decide (j.stack = st ∧ j.ctx = c)

/-! ## Fields (R300) -/

structure StepF where
  op    : Nat
  rop   : Nat
  rtype : Nat
  lfmt  : Nat
  ofmt  : Nat
  loc   : Bool
  nin   : Nat
  zero  : Bool
  rev   : Bool
  notify : Bool
  ntile : Nat
  tag   : Nat
  slot  : Nat
  hsel  : Nat
  pass2 : Bool
  nready : Nat
  interval : Nat
  phase : Nat
  lneed : Nat
  ready : Nat
  count : Nat
  src   : Nat
  dst   : Nat
  flow  : Nat
  spitch : Nat
  dpitch : Nat
  cnt   : Nat
  ocnt  : Nat
  contrib : Nat
  table : Nat
  stage : Nat
  done  : Nat
  release : Nat
  sbjob : Nat
  deriving DecidableEq, Repr

def stepFields (ws : List Word) : StepF :=
  let w (i : Nat) : Word := ws.getD i 0
  { op := bits (w 0) 0 4, rop := bits (w 0) 4 3, rtype := bits (w 0) 7 3, lfmt := bits (w 0) 10 4, loc := (w 0).getLsbD 14, ofmt := bits (w 0) 15 4,
    nin := bits (w 0) 19 5, zero := (w 0).getLsbD 24, rev := (w 0).getLsbD 25, notify := (w 0).getLsbD 26, ntile := bits (w 0) 27 8,
    tag := bits (w 0) 35 16, slot := bits (w 0) 51 8, hsel := bits (w 0) 59 2, pass2 := (w 0).getLsbD 61, nready := bits (w 1) 0 16,
    interval := max 1 (bits (w 1) 16 16), phase := bits (w 1) 32 16, lneed := bits (w 1) 48 16, ready := bits (w 2) 0 32, count := bits (w 3) 0 40,
    src := (w 4).toNat, dst := (w 5).toNat, flow := bits (w 6) 0 20, spitch := bits (w 6) 20 32 * 32, dpitch := bits (w 7) 0 32 * 32,
    cnt := (w 8).toNat, ocnt := (w 9).toNat, contrib := (w 10).toNat, table := (w 11).toNat, stage := (w 12).toNat, done := (w 13).toNat,
    release := (w 14).toNat, sbjob := (w 15).toNat }

def CleRun.f (j : CleRun) : StepF := stepFields j.words

/-- Bytes of an element on the wire, and as it stands locally: an integer type stands as it is. -/
def StepF.wire (x : StepF) : Nat := redWidth x.rtype
def StepF.local (x : StepF) : Nat := if x.rtype < 4 ∨ x.op = 2 ∧ x.rop ≠ 2 then redWidth x.rtype else fmtBits x.lfmt / 8
def StepF.outW (x : StepF) : Nat := if x.rop = 2 then fmtBits x.ofmt / 8 else redWidth x.rtype
/-- Elements of a chunk, and the chunks of the step: one for each count word where nothing is moved. -/
def StepF.perChunk (x : StepF) : Nat := 8160 / x.wire
def StepF.chunks (x : StepF) : Nat := if x.op = 2 ∧ x.rop = 0 then x.count else (x.count + x.perChunk - 1) / x.perChunk
/-- Elements of chunk k. -/
def StepF.chunkLen (x : StepF) (k : Nat) : Nat := min x.perChunk (x.count - k * x.perChunk)
/-- SLOTBYTES (R303). -/
def StepF.slotBytes (x : StepF) : Nat := (x.count * x.wire + 31) / 32 * 32

/-- 0x0B0 of R308. -/
def stepBad (ws : List Word) (x : StepF) : Bool :=
  let w (i : Nat) : Word := ws.getD i 0
  let types := if x.op = 2 then
      (match x.rop with
       | 0 => true
       | 2 => decide (x.rtype = 5 ∧ x.lfmt ≤ 1 ∧ x.ofmt ≤ 1)
       | _ => redOk x.rop x.rtype && decide (x.lfmt = 0 ∧ x.ofmt = 0))
    else if x.op = 1 then decide (x.rtype < 6) && (if x.rtype < 4 then decide (x.lfmt = 0) else decide (x.lfmt ≤ 4))
    else true
  let mis (n : Nat) (a : Nat) : Bool := decide (a % n ≠ 0)
  decide (bits (w 0) 62 2 ≠ 0 ∨ bits (w 2) 32 32 ≠ 0 ∨ bits (w 3) 40 24 ≠ 0) || decide (x.op = 0 ∨ 4 < x.op) || !types || decide (16 < x.nin)
    || decide (x.hsel = 3)
    || mis 8 x.done || mis 4 x.release || mis 32 x.sbjob
    || (match x.op with
        | 1 => mis 32 x.src || mis 32 x.dst || mis 4 x.cnt || (decide (x.lneed ≠ 0) && mis 4 x.ocnt)
        | 2 => mis 4 x.cnt || (decide (x.rop ≠ 0) && (mis 32 x.contrib || mis 32 x.dst || mis 4 x.ocnt || (x.loc && mis 32 x.src)))
        | 3 => mis 32 x.table || mis 32 x.src || mis 32 x.dst || mis 32 x.stage || mis 4 x.cnt
        | _ => mis 32 x.table || mis 32 x.dst || mis 4 x.ocnt)

/-- The ranges a step reads and writes, as far as its own words give them. -/
def StepF.reads (x : StepF) : List (Nat × Nat) :=
  match x.op with
  | 1 => (if x.zero then [] else [(x.src, x.count * x.local)]) ++ (if x.lneed = 0 then [] else [(x.ocnt, 4 * x.chunks)])
  | 2 => [(x.cnt, 4 * x.chunks)] ++ (if x.rop = 0 then [] else
      (List.range x.nin).map (fun j => (x.contrib + j * x.slotBytes, x.count * x.wire)) ++ (if x.loc then [(x.src, x.count * x.local)] else []))
  | _ => [(x.table, 32)]
def StepF.writes (x : StepF) : List (Nat × Nat) :=
  (if x.done = 0 then [] else [(x.done, 8)]) ++ (if x.release = 0 then [] else [(x.release, 4)])
    ++ (if x.op = 2 ∧ x.rop ≠ 0 then [(x.dst, x.count * x.outW), (x.ocnt, 4 * x.chunks)] else [])

/-! ## The end of a step (R307) -/

/-- Every enabled queue of the context on this CLE is at its end. -/
def State.queuesDone (s : State) (st c : Nat) : Bool := !(s.cleQ c st).live && !(s.cleQ c (st + 4)).live

/-- Adds 1 to the UINT32 at a virtual address: by the home's atomic unit, or by a reduction sent to its tray member. -/
def State.releaseAt (s : State) (st c va : Nat) : State :=
  match s.reach st (some c) va 4 true with
  | (.refused _, s) => s
  | (.ok gs, s) =>
    gs.foldl (fun s g =>
      match s.localOf g, s.trayOf g with
      | some a, _ => s.atomicSegs (some c) 1 2 [(a, g.len, g.noalloc)] (toBytes 4 1)
      | none, some (m, off) =>
        (((s.dropTlc g.pa g.len).request
          { flow := s.trayFlow c m, seq := 0, pop := 4, ctx := c, owner := .bureau
            w2 := BitVec.ofNat 64 (off % 2 ^ 48 + 1 * 2 ^ 49 + 2 * 2 ^ 52 + 2 ^ 56), arg := toBytes 4 1 ++ List.replicate 28 0, page := clePage st
            die := st })).pump
      | none, none => s) s

/-- A flag record to a tile of this package; its flow and sequence number are not stated. -/
def State.notifyTile (s : State) (c t : Nat) : State :=
  let (d, s) := s.draw
  if 192 ≤ t then s
  else match s.inboxTo c t s.ownLc (bits (Config.freeWord d) 0 20) (bits (Config.freeWord d) 32 32) [] with
    | some s => s
    | none => s

/-- READY to 0, DONE, then, where the step was not refused at its start, RELEASE, the flag record and the Sideboard job; the queue
moves on (R299, R307). -/
def State.cleEnd (s : State) (st c q : Nat) (x : StepF) (actions : Bool) (status wait sev code : Nat) : State :=
  let pg := clePage st
  let g := s.cleQ c q
  let s := (s.storeAny st c pg (g.at + 16) 0 (toBytes 4 0)).2
  let s := if x.done = 0 ∨ x.done % 8 ≠ 0 then s else (s.storeAny st c pg x.done 0 (toBytes 8 (doneWord status wait sev code))).2
  let s := if !actions then s
    else
      let s := if x.release = 0 then s else s.releaseAt st c x.release
      let s := if x.notify then s.notifyTile c x.ntile else s
      if x.sbjob = 0 then s else s.sbdQueue x.sbjob c
  let s := (s.endCleRun st c q).modCleQ c q fun g => { g with pos := g.pos + 1 }
  let s := match status with
    | 0 => s.count pg 0 (some c)
    | 1 => s.count pg 1 (some c)
    | _ => ((s.count pg 2 (some c)).event pg 4).chargeRefusal c code
  let s := if s.queuesDone st c then s.event pg 7 else s
  s.drained pg

/-- A step refused at its start (R308, R235). -/
def State.cleRefuse (s : State) (st c q : Nat) (x : StepF) (wait code : Nat) : State :=
  (if code = 0x0C4 then s else s.contained (clePage st) code (some c)).cleEnd st c q x false 2 wait 2 code

/-- The code of a refused range. -/
def cleCode (k : Nat) : Nat := if k = 0 then 0x0B1 else k

/-! ## Starting (R299, R308, R310) -/

/-- The CLE takes no step of the context now. -/
def State.cleHeld (s : State) (st c : Nat) : Bool := !s.awake || !s.admits (clePage st) || s.upe.halted.contains c

/-- MAXSTEPS as it acts (R311). -/
def State.maxSteps (s : State) (st : Nat) : Nat := max 1 (min 16 (s.fld (clePage st) 0x400 0 5))

/-- The queues of a CLE whose head step has been released, in ascending (context, queue) order (R229, R299); a READY word in
tray memory counts as reached. -/
def State.cleReleased (s : State) (st : Nat) : List Nat :=
  (s.cle.queues.filter fun e =>
    let c := e.1 / 8
    let q := e.1 % 8
    decide (q % 4 = st) && e.2.live && !s.upe.halted.contains c && (s.cleRun st c q).isNone
    && (match (s.reach st (some c) e.2.at 128 false).1 with
        | .ok gs => !(s.trayParts gs).isEmpty ||
            (let x := stepFields (wordsOf 16 (s.reachBytes none 0 [] gs).1)
             decide (x.nready ≤ x.ready))
        | .refused _ => true)).map Prod.fst

/-- A step's last words wait for a controller: READY, DONE and RELEASE (R41, R256). -/
def State.cleEndHeld (s : State) (st c q : Nat) (x : StepF) (actions : Bool) : Bool :=
  s.endHeld st c ((s.cleQ c q).at + 16) x.done || (actions && decide (x.release ≠ 0) && s.vaHeld st c x.release 4 true)

/-- A head step that would end at once, or start, while a controller it needs does not admit is held: it has not happened yet. -/
def State.cleStep (s : State) (st c q : Nat) (x : StepF) (t : State) : State :=
  if decide ((t.cleQ c q).pos ≠ (s.cleQ c q).pos) && s.cleEndHeld st c q x true then s
  else if (match t.cleRun st c q with | some j => decide (j.phase ≠ 8) | none => false) && x.writes.any (fun w => s.vaHeld st c w.1 w.2 true) then s
  else t

/-- The words of a head step decide: refused, skipped, waiting, or started. -/
def State.stepDecide (s : State) (st c q heldNs : Nat) (ws : List Word) : State :=
  let x := stepFields ws
  let wait := waitBucket heldNs
  let pg := clePage st
  let last := Tab.get 0 s.cle.turn st
  if x.interval ≤ x.phase then s.cleRefuse st c q x 0 0x0B0
  else if (s.stepOf c st).toNat % x.interval ≠ x.phase then s.cleEnd st c q x true 1 0 0 0
  else if x.ready < x.nready ∨ inTurn last 0 (s.cleReleased st) ≠ some (ringKey c q) then s
  else
    let s := s.modCle fun u => { u with turn := Tab.set 0 u.turn st (ringKey c q + 1), lastCtx := Tab.set 0 u.lastCtx st (BitVec.ofNat 8 c) }
    let past := decide (x.nready < x.ready)
    let s := if past then s.contained pg 0x0B4 (some c) else s
    if stepBad ws x then s.cleRefuse st c q x wait 0x0B0
    else match s.reachAll st (some c) false x.reads with
      | (.inl k, s) => s.cleRefuse st c q x wait (cleCode k)
      | (.inr _, s) =>
        match s.reachAll st (some c) true x.writes with
        | (.inl k, s) => s.cleRefuse st c q x wait (cleCode k)
        | (.inr _, s) =>
          let e := s.flowNow x.flow
          if decide (x.op = 1) && (!e.valid || e.mgmt || decide (e.ctx ≠ c)) then s.cleRefuse st c q x wait 0x095
          else s.modCle fun u => { u with runs := u.runs ++
            [{ stack := st, ctx := c, q := q, idx := (Tab.get {} u.queues (ringKey c q)).pos, words := ws, heldNs := heldNs
               sev := if past then 2 else 0, code := if past then 0x0B4 else 0 }] }

/-- CLE_STEP_START: the released head step whose turn it is starts; one whose interval test fails is skipped (R299). -/
def execCleStepStart (stack : Fin 4) (ctx : Fin 256) (q : Fin 8) (heldNs : Nat) (s : State) : Host.Outcome State Fault Refusal :=
  let st := stack.val
  let c := ctx.val
  let k := q.val
  let g := s.cleQ c k
  if k % 4 ≠ st ∨ s.cleHeld st c ∨ !g.live then .next s
  else match s.cleRun st c k with
    | some j =>
      if j.phase ≠ 8 ∨ j.left ≠ 0 then .next s
      else match s.reach st (some c) g.at 128 false with
        | (.refused e, s1) => .next (s.cleStep st c k (stepFields []) ((s1.endCleRun st c k).cleRefuse st c k (stepFields []) 0 (cleCode e)))
        | (.ok gs, s1) =>
          if s.segsHeld gs then .next s
          else
            let (b, s2) := s1.reachBytes (some c) 0 j.got gs
            .next (s.cleStep st c k (stepFields (wordsOf 16 b)) ((s2.endCleRun st c k).stepDecide st c k heldNs (wordsOf 16 b)))
    | none =>
      if s.maxSteps st ≤ (s.cle.runs.filter fun j => decide (j.stack = st)).length then .next s
      else match s.reach st (some c) g.at 128 false with
        | (.refused e, s1) => .next (s.cleStep st c k (stepFields []) (s1.cleRefuse st c k (stepFields []) 0 (cleCode e)))
        | (.ok gs, s1) =>
          if s.segsHeld gs then .next s
          else if (s1.trayParts gs).isEmpty then
            let (b, s2) := s1.reachBytes (some c) 0 [] gs
            .next (s.cleStep st c k (stepFields (wordsOf 16 b)) (s2.stepDecide st c k heldNs (wordsOf 16 b)))
          else
            let s := s1.modCle fun u => { u with runs := u.runs ++ [{ stack := st, ctx := c, q := k, idx := g.pos, phase := 8 }] }
            let (n, s) := s.gather c (.cle st c k) (clePage st) st 0 gs
            .next ((s.modCleRun st c k fun j => { j with left := n }).pump)

/-! ## Data of a running step -/

/-- A running step meets an error. -/
def CleRun.meet (j : CleRun) (m : Met) : CleRun := if j.sev < m.sev then { j with sev := m.sev, code := m.code } else j

/-- A step is refused: as at its start while nothing of it has begun, else it completes refused once what it has sent is answered
(R308). -/
def State.cleFail (s : State) (st c q code : Nat) : State :=
  match s.cleRun st c q with
  | none => s
  | some j =>
    if !j.begun then (s.endCleRun st c q).cleRefuse st c q j.f (waitBucket j.heldNs) code
    else
      let s := if code = 0x0C4 then s else s.contained (clePage st) code (some c)
      s.modCleRun st c q fun j => { (j.meet ⟨2, code⟩) with status := 2, todo := [], cntTo := [], gather := 0 }

/-- An uncorrectable error in what a step read (R308). -/
def State.cleEcc (s : State) (st c q : Nat) (ecc : Ecc) : State :=
  let (m, s) := s.eccMem (some c) ecc
  if 3 ≤ m.sev then (s.stepFatal (clePage st) 0x0B6 (some c)).modCleRun st c q fun j => j.meet ⟨3, 0x0B6⟩ else s

/-- The data of several ranges, with a hint each; none while some of it is still to be gathered from tray memory under `mark`, or while
a home does not admit. A range that does not reach fails the step. What a staged walk has gathered under lower marks stays. -/
def State.cleFetchData (s : State) (st c q mark : Nat) (staged : Bool) (rs : List (Nat × Nat × Nat)) : Option (List (List Byte)) × State :=
  match s.cleRun st c q with
  | none => (none, s)
  | some j =>
    match s.reachAll st (some c) false (rs.map fun r => (r.1, r.2.1)) with
    | (.inl k, s) => (none, s.cleFail st c q (cleCode k))
    | (.inr gss, s1) =>
      let gs := gss.flatten
      let here := if staged then decide (mark ≤ j.gather) else decide (j.gather = mark)
      if s.segsHeld gs then (none, s)
      else if here ∨ (s1.trayParts gs).isEmpty then
        if here ∧ j.left ≠ 0 then (none, s)
        else
          let r := (rs.zip gss).foldl (fun (a : List (List Byte) × State) p =>
            let (b, s) := a.2.reachBytes (some c) p.1.2.2 j.got p.2
            (a.1 ++ [b], s)) (([] : List (List Byte)), s1)
          let s := r.2.count (clePage st) 9 (some c) (rs.map fun p => p.2.1).sum
          (some r.1, s.modCleRun st c q fun j => if here && !staged then { j with gather := 0, got := [] } else j)
      else if (!staged && decide (j.gather ≠ 0)) || decide (j.left ≠ 0) then (none, s)
      else
        let (n, s) := s1.gather c (.cle st c q) (clePage st) st 0 gs
        (none, (s.modCleRun st c q fun j => { j with gather := mark, left := j.left + n }).pump)

/-- Bytes written by a step: local ones at once, other members' by PUT. -/
def State.clePut (s : State) (st c q va : Nat) (d : List Byte) : State :=
  match s.reach st (some c) va d.length true with
  | (.refused k, s) => s.cleFail st c q (cleCode k)
  | (.ok gs, s) =>
    let id := memId (204 + st) (c * 8 + q)
    let (n, s) := s.reachWrite c (.cle st c q) (clePage st) st 0 id 0 gs d
    (((s.flushWrites (some c) id).count (clePage st) 10 (some c) d.length).modCleRun st c q fun j => { j with left := j.left + n }).pump

/-! ## COLL packets (R302) and digests (R309) -/

/-- The hash of a packet (R309). -/
def collHash (key : Word) (dcrc chunk tag slot src dst : Nat) (zero cnt : Bool) : Word :=
  let y := rngWords (BitVec.ofNat 32 dcrc) (BitVec.ofNat 32 chunk) (BitVec.ofNat 32 (tag + slot * 2 ^ 16 + chunk / 2 ^ 32 % 256 * 2 ^ 24))
    (BitVec.ofNat 32 (src + dst * 2 ^ 13 + flag zero * 2 ^ 26 + flag cnt * 2 ^ 27)) (BitVec.ofNat 32 (bits key 0 32)) (BitVec.ofNat 32 (bits key 32 32))
  BitVec.ofNat 64 ((y.getD 1 0).toNat * 2 ^ 32 + (y.getD 0 0).toNat)

/-- A packet's hash joins SENT (`recv` false) or RECV of its tag's record, which is cleared first where its stamp is old (R309). -/
def State.digest (s : State) (st c tag : Nat) (recv : Bool) (h : Word) : State :=
  let base := (Tab.get 0 s.cle.dbase (st * 256 + c)).toNat
  if base = 0 then s
  else match s.loadVirt st c (base + 32 * tag) 32 0 with
    | (none, s) => s
    | (some b, s) =>
      let old := decide (ofBytes ((b.drop 24).take 4) / 2 ^ 16 * 2 ^ 16 = s.stampOf st c)
      let b := if old then b else List.replicate 32 0
      let add (o n v : Nat) : List Byte := toBytes n ((ofBytes ((b.drop o).take n) + v) % 2 ^ (8 * n))
      let k (r : Bool) (v : Nat) : Nat := if r = recv then v else 0
      (s.storeVirt st c (base + 32 * tag)
        (add 0 8 (k false h.toNat) ++ add 8 8 (k true h.toNat) ++ add 16 4 (k false 1) ++ add 20 4 (k true 1)
          ++ toBytes 4 (s.stampOf st c) ++ (b.drop 28).take 4) 0).2

/-- The header of a COLL packet (R302). -/
def collHead (cntva tag slot chunk cstep attempt dcrc : Nat) (zero cnt : Bool) : List Byte :=
  toBytes 8 (cntva % 2 ^ 48 + flag zero * 2 ^ 48 + flag cnt * 2 ^ 49) ++ toBytes 8 (tag + slot * 2 ^ 16 + chunk % 2 ^ 40 * 2 ^ 24)
    ++ toBytes 8 (cstep + attempt * 2 ^ 16) ++ toBytes 8 dcrc

/-- A step sends one COLL packet on a flow: to `tva`, counted at `cntva`. The last unit is filled with bytes that R301 does not state. -/
def State.sendColl (s : State) (st c q : Nat) (x : StepF) (flow tva cntva chunk : Nat) (d : List Byte) (zero cnt : Bool) : State :=
  let e := s.flowNow flow
  let crc := (crc32c d).toNat
  let (k, s) := s.draw
  let pad := (List.range ((d.length + 31) / 32 * 32 - d.length)).map fun i => Config.padByte k i
  let s := s.digest st c x.tag false (collHash (Tab.get 0 s.cle.dkey (st * 256 + c)) crc chunk x.tag x.slot s.ownLc e.peer zero cnt)
  let head := collHead cntva x.tag x.slot chunk (s.cstep st c) (s.attemptOf c st) crc zero cnt
  ((s.request { flow := flow, seq := 0, pop := 10, ctx := c, owner := .cle st c q, w2 := BitVec.ofNat 64 (tva % 2 ^ 48 + x.rtype * 2 ^ 52)
                arg := head ++ d ++ pad, page := clePage st, die := st }).modCleRun st c q fun j => { j with left := j.left + 1 })

/-- A flow of the step is the context's own and valid; a step on another is refused (R264). -/
def State.cleFlowOk (s : State) (c f : Nat) : Bool :=
  let e := s.flowNow f
  e.valid && !e.mgmt && decide (e.ctx = c)

/-- POP_COLL: the CLE that homes TVA applies a packet, drops it as stale, or turns it away, by its stamp (R302). -/
def State.applyColl (x : Inbound) (e : Flow) (o : Opened) (s : State) : State :=
  let w (i : Nat) : Nat := ofBytes ((o.data.drop (8 * i)).take 8)
  let data := o.data.drop 32
  let cntva := w 0 % 2 ^ 48
  let zero := decide (w 0 / 2 ^ 48 % 2 = 1)
  let cntOnly := decide (w 0 / 2 ^ 49 % 2 = 1)
  let c := e.ctx
  let n := if cntOnly then 4 else if zero then 8160 else max 1 data.length
  if o.space then s.refuseReq x e o.owner
  else match s.targetSegs x.die e o.va n true with
    | (none, s) => s.refuseReq x e o.owner
    | (some segs, s) =>
      let st := homeOf ((segs.map fun g => g.1).headD 0) / 4
      let pg := clePage st
      let (cok, s) : Bool × State := if cntva = 0 then (true, s) else
        (match s.targetSegs x.die e cntva 4 true with
         | (none, s) => (false, s)
         | (some _, s) => (true, s))
      if !cok then s.refuseReq x e o.owner
      else match s.quiesceCheck x e o.owner (reqPages x segs ++ [pg]) with
        | some s => s
        | none =>
          let d := (w 2 % 2 ^ 16 + 2 ^ 16 - s.cstep st c) % 2 ^ 16
          let same := decide (w 2 / 2 ^ 16 % 256 = s.attemptOf c st)
          if d = 0 ∧ same then
            let s := if cntOnly then s else s.writeSegs (some c) 0 segs (if zero then List.replicate 8160 0 else data)
            let s := if cntva = 0 then s else (s.countUp st c cntva).2
            let dst := if o.tsel then s.takenLc.getD s.ownLc else s.ownLc
            let s := s.digest st c (w 1 % 2 ^ 16) true
              (collHash (Tab.get 0 s.cle.dkey (st * 256 + c)) (w 3 % 2 ^ 32) (w 1 / 2 ^ 24) (w 1 % 2 ^ 16) (w 1 / 2 ^ 16 % 256) o.owner dst zero cntOnly)
            (s.count pg 4 (some c)).acceptReq x e o.owner
          else if d = 0 ∨ 2 ^ 15 ≤ d then ((s.count pg 5 (some c)).event pg 6).acceptReq x e o.owner
          else if d = 1 then
            ((s.count pg 6 (some c)).record (pktFlow x.pkt) (pktSeq x.pkt) 2 1 false).nack x e o.owner 1
          else (s.contained pg 0x0B8 (some c)).refuseReq x e o.owner

def execPopColl (s : State) : Host.Outcome State Fault Refusal := .next (s.serve 10 State.applyColl)

/-! ## XFER (R301) -/

/-- Elements converted to the wire type, nearest even (R301). -/
def StepF.convert (x : StepF) (d : List Byte) : List Byte :=
  if x.rtype < 4 then d
  else
    let w := x.local
    bytesOfElems x.wire ((elemsOf w (d.length / w) d).map fun v => encodeFp .nearest (x.rtype - 4) (decodeFp x.lfmt v))

/-- Chunk k leaves with its data. -/
def State.sendChunk (s : State) (st c q : Nat) (x : StepF) (k : Nat) (d : List Byte) : State :=
  s.sendColl st c q x x.flow (x.dst + 8160 * k) (if x.cnt = 0 then 0 else x.cnt + 4 * k) k (if x.zero then [] else x.convert d) x.zero false

/-- The local range of chunk k. -/
def StepF.srcOf (x : StepF) (k : Nat) : Nat × Nat × Nat := (x.src + k * x.perChunk * x.local, if x.zero then 0 else x.chunkLen k * x.local, 0)

/-- XFER: the step begins; without LNEED every chunk is sent (R301). -/
def execXfer (stack : Fin 4) (ctx : Fin 256) (q : Fin 8) (ecc : Ecc) (s : State) : Host.Outcome State Fault Refusal :=
  if !s.awake then .next s else
  let st := stack.val
  let c := ctx.val
  let k := q.val
  match s.cleRun st c k with
  | none => .next s
  | some j =>
    let x := j.f
    if !s.awake ∨ x.op ≠ 1 ∨ j.begun ∨ j.phase = 8 then .next s
    else if x.lneed ≠ 0 then .next (s.modCleRun st c k fun j => { j with begun := true, todo := List.range x.chunks })
    else match s.cleFetchData st c k 1 false ((List.range x.chunks).map x.srcOf) with
      | (none, s) => .next s
      | (some ds, s) =>
        let s := s.cleEcc st c k ecc
        let s := s.modCleRun st c k fun j => { j with begun := true }
        .next ((ds.mapIdx fun i d => (i, d)).foldl (fun s p => s.sendChunk st c k x p.1 p.2) s).pump

/-- XFER_CHUNK: chunk k of a chasing XFER finds its count word at LNEED and is sent (R301). -/
def execXferChunk (stack : Fin 4) (ctx : Fin 256) (q : Fin 8) (chunk : Nat) (ecc : Ecc) (s : State) : Host.Outcome State Fault Refusal :=
  if !s.awake then .next s else
  let st := stack.val
  let c := ctx.val
  let k := q.val
  match s.cleRun st c k with
  | none => .next s
  | some j =>
    let x := j.f
    if !s.awake ∨ x.op ≠ 1 ∨ !j.todo.contains chunk then .next s
    else match s.cleFetchData st c k (chunk + 1) false [(x.ocnt + 4 * chunk, 4, 0), x.srcOf chunk] with
      | (none, s) => .next s
      | (some ds, s1) =>
        if s1.countOf st c (ofBytes (ds.getD 0 [])) < x.lneed then .next (if j.gather = 0 then s else s1)
        else
          let s := s1.cleEcc st c k ecc
          let s := s.modCleRun st c k fun j => { j with todo := j.todo.filter fun i => decide (i ≠ chunk) }
          .next (s.sendChunk st c k x chunk (ds.getD 1 [])).pump

/-! ## ADD (R303) -/

/-- CLE_ADD: the step begins; its chunks wait for their count words. -/
def execCleAdd (stack : Fin 4) (ctx : Fin 256) (q : Fin 8) (s : State) : Host.Outcome State Fault Refusal :=
  if !s.awake then .next s else
  let st := stack.val
  let c := ctx.val
  let k := q.val
  match s.cleRun st c k with
  | none => .next s
  | some j =>
    if !s.awake ∨ j.f.op ≠ 2 ∨ j.begun ∨ j.phase = 8 then .next s
    else .next (s.modCleRun st c k fun j => { j with begun := true, todo := List.range j.f.chunks })

/-- A value as an anchored entry, exactly, with its status as in R53. -/
def entryOfNum (v : Num) : Entry :=
  match v with
  | .nan => { nan := true }
  | .inf n => if n then { ninf := true } else { pinf := true }
  | x => (({} : Entry).setI x.dy.m).setA (x.dy.e + 95)

/-- One element of a chunk from its inputs in order, each with its format (R303). -/
def StepF.addOne (x : StepF) (ins : List (Nat × Nat)) : Nat :=
  if x.rop = 2 then encodeFp .nearest x.ofmt ((mergeEntries (ins.map fun p => entryOfNum (decodeFp p.1 p.2))).datum 0)
  else match ins with
    | [] => 0
    | p :: ps => ps.foldl (fun a b => redOne x.rop x.rtype a b.2) p.2

/-- A chunk from its inputs: format, width, bytes of each. -/
def StepF.addChunk (x : StepF) (n : Nat) (ins : List (Nat × Nat × List Byte)) : List Byte :=
  bytesOfElems x.outW ((List.range n).map fun i => x.addOne (ins.map fun p => (p.1, ofBytes ((p.2.2.drop (p.2.1 * i)).take p.2.1))))

/-- ADD_CHUNK: the count word of a chunk reaches NIN, and the chunk is merged, written and counted (R303). Where the two adders do
not agree the written values are not stated. -/
def execAddChunk (stack : Fin 4) (ctx : Fin 256) (q : Fin 8) (chunk : Nat) (addersAgree : Bool) (ecc : Ecc) (s : State) : Host.Outcome State Fault Refusal :=
  if !s.awake then .next s else
  let st := stack.val
  let c := ctx.val
  let k := q.val
  let pg := clePage st
  match s.cleRun st c k with
  | none => .next s
  | some j =>
    let x := j.f
    if !s.awake ∨ x.op ≠ 2 ∨ !j.todo.contains chunk then .next s
    else
      let n := if x.rop = 0 then 0 else x.chunkLen chunk
      let slots := if x.rop = 0 then [] else (List.range x.nin).map fun i => (x.contrib + i * x.slotBytes + 8160 * chunk, n * x.wire, 3)
      let loc := if x.rop ≠ 0 ∧ x.loc then [(x.src + chunk * x.perChunk * x.local, n * x.local, 0)] else []
      match s.cleFetchData st c k (chunk + 1) false ((x.cnt + 4 * chunk, 4, 0) :: (slots ++ loc)) with
      | (none, s) => .next s
      | (some ds, s1) =>
        let cnt := s1.countOf st c (ofBytes (ds.getD 0 []))
        if x.nin < cnt then .next (s1.cleFail st c k 0x0B2)
        else if cnt < x.nin then .next (if j.gather = 0 then s else s1)
        else
          let s := s1.modCleRun st c k fun j => { j with todo := j.todo.filter fun i => decide (i ≠ chunk) }
          if x.rop = 0 then .next s
          else
            let s := s.cleEcc st c k ecc
            let ins := (ds.drop 1).mapIdx fun i d => if i < x.nin then (x.rtype - 4, x.wire, d) else (x.lfmt, x.local, d)
            let out := x.addChunk n ins
            let (out, s) := if addersAgree then (out, s) else
              (out.mapIdx fun i _ => BitVec.ofNat 8 (Config.freeWord (s.draws + i)).toNat, { s with draws := s.draws + out.length })
            let s := if addersAgree then s
              else ((s.event pg 5).stepFatal pg 0x0B5 (some c)).modCleRun st c k fun j => j.meet ⟨3, 0x0B5⟩
            let s := s.clePut st c k (x.dst + chunk * x.perChunk * x.outW) out
            let s := s.clePut st c k (x.ocnt + 4 * chunk) (toBytes 4 (s.stampOf st c + 1))
            .next ((s.count pg 7 (some c)).count pg 8 (some c) (n * ins.length))

/-! ## PERM (R305) -/

/-- One run record. -/
structure PermRec where
  dest   : Nat
  list   : Bool
  half   : Nat
  inp    : Bool
  count  : Nat
  srcrow : Nat
  dstrow : Nat
  laddr  : Nat
  stgrow : Nat
  deriving DecidableEq, Repr

def permRec (b : List Byte) : PermRec :=
  let ws := wordsOf 4 b
  let w (i : Nat) : Word := ws.getD i 0
  { dest := bits (w 0) 0 8, list := (w 0).getLsbD 8, half := bits (w 0) 9 1, inp := (w 0).getLsbD 10, count := bits (w 0) 32 32,
    srcrow := bits (w 1) 0 32, dstrow := bits (w 1) 32 32, laddr := (w 2).toNat, stgrow := bits (w 3) 0 32 }

/-- HSEL passes the record. -/
def StepF.half (x : StepF) (r : PermRec) : Bool := decide (x.hsel = 0 ∨ x.hsel = r.half + 1)

/-- The package's member number in a step's group: the first whose flow is a loopback flow. -/
def State.ownMember (s : State) (x : StepF) : Option Nat := (List.range 256).find? fun m =>
  let e := s.flowNow (x.flow + m)
  e.valid && s.isOwn e.peer

/-- A row cut into packets of 8,160 bytes: place, bytes. -/
def rowParts : Nat → Nat → List Byte → List (Nat × List Byte)
  | 0, _, _ => []
  | n + 1, o, d => if d.isEmpty then [] else (o, d.take 8160) :: rowParts n (o + 8160) (d.drop 8160)

/-- One moved row: destination member, remote or local address, its source address. -/
structure Moved where
  dest : Nat
  goal : Nat
  src  : Nat
  deriving DecidableEq, Repr

/-- Source rows of a record: consecutive, or as its list names them. -/
def recRows (r : PermRec) (list : List Byte) : List Nat :=
  if r.list then (List.range r.count).map fun i => ofBytes ((list.drop (4 * i)).take 4) else (List.range r.count).map (r.srcrow + ·)

/-- The rows that a forward pass or a second pass moves. -/
def permMoves (x : StepF) (own : Option Nat) (rs : List (PermRec × List Byte)) : List Moved :=
  rs.flatMap fun (r, l) =>
    if x.pass2 then
      (if r.inp && x.half r then (List.range r.count).map fun i =>
        { dest := own.getD 256, goal := x.dst + (r.dstrow + i) * x.dpitch, src := x.stage + (r.stgrow + i) * x.dpitch } else [])
    else if !r.inp && x.half r then
      (recRows r l).mapIdx fun i row =>
        { dest := r.dest, src := x.src + row * x.spitch
          goal := if x.stage = 0 then x.dst + (r.dstrow + i) * x.dpitch else x.stage + (r.stgrow + i) * x.dpitch }
    else []

/-- The rows that a reverse step pulls back: member, remote address, local address. -/
def permPulls (x : StepF) (own : Option Nat) (ret : Nat) (rs : List PermRec) : List (Nat × Nat × Nat) :=
  ((rs.filter fun r => !r.inp && decide (some r.dest ≠ own)).foldl (fun (acc : List (Nat × Nat × Nat) × Nat) r =>
    (acc.1 ++ (if x.half r then (List.range r.count).map fun i => (r.dest, x.src + (r.dstrow + i) * x.spitch, x.dst + (ret + acc.2 + i) * x.dpitch)
               else []), acc.2 + r.count)) ([], 0)).1

/-- The table: its header, then its records; none while some of it is being gathered. -/
def State.permTable (s : State) (st c q : Nat) (x : StepF) : Option (List Word × List PermRec) × State :=
  match s.cleFetchData st c q 1 true [(x.table, 32, 0)] with
  | (none, s) => (none, s)
  | (some hb, s1) =>
    let hs := wordsOf 4 (hb.getD 0 [])
    match s1.cleFetchData st c q 2 true [(x.table + 32, 32 * bits (hs.getD 0 0) 0 32, 0)] with
    | (none, s) => (none, s)
    | (some rb, s) => (some (hs, (cutRows 32 (bits (hs.getD 0 0) 0 32) (rb.getD 0 [])).map permRec), s)

/-- The bytes of a row written on its way: to another member in packets with consecutive chunk numbers, or here. -/
def State.moveRow (s : State) (st c q : Nat) (x : StepF) (own : Option Nat) (chunk : Nat) (m : Moved) (d : List Byte) : Nat × State :=
  if some m.dest = own ∨ x.pass2 then (chunk, s.clePut st c q m.goal d)
  else
    let ps := rowParts (d.length / 8160 + 1) 0 d
    (chunk + ps.length, (ps.mapIdx fun i p => (i, p)).foldl (fun s p =>
      s.sendColl st c q x (x.flow + m.dest) (m.goal + p.2.1) 0 (chunk + p.1) p.2.2 false false) s)

/-- PERM: rows move under the permutation table (R305). -/
def execPerm (stack : Fin 4) (ctx : Fin 256) (q : Fin 8) (ecc : Ecc) (s : State) : Host.Outcome State Fault Refusal :=
  if !s.awake then .next s else
  let st := stack.val
  let c := ctx.val
  let k := q.val
  match s.cleRun st c k with
  | none => .next s
  | some j =>
    let x := j.f
    if !s.awake ∨ x.op ≠ 3 ∨ j.begun ∨ j.phase = 8 then .next s
    else match s.permTable st c k x with
      | (none, s) => .next s
      | (some (hs, rs), s1) =>
        let own := s1.ownMember x
        let bytes := bits (hs.getD 1 0) 0 32
        if bytes % 32 ≠ 0 ∨ 2 ^ 21 < bytes ∨ ((hs.getD 0 0).toNat / 2 ^ 32 ≠ 0) then .next (s1.cleFail st c k 0x0B0)
        else if x.rev && !x.pass2 then
          let ps := permPulls x own (bits (hs.getD 1 0) 32 32) rs
          if ps.any fun p => !s1.cleFlowOk c (x.flow + p.1) then .next (s1.cleFail st c k 0x095)
          else
            match s1.reachAll st (some c) true (ps.map fun p => (p.2.2, bytes)) with
            | (.inl e, s) => .next (s.cleFail st c k (cleCode e))
            | (.inr _, s) =>
              let s := s.modCleRun st c k fun j => { j with begun := true, gather := 0, got := [], left := j.left + ps.length }
              .next (ps.foldl (fun s p => s.request
                { flow := x.flow + p.1, seq := 0, pop := 2, ctx := c, owner := .cle st c k, w2 := BitVec.ofNat 64 (p.2.1 % 2 ^ 48)
                  len := bytes / 32 - 1, dest := .mem c p.2.2, page := clePage st, die := st }) s).pump
        else
          match s1.cleFetchData st c k 3 true (rs.map fun r => (r.laddr, if r.list && !r.inp && !x.pass2 then 4 * r.count else 0, 0)) with
          | (none, s) => .next s
          | (some ls, s2) =>
            let ms := permMoves x own (rs.zip ls)
            let far := ms.filter fun m => !x.pass2 && decide (some m.dest ≠ own)
            let members := if x.pass2 then [] else List.range x.count
            if (far.any fun m => !s2.cleFlowOk c (x.flow + m.dest)) || (members.any fun m => !s2.cleFlowOk c (x.flow + m)) then .next (s2.cleFail st c k 0x095)
            else match s2.reachAll st (some c) true ((ms.filter fun m => x.pass2 || decide (some m.dest = own)).map fun m => (m.goal, bytes)) with
              | (.inl e, s) => .next (s.cleFail st c k (cleCode e))
              | (.inr _, s3) =>
                match s3.cleFetchData st c k 4 true (ms.map fun m => (m.src, bytes, 0)) with
                | (none, s) => .next s
                | (some ds, s) =>
                  let s := s.cleEcc st c k ecc
                  let s := s.modCleRun st c k fun j => { j with begun := true, gather := 0, got := [], cntTo := members }
                  .next ((ms.zip ds).foldl (fun (r : Nat × State) p => r.2.moveRow st c k x own r.1 p.1 p.2) (0, s)).2.pump

/-! ## FETCH (R306) -/

/-- One fetch record: owner, slot, bytes, remote address, coordinate. -/
structure FetchRec where
  owner : Nat
  slot  : Nat
  bytes : Nat
  va    : Nat
  coord : Nat
  deriving DecidableEq, Repr

def fetchRec (b : List Byte) : FetchRec :=
  let ws := wordsOf 4 b
  let w (i : Nat) : Word := ws.getD i 0
  { owner := bits (w 0) 11 8, slot := bits (w 0) 32 32 * 4096, bytes := bits (w 1) 0 16 * 4096, va := bits (w 2) 0 48, coord := bits (w 2) 49 13 }

/-- FETCH: each listed expert's weights are read into its slot (R306). -/
def execFetch (stack : Fin 4) (ctx : Fin 256) (q : Fin 8) (s : State) : Host.Outcome State Fault Refusal :=
  if !s.awake then .next s else
  let st := stack.val
  let c := ctx.val
  let k := q.val
  match s.cleRun st c k with
  | none => .next s
  | some j =>
    let x := j.f
    if !s.awake ∨ x.op ≠ 4 ∨ j.begun ∨ j.phase = 8 then .next s
    else match s.cleFetchData st c k 1 true [(x.table, 32, 0)] with
      | (none, s) => .next s
      | (some hb, s1) =>
        let list := x.table + 32 + 32 * (ofBytes ((hb.getD 0 []).take 4))
        match s1.cleFetchData st c k 2 true [(list, 32, 0)] with
        | (none, s) => .next s
        | (some fb, s2) =>
          let n := ofBytes ((fb.getD 0 []).take 4)
          match s2.cleFetchData st c k 3 true [(list + 32, 32 * n, 0)] with
          | (none, s) => .next s
          | (some rb, s3) =>
            let rs := (cutRows 32 n (rb.getD 0 [])).map fetchRec
            if rs.any fun r => !s3.cleFlowOk c (x.flow + r.owner) || decide ((s3.flowNow (x.flow + r.owner)).peer ≠ r.coord) then .next (s3.cleFail st c k 0x095)
            else match s3.reachAll st (some c) true ((rs.map fun r => (x.dst + r.slot, r.bytes)) ++ [(x.ocnt, 4 * n)]) with
              | (.inl e, s) => .next (s.cleFail st c k (cleCode e))
              | (.inr _, s) =>
                let gets := (rs.mapIdx fun i r => (i, r)).flatMap fun p => (trayGets (p.2.bytes / 2 ^ 21 + 2) 0 p.2.bytes).map fun g => (p.1, p.2, g.1, g.2)
                let s := s.modCleRun st c k fun j => { j with begun := true, gather := 0, got := [], left := j.left + gets.length }
                let s := (rs.mapIdx fun i r => (i, r)).foldl (fun s p =>
                  if p.2.bytes = 0 then (s.storeAny st c (clePage st) (x.ocnt + 4 * p.1) 0 (toBytes 4 (s.stampOf st c + 1))).2 else s) s
                .next (gets.foldl (fun s g => s.request
                  { flow := x.flow + g.2.1.owner, seq := 0, pop := 2, ctx := c, owner := .cle st c k, w2 := BitVec.ofNat 64 ((g.2.1.va + g.2.2.1) % 2 ^ 48)
                    len := g.2.2.2 / 32 - 1, dest := .mem c (x.dst + g.2.1.slot + g.2.2.1), page := clePage st, die := st, tag := g.1 + 1 }) s).pump

/-! ## Completion (R307) -/

/-- CLE_STEP_COMPLETE: every request of the step has its final answer and every chunk is done; a PERM then tells its group first. -/
def execCleStepComplete (stack : Fin 4) (ctx : Fin 256) (q : Fin 8) (busyNs : Nat) (s : State) : Host.Outcome State Fault Refusal :=
  if !s.awake then .next s else
  let st := stack.val
  let c := ctx.val
  let k := q.val
  match s.cleRun st c k with
  | none => .next s
  | some j =>
    let x := j.f
    if !s.awake ∨ !j.begun ∨ j.left ≠ 0 ∨ j.todo ≠ [] then .next s
    else if j.cntTo ≠ [] then
      let own := (s.ownMember x).getD 0
      let va := x.cnt + 4 * own
      let s := s.modCleRun st c k fun j => { j with cntTo := [] }
      .next (j.cntTo.foldl (fun s m => s.sendColl st c k x (x.flow + m) va va 0 [] false true) s).pump
    else if s.cleEndHeld st c k x true then .next s
    else .next ((s.count (clePage st) 13 (some c) busyNs).cleEnd st c k x true j.status (waitBucket j.heldNs) j.sev j.code)

end Sys2Proof.Machine
end

