-- ==== Sys2Proof/Machine/Links.lean ====
section
/-! DEFINITION. Links: packets that arrive, credits, replay, loss of a port and its retraining (R260, R261, R266 to R271). -/

namespace Sys2Proof.Machine

/-- PACKET_ARRIVAL: a malformed packet or one at the hop limit is dropped; another is delivered here or forwarded
(R266, R268, R270). -/
def execPacketArrival (port : Fin 6) (p : Packet) (s : State) : Host.Outcome State Fault Refusal :=
  let q := port.val
  let pg := rtrPage (portDie q)
  if !s.awake || !(s.port q).isUp then .next s
  else
    let s := s.modPort q fun x => { x with replayOwed := false }
    if malformed p then .next (((s.giveCredits (some q) p).countPort q 8).note pg 0x0E3)
    else if max 33 (s.fld pg 0x400 16 6) ≤ pktHops p then .next (((s.giveCredits (some q) p).countPort q 9).note pg 0x0E5)
    else .next (s.routePkt (some q) (portDie q) p)

/-- CREDIT_RETURN: a link record gives back credits, and held packets may go (R267). -/
def execCreditReturn (port : Fin 6) (vc : Fin 4) (cls : Fin 3) (n : Nat) (s : State) : Host.Outcome State Fault Refusal :=
  if !s.awake then .next s else
  .next ((s.modPort port.val fun x => { x with used := Tab.mod 0 x.used (vc.val * 3 + cls.val) (· - n) }).retryHeld)

/-- A port goes DOWN (R271): code 0x0E2, event LINK_DOWN; packets that wait take other routes. -/
def State.linkDown (s : State) (q : Nat) : State :=
  let pg := rtrPage (portDie q)
  let s := s.modPort q fun x => { x with state := .down, width := 0, used := [], replays := 0, replayOwed := false, downAt := s.time }
  ((((s.countPort q 11).event pg 4).raise pg 1 0x0E2).retryHeld)

/-- UNCORRECTABLE_CODEWORD: the frame is discarded and a replay requested (R271). -/
def execUncorrectableCodeword (port : Fin 6) (s : State) : Host.Outcome State Fault Refusal :=
  if !s.awake then .next s else
  let q := port.val
  if !(s.port q).isUp then .next s
  else .next (((s.modPort q fun x => { x with replayOwed := true }).send (.replayAsked q)).raise (rtrPage (portDie q)) 1 0x0E1)

/-- REPLAY_REQUEST: the frames are replayed; REPLAY_MAX consecutive failures take the port down (R271). -/
def execReplayRequest (port : Fin 6) (ok : Bool) (s : State) : Host.Outcome State Fault Refusal :=
  if !s.awake then .next s else
  let q := port.val
  if !(s.port q).isUp then .next s
  else
    let s := (s.countPort q 2).send (.replayed q)
    if ok then .next (s.modPort q fun x => { x with replays := 0 })
    else
      let n := (s.port q).replays + 1
      if max 1 (s.fld (rtrPage (portDie q)) 0x400 0 4) ≤ n then .next (s.linkDown q)
      else .next (s.modPort q fun x => { x with replays := n })

/-- LINK_LOSS_OF_LOCK: the port goes DOWN (R271). -/
def execLinkLossOfLock (port : Fin 6) (s : State) : Host.Outcome State Fault Refusal :=
  if !s.awake then .next s else
  if (s.port port.val).isUp then .next (s.linkDown port.val) else .next s

/-- A retrain begins now (R261). -/
def State.retrain (s : State) (q : Nat) : State :=
  let s := if (s.port q).isUp then s.linkDown q else s
  if (s.port q).state = .disabled then s else s.modPort q fun x => { x with state := .training }

/-- RETRAIN_TIMER: RETRAIN_MS after it went DOWN a port retrains (R271). -/
def execRetrainTimer (port : Fin 6) (s : State) : Host.Outcome State Fault Refusal :=
  if !s.awake then .next s else
  let q := port.val
  let ms := max 1 (s.fld (rtrPage (portDie q)) 0x400 8 8)
  if (s.port q).state = .down ∧ (s.port q).downAt + ms * 1000000 ≤ s.time then .next (s.retrain q) else .next s

/-- PORT_TRAINING_DONE: the widest of 24, 16 and 8 lanes that passes; below 8 the port stays DOWN (R261). -/
def execPortTrainingDone (port : Fin 6) (lanes : Nat) (rtt : BitVec 16) (s : State) : Host.Outcome State Fault Refusal :=
  if !s.awake then .next s else
  let q := port.val
  let pg := rtrPage (portDie q)
  if (s.port q).state ≠ .training then .next s
  else
    let w := if 24 ≤ lanes then 24 else if 16 ≤ lanes then 16 else if 8 ≤ lanes then 8 else 0
    let old := (s.port q).last
    if w = 0 then .next (s.modPort q fun x => { x with state := .down, downAt := s.time })
    else
      let s := s.modPort q fun x => { x with state := if w = 24 then .up else .reduced, width := w, rtt := rtt, used := [], replays := 0, last := w }
      let s := s.event pg 5
      let s := if w = old then s else s.event pg 6
      .next s.retryHeld

/-- FEC_WINDOW: a second ends with a number of corrected symbols (R271). -/
def execFecWindow (port : Fin 6) (symbols : Nat) (s : State) : Host.Outcome State Fault Refusal :=
  if !s.awake then .next s else
  let q := port.val
  let pg := rtrPage (portDie q)
  let s := s.countPort q 1 symbols
  if s.fld pg 0x400 32 32 < symbols then .next ((s.event pg 7).note pg 0x0E0) else .next s

/-- PORT.EN written: 0 disables the port at once; 1 lets it train (R279). -/
def State.portEnable (s : State) (q : Nat) (en : Bool) : State :=
  if en then (if (s.port q).state = .disabled then s.modPort q fun x => { x with state := .training } else s)
  else
    let s := if (s.port q).isUp then s.linkDown q else s
    s.modPort q fun x => { x with state := .disabled, width := 0 }

end Sys2Proof.Machine
end

