-- ==== Sys2Proof/Machine/Bureau.lean ====
section
/-! DEFINITION. The named operations of the Bureau: management cells, commit records and group lists, fail-stop, activations,
mirroring, rollback, decisions and takeover (R343 to R369). -/

namespace Sys2Proof.Machine

/-! ## Commit records and group lists (R348, R349) -/

/-- The address of a context's commit record. -/
def State.recordAddr (s : State) (c : Nat) : Nat := s.fld burPage 0x340 0 52 + 64 * c

/-- A group list as its header describes it. -/
structure GList where
  addr : Nat
  n    : Nat      -- NMEMB
  sb   : Nat      -- NSTANDBY
  gen0 : Nat
  twin : Nat      -- flow of the coordinator's twin, 0 for none
  deriving DecidableEq, Repr

/-- The group list at an address; none when it is malformed (R349). -/
def State.glistAt (s : State) (a : Nat) : Option GList :=
  if hbmBytes < a + 16 then none
  else
    let w := s.peekWord a
    let g : GList := { addr := a, n := bits w 0 16, sb := bits w 16 16, gen0 := bits w 32 16, twin := bits (s.peekWord (a + 8)) 0 20 }
    if g.n = 0 ∨ 8192 < g.n ∨ hbmBytes < a + 16 + 8 * g.n + 16 * g.sb then none else some g

/-- Members: logical coordinate and management flow. -/
def State.memberList (s : State) (g : GList) : List (Nat × Nat) :=
  (List.range g.n).map fun i => let w := s.peekWord (g.addr + 16 + 8 * i); (bits w 0 13, bits w 13 20)

/-- Standby pairs: each half laid out as a member entry, the even-x member first. -/
def State.standbyList (s : State) (g : GList) : List ((Nat × Nat) × (Nat × Nat)) :=
  (List.range g.sb).map fun i =>
    let a := g.addr + 16 + 8 * g.n + 16 * i
    let w := s.peekWord a
    let v := s.peekWord (a + 8)
    ((bits w 0 13, bits w 13 20), (bits v 0 13, bits v 13 20))

/-- A context's commit record as it stands in memory (R348). A coordinator's malformed group list counts as malformed; so does
NMIRROR where its list shows no twin. -/
def State.readRecord (s : State) (c : Nat) : CommitRec :=
  let a := s.recordAddr c
  if hbmBytes < a + 64 then { en := true, bad := true }
  else
    let ws := wordsOf 8 (s.peek a 64)
    let w (i : Nat) : Word := ws.getD i 0
    if !(w 0).getLsbD 0 then {}
    else
      let coord := (w 0).getLsbD 1
      let g := if coord then s.glistAt (w 1).toNat else none
      let nm := bits (w 4) 0 16
      let noTwin := match g with
        | some l => decide (nm ≠ 0) && !((s.memberList l).any fun m => decide (m.1 = twinOf s.ownLc))
        | none => false
      { en := true, coord := coord, coordLc := BitVec.ofNat 13 (bits (w 0) 2 13), cflow := BitVec.ofNat 20 (bits (w 0) 15 20),
        group := BitVec.ofNat 16 (bits (w 0) 35 16), glist := w 1, verdict := w 2, mlist := w 3, nmirror := nm,
        mflow := BitVec.ofNat 20 (bits (w 4) 16 20),
        bad := decide (bits (w 0) 51 13 ≠ 0 ∨ bits (w 4) 36 28 ≠ 0) || w 5 != 0 || w 6 != 0 || w 7 != 0 || decide ((w 2).toNat % 8 ≠ 0)
          || decide ((w 3).toNat % 32 ≠ 0) || (coord && (g.isNone || decide ((w 1).toNat % 8 ≠ 0))) || noTwin }

/-- Contexts with a commit record in force. -/
def State.groupCtxs (s : State) : List Nat := (s.bur.commits.filter fun e => e.2.cr.en).map Prod.fst

/-- The context of a group identifier. -/
def State.ctxOfGroup (s : State) (g : Nat) : Option Nat := s.groupCtxs.find? fun c => decide ((s.commit c).cr.group.toNat = g)

/-- This package decides for the context: as coordinator, or holding the coordinator's coordinate (R366). -/
def State.coordinates (s : State) (c : Nat) : Bool :=
  let r := (s.commit c).cr
  r.en && (r.coord || decide (s.takenLc = some r.coordLc.toNat))

/-- The group list of a context whose coordinator this package is. -/
def State.groupOf (s : State) (c : Nat) : Option GList := s.glistAt (s.commit c).cr.glist.toNat

/-! ## Management cells (R352) -/

/-- The operand bytes of a management cell. -/
structure Cell where
  kind    : Nat
  group   : Nat
  attempt : Nat
  step    : Nat
  arg     : Nat
  deriving DecidableEq, Repr

def Cell.bytes (x : Cell) : List Byte := toBytes 1 x.kind ++ toBytes 2 x.group ++ toBytes 1 x.attempt ++ toBytes 4 x.step ++ toBytes 4 x.arg
def cellOf (d : List Byte) : Cell :=
  { kind := (d.getD 0 0).toNat, group := ofBytes ((d.drop 1).take 2), attempt := (d.getD 3 0).toNat, step := ofBytes ((d.drop 4).take 4),
    arg := ofBytes ((d.drop 8).take 4) }

/-- The request that carries a cell on a flow, for a context (256: for none). -/
def mgmtReq (c flow : Nat) (arg : List Byte) : Req :=
  { flow := flow, seq := 0, pop := 13, ctx := c, owner := .bureau, mgmt := true, arg := arg, page := burPage, die := 3,
    tag := (arg.headD 0).toNat + 256 * c }

/-- A cell about a context's present attempt. -/
def State.ctxCell (s : State) (c kind arg : Nat) : Cell :=
  { kind := kind, group := (s.commit c).cr.group.toNat, attempt := s.attemptOf c, step := (s.stepOf c).toNat % 2 ^ 32, arg := arg }

/-- A cell goes on a flow. -/
def State.sendCell (s : State) (c flow : Nat) (x : Cell) : State :=
  if flow = ownWay then s.modBur fun b => { b with own := b.own ++ [(c, x.bytes)] } else s.request (mgmtReq c flow x.bytes)
/-- The way to a member: its flow, or none for this package's own Bureau. -/
def State.memberWay (s : State) (m : Nat × Nat) : Nat := if m.1 = s.ownLc then ownWay else m.2
/-- The way to the context's coordinator: CFLOW, or none where this package coordinates. -/
def State.coordWay (s : State) (c : Nat) : Nat := if s.coordinates c then ownWay else (s.commit c).cr.cflow.toNat
/-- A cell goes to the context's coordinator. -/
def State.toCoord (s : State) (c kind arg : Nat) : State := (s.sendCell c (s.coordWay c) (s.ctxCell c kind arg)).pump

/-- Cells of a decision: sent at once, or withheld until the twin has acknowledged DLOG where the list names its flow (R353). -/
def State.sendLogged (s : State) (c : Nat) (g : GList) (log : Cell) (cells : List (Nat × Cell)) : State :=
  if g.twin = 0 then (cells.foldl (fun s x => s.sendCell c x.1 x.2) s).pump
  else
    let n := (s.commit c).dlogNo + 1
    let s := s.modCommit c fun x => { x with dlogNo := n, dlogWait := x.dlogWait ++ cells.map fun y => (n, y.1, y.2.bytes) }
    (s.request { mgmtReq c g.twin log.bytes with tag := 0x11 + 256 * c + 65536 * n }).pump

/-! ## Fail-stop (R346) -/

/-- A flow's entry is brought into the cache at once for a cell that cannot wait. -/
def State.fillNow (s : State) (f : Nat) : State := match s.cached f with | some _ => s | none => s.setFlow f (s.flowNow f)

/-- The six ports are taken out of the fabric. -/
def State.portsOff (s : State) : State :=
  (List.range 6).foldl (fun s q => (s.setFld (rtrPage (portDie q)) (0x100 + 8 * portSlot q) 8 1 0).portEnable q false) s

/-- The package fail-stops (R346): DYING to its twin and to every other coordinator it knows, the ports off, everything held. -/
def State.failStop (s : State) (code : Nat) : State :=
  if s.pkg.stopped then s
  else
    let tw := s.fld burPage 0x348 12 20
    let s := if tw = 0 then s
      else ((s.fillNow tw).sendCell 256 tw { kind := 0x0D, group := 0, attempt := 0, step := 0, arg := code })
    let s := s.groupCtxs.foldl (fun s c =>
      let r := (s.commit c).cr
      if s.coordinates c || r.bad then s else (s.fillNow r.cflow.toNat).sendCell c r.cflow.toNat (s.ctxCell c 0x0D code)) s
    let s := s.pump.portsOff
    (s.modPkg fun p => { p with stopped := true, armed := (s.raw lctPage 0x100).getLsbD 0 }).modBur fun b => { b with settee := 5 }

/-- A Package-fatal error of the Bureau's own: reported, and the package stops. -/
def State.stopWith (s : State) (code : Nat) : State := (s.packageFatal burPage code).failStop code

/-! ## Activations (R345, R350, R351, R361) -/

/-- A Step-fatal is charged to the context's present attempt, or to the next one after the vote. -/
def chargeFatal (code : Nat) (x : Commit) : Commit :=
  if x.voted then { x with laterSf := x.laterSf.or (some code) } else { x with sf := x.sf.or (some code) }

/-- A new activation for contexts: at most two run; a third stops the package with 0x152. -/
def State.pushLevel (s : State) (cs : List Nat) : State :=
  match s.bur.levels.length with
  | 0 => s.modBur fun b => { b with levels := [cs] }
  | 1 => (s.modBur fun b => { b with levels := b.levels ++ [cs] }).event burPage 25
  | _ => s.stopWith 0x152

/-- A context's attempt is abandoned by this member: ABORT, once, before its vote (R358). -/
def State.sendAbort (s : State) (c code : Nat) : State :=
  (s.modCommit c fun x => { x with voteCode := if x.voteCode = 0 then code else x.voteCode }).toCoord c 0x03 code

/-- A Step-fatal starts, joins or nests an activation (R345). -/
def State.activate (s : State) (f : Fatal) (cs : List Nat) : State :=
  let acting := blockOf f.page = .flt ∨ blockOf f.page = .bur
  let inRb := cs.filter fun c => decide (2 ≤ (s.commit c).phase)
  let s := if !inRb.isEmpty && decide acting then s.pushLevel inRb else s
  let rest := cs.filter fun c => decide ((s.commit c).phase < 2)
  let s := if f.ctx.isSome || decide (1728 ≤ f.page) then rest.foldl (fun s c => s.modCommit c (chargeFatal f.code)) s else s
  let fresh := rest.filter fun c => !(s.commit c).voted && !(s.commit c).held && !(s.bur.levels.any fun l => l.contains c)
  if fresh.isEmpty then s
  else fresh.foldl (fun s c => if s.pkg.stopped then s else s.sendAbort c f.code) (s.pushLevel fresh)

/-- The contexts that a Step-fatal concerns: the one it is charged to, else every one with a commit record. -/
def State.concerned (s : State) (f : Fatal) : List Nat :=
  match f.ctx with
  | some c => if (s.commit c).cr.en then [c] else []
  | none => s.groupCtxs

/-- The Bureau raises a Step-fatal error of its own and acts on it at once. -/
def State.selfFatal (s : State) (code : Nat) (ctx : Option Nat) : State :=
  let s := (s.stepFatal burPage code ctx).modBur fun b => { b with fatals := b.fatals.dropLast }
  let f : Fatal := { page := burPage, code := code, sev := 3, ctx := ctx, loc := 0 }
  s.activate f (s.concerned f)

/-- A context's tiles halt (phase 2 of R358), and none of its base-die work starts any more. -/
def State.haltCtx (s : State) (c : Nat) : State :=
  let s := (List.range 192).foldl (fun s t =>
    if s.ctxOf t = some c ∧ ((s.tile t).seq = .running ∨ (s.tile t).seq = .waiting) then s.haltSeq t else s) s
  s.modUpe fun u => { u with halted := if u.halted.contains c then u.halted else u.halted ++ [c] }

/-- The commit record of a context is read again (R348): a malformed one takes the context out of commit, with 0x155 once. -/
def State.refreshRecord (s : State) (c : Nat) : State :=
  let r := s.readRecord c
  let was := (s.commit c).held
  let s := s.modCommit c fun x => { x with cr := r, held := r.bad }
  if r.bad then
    let s := s.haltCtx c
    if s.bur.badRec.contains c then s else (s.modBur fun b => { b with badRec := b.badRec ++ [c] }).selfFatal 0x155 (some c)
  else
    let s := s.modBur fun b => { b with badRec := b.badRec.filter fun x => decide (x ≠ c) }
    if was && (s.commit c).phase = 0 then
      s.modUpe fun u => { u with halted := u.halted.filter fun x => decide (x ≠ c) }
    else s

/-! ## Mirroring (R355 to R357) -/

/-- A mirror-list entry. -/
structure MirrorEntry where
  va    : Nat
  pages : Nat
  spar  : Bool
  n     : Nat      -- INTERVAL
  ring  : Nat
  job   : Nat
  tva   : Word
  deriving DecidableEq, Repr

/-- Entry k of a context's mirror list; none when it cannot be read. -/
def State.mirrorEntry (s : State) (c k : Nat) : Option MirrorEntry :=
  match (s.loadVirt 0 c ((s.commit c).cr.mlist.toNat + 32 * k) 32 0).1 with
  | none => none
  | some b =>
    match wordsOf 4 b with
    | [w0, w1, w2, w3] =>
      some { va := w0.toNat, pages := bits w1 0 32, spar := w1.getLsbD 32, n := max 1 (bits w1 33 16), ring := bits w1 49 3, job := bits w2 0 16, tva := w3 }
    | _ => none

/-- The words of the job that writes an entry's stream last. -/
def State.mirrorJob (s : State) (c : Nat) (m : MirrorEntry) : Option (List Word) :=
  ((s.loadVirt (m.ring % 4) c ((s.ring c m.ring).base.toNat + 256 * m.job) 256 0).1).map (wordsOf 32)

/-- BOFF of the stream at VA, from the job's stream that starts there (R230). -/
def boffOf (ws : List Word) (va : Nat) : Option Nat :=
  ((List.range 10).find? fun k => decide ((ws.getD (10 + 2 * k) 0).toNat = va)).map fun k => bits (ws.getD (11 + 2 * k) 0) 8 40 * 4096

/-- The committed bank of a stream for C committed steps; the working bank is the other (R231). -/
def committedBank (spar : Bool) (n c : Nat) : Nat := if spar then c % 2 else (c + 1) / n % 2

/-- C of a context. -/
def State.cOf (s : State) (c : Nat) : Nat := (Tab.get 0 s.upe.c c).toNat

/-- The banks of a mirror entry: local address and mirror address of bank b. -/
def State.bankOf (s : State) (c : Nat) (m : MirrorEntry) (b : Nat) : Option (Nat × Nat) :=
  match s.mirrorJob c m with
  | none => none
  | some ws => (boffOf ws m.va).map fun o => (m.va + b * o, (bits m.tva 0 48 + b * o) % 2 ^ 48)

/-- A bank of an entry is sent on a flow, in requests that stay within 8 KiB of the target's address; their number, or none when it
cannot be read. -/
def State.sendBank (s : State) (c : Nat) (o : Owner) (pop flow page die tag src dst len : Nat) (mgmt : Bool) (ecc : Ecc) : Option Nat × State :=
  match s.loadVirt die c src len 0 with
  | (none, s) => (none, s)
  | (some d, s) =>
    let s := (s.eccMem (some c) ecc).2
    let ps := trayPuts (len / 8192 + 2) dst d
    (some ps.length, ps.foldl (fun s p => s.request
      { flow := flow, seq := 0, pop := pop, ctx := c, owner := o, mgmt := mgmt, w2 := BitVec.ofNat 64 (p.1 % 2 ^ 48), arg := p.2, page := page,
        die := die, tag := tag }) s)

/-- A mirror entry fails: 0x154 and a ROLLBACK vote (R357). -/
def State.mirrorFail (s : State) (c k : Nat) : State :=
  (s.modCommit c fun x => { x with mirrorBad := true, resend := if x.resend.contains k then x.resend else x.resend ++ [k] }).selfFatal 0x154 (some c)

/-- The whole committed bank of an entry goes to the twin (R357, R364). -/
def State.sendCommitted (s : State) (c k : Nat) : State :=
  match s.mirrorEntry c k with
  | none => s.mirrorFail c k
  | some m =>
    match s.bankOf c m (committedBank m.spar m.n (s.cOf c)) with
    | none => s.mirrorFail c k
    | some (a, b) =>
      match s.sendBank c (.mirror c k) 11 (s.commit c).cr.mflow.toNat (upePage (m.ring % 4)) (m.ring % 4) 1 a b (m.pages * 4096) false .clean with
      | (none, s) => s.mirrorFail c k
      | (some n, s) => s.modUpe fun u => { u with mirrorLeft := Tab.set 0 u.mirrorLeft (c * 65536 + k) n }

/-- Requests of a context's mirror or restores that are still out. -/
def State.mirrorOut (s : State) (c : Nat) : Bool :=
  let mine (o : Owner) : Bool := match o with | .mirror x _ => decide (x = c) | .restore x => decide (x = c) | _ => false
  (s.fab.reqs.any fun r => mine r.owner) || s.fab.unsent.any fun u => mine u.req.owner

/-! ## Damage (R360) -/

/-- The pages of a mirrored stream's committed bank that hold a local physical address: virtual address and mirror address. -/
def State.damageIn (s : State) (c a : Nat) : List (Nat × Nat) :=
  (List.range (s.commit c).cr.nmirror).flatMap fun k =>
    match s.mirrorEntry c k with
    | none => []
    | some m => match s.bankOf c m (committedBank m.spar m.n (s.cOf c)) with
      | none => []
      | some (va, tva) => (List.range m.pages).filterMap fun i =>
          match s.walk c (va + 4096 * i) with
          | .mapped p => (match regionOf s.member p.pa with
            | .local x => if x / 4096 = a / 4096 then some (va + 4096 * i, tva + 4096 * i) else none
            | _ => none)
          | _ => none

/-- A reported address in a committed bank of a mirrored stream marks its unit damaged. -/
def State.markDamage (s : State) (f : Fatal) : State :=
  if (f.code = 0x0C1 ∨ f.code = 0x0C5 ∨ f.code = 0x0D1) ∧ f.loc.getLsbD 0 then
    let a := f.loc.toNat / 32 * 32
    s.groupCtxs.foldl (fun s c => (s.damageIn c a).foldl (fun s d =>
      s.modBur fun b => { b with damaged := if b.damaged.contains (c, d.1, d.2) then b.damaged else b.damaged ++ [(c, d.1, d.2)] }) s) s
  else s

/-! ## Rolling back (R358) -/

/-- Flow numbers whose entry may hold something: the cached ones, and those with a byte listed in memory. -/
def State.flowCandidates (s : State) : List Nat :=
  let base := bits (s.raw (fltPage 0) 0x100) 0 52
  let near (a : Nat) : Option Nat := if base ≤ a ∧ a < base + 2 ^ 26 then some ((a - base) / 64) else none
  ((s.fab.cache.map Prod.fst) ++ (s.mem.hbm.filterMap fun e => near e.1) ++ (s.mem.delta.filterMap fun e => near e.1)).dedup

/-- One entry takes the new generation and loses its send and receive state. -/
def Flow.resetTo (e : Flow) (gen : Nat) : Flow := { e with w0 := putBits e.w0 23 16 gen, w1 := 0, w2 := 0, w3 := 0, w4 := 0 }

/-- A flight waits for the fabric. -/
def Flight.waits (f : Flight) : Bool := decide (f.left ≠ 0 ∨ f.unsent ≠ 0) || f.waitFor.isSome || f.flag.isSome

/-- A tile's flights that wait for abandoned requests end without a record (R358); one that gathered tray data has no effect. -/
def abandonFlights (t : Tile) : Tile := { t with flights := t.flights.filter fun f => !f.waits }

/-- Phase 3 of R358: every valid entry of the context takes GEN and loses its state, wherever it lies, and outstanding requests
are abandoned. -/
def State.resetFlows (s : State) (c gen : Nat) : State :=
  let fs := s.flowCandidates.filter fun f => let e := s.flowNow f; e.valid && !e.mgmt && decide (e.ctx = c)
  let dead := (s.tiles.filter fun e => decide (s.ctxOf e.1 = some c)).flatMap fun e => (e.2.flights.filter Flight.waits).map fun f => memId e.1 f.id
  let s := fs.foldl (fun s f =>
    let e := (s.flowNow f).resetTo gen
    let s := s.memWrite none (s.flowAddr f) (bytesOf [e.w0, e.w1, e.w2, e.w3, e.w4]) 0 true
    if (s.cached f).isSome then s.setFlow f e else s) s
  let s := s.modFab fun x =>
    { x with reqs := x.reqs.filter fun r => r.mgmt || decide (r.ctx ≠ c)
             unsent := x.unsent.filter fun u => u.req.mgmt || decide (u.req.ctx ≠ c)
             combine := x.combine.filter fun d => decide (d.ctx ≠ c)
             worn := x.worn.filter fun f => !fs.contains f
             issuedAll := Tab.set 0 x.issuedAll c 0, doneAll := Tab.set 0 x.doneAll c 0 }
  let s := s.modMem fun m => { m with writes := m.writes.filter fun w => !dead.contains w.id }
  let s := (s.tiles.map Prod.fst).foldl (fun s t => if s.ctxOf t = some c then s.modTile t abandonFlights else s) s
  let s := s.modKey fun k => { k with saved := Tab.mapVals {} k.saved fun i t => if i / 192 = c then abandonFlights t else t }
  let s := (List.range 4).foldl (fun s st => match s.upeRun st with
    | some j => if j.ctx = c ∧ j.left ≠ 0 then (if j.phase = 4 then s.modUpeRun st fun j => { j with left := 0 } else s.setUpeRun st none) else s
    | none => s) s
  s.modUpe fun u => { u with mirrorLeft := u.mirrorLeft.filter fun e => decide (e.1 / 65536 ≠ c) }

/-- The Sideboard job of the context that runs is abandoned, and those that wait do not start (R358). -/
def State.abandonSbd (s : State) (c : Nat) : State :=
  let keep (j : SbdJob) : Bool := decide (j.ctx ≠ c)
  match s.sbd.running with
  | some j =>
    let s := { s with sbd := { s.sbd with queue := s.sbd.queue.filter keep, waiting := s.sbd.waiting.filter keep } }
    if j.job.ctx = c then
      { (s.modMem fun m => { m with writes := m.writes.filter fun w => decide (w.id ≠ sbdMem) }) with sbd := { s.sbd with running := none } }
    else s
  | none => { s with sbd := { s.sbd with queue := s.sbd.queue.filter keep, waiting := s.sbd.waiting.filter keep } }

/-- GETs for the damaged units of a context from its twin's mirror (R360). -/
def State.restoreUnits (s : State) (c : Nat) : State :=
  (s.bur.damaged.filter fun d => decide (d.1 = c)).foldl (fun s d => s.request
    { flow := (s.commit c).cr.mflow.toNat, seq := 0, pop := 2, ctx := c, owner := .restore c, w2 := BitVec.ofNat 64 (d.2.2 % 2 ^ 48), len := 127,
      dest := .mem c d.2.1, page := burPage, die := 3 }) s

/-- Phases 2 and 3 at a member (R358). -/
def State.startRollback (s : State) (c gen : Nat) : State :=
  let s := (s.haltCtx c).modCle fun u => { u with runs := u.runs.filter fun j => decide (j.ctx ≠ c) }
  let s := (s.abandonSbd c).resetFlows c gen
  let again := (s.commit c).resend
  let s := s.modCommit c fun x => { x with phase := 2, gen := BitVec.ofNat 16 gen, resend := [], lost := false }
  let s := if s.bur.levels.any fun l => l.contains c then s else
    if s.bur.levels.length < 2 then s.modBur fun b => { b with levels := b.levels ++ [[c]] } else s
  ((again.foldl (fun s k => s.sendCommitted c k) s).restoreUnits c).pump

/-- Everything of phases 2 and 3 has come to its end. -/
def State.rolledDown (s : State) (c : Nat) : Bool :=
  ((List.range 192).all fun t => decide (s.ctxOf t ≠ some c) || ((s.tile t).flights.isEmpty && (s.tile t).fts.isNone && (s.tile t).route.isNone))
    && ((List.range 4).all fun st => !s.upeBusyFor st c) && !s.mirrorOut c

/-- A tile restarts (R359): its control state is cleared, its storage and pages are kept. -/
def restartTile (t : Tile) : Tile :=
  { t with s := [], p := 1, u := [], k := [], tasks := [], queues := [], ringHead := [], ringLen := [], fl := 0, fm := 0, seq := .idle, stall := .none,
           stopped := false, held := false, haltDue := false }

/-- The verdict word becomes 0. -/
def State.clearVerdict (s : State) (c : Nat) : State := (s.storeVirt 0 c (s.commit c).cr.verdict.toNat (List.replicate 8 0) 0).2

/-- A new attempt begins: what arose after the vote is charged to it (R351); with a Step-fatal it is aborted at once. -/
def State.newAttempt (s : State) (c : Nat) : State :=
  let x := s.commit c
  let s := s.modCommit c fun x =>
    { x with sf := x.laterSf, refused := x.laterRef, refCode := x.laterCode, laterSf := none, laterRef := 0,
             laterCode := none, mirrorBad := false, voted := false, voteCode := 0, commitDue := false, phase := 0, resetAt := none }
  let s := s.modUpe fun u => { u with mirrorDone := u.mirrorDone.filter (fun e => decide (e.1 ≠ c)), halted := u.halted.filter fun x => decide (x ≠ c) }
  let s := (s.chargeNoTable c).refreshRecord c
  match x.laterSf with
  | some k => if (s.commit c).held then s else (s.pushLevel [c]).sendAbort c k
  | none => s

/-- The commit of a context at a boundary (R354). Its Note is a record alone: one is sent in every attempt. -/
def State.commitAt (s : State) (c : Nat) : State :=
  let s := s.errorRecord burPage 0 false 0x158 (some c) 0
  let s := (List.range 4).foldl (fun s st => (s.upeCommitAct st c).cleCommitAct st c) s
  (((s.clearVerdict c).event burPage 20).count burPage 2 (some c)).newAttempt c

/-- The rollback of a context at the boundary that RESET names (phase 6 of R358, R354, R359). -/
def State.rollbackAt (s : State) (c : Nat) : State :=
  let s := s.errorRecord burPage 0 false 0x159 (some c) (BitVec.ofNat 64 ((s.commit c).voteCode % 2 ^ 16 + s.ownLc * 2 ^ 16))
  let s := (List.range 4).foldl (fun s st => (s.upeRollbackAct st c).cleRollbackAct st c) s
  let s := (((s.clearVerdict c).event burPage 21).count burPage 3 (some c))
  let s := s.modBur fun b => { b with levels := (b.levels.map fun l => l.filter fun x => decide (x ≠ c)).filter fun l => !l.isEmpty }
  let s := s.newAttempt c
  let s := s.modKey fun k => { k with saved := Tab.mapVals {} k.saved fun i t =>
    if i / 192 = c then
      { restartTile t with seq := .running
                           pc := BitVec.ofNat 32 (Tab.get 0 (Tab.get {} k.pages (c * 2048 + seqPage (i % 192))).words (0x108 / 8)).toNat }
    else t }
  (List.range 192).foldl (fun s t => if s.ctxOf t = some c then (s.modTile t restartTile).runStartAct t else s) s

/-! ## Deciding (R353) -/

/-- The cells that carry one decision to every member. -/
def State.toMembers (s : State) (g : GList) (x : Cell) : List (Nat × Cell) := (s.memberList g).map fun m => (s.memberWay m, x)

/-- The coordinator decides COMMIT for a step and attempt. -/
def State.decideCommit (s : State) (c : Nat) (g : GList) (step attempt : Nat) : State :=
  let s := s.modCommit c fun x => { x with decided := some (true, 0, step, attempt), votes := [], firstVote := none }
  let x : Cell := { s.ctxCell c 0x04 1 with step := step, attempt := attempt }
  s.sendLogged c g { x with kind := 0x11 } (s.toMembers g x)

/-- The coordinator decides ROLLBACK with the group's next generation; `more` are the cells of a takeover. -/
def State.decideRollback (s : State) (c : Nat) (g : GList) (step attempt : Nat) (more : List (Nat × Cell)) : State :=
  let gen := match (s.commit c).nextGen with | some n => n.toNat | none => g.gen0
  let s := s.modCommit c fun x =>
    { x with decided := some (false, BitVec.ofNat 16 gen, step, attempt), nextGen := some (BitVec.ofNat 16 (gen + 1)), votes := [], firstVote := none,
             quiescers := [], readies := [], resetSent := false }
  let x : Cell := { s.ctxCell c 0x04 (2 + gen * 2 ^ 16) with step := step, attempt := attempt }
  s.sendLogged c g { x with kind := 0x11 } (more ++ s.toMembers g x)

/-- The step and attempt have no decision yet. -/
def Commit.open (x : Commit) (step attempt : Nat) : Bool :=
  match x.decided with | some (_, _, st, a) => !decide (st = step ∧ a = attempt) | none => true

/-- A ROLLBACK vote, an ABORT or a grant decides an open attempt. -/
def State.rollbackIfOpen (s : State) (c step attempt : Nat) : State :=
  match s.groupOf c with
  | some g => if s.coordinates c && !(s.commit c).held && (s.commit c).open step attempt then s.decideRollback c g step attempt [] else s
  | none => s

/-! ## Takeover (R362 to R366) -/

/-- The remap of a coordinate to the position of another takes effect at the next boundary. -/
def State.remapTo (s : State) (lc pos : Nat) : State :=
  s.modBur fun b => { b with remapDue := b.remapDue ++ [(BitVec.ofNat 13 lc, BitVec.ofNat 13 pos)] }

/-- The LOG word on all four slices. -/
def State.setLog (s : State) (lo w v : Nat) : State := (List.range 4).foldl (fun s st => s.setFld (rtrPage st) 0x118 lo w v) s

/-- The survivor takes the dead coordinate (step 1 of R364). -/
def State.takeOver (s : State) (c dead : Nat) : State :=
  let first := decide (s.takenLc ≠ some dead)
  let s := ((s.setLog 13 13 dead).setLog 26 1 1).modBur fun b => { b with settee := 2, heldLc := BitVec.ofNat 13 dead }
  let s := if first then ((s.event burPage 22).count burPage 4).remapTo dead s.ownLc else s
  s.selfFatal 0x156 (some c)

/-- The round that RESET names: the first boundary at least 100 µs ahead. -/
def State.resetRound (s : State) : Nat :=
  let period := max 200 (s.fld burPage 0x308 0 16) * 1000
  s.sync.count.toNat + 1 + (if s.sync.last + period < s.time + 100000 then (s.time + 100000 - s.sync.last - period + period - 1) / period else 0)

/-- RESET goes to every member but the dead (phase 5). -/
def State.sendReset (s : State) (c : Nat) (g : GList) : State :=
  let s := s.modCommit c fun x => { x with resetSent := true }
  let x := s.ctxCell c 0x06 (s.resetRound % 2 ^ 32)
  ((s.memberList g).foldl (fun s m => s.sendCell c (s.memberWay m) x) s).pump

/-- When every QUIESCED is in: a takeover goes on to its handover, else RESET is sent (phases 4 and 5, R364, R365). -/
def State.tryReset (s : State) (c : Nat) : State :=
  match s.groupOf c with
  | none => s
  | some g =>
    let x := s.commit c
    let alive := (s.memberList g).filter fun m => match x.dead with | some d => decide (m.1 ≠ d.1) | none => true
    if x.resetSent || !(alive.all fun m => x.quiescers.contains m.1) then s
    else match x.dead with
      | none => s.sendReset c g
      | some (d, sv) =>
        (match x.standby with
         | some _ => if x.readies.contains d ∧ x.readies.contains sv then (s.modCommit c fun x => { x with dead := none, standby := none }).sendReset c g else s
         | none =>
           let ps := s.standbyList g
           match (List.range ps.length).find? fun i => !x.spent.contains i with
           | none => if x.noStandby then s else (s.modCommit c fun x => { x with noStandby := true }).contained burPage 0x157 (some c)
           | some i =>
             match ps[i]? with
             | none => s
             | some (p, q) =>
               let svFlow := ((s.memberList g).find? fun m => decide (m.1 = sv)).map s.memberWay
               let s := s.modCommit c fun x => { x with standby := some i, spent := x.spent ++ [i], noStandby := false, readies := [] }
               let dec : Cell := { s.ctxCell c 0x11 (2 + x.gen.toNat * 2 ^ 16) with kind := 0x11 }
               s.sendLogged c g dec ([(svFlow.getD 0, s.ctxCell c 0x0E (p.1 + q.1 * 2 ^ 13)), (p.2, s.ctxCell c 0x0F d), (q.2, s.ctxCell c 0x0F sv)]))

/-- A takeover is granted (step 3 of R362): GRANT to the survivor, FENCE to the suspect, and the attempt rolls back. -/
def State.grant (s : State) (c suspect survivor : Nat) : State :=
  match s.groupOf c with
  | none => s
  | some g =>
    let flow (lc : Nat) : Nat := (((s.memberList g).find? fun m => decide (m.1 = lc)).map s.memberWay).getD 0
    let s := (s.modCommit c fun x => { x with dead := some (suspect, survivor), probing := none, askedBy := none }).remapTo suspect survivor
    let cells := [(flow survivor, s.ctxCell c 0x0A suspect), (flow suspect, s.ctxCell c 0x0B 0)]
    s.decideRollback c g ((s.stepOf c).toNat % 2 ^ 32) (s.attemptOf c) cells

/-- The twin is lost: a takeover is asked of every coordinator (R362); where the twin was the coordinator, this package acts for it
(R366). -/
def State.askTakeover (s : State) : State :=
  let d := twinOf s.ownLc
  if s.bur.twinLost || decide (s.bur.settee ≠ 0) then s
  else
    let s := s.modBur fun b => { b with twinLost := true }
    s.groupCtxs.foldl (fun s c =>
      if (s.commit c).held then s
      else if (s.commit c).cr.coordLc.toNat = d then
        let s := s.takeOver c d
        match s.groupOf c with
        | none => s
        | some g => (s.modCommit c fun x => { x with dead := some (d, s.ownLc) }).decideRollback c g ((s.stepOf c).toNat % 2 ^ 32) (s.attemptOf c) []
      else s.toCoord c 0x07 d) s

/-- The management-keyed flow of a context to a coordinate (R364). -/
def State.mgmtFlowTo (s : State) (lc : Nat) : Option Nat :=
  s.flowCandidates.find? fun f => let e := s.flowNow f; e.valid && e.mgmt && decide (e.peer = lc)

/-- The survivor streams committed state to the standbys (step 2 of R364): the dead coordinate's mirror to the first, its own
committed banks to the second, both at the streams' own addresses. -/
def State.stream (s : State) (c sbDead sbOwn : Nat) : State :=
  ((List.range (s.commit c).cr.nmirror).foldl (fun s k =>
    match s.mirrorEntry c k with
    | none => s
    | some m =>
      match s.bankOf c m (committedBank m.spar m.n (s.cOf c)), s.mgmtFlowTo sbDead, s.mgmtFlowTo sbOwn with
      | some (a, b), some f, some g =>
        let s := (s.sendBank c .handover 1 f burPage 3 0 b a (m.pages * 4096) true .clean).2
        (s.sendBank c .handover 1 g burPage 3 0 a a (m.pages * 4096) true .clean).2
      | _, _, _ => s) s).pump

/-- BUR.CT_BASE written: every record is read (R348). A corrected record of a package that is its own coordinator starts the next
attempt with a rollback of generation GEN0. -/
def State.readRecords (s : State) : State :=
  (List.range 256).foldl (fun s c =>
    let was := s.commit c
    let s := s.refreshRecord c
    let x := s.commit c
    let s := if x.cr.en && !was.cr.en then s.chargeNoTable c else s
    if was.held && !x.held && x.cr.coord then
      match s.groupOf c with
      | some g => State.decideRollback (s.modCommit c fun y => { y with nextGen := none }) c g ((s.stepOf c).toNat % 2 ^ 32) (s.attemptOf c) []
      | none => s
    else s) s

end Sys2Proof.Machine
end

