-- ==== Sys2Proof/Machine/Msc.lean ====
section
/-! DEFINITION. The maintenance of the memory-side cache and of translation, and the HBM controllers' own work: flushes,
half-banks, invalidation of translations, temperature samples and patrol scrub (R244, R248, R252 to R256). -/

namespace Sys2Proof.Machine

/-! ## Maintenance (R252) -/

/-- Every line that a die's banks hold and that `p` picks is changed by f. -/
def Mem.onLines (m : Mem) (die : Nat) (p : Line → Bool) (f : Mem → Nat → Mem) : Mem :=
  (m.lines.filter fun e => e.2.there && p e.2 && decide (lineDie e.1 = die)).foldl (fun m e => f m e.1) m

/-- A line goes back to its stack and stays, clean (R252). -/
def Mem.clean (m : Mem) (l : Nat) : Mem := (m.writeBack l).setLine l { m.line l with dirty := false }

/-- The dirty lines of a die that `p` picks, counted as written back (counter 8 of MSC). -/
def State.countBack (s : State) (die : Nat) (p : Line → Bool) : State :=
  s.count (mscPage die) 8 none (s.mem.lines.filter fun e => e.2.there && e.2.dirty && p e.2 && decide (lineDie e.1 = die)).length

/-- FLUSH writes back every dirty line of the die; INVAL_ALL writes back and invalidates every line (R252). -/
def State.flushAct (s : State) (die : Nat) (inval : Bool) : State :=
  let s := s.countBack die fun _ => true
  s.modMem fun m =>
    let m := if inval then m.onLines die (fun _ => true) Mem.evict else m.onLines die Line.dirty Mem.clean
    { m with flushing := m.flushing ||| (1#4 <<< die) }

/-- One half of a die goes offline, its lines written back and invalidated, or rejoins empty (R252). -/
def State.halfAct (s : State) (die half : Nat) (off : Bool) : State :=
  let b := 2 * die + half
  if s.mem.off die half = off then s
  else if off then
    let mine (x : Line) : Bool := decide (x.upper = decide (half = 1))
    let s := s.countBack die mine
    s.modMem fun m => { (m.onLines die mine Mem.evict) with halfOff := m.halfOff ||| (1#8 <<< b) }
  else s.modMem fun m => { m with halfOff := m.halfOff &&& ~~~(1#8 <<< b), halfEmpty := m.halfEmpty &&& ~~~(1#8 <<< b) }

/-- CMD.HALF_OFF of a die is acted on. -/
def State.halvesAct (s : State) (die : Nat) : State :=
  let f := (s.raw (mscPage die) 0x108)
  let s := (s.halfAct die 0 (f.getLsbD 2)).halfAct die 1 (f.getLsbD 3)
  s.modMem fun m => { m with halfDue := m.halfDue &&& ~~~(3#8 <<< (2 * die)) }

/-- A write of CMD.HALF_OFF has been accepted: acted on at once, or when the flush that runs ends (R252). -/
def State.halfOffAct (s : State) (die : Nat) : State :=
  if s.mem.flushing.getLsbD die then s.modMem fun m => { m with halfDue := m.halfDue ||| (3#8 <<< (2 * die)) }
  else s.halvesAct die

/-- FLUSH_DONE: STATE.FLUSHING clears, the event is raised, and a HALF_OFF written meanwhile is acted on (R252). -/
def execFlushDone (stack : Fin 4) (s : State) : Host.Outcome State Fault Refusal :=
  if s.awake && s.mem.flushing.getLsbD stack then
    let s := s.modMem fun m => { m with flushing := m.flushing &&& ~~~(1#4 <<< stack.val) }
    let s := s.event (mscPage stack) 4
    let s := if s.mem.halfDue.getLsbD (2 * stack) then s.halvesAct stack else s
    .next (s.drained (mscPage stack))
  else .next s

/-- HALF_EMPTY: an offline half holds no valid line (R252). -/
def execHalfEmpty (stack : Fin 4) (half : Fin 2) (s : State) : Host.Outcome State Fault Refusal :=
  let b := 2 * stack.val + half.val
  let held := s.mem.lines.any fun e => e.2.there && decide (lineDie e.1 = stack) && decide (e.2.upper = decide (half.val = 1))
  if s.awake && s.mem.off stack half && !held && !s.mem.halfEmpty.getLsbD b then
    .next ((s.modMem fun m => { m with halfEmpty := m.halfEmpty ||| (1#8 <<< b) }).event (mscPage stack) 5)
  else .next s

/-! ## Invalidation of translations (R244) -/

/-- A write of XLAT.GO: DONE becomes 0. The translation caches themselves affect no result (R243). -/
def State.xlatGoAct (s : State) : State := s.modMem fun m => { m with xlatBusy := true }

/-- An access of a context that has been translated has not completed. -/
def State.accessing (s : State) (c : Nat) : Bool :=
  ((List.range 192).any fun t => decide (s.ctxOf t = some c) && (s.tile t).flights.any fun f =>
      !f.refused && (decide (f.eng = .lde ∨ f.eng = .ste ∨ f.eng = .xce) || decide (f.eng = .mxe ∧ f.desc.op = 3)))
    || (s.upe.run.any fun e => match e.2 with | some j => decide (j.ctx = c) | none => false)
    || (s.cle.runs.any fun j => decide (j.ctx = c))
    || (match s.sbd.running with | some j => decide (j.job.ctx = c) | none => false)

/-- XLAT_DONE: once no access of the named context, or of any, is under way, DONE becomes 1 (R244). -/
def execXlatDone (s : State) : Host.Outcome State Fault Refusal :=
  let w := s.raw (mscPage 0) 0x118
  let waits := if w.getLsbD 8 then (List.range 256).any s.accessing else s.accessing (bits w 0 8)
  if s.awake && s.mem.xlatBusy && !waits then
    .next (((s.modMem fun m => { m with xlatBusy := false }).event (mscPage 0) 6).drained (mscPage 0))
  else .next s

/-! ## Temperature (R253, R255) -/

/-- T1 of R253: T_THROTTLE, above 100 as 100 (R257). -/
def State.tThrottle (s : State) (h : Nat) : Nat := min 100 (s.fld (hmcPage h) 0x100 0 8)
/-- T_CRIT as it acts (R257). -/
def State.tCrit (s : State) (h : Nat) : Nat := max (min 110 (s.fld (hmcPage h) 0x100 8 8)) (s.tThrottle h + 10)
/-- HYST as it acts (R257). -/
def State.tHyst (s : State) (h : Nat) : Nat := max 1 (s.fld (hmcPage h) 0x100 16 4)

/-- The step after a valid reading t (R253). -/
def nextStep (t1 hyst k t : Nat) : Nat :=
  if k < 4 ∧ t1 + 3 * k ≤ t then k + 1
  else if 0 < k ∧ t + hyst < t1 + 3 * (k - 1) then k - 1
  else k

/-- The throttle step of an HMC becomes k; a change raises 0x0C2 and THROTTLE_STEP (R253). -/
def State.setThermStep (s : State) (h k : Nat) : State :=
  let pg := hmcPage h
  if s.fld pg 0x108 8 3 = k then s
  else ((s.setFld pg 0x108 8 3 k).note pg 0x0C2).event pg 4

/-- THERMTRIP_N is asserted and stays so (R412). -/
def State.trip (s : State) : State := (s.modPkg fun p => { p with thermtrip := true }).event thmPage 5

/-- A Package-fatal error of a block, on which the package fail-stops (R346). -/
def State.fatalStop (s : State) (pg code : Nat) : State := (s.packageFatal pg code).failStop code

/-- The time since the last sample, SAMPLE_MS, is counted at the step that stood, and where the stack refreshed twice as often (R253,
R257). -/
def State.thermTime (s : State) (h : Nat) : State :=
  let pg := hmcPage h
  let us := 1000 * max 1 (s.fld pg 0x400 0 4)
  (s.count pg (6 + min 4 (s.fld pg 0x108 8 3)) none us).count pg 11 none (if s.fld pg 0x108 11 1 = 1 ∧ 85 < s.fld pg 0x108 0 8 then us else 0)

/-- THERM_SAMPLE: an HMC reads its stack's temperature (R253, R255). A stack whose domain is off is not read. -/
def execThermSample (hmc : Fin 16) (reading : Option Nat) (s : State) : Host.Outcome State Fault Refusal :=
  let pg := hmcPage hmc
  if s.awake && s.stackOn hmc then
    let s := s.thermTime hmc
    match reading with
    | none =>
      let n := Tab.get 0 s.mem.badTemp hmc + 1
      let s := (s.setFld pg 0x108 11 1 0).modMem fun m => { m with badTemp := Tab.set 0 m.badTemp hmc (min n 3) }
      if n = 3 then .next (((s.setThermStep hmc 4).contained pg 0x0C6).event pg 8)
      else .next s
    | some t =>
      let k := nextStep (s.tThrottle hmc) (s.tHyst hmc) (s.fld pg 0x108 8 3) t
      let s := ((s.setFld pg 0x108 0 8 t).setFld pg 0x108 11 1 1).modMem fun m => { m with badTemp := Tab.set 0 m.badTemp hmc 0 }
      let s := s.setThermStep hmc k
      if s.tCrit hmc ≤ t then .next ((((s.setFld pg 0x108 12 1 1).event pg 7).trip).fatalStop pg 0x0C3)
      else .next s
  else .next s

/-! ## Patrol scrub (R248) -/

/-- PATROL_SCRUB of one burst of a stack: a corrected burst is rewritten as it was; an uncorrectable one is reported and left
as it is (R248). -/
def execPatrolScrub (hmc : Fin 16) (ecc : Ecc) (s : State) : Host.Outcome State Fault Refusal :=
  let pg := hmcPage hmc
  if s.awake && s.stackOn hmc && decide (s.fld pg 0x110 0 8 ≠ 0) then
    match ecc with
    | .clean => .next s
    | .corrected a =>
      if homeOf a = hmc then .next (((s.count pg 4).raise pg 1 0x0C0).event pg 5) else .next s
    | .uncorrectable a =>
      if homeOf a = hmc then
        let s := if (s.raw pg 0x118).getLsbD 0 then s else s.setRaw pg 0x118 (BitVec.ofNat 64 (1 + a / 32 * 32))
        .next (((s.count pg 5).event pg 6).stepFatal pg 0x0C5 none (BitVec.ofNat 64 (1 + a / 32 * 32)))
      else .next s
  else .next s

end Sys2Proof.Machine
end

