-- ==== Sys2Proof/Machine/Domains.lean ====
section
/-! DEFINITION. The 72 switched power domains (R405 to R407). -/

namespace Sys2Proof.Machine

/-- The ON bit of a domain on the PWR page: offset and bit (R418). -/
def onPlace (dom : Nat) : Nat × Nat := if dom < 48 then (0x100, dom) else (0x108, dom - 48)
def State.onBit (s : State) (dom : Nat) : Bool := (s.raw pwrPage (onPlace dom).1).getLsbD (onPlace dom).2

/-- The condition under which a domain may be switched off (R406). -/
def State.mayOff (s : State) (dom : Nat) : Bool :=
  if dom < 48 then
    (Tab.get none s.key.owner dom).isNone && (match s.key.switch with
      | some w => decide (w.quad ≠ dom)
      | none => true)
  else if dom < 64 then (s.page (hmcPage (dom - 48))).quiesced
  else s.mem.halfEmpty.getLsbD (dom - 64)

/-- The condition under which a domain may be switched on: its unit is not marked failed (R406). -/
def State.mayOn (s : State) (dom : Nat) : Bool :=
  if dom < 48 then !(s.raw tstPage 0x110).getLsbD dom
  else if dom < 64 then !(s.raw tstPage 0x120).getLsbD (dom - 48)
  else !(s.raw tstPage 0x120).getLsbD (dom - 64 + 32)

/-- A domain begins to switch: off at once, usable only when it has finished switching on. -/
def State.switchDom (s : State) (dom : Nat) (on : Bool) : State :=
  let s := s.setFld pwrPage (onPlace dom).1 (onPlace dom).2 1 (flag on)
  (s.modPkg fun p => { p with switching := p.switching ++ [(dom, on)], powered := if on then p.powered else p.powered &&& ~~~(1#72 <<< dom) }).count
    pwrPage 2

/-- A write of ON bits: rejected whole while a domain switches; otherwise each changed bit whose condition holds is applied and
each other is rejected (R406). -/
def State.onWrite (s : State) (doms : List Nat) (want : Nat → Bool) (off : Nat) : State :=
  if !s.pkg.switching.isEmpty then (s.reject pwrPage off).count pwrPage 3
  else doms.foldl (fun s d =>
    if want d = s.onBit d then s
    else if (if want d then s.mayOn d else s.mayOff d) then s.switchDom d (want d)
    else (s.reject pwrPage (onPlace d).1).count pwrPage 3) s

/-- The four tiles of a quad with their stores, engines and pages as after power-up (R405, R406). -/
def State.blankQuad (s : State) (q : Nat) : State :=
  (quadTiles q).foldl (fun s t =>
    (List.range 9).foldl (fun s p => s.modPage (tilePage t p) fun _ => {}) (s.modTile t fun _ => {})) s

/-- A stack's contents and the cache lines over them are lost; the stack reads 0 (R407). -/
def State.blankStack (s : State) (h : Nat) : State :=
  s.modMem fun m =>
    { m with hbm := m.hbm.filter fun e => decide (homeOf e.1 ≠ h), delta := m.delta.filter fun e => decide (homeOf e.1 ≠ h)
             lines := m.lines.filter fun e => decide (lineStack e.1 ≠ h) }

/-- What a domain covers is blank. -/
def State.blankDom (s : State) (dom : Nat) : State :=
  if dom < 48 then s.blankQuad dom else if dom < 64 then s.blankStack (dom - 48) else s

/-- DOMAIN_SWITCH_DONE: the domain has finished switching; what it covers is blank, and a domain switched on is usable (R406,
R407). -/
def execDomainSwitchDone (dom : Fin 72) (s : State) : Host.Outcome State Fault Refusal :=
  match (if s.awake then s.pkg.switching.find? fun e => decide (e.1 = dom.val) else none) with
  | none => .next s
  | some e =>
    let s := (s.blankDom dom).modPkg fun p =>
      { p with switching := p.switching.filter fun x => decide (x ≠ e), powered := if e.2 then p.powered ||| (1#72 <<< dom.val) else p.powered }
    .next (s.drained pwrPage)

end Sys2Proof.Machine
end

