-- ==== Sys2Proof/Machine/Fts.lean ====
section
/-! DEFINITION. The Footstool (R170 to R183). -/

namespace Sys2Proof.Machine

/-! ## Page fields -/

def State.ftsF (s : State) (t o lo w : Nat) : Nat := s.fld (ftsPage t) o lo w

structure FtsF where
  op     : Nat
  slot   : Nat
  raddr  : Nat
  bf16   : Bool
  abs    : Bool
  rows   : Nat
  cols   : Nat
  coff   : Nat
  f      : Nat
  topk   : Nat
  stride : Nat
  thresh : Nat
  strict : Bool
  gs     : Nat
  list   : Nat
  mask   : Nat
  phase  : Nat
  deriving DecidableEq, Repr

def State.ftsFields (s : State) (t : Nat) : FtsF :=
  let g := s.ftsF t
  { op := g 0x100 0 4, slot := g 0x100 4 4, raddr := g 0x108 0 14 * 32, bf16 := g 0x108 14 1 = 1, abs := g 0x108 15 1 = 1,
    rows := g 0x108 16 7 + 1, cols := g 0x108 23 15 + 1, coff := g 0x108 38 15, f := g 0x110 0 16, topk := g 0x110 16 16,
    stride := g 0x110 32 14 * 32, thresh := g 0x118 0 32, strict := g 0x118 32 1 = 1, gs := g 0x120 0 23, list := g 0x120 23 23,
    mask := g 0x128 0 23, phase := g 0x128 23 10 }

def slotOff (k : Nat) : Nat := 0x200 + 0x18 * k
/-- SLOT.MODE of a slot; 0b11 acts as 0b10 (R173). -/
def State.slotMode (s : State) (t k : Nat) : Nat := min 2 (s.ftsF t (slotOff k) 0 2)
/-- s of R174: 1, 2 and 11 to 15 act as 3. -/
def State.auditShift (s : State) (t k : Nat) : Nat :=
  let v := s.ftsF t (slotOff k) 4 4
  if v = 0 then 0 else if v < 3 ∨ 10 < v then 3 else v

/-- Neuron n is audited in predicted mode (R174). -/
def audited (mode shift phase n : Nat) : Bool := decide (mode = 1) && decide (shift ≠ 0) && decide ((n + phase) % 2 ^ shift = 0)

/-! ## Starting (R171) -/

/-- GO with reserved bits set or an undefined OP: refused with 0x060 (R172, R183). -/
def State.ftsGo (s : State) (t : Nat) (resv : Bool) : State :=
  let s := (s.applyStaged (ftsPage t))
  let op := s.ftsF t 0x100 0 4
  let bad := resv || decide (op = 0 ∨ 7 < op)
  let s := s.modTile t fun ti => { ti with fts := some { done := bad, refused := bad } }
  if bad then s.contained (ftsPage t) 0x060 (s.ctxOf t) else s

/-- A write of CMD.GO: held while the block admits nothing (R437). -/
def State.ftsGoAct (s : State) (t : Nat) (resv : Bool) : State :=
  if s.admits (ftsPage t) then s.ftsGo t resv else s.modPage (ftsPage t) fun p => { p with heldGo := true, heldBad := resv }

/-! ## The operations -/

/-- The running operation is OP `op` and has not come about yet. -/
def State.ftsDue (s : State) (t op : Nat) : Bool :=
  s.tileRuns t && decide (s.ftsF t 0x100 0 4 = op) && (match (s.tile t).fts with | some o => !o.done | none => false)

/-- The operation ends refused with a code (R171). -/
def State.ftsRefuse (s : State) (t code : Nat) : State :=
  (s.modTile t fun ti => { ti with fts := some { done := true, refused := true } }).contained (ftsPage t) code (s.ctxOf t)

/-- The operation has come about, with its writes to tile store. -/
def State.ftsDone (s : State) (t : Nat) (ws : List LWrite) : State :=
  s.modTile t fun ti => { ti with fts := some { done := true, writes := ws } }

/-- A tile-store extent that passes tile store, or is misaligned (0x061). -/
def storeBad (a n : Nat) : Bool := decide (a % 32 ≠ 0) || decide (storeBytes < a + n)

/-- The score rows of SRC (R172). -/
def rfBad (x : FtsF) : Bool := decide (rfBytes < x.raddr + (x.rows - 1) * x.stride + x.cols * (if x.bf16 then 2 else 4))

def fBad (x : FtsF) : Bool := decide (x.f = 0 ∨ 32768 < x.f)

/-- The data of the score rows, row by row. -/
def State.scoreRows (s : State) (t : Nat) (x : FtsF) : Nat → List (List Num) × State
  | 0 => ([], s)
  | n + 1 =>
    let (rs, s) := s.scoreRows t x n
    let w := if x.bf16 then 2 else 4
    let (bs, s) := s.localRead t true (x.raddr + n * x.stride) (x.cols * w)
    let v := ofBytes bs
    (rs ++ [(List.range x.cols).map fun c => decodeFp (if x.bf16 then 1 else 0) (v / 2 ^ (8 * w * c) % 2 ^ (8 * w))], s)

/-- The group scores from index i, n of them. -/
def State.groupScores (s : State) (t gs i n : Nat) : List Num × State :=
  let (bs, s) := s.localRead t false (gs + 4 * i) (4 * n)
  ((List.range n).map fun k => ofF32 (ofBytes ((bs.drop (4 * k)).take 4)), s)

/-- Some field of an operation as FP32 bytes. -/
def f32Bytes (xs : List Num) : List Byte := xs.flatMap fun x => toBytes 4 (f32 x)

/-- CLEAR: GS becomes −∞ and the last selection is invalid (R172). -/
def execClear (t : Fin 192) (s : State) : Host.Outcome State Fault Refusal :=
  if !s.ftsDue t 1 then .next s
  else
    let x := s.ftsFields t
    match firstCode [(storeBad x.gs (4 * x.f), 0x061), (fBad x, 0x062)] with
    | some c => .next (s.ftsRefuse t c)
    | none =>
      let s := (s.modTile t fun ti => { ti with sel := { ti.sel with valid := false } }).setFld (ftsPage t) 0x140 32 1 0
      .next (s.ftsDone t [{ rf := false, addr := x.gs, data := (List.replicate x.f (toBytes 4 0xFF800000)).flatten }])

/-- One score folded into a group score (R172). -/
def accOne (abs : Bool) (g v : Num) : Num := if abs then (if v.isNan then .inf false else g.max v.abs) else g.max v

/-- ACC: token rows folded into GS by maximumNumber (R172). -/
def execAcc (t : Fin 192) (ecc : Ecc) (s : State) : Host.Outcome State Fault Refusal :=
  if !s.ftsDue t 2 then .next s
  else
    let x := s.ftsFields t
    match firstCode [(storeBad x.gs (4 * x.f) || rfBad x, 0x061), (fBad x || decide (x.f ≤ x.coff + x.cols - 1), 0x062)] with
    | some c => .next (s.ftsRefuse t c)
    | none =>
      let (_, s) := s.eccTile t ecc
      let (rows, s) := s.scoreRows t x x.rows
      let (gs, s) := s.groupScores t x.gs x.coff x.cols
      let new := rows.foldl (fun g r => List.zipWith (accOne x.abs) g r) gs
      let nans := ((rows.map fun r => (r.filter Num.isNan).length)).sum
      let s := if x.abs then s else s.count (ftsPage t) 9 none nans
      .next (s.ftsDone t [{ rf := false, addr := x.gs + 4 * x.coff, data := f32Bytes new }])

/-- Passes the threshold test of R173. -/
def passes (x : FtsF) (g : Num) : Bool :=
  let th := ofF32 x.thresh
  if x.strict then th.lt g else th.lt g || th.eq g

/-- Score i goes before score j: higher, or equal at a lower index (R173). -/
def beats (g : List Num) (i j : Nat) : Bool :=
  let a := g.getD i .nan
  let b := g.getD j .nan
  b.lt a || (a.eq b && decide (i < j))

/-- The selection of R173: selected, audit-only, and whether the cap bound. -/
def selectFrom (x : FtsF) (mode shift : Nat) (g : List Num) : List Nat × List Nat × Bool :=
  let all := List.range x.f
  if mode = 0 then (all, [], false)
  else if mode = 1 then
    let ps := all.filter fun n => passes x (g.getD n .nan)
    let cap := min x.topk x.f
    let capped := decide (x.topk ≠ 0 ∧ cap < ps.length)
    let sel := if capped then ps.filter fun n => decide ((ps.filter fun m => beats g m n).length < cap) else ps
    (sel, all.filter fun n => audited mode shift x.phase n && !sel.contains n, capped)
  else (all.filter fun n => (Num.fin false {}).lt (g.getD n .nan), [], false)

/-- The mask record of R176. -/
def maskBytes (f : Nat) (sel : List Nat) : List Byte :=
  (List.range ((f + 255) / 256 * 32)).map fun b =>
    BitVec.ofNat 8 (((List.range 8).map fun i => if 8 * b + i < f ∧ sel.contains (8 * b + i) then 2 ^ i else 0).sum)

def listBytes (ns : List Nat) : List Byte := ns.flatMap (toBytes 4)

/-- RESULT after a SELECT or EXPAND (R173, R180). -/
def State.setResult (s : State) (t nsel naud : Nat) (capped : Bool) : State :=
  s.setRaw (ftsPage t) 0x140 (BitVec.ofNat 64 (nsel + naud * 2 ^ 16 + 2 ^ 32 + flag capped * 2 ^ 33))

/-- SELECT: the list and the mask record under the slot's mode (R173, R176). -/
def execSelect (t : Fin 192) (s : State) : Host.Outcome State Fault Refusal :=
  if !s.ftsDue t 3 then .next s
  else
    let x := s.ftsFields t
    if fBad x then .next (s.ftsRefuse t (if storeBad x.gs 0 || storeBad x.list 0 || storeBad x.mask 0 then 0x061 else 0x062))
    else
      let mode := s.slotMode t x.slot
      let (g, s') := s.groupScores t x.gs 0 x.f
      let (sel, aud, capped) := selectFrom x mode (s.auditShift t x.slot) g
      if storeBad x.gs (4 * x.f) || storeBad x.mask ((x.f + 255) / 256 * 32) || storeBad x.list (4 * (sel.length + aud.length)) then
        .next (s.ftsRefuse t 0x061)
      else
        let s := s'.modTile t fun ti => { ti with sel := { valid := true, list := sel ++ aud, s := sel.length, a := aud.length } }
        let s := ((s.setResult t sel.length aud.length capped).count (ftsPage t) 7 none sel.length).count (ftsPage t) 8 none aud.length
        let s := if capped then s.count (ftsPage t) 10 else s
        .next (s.ftsDone t [{ rf := false, addr := x.list, data := listBytes (sel ++ aud) },
                            { rf := false, addr := x.mask, data := maskBytes x.f sel }])

/-- EXPAND: the list of a mask record, which becomes the last selection (R180). -/
def execExpand (t : Fin 192) (s : State) : Host.Outcome State Fault Refusal :=
  if !s.ftsDue t 4 then .next s
  else
    let x := s.ftsFields t
    if fBad x then .next (s.ftsRefuse t (if storeBad x.list 0 || storeBad x.mask 0 then 0x061 else 0x062))
    else
      let (bs, s') := s.localRead t false x.mask ((x.f + 7) / 8)
      let sel := (List.range x.f).filter fun n => (bs.getD (n / 8) 0).getLsbD (n % 8)
      if storeBad x.mask ((x.f + 7) / 8) || storeBad x.list (4 * sel.length) then .next (s.ftsRefuse t 0x061)
      else
        let s := s'.modTile t fun ti => { ti with sel := { valid := true, list := sel, s := sel.length, a := 0 } }
        .next ((s.setResult t sel.length 0 false).ftsDone t [{ rf := false, addr := x.list, data := listBytes sel }])

/-- AUDIT: active and missed values of audited neurons (R175). -/
def execAudit (t : Fin 192) (ecc : Ecc) (s : State) : Host.Outcome State Fault Refusal :=
  if !s.ftsDue t 5 then .next s
  else
    let x := s.ftsFields t
    let sel := (s.tile t).sel
    match firstCode [(rfBad x, 0x061), (decide (sel.s + sel.a ≤ x.coff + x.cols - 1) && sel.valid, 0x062), (!sel.valid, 0x063)] with
    | some c => .next (s.ftsRefuse t c)
    | none =>
      let (_, s) := s.eccTile t ecc
      let (rows, s) := s.scoreRows t x x.rows
      let mode := s.slotMode t x.slot
      let sh := s.auditShift t x.slot
      let act (c : Nat) : Nat := (rows.filter fun r => !(r.getD c (.fin false {})).isZero).length
      let cols := (List.range x.cols).filter fun c => audited mode sh x.phase (sel.list.getD (x.coff + c) 0)
      let active := (cols.map act).sum
      let missed := ((cols.filter fun c => decide (sel.s ≤ x.coff + c)).map act).sum
      let o := slotOff x.slot
      let s := s.setRaw (ftsPage t) (o + 8) (s.raw (ftsPage t) (o + 8) + BitVec.ofNat 64 active)
      let s := s.setRaw (ftsPage t) (o + 16) (s.raw (ftsPage t) (o + 16) + BitVec.ofNat 64 missed)
      .next (s.ftsDone t [])

/-- BEGIN: NEXT becomes MODE and the counts restart (R177). -/
def execBegin (t : Fin 192) (s : State) : Host.Outcome State Fault Refusal :=
  if !s.ftsDue t 6 then .next s
  else
    let o := slotOff (s.ftsFields t).slot
    let pg := ftsPage t
    let s := ((s.setFld pg o 0 2 (s.fld pg o 2 2)).setRaw pg (o + 8) 0).setRaw pg (o + 16) 0
    .next (s.ftsDone t [])

/-- CLOSE: the fallback test of R177. -/
def execClose (t : Fin 192) (s : State) : Host.Outcome State Fault Refusal :=
  if !s.ftsDue t 7 then .next s
  else
    let o := slotOff (s.ftsFields t).slot
    let pg := ftsPage t
    let fall := s.fld pg o 0 2 = 1 ∧ (s.raw pg 0x130).toNat * s.fld pg o 8 16 < (s.raw pg 0x138).toNat * 65536
    let s := if fall then ((s.setFld pg o 2 2 2).event pg 4).count pg 11 else s
    .next (s.ftsDone t [])

/-- FTS_COMPLETE: the operation completes, BUSY clears and its token is signalled (R171). -/
def execFtsComplete (t : Fin 192) (s : State) : Host.Outcome State Fault Refusal :=
  if !s.tileRuns t then .next s else
  match (s.tile t).fts with
  | none => .next s
  | some o =>
    if !o.done then .next s
    else
      let pg := ftsPage t
      let s := s.modTile t fun ti => o.writes.foldl (fun ti w => ti.write w.rf w.addr w.data) { ti with fts := none }
      let s := s.setFld pg 0x140 34 1 (flag o.refused)
      let s := if o.refused then (s.event pg 5).count pg 12 else s.count pg (s.ftsF t 0x100 0 4 - 1)
      let s := if s.ftsF t 0x100 8 1 = 1 then s.signal t (s.ftsF t 0x100 9 5) else s
      .next (s.drained pg)

end Sys2Proof.Machine
end

