-- ==== Sys2Proof/Machine/Keys.lean ====
section
/-! DEFINITION. Contexts: descriptors, the switching of quads, coarse records and the keys that the KEY blocks hold (R325 to
R340, R95). -/

namespace Sys2Proof.Machine

/-! ## Descriptors (R325, R326) -/

/-- The eight words of a context descriptor at an address of local HBM. -/
def State.readDesc (s : State) (a : Nat) : CtxDesc :=
  { w0 := s.peekWord a, w1 := s.peekWord (a + 8), w2 := s.peekWord (a + 16), w3 := s.peekWord (a + 24), w4 := s.peekWord (a + 32)
    w5 := s.peekWord (a + 40), w6 := s.peekWord (a + 48), w7 := s.peekWord (a + 56) }

/-- The quads that a descriptor lists. -/
def CtxDesc.quads (d : CtxDesc) : List Nat := (List.range 48).filter fun q => d.w1.getLsbD q

/-- A descriptor is invalid (R326), but for the quad that a switch-in names. -/
def CtxDesc.bad (d : CtxDesc) : Bool :=
  !d.w0.getLsbD 0 || decide (bits d.w0 2 19 ≠ 0 ∨ bits d.w0 52 12 ≠ 0 ∨ bits d.w1 48 16 ≠ 0 ∨ bits d.w3 20 12 ≠ 0 ∨ bits d.w4 4 60 ≠ 0)
    || decide (d.w6 ≠ 0 ∨ d.w7 ≠ 0) || decide (bits d.w3 0 2 ≠ 0)
    || decide (hbmBytes < bits d.w0 21 31 * 2 ^ 21 + 2 ^ 21)
    || decide (d.w2.toNat % 2 ^ 21 ≠ 0) || decide (hbmBytes < d.w2.toNat + d.quads.length * 2 ^ 25)

/-- The descriptor of a context, checked (R326): none where it is invalid, or where the descriptors reach beyond local HBM (R438). -/
def State.checkDesc (s : State) (c : Nat) : Option CtxDesc :=
  let base := s.fld (keyPage 0) 0x100 0 52
  if hbmBytes < base + 256 * 64 then none
  else
    let d := s.readDesc (base + 64 * c)
    if d.bad then none else some d

/-- The copy in force of a context's descriptor is replaced (R326). -/
def State.setDesc (s : State) (c : Nat) (d : CtxDesc) : State := s.modKey fun k => { k with descs := Tab.set {} k.descs c d }

/-- A write of RELOAD.GO: the named context's descriptor is checked and copied, or refused with 0x100 (R326); rejected while a
switch that names the context runs (R329). -/
def State.reloadAct (s : State) : State :=
  let pg := keyPage 0
  let c := bits (s.raw pg 0x110) 0 8
  let named := match s.key.switch with
    | some w => decide (w.ctx = c ∧ w.mode < 2)
    | none => false
  if named then s.reject pg 0x110
  else match s.checkDesc c with
    | none => s.contained pg 0x100 (some c)
    | some d => s.setDesc c d

/-! ## Switching (R95, R327 to R329) -/

/-- SWITCH.REFUSED. -/
def State.switchRefused (s : State) (code : Nat) (ctx : Option Nat) : State :=
  (s.modKey fun k => { k with refused := true }).contained (keyPage 0) code ctx

/-- A write of SWITCH.GO (R327, R329): rejected while a switch runs; refused with 0x101 or 0x100; else the quad's sequencers stop
issuing and the switch is under way. -/
def State.switchAct (s : State) : State :=
  let pg := keyPage 0
  let w := s.raw pg 0x108
  let q := bits w 0 6
  let c := bits w 6 8
  let m := bits w 14 2
  if s.key.switch.isSome then s.reject pg 0x108
  else if m = 3 ∨ 48 ≤ q then s.switchRefused 0x101 none
  else if !s.pkg.powered.getLsbD q then s.switchRefused 0x101 none
  else
    let go (s : State) : State :=
      let s := s.modKey fun k => { k with switch := some { quad := q, ctx := c, mode := m }, refused := false }
      (quadTiles q).foldl (fun s t => s.modTile t fun ti =>
        if ti.seq = .running ∨ ti.seq = .waiting then { ti with stopped := true } else ti) s
    if m = 2 then go s
    else match s.checkDesc c with
      | none => s.switchRefused 0x100 (some c)
      | some d => if d.w1.getLsbD q then go (s.setDesc c d) else s.switchRefused 0x100 (some c)

/-- The started work of a tile that a switch waits for has completed (R95): an XCE descriptor that still awaits answers is not
waited for. -/
def Tile.drainedFor (t : Tile) : Bool :=
  (t.flights.all fun f => decide (f.eng = .xce) && !f.finished) && t.fts.isNone && t.route.isNone
    && (match t.stall with | .control _ _ _ => false | _ => true)

/-- The page words that belong to a context: those of the tile's blocks but TMON, from the basic section on. -/
def ctxPages (t : Nat) : List Nat := (List.range 8).map (tilePage t)
def Page.ctxPart (p : Page) : Page :=
  { words := p.words.filter fun e => decide (0x20 ≤ e.1), pend := p.pend.filter fun e => decide (0x20 ≤ e.1)
    pendMask := p.pendMask.filter fun e => decide (0x20 ≤ e.1), heldGo := p.heldGo, heldBad := p.heldBad }
def Page.withCtxPart (p c : Page) : Page :=
  { p with words := (p.words.filter fun e => decide (e.1 < 0x20)) ++ c.words
           pend := (p.pend.filter fun e => decide (e.1 < 0x20)) ++ c.pend
           pendMask := (p.pendMask.filter fun e => decide (e.1 < 0x20)) ++ c.pendMask, heldGo := c.heldGo, heldBad := c.heldBad }

/-- The tile is saved to the slot of the leaving context (R95). -/
def State.saveTile (s : State) (c t : Nat) : State :=
  s.modKey fun k =>
    { k with saved := Tab.set {} k.saved (c * 192 + t) (s.tile t)
             pages := (ctxPages t).foldl (fun ps n => Tab.set {} ps (c * 2048 + n) (s.page n).ctxPart) k.pages }

/-- The tile is cleared (R328). -/
def State.clearTile (s : State) (t : Nat) : State :=
  (ctxPages t).foldl (fun s n => s.modPage n fun p => p.withCtxPart {}) (s.modTile t fun _ => {})

/-- The tile is restored from the slot of the arriving context, and resumes unless its SEQ page is quiescing (R95, R437). -/
def State.restoreTile (s : State) (c t : Nat) : State :=
  let quiet := (s.page (seqPage t)).quiesceBit
  let ti := Tab.get {} s.key.saved (c * 192 + t)
  let s := s.modTile t fun _ => { ti with stopped := quiet && decide (ti.seq = .running ∨ ti.seq = .waiting) }
  let s := (ctxPages t).foldl (fun s n => s.modPage n fun p => p.withCtxPart (Tab.get {} s.key.pages (c * 2048 + n))) s
  s.modKey fun k =>
    { k with saved := Tab.set {} k.saved (c * 192 + t) {}
             pages := (ctxPages t).foldl (fun ps n => Tab.set {} ps (c * 2048 + n) {}) k.pages }

/-- The records that wait for a tile of the context that has become resident, delivered in order while they fit (R23). -/
def State.deliverHeld (s : State) (c t : Nat) : State :=
  let mine := s.key.inbox.filter fun h => decide (h.ctx = c ∧ h.tile = t)
  let rest := s.key.inbox.filter fun h => !decide (h.ctx = c ∧ h.tile = t)
  let (s, left) := mine.foldl (fun (acc : State × List Held) h =>
    if acc.2.isEmpty then
      let w0 := BitVec.ofNat 64 (ofBytes (h.data.take 8))
      let w1 := BitVec.ofNat 64 (ofBytes ((h.data.drop 8).take 8))
      match acc.1.inboxPut t (bits w0 0 13) (bits w0 13 20) (bits w1 0 32) (h.data.drop 32) with
      | some s => (s, [])
      | none => (acc.1, [h])
    else (acc.1, acc.2 ++ [h])) (s, [])
  s.modKey fun k => { k with inbox := rest ++ left }

/-- The switch is over: the quad has its new owner, or none, DONE becomes 1 and the event is raised (R327, R340). -/
def State.endSwitch (s : State) (q : Nat) (owner : Option Nat) : State :=
  ((s.modKey fun k => { k with switch := none, owner := Tab.set none k.owner q owner }).event (keyPage 0) 4).drained (keyPage 0)

/-- An uncorrectable error while saving or restoring (R329): Step-fatal, charged to the context saved, or to the one restored
where the burst lies in its save area; the quad is left clear and with no owner. -/
def State.switchFails (s : State) (w : Switch) (old : Option Nat) (loc : Nat) : State :=
  let d := s.desc w.ctx
  let restoring := decide (w.mode = 0) && decide (d.w2.toNat ≤ loc ∧ loc < d.w2.toNat + d.quads.length * 2 ^ 25)
  let (k, s) := s.draw
  let s := match old with
    | none => s
    | some o =>
      let s := if restoring then s
        else s.spoilWord ((quadTiles w.quad).getD ((Config.freeWord k).toNat % 4) 0) (decide (2 ^ 20 ≤ loc)) (loc % 2 ^ 20)
      (quadTiles w.quad).foldl (fun s t => s.saveTile o t) s
  let s := (quadTiles w.quad).foldl State.clearTile s
  (s.stepFatal (keyPage 0) 0x106 (if restoring then some w.ctx else old.or (if w.mode = 2 then none else some w.ctx))).endSwitch w.quad none

/-- SWITCH_DONE: once the quad's started work has drained, the resident context is saved, the arriving one restored or the tiles
cleared, and its inboxes delivered (R95, R327, R328). -/
def execSwitchDone (ecc : Ecc) (s : State) : Host.Outcome State Fault Refusal :=
  if !s.awake then .next s else
  match s.key.switch with
  | none => .next s
  | some w =>
    let ts := quadTiles w.quad
    if !s.awake || !(ts.all fun t => (s.tile t).drainedFor) then .next s
    else
      let old := Tab.get none s.key.owner w.quad
      match ecc with
      | .uncorrectable loc => .next (s.switchFails w old loc)
      | _ =>
        let (k, s) := s.draw
        let moved := (Config.freeWord k).toNat
        let s := match old with
          | none => s
          | some o => ((ts.foldl (fun s t => s.saveTile o t) s).count (keyPage 0) 1 (some o)).count (keyPage 0) 2 (some o) moved
        let s := ts.foldl State.clearTile s
        if w.mode = 2 then .next (s.endSwitch w.quad none)
        else
          let s := if w.mode = 0 then (ts.foldl (fun s t => s.restoreTile w.ctx t) s).count (keyPage 0) 3 (some w.ctx) moved else s
          let s := (s.endSwitch w.quad (some w.ctx)).count (keyPage 0) 0 (some w.ctx)
          .next (ts.foldl (fun s t => s.deliverHeld w.ctx t) s)

/-! ## Coarse records (R333) -/

/-- The coarse record. -/
def coarseBytes (seq : BitVec 32) (time power temp util : Nat) : List Byte :=
  toBytes 4 seq.toNat ++ toBytes 4 (time / 100000000) ++ toBytes 2 (min 0xFFFF (power / 25)) ++ toBytes 1 (min 255 (temp / 2))
    ++ toBytes 1 (min 16 util) ++ toBytes 20 0

/-- COARSE_RECORD: one record for each valid context that has an address (R333), once their controllers admit it (R41). -/
def execCoarseRecord (power temp util : Nat) (s : State) : Host.Outcome State Fault Refusal :=
  if (s.key.descs.map Prod.fst).any fun c => (s.desc c).w0.getLsbD 0 && decide ((s.desc c).w5 ≠ 0) && s.vaHeld 3 c (s.desc c).w5.toNat 32 true then .next s
  else if s.awake then
    .next ((s.key.descs.map Prod.fst).foldl (fun s c =>
      let d := s.desc c
      if d.w0.getLsbD 0 ∧ d.w5 ≠ 0 then
        let q := Tab.get 0 s.key.coarse c
        let s := s.modKey fun k => { k with coarse := Tab.set 0 k.coarse c (q + 1) }
        match s.storeAny 3 c (keyPage 0) d.w5.toNat 1 (coarseBytes q s.time power temp util) with
        | (true, s) => s.count (keyPage 0) 7 (some c)
        | (false, s) => (s.count (keyPage 0) 8 (some c)).note (keyPage 0) 0x105 (some c)
      else s) s)
  else .next s

/-! ## Keys (R336 to R339) -/

/-- A write of ERASE.GO zeroizes the named job key, or the management key, at once (R339). -/
def State.eraseAct (s : State) : State :=
  let w := s.raw (keyPage 0) 0x118
  s.modKey fun k => if w.getLsbD 8 then { k with mgmt := none } else { k with keys := Tab.set none k.keys (bits w 0 8) none }

/-- Nanoseconds that a session stands (R339). -/
def sessionNs : Nat := 60000000000

/-- ATT_SESSION_EXPIRY: a session that has passed 60 s is zeroized (R339). -/
def execAttSessionExpiry (nonce : BitVec 256) (s : State) : Host.Outcome State Fault Refusal :=
  if s.awake then
    .next (s.modKey fun k => { k with sessions := k.sessions.filter fun x => !decide (x.nonce = nonce ∧ sessionNs < s.time - x.opened) })
  else .next s

end Sys2Proof.Machine
end

