-- ==== Sys2Proof/Machine/Blocks.lean ====
section
/-! DEFINITION. What a control-page write does to a block as a whole: admission, quiesce, block reset and the quiesce of the
package (R36, R39 to R41, R437, R368). -/

namespace Sys2Proof.Machine

/-- The classes that a block reset returns to their reset values (R40). -/
def isKept : Acc → Bool
  | .rw | .rws | .rwl => false
  | _ => true

/-- The words of a page with the fields of a block reset at their reset values; every field of a Footstool or a Trestle page (R183,
R211). -/
def resetWords (n : Nat) (ws : Tab Word) : Tab Word :=
  ws.filterMap fun e =>
    let all := (decide (blockOf n = .fts) || decide (blockOf n = .trs)) && decide (0x100 / 8 ≤ e.1)
    let y := if all then 0 else e.2 &&& ~~~(classMask n (8 * e.1) fun a => !isKept a)
    if y = 0 then none else some (e.1, y)

/-- The common actions of a block reset (R40). -/
def Page.reset (n : Nat) (p : Page) : Page :=
  { p with words := resetWords n p.words, pend := [], pendMask := [], cause := 0, epoch := p.epoch + 1
           quiesceBit := false, quiescing := false, quiesced := false, heldGo := false, heldBad := false }

/-- CTL.ENABLE of a page, as hardware sets it. -/
def State.setEnable (s : State) (n : Nat) (en : Bool) : State := s.setFld n 0x010 0 1 (flag en)

/-! ## Admission (R41, R437) -/

/-- A quiesce-stopped sequencer continues from where it stopped, unless its quad is being switched (R437). -/
def State.continueSeq (s : State) (t : Nat) : State :=
  let switching := match s.key.switch with
    | some w => decide (w.quad = quadOf t)
    | none => false
  if switching then s else s.modTile t fun ti => { ti with stopped := false }

/-- A held START or GO takes effect (R41, R437). -/
def State.releaseHeld (s : State) (n : Nat) : State :=
  let p := s.page n
  if p.heldGo then
    let s := s.modPage n fun p => { p with heldGo := false, heldBad := false }
    match blockOf n with
    | .seq => s.startSeq (n / 9)
    | .fts => s.ftsGo (n / 9) p.heldBad
    | .trs => s.trsGo (n / 9) p.heldBad
    | _ => s
  else s

/-- The block admits work again: a stopped sequencer continues, a held start or GO takes effect, and whoever was told to wait is
told that the block is ready (R41, R273, R437). -/
def State.resume (s : State) (n : Nat) : State :=
  let s := match blockOf n with
    | .seq => s.continueSeq (n / 9)
    | _ => s
  let s := ((s.releaseHeld n).sendReady n).pump
  match blockOf n with
  | .sbd => s.sbdFill
  | .rtr => s.retryHeld
  | _ => s

/-- CTL.ENABLE written (R36): 1 also ends a quiesce. -/
def State.enableAct (s : State) (n : Nat) (en : Bool) : State :=
  if en then
    ((s.modPage n fun p => { p with quiesceBit := false, quiescing := false, quiesced := false }).setEnable n true).resume n
  else s.setEnable n false

/-! ## Block reset (R40) -/

/-- What a block reset does beyond its page: the MXE discards both banks' checksum regions (R145), every VXE program slot is
unloaded (R169), a Footstool holds no selection (R183), a port's enable and an MSC half's setting act as written, and the host port
keeps its addresses from flash (R261, R252, R398). -/
def State.resetSides (s : State) (n : Nat) : State :=
  match blockOf n with
  | .mxe => s.modTile (n / 9) fun ti => { ti with chk0 := {}, chk1 := {} }
  | .vxe => s.modTile (n / 9) fun ti => { ti with slots := [] }
  | .fts => s.modTile (n / 9) fun ti => { ti with sel := {} }
  | .rtr => (List.range (portSlots (dieOf n))).foldl (fun s k => s.portEnable (portAt (dieOf n) k) true) s
  | .msc =>
    let d := dieOf n
    let stay := (if s.pkg.powered.getLsbD (64 + 2 * d) then 0 else 1) + (if s.pkg.powered.getLsbD (65 + 2 * d) then 0 else 2)
    (s.setFld n 0x108 2 2 (bits (s.raw n 0x108) 2 2 ||| (stay &&& (s.mem.halfOff.toNat / 2 ^ (2 * d) % 4)))).halfOffAct d
  | _ => s

/-- The domain bits of PWR stand through a reset of its words, and every domain is then asked on (R406). -/
def State.keepDomains (s : State) (n : Nat) (f : State → State) : State :=
  if blockOf n = .pwr then
    (((f s).setRaw n 0x100 (s.raw n 0x100)).setFld n 0x108 0 24 (bits (s.raw n 0x108) 0 24)).onWrite (List.range 72) (fun _ => true) 0x100
  else f s

/-- The MAC and IPv6 words of a host port, which a reset leaves as flash gave them (R398). -/
def State.keepNet (s : State) (n : Nat) (f : State → State) : State :=
  if blockOf n = .hen then
    (((f s).setRaw n 0x108 (s.raw n 0x108)).setRaw n 0x110 (s.raw n 0x110)).setRaw n 0x118 (s.raw n 0x118)
  else f s

/-- CTL.RESET on a quiesced block (R40). -/
def State.blockReset (s : State) (n : Nat) : State :=
  (s.keepDomains n fun s => s.keepNet n fun s => s.modPage n (Page.reset n)).resetSides n

/-! ## Quiesce of the package (R368) -/

/-- PKG.QUIESCED: every block is quiesced. -/
def State.pkgQuiesced (s : State) : Bool := (List.range 1781).all fun n => (s.page n).quiesced

/-- A write of PKG.QUIESCE quiesces every block (R368). -/
def State.pkgQuiesceAct (s : State) : State :=
  (List.range 1781).foldl (fun s n => (s.modPage n fun p => { p with savedEnable := some (s.enabled n) }).startQuiesce n) s

/-- A write of PKG.READY ends the quiesce of every block and returns each to the ENABLE it had (R368). -/
def State.pkgReadyAct (s : State) : State :=
  let s := (List.range 1781).foldl (fun s n =>
    let en := ((s.page n).savedEnable).getD (s.enabled n)
    (s.modPage n fun p => { p with quiesceBit := false, quiescing := false, quiesced := false, savedEnable := none }).setEnable n en) s
  (List.range 1781).foldl (fun s n => if s.enabled n then s.resume n else s) s

end Sys2Proof.Machine
end

