-- ==== Sys2Proof/Machine/Mgmt.lean ====
section
/-! DEFINITION. The Bureau at work: fatal reports, votes, mirror copies, heartbeats, decisions, rollback and takeover (R344 to R366). -/

namespace Sys2Proof.Machine

/-! ## Receiving a management cell (R352) -/

/-- The kinds of R352. -/
def cellKinds : List Nat := [0x01, 0x02, 0x03, 0x04, 0x05, 0x06, 0x07, 0x08, 0x09, 0x0A, 0x0B, 0x0C, 0x0D, 0x0E, 0x0F, 0x10, 0x11]

/-- A delivered packet is a management cell that the handler of a kind takes: of that kind, of none, or one that does not open. -/
def State.mgmtFor (s : State) (kind : Nat) (x : Inbound) : Bool :=
  decide (pktPop x.pkt = 13) && (match s.cached (pktFlow x.pkt) with
    | none => false
    | some e => match s.openReq x.pkt e with
      | none => true
      | some o => decide ((cellOf o.data).kind = kind) || !cellKinds.contains (cellOf o.data).kind)

/-- The first delivered management cell for a kind, and the state without it; one whose entry is not cached asks for it. -/
def State.takeMgmt (s : State) (kind : Nat) : Option (Inbound × Flow) × State :=
  if !s.awake then (none, s)
  else match s.fab.inbound.find? (s.mgmtFor kind) with
  | some x => (match s.cached (pktFlow x.pkt) with
    | some e => (some (x, e), s.modFab fun f => { f with inbound := f.inbound.erase x })
    | none => (none, s))
  | none => (match s.fab.inbound.find? fun x => decide (pktPop x.pkt = 13) && (s.cached (pktFlow x.pkt)).isNone && !s.fab.missing.contains (pktFlow x.pkt) with
    | some x => (none, s.modFab fun f => { f with missing := f.missing ++ [pktFlow x.pkt] })
    | none => (none, s))

/-- A cell is checked as any request (R272, R294); one of the kind, when it is new, is acknowledged and acted on. A cell of an
unknown kind is dropped. -/
def State.serveMgmt (s : State) (kind : Nat) (act : Cell → Nat → Opened → State → State) : State :=
  match s.takeMgmt kind with
  | (none, s) => s
  | (some (x, e), s) =>
    match s.checkReq x e with
    | (.fresh o, s) => if (cellOf o.data).kind = kind then act (cellOf o.data) o.owner o (s.acceptReq x e o.owner) else s
    | (_, s) => s

/-- The first cell of a kind that this Bureau has for itself, and the state without it. -/
def State.takeOwn (s : State) (kind : Nat) : Option (Nat × Cell) × State :=
  if !s.awake then (none, s)
  else match s.bur.own.find? fun d => decide ((cellOf d.2).kind = kind) with
  | some d => (some (d.1, cellOf d.2), s.modBur fun b => { b with own := b.own.erase d })
  | none => (none, s)

/-- A cell about the context of its group; one of this Bureau's own comes before one that arrived. -/
def State.serveGroup (s : State) (kind : Nat) (act : Nat → Cell → Nat → State → State) : State :=
  match s.takeOwn kind with
  | (some (c, m), s) => act c m s.ownLc s
  | (none, s) => s.serveMgmt kind fun m from' _ s => match s.ctxOfGroup m.group with
    | some c => act c m from' s
    | none => s

/-- The cell speaks of the context's present step and attempt. -/
def State.present (s : State) (c : Nat) (m : Cell) : Bool := decide (m.step = (s.stepOf c).toNat % 2 ^ 32) && decide (m.attempt = s.attemptOf c)

/-! ## Reports (R344 to R346, R367) -/

/-- The codes that name a hardware fault of this package (R367). -/
def offenceCodes : List Nat := [0x031, 0x032, 0x083, 0x0A5, 0x0B5, 0x0B6, 0x0C1, 0x0C5, 0x0D1, 0x0F0, 0x106, 0x111, 0x113, 0x114]

/-- Offences within the last WINDOW_H hours. -/
def State.offenceCount (s : State) : Nat :=
  let w := max 1 (s.fld burPage 0x358 8 8) * 3600000000000
  (s.bur.offences.filter fun t => decide (s.time < t + w)).length

/-- An offence is counted; at QUAR.LIMIT the package is quarantined and stops with 0x153. -/
def State.offend (s : State) (f : Fatal) : State :=
  if f.sev = 3 ∧ offenceCodes.contains f.code then
    let s := s.modBur fun b => { b with offences := b.offences ++ [s.time] }
    if max 1 (s.fld burPage 0x358 0 8) ≤ s.offenceCount then
      ((s.modBur fun b => { b with quarantined := true }).event burPage 24).stopWith 0x153
    else s
  else s

/-- FATAL_REPORT: the Bureau takes the oldest report on its own path: a Package-fatal stops the package, a Step-fatal starts, joins or
nests an activation (R344, R345). -/
def execFatalReport (s : State) : Host.Outcome State Fault Refusal :=
  if !s.awake then .next s
  else match s.bur.fatals with
    | [] => .next s
    | f :: rest =>
      let s := s.modBur fun b => { b with fatals := rest }
      if 4 ≤ f.sev then .next (s.failStop f.code)
      else
        let s := s.offend f
        if s.pkg.stopped then .next s else .next ((s.markDamage f).activate f (s.concerned f))

/-- BUREAU_WATCHDOG: 10 ms without progress stop the package in hardware (R341, R346). -/
def execBureauWatchdog (s : State) : Host.Outcome State Fault Refusal := if s.awake then .next (s.stopWith 0x150) else .next s

/-! ## Votes (R350, R351) -/

/-- Everything that a vote waits for: rings, queues, mirror entries, and reports that the Bureau has not taken yet. -/
def State.voteReady (s : State) (c : Nat) : Bool :=
  let x := s.commit c
  x.cr.en && !x.held && !x.voted && !x.commitDue && decide (x.phase = 0) && s.bur.fatals.isEmpty && !(s.bur.levels.any fun l => l.contains c)
    && ((List.range 8).all fun r => (s.ring c r).ended && !(s.cleQ c r).live)
    && ((List.range x.cr.nmirror).all fun k => s.upe.mirrorDone.contains (c, k) || x.resend.contains k) && !s.mirrorOut c

/-- The verdict word, when it can be read. -/
def State.verdictWord (s : State) (c : Nat) : Option Nat × State :=
  match s.translateLocal 3 (some c) (s.commit c).cr.verdict.toNat 8 false with
  | (none, s) => (none, s)
  | (some segs, s) => match s.homeOff (segs.map fun g => g.1) with
    | some h => (none, s.refuseOff h (some c))
    | none => let (b, s) := s.readSegs (some c) 0 segs; (some (ofBytes b), s)

/-- The first error code of R350; none where the attempt is good so far. -/
def Commit.firstCode (x : Commit) : Option Nat :=
  match x.sf with
  | some k => some k
  | none => if 0 < x.refused then some (x.refCode.getD 0) else if x.mirrorBad then some 0x154 else none

/-- VOTE_SEND: one vote for the attempt, when its rings, queues and mirror entries are done (R351). -/
def execVoteSend (ctx : Fin 256) (s : State) : Host.Outcome State Fault Refusal :=
  let c := ctx.val
  if !s.awake || !s.voteReady c then .next s
  else
    let (v, s) := s.verdictWord c
    let s := match v with
      | none => (s.stepFatal burPage 0x155 (some c)).modBur fun b => { b with fatals := b.fatals.dropLast }
      | some _ => s
    let x := s.commit c
    let code := match x.firstCode, v with
      | some k, _ => some k
      | none, none => some 0x155
      | none, some w => if w = 0 then none else some 0
    let s := s.modCommit c fun x => { x with voted := true, voteCode := code.getD 0, queryAt := s.time }
    .next (s.toCoord c 0x02 (match code with | some k => 1 + k * 2 ^ 16 | none => 0))

/-- VOTE: the coordinator counts it and may decide (R353). -/
def execVote (s : State) : Host.Outcome State Fault Refusal :=
  .next (s.serveGroup 0x02 fun c m from' s =>
    let x := s.commit c
    match s.groupOf c with
    | none => s
    | some g =>
      if !s.coordinates c || x.held || !x.open m.step m.attempt then s
      else
        let s := s.modCommit c fun x => match x.firstVote with
          | some (_, st, a) => if st = m.step ∧ a = m.attempt then x else { x with firstVote := some (s.time, m.step, m.attempt) }
          | none => { x with firstVote := some (s.time, m.step, m.attempt) }
        if m.arg % 2 = 1 then s.decideRollback c g m.step m.attempt []
        else
          let s := s.modCommit c fun x => { x with votes := if x.votes.contains (from', m.step, m.attempt) then x.votes else x.votes ++ [(from', m.step, m.attempt)] }
          if (s.memberList g).all fun y => (s.commit c).votes.contains (y.1, m.step, m.attempt) then s.decideCommit c g m.step m.attempt else s)

/-- ABORT: the coordinator decides ROLLBACK (R353, R358). -/
def execAbort (s : State) : Host.Outcome State Fault Refusal := .next (s.serveGroup 0x03 fun c m _ s => s.rollbackIfOpen c m.step m.attempt)

/-- VOTE_TIMEOUT: a vote is missing VOTE_TIMEOUT_MS after the first (R353). -/
def execVoteTimeout (ctx : Fin 256) (s : State) : Host.Outcome State Fault Refusal :=
  if !s.awake then .next s else
  let c := ctx.val
  match (s.commit c).firstVote with
  | none => .next s
  | some (t, st, a) =>
    if !s.awake || decide (s.time < t + max 1 (s.fld burPage 0x350 0 16) * 1000000) || !s.coordinates c || !(s.commit c).open st a then .next s
    else .next ((s.selfFatal 0x155 (some c)).rollbackIfOpen c st a)

/-- QUERY_TIMER: a member that has voted hears no decision for VOTE_TIMEOUT_MS (R353). -/
def execQueryTimer (ctx : Fin 256) (s : State) : Host.Outcome State Fault Refusal :=
  let c := ctx.val
  let x := s.commit c
  if !s.awake || !x.voted || x.commitDue || decide (x.phase ≠ 0) || decide (s.time < x.queryAt + max 1 (s.fld burPage 0x350 0 16) * 1000000) then .next s
  else .next ((s.modCommit c fun x => { x with queryAt := s.time }).toCoord c 0x0C 0)

/-- QUERY: answered by the recorded DECIDE (R352). -/
def execQuery (s : State) : Host.Outcome State Fault Refusal :=
  .next (s.serveGroup 0x0C fun c m from' s =>
    match (s.commit c).decided, s.groupOf c with
    | some (ok, gen, st, a), some g =>
      if st = m.step ∧ a = m.attempt then
        match (s.memberList g).find? fun y => decide (y.1 = from') with
        | some y => (s.sendCell c (s.memberWay y) { s.ctxCell c 0x04 (if ok then 1 else 2 + gen.toNat * 2 ^ 16) with step := st, attempt := a }).pump
        | none => s
      else s
    | _, _ => s)

/-- DLOG: the coordinator's twin keeps the decision; the acknowledgement releases it (R353, R366). -/
def execDlog (s : State) : Host.Outcome State Fault Refusal :=
  .next (s.serveGroup 0x11 fun c m _ s => s.modCommit c fun x =>
    if m.arg % 4 = 1 then { x with decided := some (true, 0, m.step, m.attempt) }
    else { x with decided := some (false, BitVec.ofNat 16 (m.arg / 2 ^ 16), m.step, m.attempt), nextGen := some (BitVec.ofNat 16 (m.arg / 2 ^ 16 + 1)) })

/-- DECIDE: a commit waits for the next boundary (R354); a rollback halts the context and resets its flows (R358). -/
def execDecide (s : State) : Host.Outcome State Fault Refusal :=
  .next (s.serveGroup 0x04 fun c m _ s =>
    let x := s.commit c
    if m.arg % 4 = 1 then (if s.present c m && x.voted && decide (x.phase = 0) then s.modCommit c fun x => { x with commitDue := true } else s)
    else if m.arg % 4 = 2 then
      (if (s.present c m || x.held) && decide (x.phase = 0) && !x.commitDue then s.startRollback c (m.arg / 2 ^ 16) else s)
    else s)

/-! ## Mirror (R355) -/

/-- MIRROR_COPY: a ring has passed an entry's job, and the UPE copies the working bank to the twin; a skipped job leaves nothing to
copy (R355). -/
def execMirrorCopy (ctx : Fin 256) (entry : Nat) (ecc : Ecc) (s : State) : Host.Outcome State Fault Refusal :=
  let c := ctx.val
  let x := s.commit c
  let started := Tab.get 0 s.upe.mirrorLeft (c * 65536 + entry) ≠ 0 || s.upe.mirrorDone.contains (c, entry) || x.resend.contains entry
  if !s.awake || !x.cr.en || x.held || decide (x.cr.nmirror ≤ entry) || started || decide (x.phase ≠ 0) then .next s
  else match s.mirrorEntry c entry with
    | none => .next (s.mirrorFail c entry)
    | some m =>
      if (s.ring c m.ring).pos ≤ m.job then .next s
      else
        let w0 := ((s.mirrorJob c m).getD []).getD 0 0
        if (s.stepOf c).toNat % max 1 (bits w0 32 16) ≠ bits w0 48 16 then .next (s.modUpe fun u => { u with mirrorDone := u.mirrorDone ++ [(c, entry)] })
        else match s.bankOf c m (1 - committedBank m.spar m.n (s.cOf c)) with
          | none => .next (s.mirrorFail c entry)
          | some (a, b) =>
            let st := m.ring % 4
            match s.sendBank c (.mirror c entry) 11 x.cr.mflow.toNat (upePage st) st 0 a b (m.pages * 4096) false ecc with
            | (none, s) => .next (s.mirrorFail c entry)
            | (some n, s) =>
              .next ((s.modUpe fun u => { u with mirrorLeft := Tab.set 0 u.mirrorLeft (c * 65536 + entry) n
                                                 mirrorDone := if n = 0 then u.mirrorDone ++ [(c, entry)] else u.mirrorDone }).pump)

/-! ## The twin (R362) -/

/-- HEARTBEAT_TIMER: HB.PERIOD_US have passed: a heartbeat goes to the twin, and one that has not come is missed. -/
def execHeartbeatTimer (s : State) : Host.Outcome State Fault Refusal :=
  let tw := s.fld burPage 0x348 12 20
  if !s.awake || decide (tw = 0) || decide (s.time < s.bur.hbAt + max 20 (s.fld burPage 0x348 0 8) * 1000) then .next s
  else
    let s := s.modBur fun b => { b with hbAt := s.time, missed := if b.beatSeen then 0 else b.missed + 1, beatSeen := false }
    .next ((s.sendCell 256 tw { kind := 0x01, group := 0, attempt := 0, step := 0, arg := 0 }).pump)

/-- HEARTBEAT_MISS: HB.MISS heartbeats in a row have not come, and TAKEOVER_REQ goes to every coordinator. -/
def execHeartbeatMiss (s : State) : Host.Outcome State Fault Refusal :=
  if s.awake && decide (max 1 (s.fld burPage 0x348 8 4) ≤ s.bur.missed) then .next s.askTakeover else .next s

/-- HEARTBEAT: the twin is alive. -/
def execHeartbeat (s : State) : Host.Outcome State Fault Refusal :=
  .next (s.serveMgmt 0x01 fun _ from' _ s =>
    if from' = twinOf s.ownLc then
      s.modBur fun b => { b with beatSeen := true, missed := 0, twinLost := false, settee := if b.settee = 1 then 0 else b.settee }
    else s)

/-- DYING: the twin is failing. -/
def execDying (s : State) : Host.Outcome State Fault Refusal :=
  .next (s.serveMgmt 0x0D fun _ from' _ s => if from' = twinOf s.ownLc then s.askTakeover else s)

/-- The coordinator's own request for a takeover: the suspect is probed (R362). -/
def State.probeOwn (s : State) (c : Nat) (m : Cell) : State :=
  match s.groupOf c with
  | none => s
  | some g =>
    match (s.memberList g).find? fun y => decide (y.1 = m.arg % 2 ^ 13) with
    | none => s.stepFatal burPage 0x156 (some c)
    | some y =>
      match (s.commit c).probing with
      | some _ => s.modBur fun b => { b with own := b.own ++ [(c, m.bytes)] }     -- it waits behind the one that runs
      | none =>
        let s := s.modCommit c fun z => { z with probing := some (y.1, s.ownLc, s.time), askedBy := none }
        (s.sendCell c (s.memberWay y) (s.ctxCell c 0x08 0)).pump

/-- TAKEOVER_REQ: the coordinator probes the suspect; the request waits for its answer. -/
def execTakeoverReq (s : State) : Host.Outcome State Fault Refusal :=
  match s.takeOwn 0x07 with
  | (some (c, m), s) => .next (s.probeOwn c m)
  | (none, s) =>
  match s.takeMgmt 0x07 with
  | (none, s) => .next s
  | (some (x, e), s) =>
    match s.checkReq x e with
    | (.fresh o, s) =>
      let m := cellOf o.data
      if m.kind ≠ 0x07 then .next s
      else match s.ctxOfGroup m.group with
        | none => .next (s.refuseReq x e o.owner)
        | some c =>
          (match s.groupOf c with
           | none => .next (s.refuseReq x e o.owner)
           | some g =>
             match (s.memberList g).find? fun y => decide (y.1 = m.arg % 2 ^ 13) with
             | none => .next (s.refuseReq x e o.owner)
             | some y =>
               if !s.coordinates c then .next (s.refuseReq x e o.owner)
               else match (s.commit c).probing with
                 | some _ => .next s
                 | none =>
                   let s := s.modCommit c fun z => { z with probing := some (y.1, o.owner, s.time), askedBy := some x }
                   .next ((s.sendCell c (s.memberWay y) (s.ctxCell c 0x08 0)).pump))
    | (_, s) => .next s

/-- PROBE: a suspect that is alive answers. -/
def execProbe (s : State) : Host.Outcome State Fault Refusal := .next (s.serveGroup 0x08 fun c _ _ s => s.toCoord c 0x09 0)

/-- PROBE_ACK: the takeover is refused. -/
def execProbeAck (s : State) : Host.Outcome State Fault Refusal :=
  .next (s.serveGroup 0x09 fun c _ from' s =>
    match (s.commit c).probing, (s.commit c).askedBy with
    | some (suspect, asker, _), some x =>
      if suspect = from' then
        State.refuseReq (s.modCommit c fun y => { y with probing := none, askedBy := none }) x (s.flowNow (pktFlow x.pkt)) asker
      else s
    | some (suspect, _, _), none =>
      if suspect = from' then State.stepFatal (s.modCommit c fun y => { y with probing := none }) burPage 0x156 (some c) else s
    | none, _ => s)

/-- PROBE_TIMEOUT: no PROBE_ACK within PROBE_US: the takeover is granted and the attempt rolls back. -/
def execProbeTimeout (ctx : Fin 256) (s : State) : Host.Outcome State Fault Refusal :=
  if !s.awake then .next s else
  let c := ctx.val
  match (s.commit c).probing, (s.commit c).askedBy with
  | some (suspect, asker, t), y =>
    if !s.awake || decide (s.time < t + max 50 (s.fld burPage 0x350 16 16) * 1000) then .next s
    else .next ((match y with | some x => s.acceptReq x (s.flowNow (pktFlow x.pkt)) asker | none => s).grant c suspect asker)
  | none, _ => .next s

/-- GRANT: the survivor takes the dead coordinate and holds it (R364). -/
def execGrant (s : State) : Host.Outcome State Fault Refusal :=
  .next (s.serveGroup 0x0A fun c m _ s => s.takeOver c (m.arg % 2 ^ 13))

/-- MGMT_FENCE: the suspect stops with 0x156 (R352); a fence for a coordinate that this package has taken over is not for it. -/
def execMgmtFence (s : State) : Host.Outcome State Fault Refusal :=
  .next (s.serveMgmt 0x0B fun _ _ o s => if o.tsel then s else (s.stepFatal burPage 0x156).failStop 0x156)

/-- HANDOVER: the survivor streams committed state to the two standbys (R364). -/
def execHandover (s : State) : Host.Outcome State Fault Refusal :=
  .next (s.serveGroup 0x0E fun c m _ s =>
    if s.bur.settee ≠ 2 then s
    else
      let a := m.arg % 2 ^ 13
      let b := m.arg / 2 ^ 13 % 2 ^ 13
      State.stream (s.modBur fun u => { u with settee := 3, streaming := some (BitVec.ofNat 13 a, BitVec.ofNat 13 b) }) c a b)

/-- ASSIGN: a standby learns which coordinate it is to assume (R364). -/
def execAssign (s : State) : Host.Outcome State Fault Refusal :=
  .next (s.serveGroup 0x0F fun c m _ s =>
    if s.bur.settee = 4 then s.modBur fun b => { b with assigned := some (BitVec.ofNat 13 m.arg, c, m.step, m.attempt) } else s)

/-- STANDBY_COPY_DONE: the copy is complete: READY, the coordinate, C and ATTEMPT, and the mirror exchange with the new twin (R364). -/
def execStandbyCopyDone (s : State) : Host.Outcome State Fault Refusal :=
  if !s.awake then .next s else
  match s.bur.assigned with
  | none => .next s
  | some (lc, c, step, attempt) =>
    if !s.awake then .next s
    else
      let s := (s.fillNow (s.commit c).cr.cflow.toNat).toCoord c 0x10 lc.toNat
      let (d, s) := s.draw
      let cv := BitVec.ofNat 64 ((step + 2 ^ 32 - 1) % 2 ^ 32) ||| (Config.freeWord d <<< 32)
      let s := s.setLog 0 13 lc.toNat
      let s := s.modUpe fun u => { u with c := (List.range 4).foldl (fun m st => Tab.set 0 m (st * 256 + c) cv) u.c }
      let s := s.modCle fun u => { u with attempt := (List.range 4).foldl (fun m st => Tab.set 0 m (st * 256 + c) (BitVec.ofNat 8 attempt)) u.attempt }
      let s := s.modBur fun b => { b with settee := 0, assigned := none, beatSeen := true, missed := 0 }
      let s := s.modCommit c fun x => { x with phase := 4 }
      .next ((List.range (s.commit c).cr.nmirror).foldl (fun s k => s.sendCommitted c k) s).pump

/-- MGMT_READY: a standby has assumed its coordinate: it is remapped, and with both the rollback goes on (R364). -/
def execMgmtReady (s : State) : Host.Outcome State Fault Refusal :=
  .next (s.serveGroup 0x10 fun c m _ s =>
    let lc := m.arg % 2 ^ 13
    let x := s.commit c
    match x.dead, x.standby, s.groupOf c with
    | some (d, sv), some i, some g =>
      (match (s.standbyList g)[i]? with
       | some (p, q) =>
         if lc = d ∨ lc = sv then
           let s := s.modCommit c fun x => { x with readies := if x.readies.contains lc then x.readies else x.readies ++ [lc] }
           (s.remapTo lc (if lc = d then p.1 else q.1)).tryReset c
         else s
       | none => s)
    | _, _, _ => s)

/-! ## The end of a rollback (R358) -/

/-- ROLLBACK_QUIESCE_DONE: halt, flow reset, restores and resends are over; a unit without a good copy ends the job (R366). -/
def execRollbackQuiesceDone (ctx : Fin 256) (s : State) : Host.Outcome State Fault Refusal :=
  let c := ctx.val
  let x := s.commit c
  if !s.awake || decide (x.phase ≠ 2) || x.held || !s.rolledDown c then .next s
  else if x.lost then .next (State.selfFatal (s.modCommit c fun x => { x with phase := 6 }) 0x15A (some c))
  else .next (State.toCoord (s.modCommit c fun x => { x with phase := 4 }) c 0x05 0)

/-- QUIESCED: the coordinator waits for every one. -/
def execQuiesced (s : State) : Host.Outcome State Fault Refusal :=
  .next (s.serveGroup 0x05 fun c m from' s =>
    match (s.commit c).decided with
    | some (false, _, st, a) =>
      if s.coordinates c && decide (st = m.step ∧ a = m.attempt) then
        State.tryReset (s.modCommit c fun x => { x with quiescers := if x.quiescers.contains from' then x.quiescers else x.quiescers ++ [from'] }) c
      else s
    | _ => s)

/-- RESET: names the boundary of the restart (phase 5); a survivor that has handed over gives up the coordinate it held (R364). -/
def execReset (s : State) : Host.Outcome State Fault Refusal :=
  .next (s.serveGroup 0x06 fun c m _ s =>
    if (s.commit c).phase ≠ 4 then s
    else
      let k := s.sync.count.toNat + 1
      let r := k + (m.arg + 2 ^ 32 - k % 2 ^ 32) % 2 ^ 32
      let s := s.modCommit c fun x => { x with phase := 5, resetAt := some (BitVec.ofNat 64 r) }
      match s.bur.streaming with
      | some (a, b) =>
        let s := ((s.remapTo s.bur.heldLc.toNat a.toNat).remapTo s.ownLc b.toNat).setLog 26 1 0
        (s.modBur fun b => { b with settee := 1, streaming := none }).event burPage 23
      | none => s)

end Sys2Proof.Machine
end

