-- ==== Sys2Proof/Machine/Sync.lean ====
section
/-! DEFINITION. Rounds: beats, sync cells and boundaries (R319 to R324), and the ageing of margins (R373, R374). -/

namespace Sys2Proof.Machine

/-! ## Fields -/

def State.syncSrc (s : State) : Nat := s.fld burPage 0x300 0 2
def State.periodNs (s : State) : Nat := max 200 (s.fld burPage 0x308 0 16) * 1000
def State.isMaster (s : State) : Bool := decide (s.fld burPage 0x300 2 1 = 1)
def State.isBackup (s : State) : Bool := decide (s.fld burPage 0x300 3 1 = 1) && !s.isMaster
/-- The package originates cells: as the master, or as a backup that has met a missed boundary (R322, R323). -/
def State.originates (s : State) : Bool := s.isMaster || (s.isBackup && s.sync.originating)

/-- The sync flow of the link of a port (R322): the parity is that of the lower end of the link. -/
def State.syncFlow (s : State) (q : Nat) : Nat :=
  let pos := match q / 2 with | 0 => s.posX | 1 => s.posY | _ => s.posZ
  let ring := if q / 2 = 0 then 32 else 16
  let low := if q % 2 = 1 then pos else (pos + ring - 1) % ring
  s.fld burPage 0x308 16 20 / 8 * 8 + 2 * (q / 2) + low % 2

/-! ## Sync cells (R322) -/

/-- A sync cell leaves on a port: it takes the next SEQ, with SEND_LOW beside SEND_NEXT; a flow whose SEQs are used up sends nothing
more (0x124). -/
def State.sendSync (s : State) (q round depth : Nat) (origin : Bool) : State :=
  let f := s.syncFlow q
  let s := s.fillNow f
  let e := s.flowNow f
  if !(s.port q).isUp || !e.valid then s
  else if s.fab.worn.contains f then s.contained burPage 0x124
  else match s.keyOf e with
    | none => s
    | some k =>
      let p := s.build k { pop := 12, flow := f, fgen := e.gen, seq := e.next, epoch := (s.page burPage).epoch.toNat, owner := s.ownLc, target := e.peer,
                           arg := toBytes 8 round ++ toBytes 1 depth ++ [BitVec.ofNat 8 (flag origin)] }
      let s := s.setFlow f { e with w1 := putBits (putBits e.w1 0 32 (e.next + 1)) 32 32 (e.next + 1) }
      let s := if e.next = 0xFFFFFFFF then s.modFab fun x => { x with worn := x.worn ++ [f] } else s
      let s := s.count (keyPage 3) 4
      if 0 < (s.port q).freeCredits 3 0 then s.sendOn q 0 p else s.modFab fun x => { x with held := x.held ++ [(none, p)] }

/-- A cell on every port of FWD_MASK. -/
def State.sendBeats (s : State) (round depth : Nat) (origin : Bool) : State :=
  (List.range 6).foldl (fun s q => if (s.fld burPage 0x300 4 6).testBit q then s.sendSync q round depth origin else s) s

/-- A sync cell is checked for CRC, flow and tag only. -/
def State.openSync (s : State) (x : Inbound) (e : Flow) : Option Opened :=
  match x.port, s.keyOf e with
  | some q, some k =>
    if pktCrc x.pkt ≠ pktSentCrc x.pkt ∨ pktFlow x.pkt ≠ s.syncFlow q ∨ !e.valid ∨ !e.mgmt then none else openAs k x.pkt e.peer e.gen
  | _, _ => none

/-- POP_SYNC: a sync cell becomes the beat of the next round and is forwarded, or is discarded or dropped (R321, R322). -/
def execPopSync (s : State) : Host.Outcome State Fault Refusal :=
  match s.takePkt 12 with
  | (none, s) => .next s
  | (some (x, e), s) =>
    match s.openSync x e with
    | none => .next (s.count burPage 1)
    | some o =>
      let q := x.port.getD 0
      if s.syncSrc < 2 ∨ !(s.fld burPage 0x300 10 6).testBit q then .next s
      else
        let round := ofBytes (o.data.take 8)
        let depth := (o.data.getD 8 0).toNat
        let origin := (o.data.getD 9 0).getLsbD 0
        let next := s.sync.count.toNat + 1
        if !s.sync.resync && (decide (round < next) || (decide (round = next) && s.sync.beat.isSome)) then .next (s.count burPage 0)
        else
          let s := s.modSync fun y =>
            { y with beat := some { time := s.time, src := 2, round := some (BitVec.ofNat 64 round), depth := BitVec.ofNat 8 depth, origin := origin,
                                    port := some q }
                     depth := BitVec.ofNat 8 depth, origin := origin
                     originating := y.originating && origin }
          .next (if s.originates then s else s.sendBeats round ((depth + 1) % 256) origin)

/-- STEP_SYNC_EDGE: a rising edge is the beat of the next round, unless it comes in the first half of a round (R321). -/
def execStepSyncEdge (s : State) : Host.Outcome State Fault Refusal :=
  if !s.awake || decide (s.syncSrc % 2 = 0) then .next s
  else if !s.sync.resync && (decide (s.time < s.sync.last + s.periodNs / 2) || s.sync.beat.isSome) then .next (s.count burPage 0)
  else .next (s.modSync fun y => { y with beat := some { time := s.time, src := 1, round := none } })

/-- SYNC.RESYNC: the next beat is taken at its arrival, and CONSEC becomes 0 (R323). -/
def State.resyncAct (s : State) : State := s.modSync fun y => { y with resync := true, consec := 0, lostOnce := false }

/-! ## Placing a boundary (R319) -/

/-- Where a boundary falls: its time, its source, its fault, the offset of its beat in ns, and the round it starts. -/
structure Placed where
  time   : Nat
  src    : Nat
  fault  : Nat := 0
  off    : Int := 0
  round  : Nat
  late   : Bool := false     -- a beat came after the window and is discarded
  deriving DecidableEq, Repr

/-- The boundary that is due now, if one is. -/
def State.placed (s : State) : Option Placed :=
  let next := s.sync.count.toNat + 1
  let s0 := s.sync.last + s.periodNs
  let w := 64000
  let due (t src fault : Nat) (late : Bool) : Option Placed :=
    if t ≤ s.time then some { time := t, src := src, fault := fault, round := next, late := late } else none
  match s.sync.beat with
  | some b =>
    let off : Int := (b.time : Int) - s0
    let round := match b.round with | some r => r.toNat | none => next
    if s.sync.resync then some { time := b.time, src := b.src, off := off, round := round }
    else if next < round then some { time := b.time, src := b.src, fault := 3, off := off, round := round }
    else if s.syncSrc = 0 ∨ s.originates then due s0 0 0 false
    else if b.time + w < s0 then
      (if s0 ≤ s.time + w then some { time := s0 - w, src := b.src, fault := 2, off := off, round := next } else none)
    else if b.time ≤ s0 + w then some { time := b.time, src := b.src, off := off, round := next }
    else due (s0 + w) 0 1 true
  | none => if s.syncSrc = 0 ∨ s.originates then due s0 0 0 false else due (s0 + w) 0 1 false

/-- OFFSET in units of 0.1 µs, saturated to twelve bits. -/
def offsetField (ns : Int) : BitVec 12 := BitVec.ofInt 12 (max (-2048) (min 2047 (ns / 100)))

/-- A fault of a boundary: its Contained error, event SYNC_FAULT, CONSEC, and SYNC_LOST once at FAULT_LIMIT (R323). -/
def State.syncFault (s : State) (fault : Nat) : State :=
  if fault = 0 then s
  else
    let s := (s.contained burPage (if fault = 1 then 0x120 else if fault = 2 then 0x121 else 0x122)).event burPage 16
    if fault = 3 then s
    else
      let n := min 255 (s.sync.consec.toNat + 1)
      let s := s.modSync fun y => { y with consec := BitVec.ofNat 8 n }
      let s := if max 1 (s.fld burPage 0x300 16 4) ≤ n ∧ s.sync.lostOnce = false then
          ((s.modSync fun y => { y with lostOnce := true }).event burPage 17).stepFatal burPage 0x123
        else s
      if fault = 1 ∧ s.isBackup ∧ s.sync.originating = false then (s.modSync fun y => { y with originating := true }).event burPage 18 else s

/-! ## What a boundary does (R320) -/

/-- Every valid word of the remap table, the Bureau's own entries first (R262, R364). -/
def remapWord (e : BitVec 13 × BitVec 13) : Word :=
  let (x, y, z) := positionOf e.2.toNat
  BitVec.ofNat 64 (e.1.toNat + x * 2 ^ 13 + y * 2 ^ 18 + z * 2 ^ 22 + 2 ^ 26)

/-- The escape table in memory at ESC_BASE. -/
def State.loadEscape (s : State) : State :=
  let base := bits (s.raw (rtrPage 0) 0x120) 0 52
  s.modFab fun f => { f with escape := if hbmBytes < base + 8192 then f.escape else
    (List.range 8192).filterMap fun i => let b := s.mem.byte (base + i); if b = 0 then none else some (i, b) }

/-- The remap table in memory at REMAP_BASE, under the entries that the Bureau has written. -/
def State.loadRemap (s : State) : State :=
  let base := bits (s.raw (rtrPage 0) 0x128) 0 52
  s.modFab fun f => { f with remap := s.bur.remaps.map remapWord ++
    (if base = 0 ∨ hbmBytes < base + 512 then [] else wordsOf 64 (s.peek base 512)) }

/-- Staged writes of the base-die and package blocks take effect, with the tables behind them (R38, R279). -/
def State.applyBoundary (s : State) : State :=
  let m := (s.page (rtrPage 0)).pendMask
  let esc := m.any fun e => decide (e.1 = 0x120 / 8)
  let rem := m.any fun e => decide (e.1 = 0x128 / 8)
  let s := (List.range 53).foldl (fun s i => s.applyStaged (1728 + i)) s
  let due := s.bur.remapDue
  let s := s.modBur fun b => { b with remapDue := [], remaps := due.foldl (fun l e => e :: l.filter fun x => decide (x.1 ≠ e.1)) b.remaps }
  let s := if esc then s.loadEscape else s
  let s := if rem || !due.isEmpty then s.loadRemap else s
  if esc || rem || !due.isEmpty then s.retryHeld else s

/-- Keys that were unwrapped replace the old ones in all four KEY blocks (R339). -/
def State.installKeys (s : State) : State :=
  let s := s.key.arriving.foldl (fun s k => match k.1 with
    | none => ((s.modKey fun y => { y with mgmt := some k.2 }).event (keyPage 0) 5).count (keyPage 0) 9
    | some c => ((s.modKey fun y => { y with keys := Tab.set none y.keys c (some k.2) }).event (keyPage 0) 5).count (keyPage 0) 9 (some c)) s
  s.modKey fun y => { y with arriving := [] }

/-- Commits and rollbacks that are due (R354, R358). -/
def State.commitsDue (s : State) : State :=
  let s := (s.bur.commits.map Prod.fst).foldl (fun s c => if (s.commit c).commitDue then s.commitAt c else s) s
  (s.bur.commits.map Prod.fst).foldl (fun s c => match (s.commit c).resetAt with
    | some r => if (s.commit c).phase = 5 ∧ r.toNat ≤ s.sync.count.toNat then s.rollbackAt c else s
    | none => s) s

/-! ## Ageing (R373, R374) -/

/-- Slack fields of a TMON page, in ps. -/
def State.slackMin (s : State) (t : Nat) : Int := (BitVec.ofNat 16 (s.fld (tmonPage t) 0x108 16 16)).toInt
def State.slackNow (s : State) (t : Nat) : Int := (BitVec.ofNat 16 (s.fld (tmonPage t) 0x108 0 16)).toInt
def State.offsetOf (s : State) (q : Nat) : Nat := Tab.get 0 s.pkg.offsets q

/-- The lowest of some readings. -/
def lowest : List Int → Int
  | [] => 0
  | [x] => x
  | x :: xs => min x (lowest xs)

/-- The steps that a quad's offset rises by, with the readings that are left and the last slack (R374). -/
def raiseOffset (guard : Int) : Nat → Nat → Int → List Int → Nat × Int × List Int
  | 0, off, sl, rs => (off, sl, rs)
  | n + 1, off, sl, rs => if sl < guard ∧ off < 24 then raiseOffset guard n (off + 1) (rs.headD 0) rs.tail else (off, sl, rs)

/-- One quad is re-planned. At power-up its slack is measured first, and its offset is the lowest that meets GUARD_PS + BAND_PS. -/
def State.replanQuad (s : State) (up : Bool) (q : Nat) (rs : List Int) : List Int × State :=
  if !s.pkg.powered.getLsbD q then (rs, s)
  else
    let guard : Int := s.fld agePage 0x100 0 8
    let goal : Int := if up then guard + s.fld agePage 0x100 8 8 else guard
    let old := if up then 0 else s.offsetOf q
    let first := if up then rs.headD 0 else lowest ((quadTiles q).map s.slackMin)
    let (off, sl, rs) := raiseOffset goal 24 old first (if up then rs.tail else rs)
    let s := (s.modPkg fun p => { p with offsets := Tab.set 0 p.offsets q off }).count agePage 1 none (off - old)
    let s := (quadTiles q).foldl (fun s t => s.setFld (tmonPage t) 0x108 16 16 (s.fld (tmonPage t) 0x108 0 16)) s
    if sl < guard then
      (rs, (((s.modPkg fun p => { p with ageStep := Tab.mod 0 p.ageStep q (fun n => min 7 (n + 1)) }).count agePage 3).event agePage 5).contained agePage 0x141)
    else (rs, s)

/-- The hours of operation of a package time. -/
def hoursOf (ns : Nat) : Nat := ns / 3600000000000

/-- The ageing drawer re-plans every quad. -/
def State.replanAll (s : State) (rs : List Int) (up : Bool := false) : State :=
  let (_, s) := (List.range 48).foldl (fun (r : List Int × State) q => r.2.replanQuad up q r.1) (rs, s)
  let top := (List.range 48).foldl (fun m q => max m (s.offsetOf q)) 0
  let s := s.modPkg fun p => { p with ageIndex := 1000 * top / 24, ageLastH := hoursOf s.time }
  ((s.modSync fun y => { y with replanDue := false }).count agePage 0).event agePage 4

/-- REPLAN_TIMER: 24 hours of operation have passed since the last re-plan. -/
def execReplanTimer (s : State) : Host.Outcome State Fault Refusal :=
  if s.awake && decide (s.pkg.ageLastH + 24 ≤ hoursOf s.time) then .next (s.modSync fun y => { y with replanDue := true }) else .next s

/-- SLACK_SAMPLE: the monitors of a tile are read; a reading below the alarm raises its quad's offset at once (R373, R374). -/
def execSlackSample (t : Fin 192) (ps : Int) (s : State) : Host.Outcome State Fault Refusal :=
  let t := t.val
  let q := quadOf t
  let pg := tmonPage t
  if !s.tileRuns t then .next s
  else
    let low := min ps (s.slackMin t)
    let s := (s.setFld pg 0x108 0 16 (BitVec.ofInt 16 ps).toNat).setFld pg 0x108 16 16 (BitVec.ofInt 16 low).toNat
    let alarm : Int := min (s.fld agePage 0x100 16 8) (s.fld agePage 0x100 0 8)
    if alarm ≤ ps then .next s
    else
      let s := (((s.count pg 5).event pg 7).note pg 0x115 (s.ctxOf t)).count agePage 2
      if s.offsetOf q < 24 then
        .next (((s.modPkg fun p => { p with offsets := Tab.mod 0 p.offsets q (· + 1) }).count agePage 1).note agePage 0x140)
      else .next s

/-! ## The boundary -/

/-- ROUND_BOUNDARY: the boundary that is due is placed; beats are originated, the round counted, staged writes, keys, commits and
rollbacks applied, and a re-plan that is due carried out (R319, R320, R339, R374). -/
def execRoundBoundary (slacks : List Int) (s : State) : Host.Outcome State Fault Refusal :=
  if !s.awake then .next s
  else match s.placed with
    | none => .next s
    | some b =>
      let s := if s.originates then s.sendBeats b.round 1 (!s.isMaster) else s
      let s := s.modSync fun y =>
        { y with last := b.time, count := BitVec.ofNat 64 b.round, beat := none, resync := if y.beat.isSome then false else y.resync
                 lastSrc := BitVec.ofNat 2 b.src, offset := if b.src = 0 then 0 else offsetField b.off, fault := BitVec.ofNat 2 b.fault
                 consec := if b.src ≠ 0 ∧ b.fault = 0 then 0 else y.consec
                 lostOnce := if b.src ≠ 0 ∧ b.fault = 0 then false else y.lostOnce }
      let s := (if b.late then s.count burPage 0 else s).syncFault b.fault
      let s := (s.applyBoundary.installKeys).commitsDue
      .next (if s.sync.replanDue then s.replanAll slacks else s)

end Sys2Proof.Machine
end

