-- ==== Sys2Proof/Machine/Boot.lean ====
section
/-! DEFINITION. Bring-up: the stages, boot flash with its configuration block, patches and Workbench packs, the Workbench run, and
the reset scopes (R335, R369 to R372, R382, R400 to R404, R431). -/

namespace Sys2Proof.Machine

/-! ## Boot flash (R402, R403) -/

/-- One byte of the flash array: what the device has written, or what the flash holds of itself. -/
def State.flashAt (s : State) (a : Nat) : Byte := (Tab.get none s.host.flash a).getD (Config.flashByte a)
def State.flashRead (s : State) (a n : Nat) : List Byte := (List.range n).map fun i => s.flashAt (a + i)
def putFlash : Tab (Option Byte) → Nat → List Byte → Tab (Option Byte)
  | m, _, [] => m
  | m, a, b :: bs => putFlash (Tab.set none m a (some b)) (a + 1) bs
def State.flashWrite (s : State) (a : Nat) (d : List Byte) : State := s.modHost fun h => { h with flash := putFlash h.flash a d }

/-- Bytes [lo, lo + n) of a record, as a number. -/
def recNum (d : List Byte) (lo n : Nat) : Nat := ofBytes ((d.drop lo).take n)

def patchBase : Nat := 0x100000
def patchRoom : Nat := 0x100000
def packBase (slot : Bool) : Nat := if slot then 0x5000000 else 0x1000000
def packRoom : Nat := 0x4000000
def sigBytes : Nat := 7856

/-! ## Access list (R382) -/

/-- Access-list entry i, from its 64 bytes: it opens a session, or none; a bad entry raises 0x160. An unchanged entry keeps its
session; a changed one ends it, and the channels that the session bound become unbound (R391). -/
def State.loadEntry (s : State) (i : Nat) (d : List Byte) : State :=
  let w2 := BitVec.ofNat 64 (recNum d 16 8)
  let prov := w2.getLsbD 9
  let ctx := bits w2 10 8
  let bad := decide (bits w2 18 46 ≠ 0 ∨ recNum d 24 8 ≠ 0 ∨ 128 < bits w2 0 8) || (!prov && (s.checkDesc ctx).isNone)
  let entry : Session :=
    if w2.getLsbD 8 && !bad then
      { valid := true, prov := prov, ctx := ctx, pfx := BitVec.ofNat 128 (recNum d 0 16), plen := bits w2 0 8
        key := BitVec.ofNat 256 (ofBytesBE ((d.drop 32).take 32)) }
    else {}
  let old := s.session i
  let s := if w2.getLsbD 8 && bad then s.contained (henPage 0) 0x160 else s
  if old.valid = entry.valid ∧ old.prov = entry.prov ∧ old.ctx = entry.ctx ∧ old.pfx = entry.pfx ∧ old.plen = entry.plen
      ∧ old.key = entry.key then s
  else
    (s.modSession i fun _ => entry).modHost fun h =>
      { h with chans := Tab.mapVals {} h.chans fun _ c => if c.bound ∧ c.sess = i then {} else c }

/-! ## Configuration block (R403) -/

def asciiBytes (t : String) : List Byte := t.toList.map fun c => BitVec.ofNat 8 c.toNat

/-- A copy of the configuration block is good. -/
def cfgGood (d : List Byte) : Bool :=
  decide (d.take 4 = asciiBytes "GVPC" ∧ recNum d 4 2 = 1 ∧ recNum d 252 4 = (crc32c (d.take 252)).toNat)

/-- The copy in use: its number and bytes. -/
def State.cfgCopy (s : State) : Option (Bool × List Byte) :=
  let c0 := s.flashRead 0 256
  let c1 := s.flashRead 0x8000 256
  if cfgGood c0 then some (false, c0) else if cfgGood c1 then some (true, c1) else none

/-- The addresses of both host ports, which the hardware takes from flash (R398, R403). -/
def State.loadNet (s : State) (d : List Byte) : State :=
  let mac := ofBytesBE ((d.drop 8).take 6)
  let ip := ofBytesBE ((d.drop 16).take 16)
  (List.range 2).foldl (fun s q =>
    let a := if q = 0 then ip else if ip % 2 = 0 then ip + 1 else ip - 1
    ((s.setRaw (henPage q) 0x108 (BitVec.ofNat 64 ((mac + q) % 2 ^ 48))).setRaw (henPage q) 0x110 (BitVec.ofNat 64 a)).setRaw
      (henPage q) 0x118 (BitVec.ofNat 64 (a / 2 ^ 64))) s

/-- Everything that the block gives at power-up: addresses, VLAN, UDP port and access-list entry 0 (R403). -/
def State.loadConfig (s : State) (d : List Byte) : State :=
  let port := if recNum d 32 2 = 0 then 50210 else recNum d 32 2
  let s := (List.range 2).foldl (fun s q =>
    (s.setFld (henPage q) 0x120 30 12 (recNum d 14 2 % 2 ^ 12)).setFld (henPage q) 0x120 0 16 port) (s.loadNet d)
  s.loadEntry 0 ((d.drop 64).take 64)

/-! ## Signed images (R335, R370, R404) -/

/-- Signature, root and security version of an image are in order (R335). -/
def imageOk (signer svn floor : Nat) (signed sig : List Byte) : Bool :=
  decide (signer < 4) && !Config.rootRevoked signer && Config.sigValid signer signed sig && decide (floor ≤ svn)

/-- A patch or pack is refused (R335): 0x104 and SIG_FAIL. -/
def State.sigFail (s : State) : State := (s.contained (keyPage 0) 0x104).event (keyPage 0) 7

/-- A byte string starts with a patch header. -/
def patchMagic (d : List Byte) : Bool := decide (d.take 4 = asciiBytes "GVFP")
/-- The bytes of a patch image: header, body, signature. -/
def patchLen (d : List Byte) : Nat := 64 + recNum d 12 4 + sigBytes
/-- A patch image passes (R404). -/
def patchOk (d : List Byte) : Bool :=
  let n := recNum d 12 4
  patchMagic d && decide (recNum d 4 2 = 1 ∧ recNum d 6 2 = 0x4192 ∧ recNum d 18 14 = 0
      ∧ d.length = patchLen d ∧ sha256 ((d.drop 64).take n) = (d.drop 32).take 32)
    && imageOk (d.getD 16 0).toNat (recNum d 8 4) Config.fwFloor (d.take 64) (d.drop (64 + n))

/-- The next 4 KiB boundary. -/
def up4k (a : Nat) : Nat := (a + 4095) / 4096 * 4096

/-- Where the images of the patch slot end: past the last header that carries the MAGIC. -/
def State.patchEnd (s : State) : Nat → Nat → Nat
  | 0, a => a
  | f + 1, a =>
    let h := s.flashRead a 64
    if a + 64 ≤ patchBase + patchRoom ∧ patchMagic h then s.patchEnd f (up4k (a + patchLen h)) else a

/-- The patches are loaded in slot order up to the first that is refused or missing (R404). -/
def State.loadPatches : Nat → Nat → State → State
  | 0, _, s => s
  | f + 1, a, s =>
    let h := s.flashRead a 64
    if ¬(a + 64 ≤ patchBase + patchRoom) ∨ !patchMagic h then s
    else if a + patchLen h ≤ patchBase + patchRoom ∧ patchOk (s.flashRead a (patchLen h)) then
      State.loadPatches f (up4k (a + patchLen h)) (s.modPkg fun p =>
        { p with patches := p.patches + 1
                 patchHash := BitVec.ofNat 256 (ofBytesBE (sha256 (toBytesBE 32 p.patchHash.toNat ++ (h.drop 32).take 32))) })
    else s.sigFail

/-- What a Workbench pack fails by (R370): none passes it. -/
def packCode (d : List Byte) : Option Nat :=
  let n := recNum d 16 4
  let items := recNum d 24 4
  let body := (d.drop 256).take n
  let headBad := decide (d.take 4 ≠ asciiBytes "GVWB" ∨ recNum d 4 2 ≠ 1 ∨ recNum d 6 2 ≠ 0x4192 ∨ 20000 < recNum d 20 4
    ∨ recNum d 29 3 ≠ 0 ∨ recNum d 64 192 ≠ 0 ∨ d.length ≠ 256 + n + sigBytes ∨ n < 64 * items
    ∨ sha256 body ≠ (d.drop 32).take 32)
  let itemBad (k : Nat) : Bool :=
    let h := (body.drop (64 * k)).take 64
    decide (4 < recNum h 0 1 ∨ recNum h 1 7 ≠ 0 ∨ recNum h 28 4 ≠ 0 ∨ n < recNum h 8 8 + recNum h 16 8)
  if headBad then some 0x132
  else if !imageOk (recNum d 28 1) (recNum d 12 4) Config.packFloor (d.take 256) (d.drop (256 + n)) then some 0x104
  else if (List.range items).any itemBad then some 0x132
  else none

/-- A pack is refused: 0x104 and SIG_FAIL, or 0x132; PACK_REFUSED either way (R370, R377). -/
def State.packRefuse (s : State) (code : Nat) : State :=
  ((if code = 0x104 then s.sigFail else s.contained tstPage code).event tstPage 6).count tstPage 4

/-- The pack in a slot, where one starts there. -/
def State.packIn (s : State) (slot : Bool) : Option (List Byte) :=
  let h := s.flashRead (packBase slot) 256
  let n := 256 + recNum h 16 4 + sigBytes
  if h.take 4 = asciiBytes "GVWB" ∧ n ≤ packRoom then some (s.flashRead (packBase slot) n) else none

/-- The verified pack of a slot; a pack that fails is refused. -/
def State.verified (s : State) (slot : Bool) : Option (List Byte) × State :=
  match s.packIn slot with
  | none => (none, s)
  | some d => match packCode d with
    | none => (some d, s)
    | some c => (none, s.packRefuse c)

/-- The verified pack with the highest PACK_VER begins to run (R371, R372); with none, nothing runs. -/
def State.startPack (s : State) : State :=
  let (a, s) := s.verified false
  let (b, s) := s.verified true
  let pick : Option (Bool × List Byte) := match a, b with
    | none, none => none
    | some d, none => some (false, d)
    | none, some d => some (true, d)
    | some d, some e => if recNum d 8 4 < recNum e 8 4 then some (true, e) else some (false, d)
  match pick with
  | none => s
  | some (slot, d) =>
    ((s.modPkg fun p => { p with testing := true, packSlot := slot, packHash := BitVec.ofNat 256 (ofBytesBE (sha256 d)) }).setRaw
      tstPage 0x108 (BitVec.ofNat 64 (recNum d 8 4 + recNum d 12 4 * 2 ^ 32))).setFld tstPage 0x100 2 2 1

/-! ## The Workbench run (R371, R372, R377) -/

/-- The domains of failed units are off, with their ON bits clear (R371, R406). -/
def State.offFailed (s : State) : State :=
  (List.range 72).foldl (fun s d =>
    if s.mayOn d then s
    else ((s.setFld pwrPage (onPlace d).1 (onPlace d).2 1 0).modPkg fun p => { p with powered := p.powered &&& ~~~(1#72 <<< d) }).blankDom d) s

/-- A run ends: its marks stand on the TST page, failed units lose their domains, and every quad is left cleared. -/
def State.endPack (s : State) (any hbm late : Bool) : State :=
  let s := (List.range 192).foldl State.clearTile (s.modPkg fun p => { p with testing := false })
  let s := (s.setFld tstPage 0x100 2 2 (if any then 3 else 2)).offFailed
  let s := if any then (s.contained tstPage 0x130).event tstPage 5 else s
  let s := if hbm then s.contained tstPage 0x131 else s
  let s := if late then s.contained tstPage 0x133 else s
  ((s.event tstPage 4).count tstPage 0).drained tstPage

/-- PACK_DONE: a Workbench run ends and its units are marked (R371). -/
def execPackDone (r : PackResult) (s : State) : Host.Outcome State Fault Refusal :=
  if s.awake && s.pkg.testing then
    let s := (s.setRaw tstPage 0x110 (r.quadFail.setWidth 64)).setRaw tstPage 0x118 (r.quadUntested.setWidth 64)
    let s := s.setRaw tstPage 0x120 (BitVec.ofNat 64 (r.hbmFail.toNat + r.hbmRepaired.toNat * 2 ^ 16 + r.mscFail.toNat * 2 ^ 32
      + r.portFail.toNat * 2 ^ 40))
    let s := s.setRaw tstPage 0x128 (BitVec.ofNat 64 (r.elapsedMs.toNat + r.itemsRun.toNat * 2 ^ 32))
    let s := ((s.count tstPage 1 none r.itemsRun.toNat).count tstPage 2 none r.itemsFailed).count tstPage 3 none r.rowsRepaired
    let any := decide (r.quadFail ≠ 0 ∨ r.quadUntested ≠ 0 ∨ r.hbmFail ≠ 0 ∨ r.mscFail ≠ 0 ∨ r.portFail ≠ 0)
    .next (s.endPack any (decide (r.hbmFail ≠ 0)) r.overBudget)
  else .next s

/-- A write of TST.RUN (R372): accepted only while the package is quiesced and no quad has a resident context. -/
def State.tstRunAct (s : State) : State :=
  if s.pkgQuiesced && !s.pkg.testing && (List.range 48).all (fun q => (Tab.get none s.key.owner q).isNone) then s.startPack
  else s.reject tstPage 0x100

/-- A write of TST.ABORT ends a run; which quads had not been tested is a free value (R377). -/
def State.tstAbortAct (s : State) : State :=
  if s.pkg.testing then
    let (k, s) := s.draw
    let left := (Config.freeWord k).setWidth 48
    (s.setRaw tstPage 0x118 (left.setWidth 64)).endPack (decide (left ≠ 0)) false false
  else s

/-! ## Stages (R400) -/

/-- Bring-up stops in FAILED (R400): the cause in BOOT.CODE, every switched domain off. -/
def State.failBoot (s : State) (code : Nat) : State :=
  let s := (s.packageFatal burPage code).modBur fun b => { b with fatals := b.fatals.dropLast }
  (s.modPkg fun p => { p with stage := 0xF0, bootCode := BitVec.ofNat 12 code, powered := 0, switching := [], testing := false }).event burPage 5

/-- The fault-free escape entry of one dimension (R269): output port towards a coordinate, and the class. A packet leaves on E1 on
the wrap link; it leaves on E0 where no packet can have crossed the wrap link of this dimension before, and keeps its class
where one may have. -/
def escapeDim (dim size here there : Nat) : Nat :=
  let f := (there + size - here) % size
  if f ≤ size / 2 then
    2 * dim + 1 + 8 * (if here = size - 1 then 1 else if there < size / 2 ∧ here ≤ there then 0 else 2)
  else
    2 * dim + 8 * (if here = 0 then 1 else if size / 2 < there ∧ there ≤ here then 0 else 2)

/-- The fault-free escape table at a position: dimension order x, then y, then z. -/
def escapeByte (x y z i : Nat) : Byte :=
  let dx := i / 256
  let dy := i / 16 % 16
  let dz := i % 16
  BitVec.ofNat 8 (if dx ≠ x then escapeDim 0 32 x dx else if dy ≠ y then escapeDim 1 16 y dy else if dz ≠ z then escapeDim 2 16 z dz else 0)

def escapeTable (x y z : Nat) : Tab Byte :=
  (List.range 8192).filterMap fun i => if escapeByte x y z i = 0 then none else some (i, escapeByte x y z i)

/-- Stage FABRIC at power-up: position from the straps, the coordinate equal to it, and the fault-free escape table at ESC_BASE and in
force. -/
def State.placeFabric (s : State) : State :=
  let p := s.pkg.straps.toNat
  let x := p % 32
  let y := p / 32 % 16
  let z := p / 512 % 16
  let s := (List.range 4).foldl (fun s st =>
    (s.setRaw (rtrPage st) 0x110 (BitVec.ofNat 64 p)).setFld (rtrPage st) 0x118 0 13 (coordOf x y z)) s
  let base := bits (s.raw (rtrPage 0) 0x120) 0 52
  let s := s.modMem fun m => m.put base ((List.range 8192).map (escapeByte x y z))
  s.modFab fun f => { f with escape := escapeTable x y z }

/-- The six torus ports train (R261, R400). -/
def State.trainPorts (s : State) : State :=
  (List.range 6).foldl (fun s q => if (s.port q).state = .down then s.modPort q fun x => { x with state := .training } else s) s

def State.setStage (s : State) (n : Nat) : State := s.modPkg fun p => { p with stage := BitVec.ofNat 8 n }

/-- Stage FLASH: flash parameters, the configuration block at power-up, and the patches (R400, R402 to R404). After a warm reset
the host ports take the addresses and entry 0 again that flash gave at power-up. -/
def State.stageFlash (s : State) (sfdpOk : Bool) : State :=
  if !sfdpOk then s.failBoot 0x173
  else
    let patches (s : State) : State := (State.loadPatches 256 patchBase s).setStage (if s.pkg.warm then 6 else 3)
    match s.cfgCopy with
    | none => if s.pkg.warm then patches s else s.failBoot 0x174
    | some (second, d) =>
      if s.pkg.warm then patches ((s.loadNet d).loadEntry 0 ((d.drop 64).take 64))
      else
        let s := (s.modPkg fun p => { p with cfgCopy := second }).loadConfig d
        patches (if second then s.raise burPage 1 0x170 else s)

/-- BRINGUP_STAGE: the stage's work is done and the next begins, or bring-up fails (R400). -/
def execBringupStage (i : StageInput) (s : State) : Host.Outcome State Fault Refusal :=
  let n := s.pkg.stage.toNat
  if !s.awake ∨ n = 0 ∨ 7 ≤ n ∨ s.pkg.testing then .next s
  else if !i.ok then .next (s.failBoot 0x171)
  else match n with
    | 1 =>
      .next ((s.modPkg fun p => { p with bootId := i.bootId, stage := 2 }).modHost fun h =>
        { h with sessions := Tab.mapVals {} h.sessions fun _ x =>
            { valid := x.valid, prov := x.prov, ctx := x.ctx, pfx := x.pfx, plen := x.plen, key := x.key } })
    | 2 => .next (s.stageFlash i.sfdpOk)
    | 3 => .next ((s.modPkg fun p => { p with powered := BitVec.allOnes 72, stage := 4 }).startPack)
    | 4 => .next (s.setStage 5)
    | 5 => .next ((s.replanAll i.slacks true).setStage 6)
    | _ => .next ((((if s.pkg.warm then s else s.placeFabric).trainPorts).modPkg fun p => { p with stage := 7, warm := false }).event burPage 4)

/-- STRAP_SAMPLE: the second sample of the straps (R401). -/
def execStrapSample (straps : BitVec 13) (s : State) : Host.Outcome State Fault Refusal :=
  if s.awake && decide (1 ≤ s.pkg.stage.toNat ∧ s.pkg.stage.toNat < 7) && !s.pkg.strapped then
    let s := s.modPkg fun p => { p with strapped := true }
    if straps = s.pkg.straps then .next s else .next (s.failBoot 0x172)
  else .next s

/-! ## Resets (R369, R431) -/

/-- What a power cycle or a PORST_N assertion leaves (R369, R431): fuses and flash, and the pins. -/
def State.powerCycled (s : State) (on trip : Bool) : State :=
  { State.reset with
    draws := s.draws, out := s.out, pending := s.pending
    host := { flash := s.host.flash, bound := s.host.bound }
    pkg := { powerOn := on, thermtrip := trip, freezeLow := s.pkg.freezeLow } }

/-- PORST_N_ASSERT: PORST_N has been low for 10 µs (R431). -/
def execPorstNAssert (s : State) : Host.Outcome State Fault Refusal := .next (s.powerCycled s.pkg.powerOn s.pkg.thermtrip)

/-- PORST_N_RELEASE: the rails are good, package time starts, the straps are sampled and bring-up begins (R400, R401, R408). A
FREEZE_N held low since before must first return high (R432). -/
def execPorstNRelease (straps : BitVec 13) (s : State) : Host.Outcome State Fault Refusal :=
  if s.pkg.porst then
    .next { s with time := 0, pkg := { s.pkg with porst := false, powerOn := true, stage := 1, straps := straps, strapped := false
                                                  freezeOk := !s.pkg.freezeLow } }
  else .next s

/-- POWER_REMOVED: every state ends but fuses and flash, and the THERMTRIP_N latch is released (R431). -/
def execPowerRemoved (s : State) : Host.Outcome State Fault Refusal := .next (s.powerCycled false false)

/-- The words of a router page that a warm reset keeps: the logical identity (R369). -/
def routerKept : List Nat := [0x110, 0x118, 0x120, 0x128, 0x130]

/-- The page of a block after a warm reset (R369). -/
def Page.warm (n : Nat) (p : Page) : Page :=
  let r := p.reset n
  let keep := match blockOf n with
    | .rtr => routerKept
    | .pwr => [0x100, 0x108]
    | _ => []
  { r with words := keep.foldl (fun ws o => Tab.set 0 ws (o / 8) (Tab.get 0 p.words (o / 8))) r.words, savedEnable := none, readyFlows := [] }

/-- PKG.WARM_RESET while PKG.QUIESCED = 1 (R369): every block resets; HBM contents, C and ATTEMPT of every context, QUARANTINED and the
logical identity stay; contexts must be switched in again; bring-up restarts from ROM. -/
def State.warmResetAct (s : State) : State :=
  if !s.pkgQuiesced then s.reject burPage 0x370
  else
    let s := (s.fab.cache.filterMap fun e => e.2.map fun x => (e.1, x)).foldl (fun s e => s.writeBackFlow e.1 e.2) s
    let s := (List.range 4).foldl (fun s d => s.modMem fun m => m.onLines d (fun _ => true) Mem.evict) s
    { s with
      pages := (List.range 1781).foldl (fun ps n => Tab.mod {} ps n (Page.warm n)) s.pages
      tiles := []
      mem := { hbm := s.mem.hbm, delta := s.mem.delta, lines := s.mem.lines, clock := s.mem.clock }
      fab := { escape := s.fab.escape, remap := s.fab.remap, worn := s.fab.worn }
      sbd := {}
      upe := { c := s.upe.c }
      cle := { attempt := s.cle.attempt }
      key := { saved := s.key.saved, pages := s.key.pages, inbox := s.key.inbox }
      bur := { quarantined := s.bur.quarantined, settee := s.bur.settee, heldLc := s.bur.heldLc, remaps := s.bur.remaps }
      sync := {}
      host := { flash := s.host.flash, bound := s.host.bound }
      pkg := { s.pkg with stage := 1, warm := true, bootCode := 0, patches := 0, patchHash := 0, bootId := 0, testing := false
                          capHot := 0, capOnce := false } }

end Sys2Proof.Machine
end

