-- ==== Sys2Proof/Machine/Power.lean ====
section
/-! DEFINITION. Power, heat, rails, the reference clock, FREEZE_N and the host links (R380, R409 to R414, R424, R425, R432). -/

namespace Sys2Proof.Machine

/-! ## Frequency steps and the power cap (R410, R411) -/

/-- PWR.LIMIT_W as it acts (R418). -/
def State.limitW (s : State) : Nat := max 600 (min 2400 (s.fld pwrPage 0x110 0 12))
/-- The power-cap step. -/
def State.capStep (s : State) : Nat := s.fld pwrPage 0x110 12 3
/-- The thermal step of a die stack. -/
def State.dieStep (s : State) (st : Nat) : Nat := s.fld thmPage 0x110 (3 * st) 3

/-- The effective frequency step of a quad: the largest of its four contributions (R410). -/
def State.effStep (s : State) (q : Nat) : Nat :=
  max (max (s.fld pwrPage (0x180 + 8 * (q / 8)) (8 * (q % 8)) 3) s.capStep) (max (s.dieStep (q / 12)) (min 7 (Tab.get 0 s.pkg.ageStep q)))

/-- The next cap step (R411). -/
def nextCap (limit cap p : Nat) : Nat :=
  if limit < p ∧ cap < 7 then cap + 1 else if p + 50 < limit ∧ 0 < cap then cap - 1 else cap

/-- POWER_CAP_TICK: the 1 ms average power is compared with LIMIT_W (R411). It is also the millisecond's energy in mJ; whole joules are
counted (R418). -/
def execPowerCapTick (avgW : Nat) (s : State) : Host.Outcome State Fault Refusal :=
  if !s.awake then .next s
  else
    let now := min 4095 avgW
    let s := (s.setFld pwrPage 0x118 0 12 now).setFld pwrPage 0x118 16 12 (max (bits (s.raw pwrPage 0x118) 16 12) now)
    let old := s.capStep
    let cap := nextCap s.limitW old avgW
    let s := if cap = old then s
      else (((s.setFld pwrPage 0x110 12 3 cap).count pwrPage (if old < cap then 0 else 1)).note pwrPage 0x180).event pwrPage 4
    let hot := if old = 7 ∧ s.limitW < avgW then s.pkg.capHot + 1 else 0
    let s := (s.count pwrPage 4 none ((s.pkg.energyMj + avgW) / 1000)).modPkg fun p =>
      { p with capHot := hot, capOnce := p.capOnce && decide (cap = 7), energyMj := (p.energyMj + avgW) % 1000 }
    if 100 ≤ hot ∧ !s.pkg.capOnce then .next ((s.modPkg fun p => { p with capOnce := true }).contained pwrPage 0x181)
    else .next s

/-! ## Die temperature (R412) -/

/-- DIE_THROTTLE, DIE_CRIT and HYST as they act (R419). -/
def State.dieThrottle (s : State) : Nat := min 110 (s.fld thmPage 0x100 0 8)
def State.dieCrit (s : State) : Nat := max (min 120 (s.fld thmPage 0x100 8 8)) (s.dieThrottle + 10)
def State.dieHyst (s : State) : Nat := max 1 (s.fld thmPage 0x100 16 4)

/-- The next thermal step of a die stack (R412). -/
def nextDieStep (thr hyst step t : Nat) : Nat :=
  if thr ≤ t ∧ step < 7 then step + 1 else if t + hyst < thr ∧ 0 < step then step - 1 else step

/-- DIE_THERMAL_SAMPLE: the hottest sensor of a die stack (R412). -/
def execDieThermalSample (stack : Fin 4) (hottest : Nat) (s : State) : Host.Outcome State Fault Refusal :=
  if !s.awake then .next s
  else
    let old := s.dieStep stack
    let k := nextDieStep s.dieThrottle s.dieHyst old hottest
    let s := if old = 0 then s else s.count thmPage (2 + stack.val)
    let s := s.setFld thmPage 0x108 (8 * stack.val) 8 (min 255 hottest)
    let s := if k = old then s
      else (((s.setFld thmPage 0x110 (3 * stack.val) 3 k).count thmPage (if old < k then 0 else 1)).note thmPage 0x190).event thmPage 4
    if s.dieCrit ≤ hottest then .next (s.trip.fatalStop thmPage 0x191) else .next s

/-! ## Rails and REFCLK (R409, R425) -/

/-- RAIL_SAMPLE: one rail against R424, outside its transient tolerance for more than 20 µs where it is not in range (R425). A rail
out of range during a freeze is not detected (R435). -/
def execRailSample (r : Rail) (l : RailLevel) (s : State) : Host.Outcome State Fault Refusal :=
  match l with
  | .aboveAbsMax => .fault (.beyondAbsoluteMaximum r)
  | .inRange => .next s
  | .below =>
    if s.pkg.porst || !s.pkg.powerOn || s.pkg.frozen then .next s
    else (match r with
      | .vddBase | .vddIo => .next (s.powerCycled s.pkg.powerOn s.pkg.thermtrip)
      | .vinQ | .vddaSd | .vddhSd | .vppHbm | .vddHbm | .vddqHbm => .next (s.fatalStop pwrPage 0x182))
  | .above =>
    if s.pkg.porst || !s.pkg.powerOn || s.pkg.frozen then .next s
    else (match r with
      | .vddBase | .vddIo => .next s
      | .vinQ | .vddaSd | .vddhSd | .vppHbm | .vddHbm | .vddqHbm => .next (s.fatalStop pwrPage 0x182))

/-- REFCLK_LOSS: a Package-fatal error, and the package fail-stops (R409); no effect while PORST_N is asserted (R435). -/
def execRefclkLoss (s : State) : Host.Outcome State Fault Refusal :=
  if s.awake then .next (s.fatalStop pwrPage 0x183) else .next s

/-! ## FREEZE_N (R413, R414, R432) -/

/-- FREEZE_N_ASSERT: every clock stops and everything holds its value; ignored while PORST_N is asserted, and until the input has been
high since its release (R413, R432). -/
def execFreezeNAssert (s : State) : Host.Outcome State Fault Refusal :=
  let s := s.modPkg fun p => { p with freezeLow := true }
  if s.pkg.porst || !s.pkg.powerOn || !s.pkg.freezeOk || s.pkg.frozen then .next s
  else
    let arm := (s.raw lctPage 0x100).getLsbD 0
    .next ((s.modPkg fun p => { p with frozen := true, armed := p.armed || arm, freezeAt := s.time }).count lctPage 0)

/-- FREEZE_N_RELEASE: the clocks restart into the fail-stop, with 0x1A0 (R414). -/
def execFreezeNRelease (s : State) : Host.Outcome State Fault Refusal :=
  let s := s.modPkg fun p => { p with freezeLow := false, freezeOk := p.freezeOk || !p.porst }
  if s.pkg.frozen then .next ((s.modPkg fun p => { p with frozen := false }).fatalStop lctPage 0x1A0) else .next s

/-! ## Host links (R380, R398) -/

/-- The host port works: powered, out of reset and not frozen. -/
def State.portLive (s : State) : Bool := !s.pkg.porst && s.pkg.powerOn && !s.pkg.frozen && decide (1 ≤ s.pkg.stage.toNat)

/-- LINK.STATE of a host port. -/
def State.linkState (s : State) (q : Nat) : Nat := Tab.get 0 s.host.linkUp q
def State.setLink (s : State) (q n : Nat) : State := s.modHost fun h => { h with linkUp := Tab.set 0 h.linkUp q n }

/-- A host port's link goes down: event LINK_DOWN and the Note 0x162. -/
def State.hostDown (s : State) (q : Nat) : State := ((s.setLink q 0).event (henPage q) 4).note (henPage q) 0x162

/-- HOST_LINK_DOWN. -/
def execHostLinkDown (port : Fin 2) (s : State) : Host.Outcome State Fault Refusal :=
  if s.portLive && decide (s.linkState port ≠ 0) then .next (s.hostDown port) else .next s

/-- HOST_LINK_UP: the link comes up after training. -/
def execHostLinkUp (port : Fin 2) (s : State) : Host.Outcome State Fault Refusal :=
  if s.portLive && decide (s.linkState port ≠ 2) && (s.raw (henPage port) 0x100).getLsbD 2 then
    .next ((s.setLink port 2).event (henPage port) 5)
  else .next s

/-- LINK.EN written: 0 takes the port down, 1 lets it train (R398). -/
def State.linkEnAct (s : State) (q : Nat) (en : Bool) : State :=
  if en then (if s.linkState q = 0 then s.setLink q 1 else s)
  else if s.linkState q = 2 then s.hostDown q else s.setLink q 0

end Sys2Proof.Machine
end

