-- ==== Sys2Proof/Machine/Acl.lean ====
section
/-! DEFINITION. The lists that the host port reads from memory: the access list and the host region table (R382, R397). -/

namespace Sys2Proof.Machine

/-- A write of ACL.RELOAD reads the access list at ACL.BASE of port 0 (R382). -/
def State.aclReloadAct (s : State) : State :=
  let base := s.fld (henPage 0) 0x128 0 52
  (List.range 64).foldl (fun s i => s.loadEntry i (s.peek (base + 64 * i) 64)) s

/-- An entry of the host region table; none where it is invalid (R397, R398). -/
def hrtOf (d : List Byte) : Option Hrt :=
  let w0 := BitVec.ofNat 64 (recNum d 0 8)
  if !w0.getLsbD 0 then some {}
  else if bits w0 43 21 ≠ 0 ∨ 2 ^ 23 ≤ recNum d 8 8 ∨ 2 ^ 32 ≤ recNum d 24 8 then none
  else some { valid := true, wr := w0.getLsbD 1, ctx := bits w0 2 8, qpn := bits w0 10 10, base := bits w0 20 23, len := recNum d 8 8
              hva := BitVec.ofNat 64 (recNum d 16 8), rkey := BitVec.ofNat 32 (recNum d 24 4) }

/-- A write of HRT.RELOAD reads the host region table at HRT.BASE of port 0 (R397); an invalid entry raises 0x163 and is not used. -/
def State.hrtReloadAct (s : State) : State :=
  let base := s.fld (henPage 0) 0x130 0 52
  (List.range 4096).foldl (fun s i =>
    match hrtOf (s.peek (base + 32 * i) 32) with
    | some e => s.modHost fun h => { h with hrt := Tab.set {} h.hrt i e }
    | none => (s.modHost fun h => { h with hrt := Tab.set {} h.hrt i {} }).contained (henPage 0) 0x163) s

end Sys2Proof.Machine
end

