-- ==== Sys2Proof/Machine/Regs.lean ====
section
/-! DEFINITION. Accesses to the control window: the rights of each role, what a register reads as, what a write does under the field
classes, and the actions of the write-one bits (R27 to R42). -/

namespace Sys2Proof.Machine

/-! ## Rights (R27, R30, R31) -/

/-- The page and offset of an access: aligned, on a page, and of a block whose domain is on. -/
def State.accessAt (s : State) (addr : Nat) : Option (Nat × Nat) :=
  if addr % 8 ≠ 0 then none
  else match pageAt addr with
    | none => none
    | some (n, o) => if n < 1728 ∧ !s.pkg.powered.getLsbD (quadOf (n / 9)) then none else some (n, o)

/-- The page belongs to a tile whose quad the context owns. -/
def State.ownsPage (s : State) (c n : Nat) : Bool := decide (n < 1728) && decide (s.ctxOf (n / 9) = some c)

/-- A role may read offset o of page n (R30). -/
def State.mayRead (s : State) (role : Option Nat) (n o : Nat) : Bool :=
  match role with
  | none => true
  | some c => s.ownsPage c n || (decide (1728 ≤ n ∧ n < 1772) && decide (0xC00 ≤ o))

/-- A role may write a value at offset o of page n (R30): a non-privileged write may not change RUN.MAINT. -/
def State.mayWrite (s : State) (role : Option Nat) (n o : Nat) (val : Word) : Bool :=
  match role with
  | none => true
  | some c => s.ownsPage c n && !(decide (blockOf n = .seq) && decide (o = 0x110) && (val.getLsbD 4 != (s.raw n o).getLsbD 4))

/-- The role that an access acts in: a tile's is that of its quad's context (R30). -/
def State.roleOf (s : State) (a : Access) : Option Nat :=
  match a.source with
  | .bureau => none
  | .tile t => (s.tileAccess t).role.map Fin.val
  | .host0 | .host1 => a.role.map Fin.val

/-- The access reaches the control path (R28): the package works; a host's only once bring-up is complete. -/
def State.reaches (s : State) (a : Access) : Bool :=
  s.awake && (match a.source with
    | .bureau => true
    | .tile t => s.tileRuns t
    | .host0 | .host1 => decide (s.pkg.stage = 7))

/-- A refused access is a Contained error of the block that issued it, charged to the role it acts in (R27, R30, R31). The manual names its code
for SEQ only; another block's is a free value. -/
def State.refusedAt (s : State) (n : Nat) (role : Option Nat) : State :=
  if s.awake then
    let (k, s) := s.draw
    s.contained n ((Config.freeWord k).toNat % 2 ^ 12) role
  else s

/-- What a source's refused access raises: a tile's 0x016 on its SEQ page (R108), a host port's error on its HEN page, the Bureau's on its own. -/
def State.refuseAccess (s : State) (a : Access) : State :=
  match a.source with
  | .tile t => s.contained (seqPage t) 0x016 (s.ctxOf t)
  | .host0 => s.refusedAt (henPage 0) (s.roleOf a)
  | .host1 => s.refusedAt (henPage 1) (s.roleOf a)
  | .bureau => s.refusedAt burPage none

/-! ## What a register reads as -/

/-- STS (R36). -/
def State.stsWord (s : State) (n : Nat) : Word :=
  let p := s.page n
  BitVec.ofNat 64 (flag (s.busy n) + flag p.quiescing * 2 + flag p.quiesced * 4 + flag p.writeRejected * 8 + flag (!p.pendMask.isEmpty) * 16
    + p.rejectWord.toNat * 2 ^ 8 + p.epoch.toNat * 2 ^ 32)

/-- ERR_FIRST (R36). -/
def errWord (e : ErrFirst) : Word :=
  BitVec.ofNat 64 (e.severity.toNat + flag e.valid * 8 + e.code.toNat * 2 ^ 4 + e.context.toNat * 2 ^ 16 + flag e.contextValid * 2 ^ 24
    + flag e.preempted * 2 ^ 25 + e.time.toNat * 2 ^ 32)

/-- The counts that a role reads: its own, or the view of CNT_VIEW; 256 is the totals (R36). -/
def State.viewOf (s : State) (role : Option Nat) (n : Nat) : Nat :=
  match role with
  | some c => c
  | none => min 256 (bits (s.raw n 0x010) 8 9)

/-- The counters (from 0) whose counts are timing alone, or of what no row of the table reports: their values are free. -/
def unmeasured (b : Block) (i : Nat) : Bool :=
  match b with
  | .seq => decide (1 ≤ i ∧ i ≤ 4)                     -- stall cycles, cycles in WAITING
  | .lde => decide (i = 5)                             -- cycles held by the window
  | .mxe => decide (i = 1 ∨ i = 2)                     -- cycles without a descriptor, cycles held for feed
  | .vxe => decide (i = 2 ∨ i = 3)                     -- cycles busy, cycles lost to arbitration
  | .fts => decide (i = 13)                            -- cycles busy
  | .trs => decide (i = 9 ∨ i = 10)                    -- cycles waiting for table stream, cycles busy
  | .hmc => decide (i = 3 ∨ i = 12)                    -- requests deferred, patrol passes
  | .msc => decide (9 ≤ i ∧ i ≤ 11)                    -- walker cache hits and misses, table walks
  | .rtr => decide (i % 13 = 0 ∨ i % 13 = 12)          -- codewords received, cycles of credit starvation
  | .hen => decide (i = 12)                            -- FEC symbols corrected
  | .tmon => decide (i = 4)                            -- parity errors
  | .bur => decide (i = 6)                             -- Bureau memory errors corrected
  | _ => false

/-- Counter i of a page in a view. Counter 0 of UPE is C (R237). -/
def State.counterWord (s : State) (n i view : Nat) : Word :=
  if counterCount n ≤ i then 0
  else if blockOf n = .upe ∧ i = 0 then
    if view < 256 then Tab.get 0 s.upe.c (dieOf n * 256 + view)
    else (List.range 256).foldl (fun w c => w + Tab.get 0 s.upe.c (dieOf n * 256 + c)) 0
  else if unmeasured (blockOf n) i && (decide (n < 1728) || decide (view = 256) || decide (blockOf n = .hmc ∧ i = 3)) then
    Config.unmeasured n i view s.time s.draws
  else Tab.get 0 (s.page n).counts (view * 128 + i)

/-- PORT.STATE (R279). -/
def PortState.num : PortState → Nat
  | .down => 0 | .training => 1 | .up => 2 | .reduced => 3 | .disabled => 4

def SumKind.num : SumKind → Nat
  | .empty => 0 | .max => 1 | .count => 2 | .sum => 3

/-- A bit set as a number. -/
def bitSet (n : Nat) (p : Nat → Bool) : Nat := ((List.range n).map fun i => flag (p i) * 2 ^ i).sum

/-- The live bits that the hardware keeps current in a word: their mask and their value. -/
def State.liveBits (s : State) (n o : Nat) : Option (Word × Nat) :=
  let t := s.tile (n / 9)
  let st := dieOf n
  let all : Word := BitVec.allOnes 64
  match blockOf n with
  | .seq =>
    if o = 0x110 then
      some (0xC, 4 * (if t.stopped then 3 else match t.seq with | .idle => 0 | .running => 1 | .waiting => 2 | .halted => 3))
    else if o = 0x128 then some (all, t.pc.toNat + t.task.toNat * 2 ^ 32)
    else if o = 0x4C0 then some (all, t.fl.toNat + t.fm.toNat * 2 ^ 32)
    else if 0x480 ≤ o ∧ o < 0x4C0 then
      some (all, ((List.range 4).map fun j => t.tok ((o - 0x480) / 8 * 4 + j) * 2 ^ (16 * j)).sum)
    else if 0x500 ≤ o ∧ o < 0x580 then some (all, (t.sum ((o - 0x500) / 8)).val.toNat)
    else if o = 0x580 then some (all, ((List.range 16).map fun i => (t.sum i).kind.num * 2 ^ (2 * i)).sum)
    else none
  | .mxe =>
    let run (op : Nat) : Bool := t.flights.any fun f => decide (f.eng = .mxe ∧ f.desc.op = op) && !f.refused
    if o = 0x110 then
      some (all, flag (run 1 || run 3) + 2 * flag (run 2) + 4 * flag (run 3) + 8 * flag t.chk0.valid + 16 * flag t.chk1.valid)
    else if o = 0x118 ∨ o = 0x120 then
      let c := if o = 0x118 then t.chk0 else t.chk1
      some (all, c.moff.toNat + c.noff.toNat * 2 ^ 7 + c.m.toNat * 2 ^ 14 + c.n.toNat * 2 ^ 21)
    else none
  | .vxe =>
    let len (k : Nat) : Nat := (Tab.get [] t.slots k).length
    if o = 0x108 then some (all, bitSet 8 fun k => decide (len k ≠ 0))
    else if o = 0x110 then some (all, ((List.range 8).map fun k => len k % 64 * 2 ^ (6 * k)).sum)
    else none
  | .trs =>
    if o = 0x120 then some (2, 2 * flag t.route.isSome)
    else if o = 0x130 then some (1, flag (t.flights.any fun f => decide (f.eng = .mxe ∧ f.desc.op = 3) && !f.refused))
    else none
  | .msc =>
    if o = 0x110 then some (all, flag (s.mem.flushing.getLsbD st) + s.mem.halfEmpty.toNat / 2 ^ (2 * st) % 4 * 2)
    else if o = 0x118 then some (0x400, flag (!(s.mem.xlatBusy && decide (st = 0))) * 2 ^ 10)
    else none
  | .rtr =>
    if o = 0x100 ∨ (o = 0x108 ∧ st < 2) then
      let p := s.port (portAt st ((o - 0x100) / 8))
      some (0xFFFF00FF, p.state.num + p.width * 2 ^ 3 + p.rtt.toNat * 2 ^ 16)
    else none
  | .cle =>
    if o = 0x110 then some (all, (s.cle.runs.filter fun j => decide (j.stack = st)).length % 32 + (Tab.get 0 s.cle.lastCtx st).toNat * 2 ^ 8)
    else if o = 0x120 then some (0xFF, s.attemptOf (bits (s.raw n 0x118) 0 8) st)
    else none
  | .upe =>
    if o = 0x110 then
      let bad := Tab.get 0 s.upe.badIndex st % 64 * 2 ^ 19
      some (all, match s.upeRun st with
        | some j => 1 + j.ctx * 2 ^ 8 + j.ring * 2 ^ 16 + bad + j.idx * 2 ^ 32
        | none => bad)
    else none
  | .sbd =>
    if o = 0x110 then
      let q := s.sbd.queue.length % 128 * 2 ^ 16
      some (all, match s.sbd.running with
        | some j => 1 + j.job.ctx * 2 ^ 8 + q
        | none => q)
    else none
  | .flt => if o = 0x108 then some (0x40000000, flag (s.fab.invalid.isNone || decide (st ≠ 0)) * 2 ^ 30) else none
  | .key =>
    if st ≠ 0 then none
    else if o = 0x108 then some (0x60000, flag s.key.switch.isNone * 2 ^ 17 + flag s.key.refused * 2 ^ 18)
    else if 0x120 ≤ o ∧ o < 0x140 then some (all, bitSet 64 fun i => (Tab.get none s.key.keys ((o - 0x120) / 8 * 64 + i)).isSome)
    else if o = 0x140 then some (all, flag s.key.mgmt.isSome + s.key.sessions.length % 16 * 2 ^ 8)
    else if 0x180 ≤ o ∧ o < 0x1E0 then
      some (all, ((List.range 4).map fun j => match Tab.get none s.key.owner ((o - 0x180) / 8 * 4 + j) with
        | some c => (c + 256) * 2 ^ (16 * j)
        | none => 0).sum)
    else none
  | .bur =>
    let y := s.sync
    if o = 0x100 then some (all, Config.romVersion.toNat + s.pkg.patches.toNat * 2 ^ 16)
    else if o = 0x108 then
      some (all, s.pkg.stage.toNat + s.pkg.bootCode.toNat * 2 ^ 8 + s.pkg.straps.toNat * 2 ^ 20 + flag s.pkg.cfgCopy * 2 ^ 33
        + flag s.pkg.packSlot * 2 ^ 34)
    else if o = 0x310 then some (all, y.count.toNat)
    else if o = 0x318 then some (all, y.last)
    else if o = 0x320 then
      some (all, y.lastSrc.toNat + y.offset.toNat * 2 ^ 2 + y.fault.toNat * 2 ^ 14 + y.consec.toNat * 2 ^ 16 + y.depth.toNat * 2 ^ 24
        + flag y.origin * 2 ^ 32 + flag s.originates * 2 ^ 33)
    else if o = 0x358 then some (0xFF020000, flag s.bur.quarantined * 2 ^ 17 + min 255 s.offenceCount * 2 ^ 24)
    else if o = 0x360 then some (0x1FFF0007, s.bur.settee.toNat + s.bur.heldLc.toNat * 2 ^ 16)
    else if o = 0x368 then some (3, min 3 s.bur.levels.length)
    else if o = 0x370 then some (4, flag s.pkgQuiesced * 4)
    else none
  | .pwr =>
    if o = 0x108 then some (0x1000000, flag (!s.pkg.switching.isEmpty) * 2 ^ 24)
    else if 0x1C0 ≤ o ∧ o < 0x1F0 then
      some (all, ((List.range 8).map fun j => s.effStep ((o - 0x1C0) / 8 * 8 + j) * 2 ^ (8 * j)).sum)
    else none
  | .thm =>
    if o = 0x108 then some (0xFF00000000, ((List.range 16).foldl (fun m h => max m (s.fld (hmcPage h) 0x108 0 8)) 0) * 2 ^ 32)
    else if o = 0x110 then some (0x1000, flag s.pkg.thermtrip * 2 ^ 12)
    else none
  | .tel => if o = 0x110 then some (all, (s.host.chans.filter fun e => e.2.stalled).length % 4096) else none
  | .age =>
    if o = 0x110 then some (all, s.pkg.ageIndex + s.pkg.ageLastH % 2 ^ 32 * 2 ^ 16)
    else if 0x180 ≤ o ∧ o < 0x1B0 then some (all, ((List.range 8).map fun j => s.offsetOf ((o - 0x180) / 8 * 8 + j) % 32 * 2 ^ (8 * j)).sum)
    else none
  | .hen => if o = 0x100 then some (3, s.linkState (n - 1778)) else none
  | .lct =>
    if o = 0x100 then some (2, 2 * flag s.pkg.frozen) else if o = 0x108 then some (all, s.pkg.freezeAt) else none
  | .lde | .ste | .xce | .fts | .tmon | .hmc | .tst => none

/-- Words of the stack 0 page that read 0 and ignore writes on the other stacks (R280, R340). -/
def elsewhere (n o : Nat) : Bool :=
  decide (dieOf n ≠ 0) && match blockOf n with
    | .key => decide (0x100 ≤ o ∧ o < 0x1E0)
    | .flt => decide (o = 0x100 ∨ o = 0x108)
    | _ => false

/-- The word at offset o of page n as a role reads it, without side effects. -/
def State.regWord (s : State) (role : Option Nat) (n o : Nat) : Word :=
  if o = 0x000 then identWord n
  else if o = 0x008 then capsWord n
  else if o = 0x010 then s.written n o ||| BitVec.ofNat 64 (2 * flag (s.page n).quiesceBit)
  else if o = 0x018 then s.stsWord n
  else if o = 0x020 then (s.page n).cause.setWidth 64
  else if o = 0x030 then errWord (s.page n).err
  else if o = 0x038 then (s.page n).errCount.setWidth 64
  else if 0xC00 ≤ o then s.counterWord n ((o - 0xC00) / 8) (s.viewOf role n)
  else
    let w := if elsewhere n o then 0 else s.written n o
    match s.liveBits n o with
    | none => w
    | some (m, v) => (w &&& ~~~m) ||| (BitVec.ofNat 64 v &&& m)

/-- What a read clears (R36, R418): ERR_COUNT, and P_MAX of PWR. -/
def State.readSide (s : State) (n o : Nat) : State :=
  if o = 0x038 then s.modPage n fun p => { p with errCount := 0 }
  else if n = pwrPage ∧ o = 0x118 then s.setFld n 0x118 16 12 0
  else s

/-! ## Writing fields (R38, R39) -/

/-- Staged fields that take effect at a round boundary even when written to an idle block (R255, R279, R324). -/
def alwaysStaged (n o : Nat) : Bool :=
  match blockOf n with
  | .hmc => decide (o = 0x100)
  | .rtr => decide (o = 0x120 ∨ o = 0x128)
  | .bur => decide (o = 0x300 ∨ o = 0x308)
  | _ => false

/-- Staged bits of a word are held until the boundary. -/
def Page.stage (p : Page) (k : Nat) (m val : Word) : Page :=
  { p with pend := Tab.set 0 p.pend k ((Tab.get 0 p.pend k &&& ~~~m) ||| (val &&& m))
           pendMask := Tab.set 0 p.pendMask k (Tab.get 0 p.pendMask k ||| m) }
/-- Staged bits of a word no longer wait. -/
def Page.unstage (p : Page) (k : Nat) (m : Word) : Page :=
  { p with pend := Tab.set 0 p.pend k (Tab.get 0 p.pend k &&& ~~~m), pendMask := Tab.set 0 p.pendMask k (Tab.get 0 p.pendMask k &&& ~~~m) }

/-- The fields of a word are written under their classes, but for those in `skip`; whether a locked one was rejected. -/
def State.writeFields (s : State) (n o : Nat) (val skip : Word) : Bool × State :=
  let m (a : Acc) : Word := classMask n o (fun x => decide (x = a)) &&& ~~~skip
  let busy := s.busy n
  let hold := busy || alwaysStaged n o
  let now := m .rw ||| (if busy then 0 else m .rwl) ||| (if hold then 0 else m .rws)
  let s := s.setRaw n o (((s.raw n o &&& ~~~now) ||| (val &&& now)) &&& ~~~(val &&& m .w1c))
  let s := if m .rws = 0 then s else s.modPage n fun p => if hold then p.stage (o / 8) (m .rws) val else p.unstage (o / 8) (m .rws)
  (busy && decide (m .rwl ≠ 0), s)

/-! ## Actions -/

/-- A table that lies beyond local HBM counts as a refused completion of every context with a commit record (R438). -/
def State.chargeTable (s s' : State) (was now : List Nat) (code : Nat) : State :=
  if was.isEmpty && !now.isEmpty then s.groupCtxs.foldl (fun s c => s.chargeRefusal c code) s' else s'

def State.rtBaseAct (s : State) (st : Nat) : State :=
  let s' := s.readRings st
  s.chargeTable s' s.upe.noTable s'.upe.noTable 0x0A3
def State.ptBaseAct (s : State) (st : Nat) : State :=
  let s' := s.readQueues st
  s.chargeTable s' s.cle.noTable s'.cle.noTable 0x0B3

/-- TLC.INVAL_ALL: every tray line of the die is dropped (R311). -/
def State.tlcInvalAct (s : State) (die : Nat) : State :=
  s.modMem fun m => { m with tlc := m.tlc.filter fun e => decide (e.1 / 2 ^ 40 / 256 ≠ die) }

/-- QUAR.QUARANTINE: the package is quarantined and fail-stops (R367). -/
def State.quarantineAct (s : State) : State := ((s.modBur fun b => { b with quarantined := true }).event burPage 24).stopWith 0x153

/-- SETTEE.RETRY: the coordinator tries again for a standby pair where it had none (R365). -/
def State.retryAct (s : State) : State :=
  (s.bur.commits.map Prod.fst).foldl (fun s c =>
    if (s.commit c).noStandby then (s.modCommit c fun x => { x with noStandby := false }).tryReset c else s) s

/-- SETTEE.STANDBY: a lone package becomes a member of a standby pair, or leaves it (R363, R379). -/
def State.standbyAct (s : State) (on : Bool) : State :=
  s.modBur fun b => { b with settee := if on && decide (b.settee = 1) then 4 else if !on && decide (b.settee = 4) then 1 else b.settee }

/-- The four router slices hold POS, LOG and FAULT alike (R279). -/
def State.allSlices (s : State) (n o : Nat) : State := (List.range 4).foldl (fun s st => s.setRaw (rtrPage st) o (s.raw n o)) s

/-- CNT_CLEAR clears the counters of one view (R36). -/
def State.clearCounts (s : State) (n view : Nat) : State :=
  s.modPage n fun p => { p with counts := p.counts.filter fun e => decide (e.1 / 128 ≠ view) }

/-- CTL.RESET (R36, R40): acted on only on a quiesced block. -/
def State.resetAct (s : State) (n : Nat) : State := if (s.page n).quiesced then s.blockReset n else s.reject n 0x010

/-- FLT.CMD.GO (R276, R280). -/
def State.fltAct (s : State) (flow ctx : Nat) (byCtx : Bool) : State :=
  if s.fab.invalid.isSome then s.reject (fltPage 0) 0x108
  else s.modFab fun f => { f with invalid := some (if byCtx then none else some flow, ctx) }

/-- XLAT.GO (R244, R258). -/
def State.xlatAct (s : State) : State := if s.mem.xlatBusy then s.reject (mscPage 0) 0x118 else s.xlatGoAct

/-- STEP.COMMIT and STEP.ROLLBACK of UPE are rejected while a job of the context runs, STEP.COMMIT of CLE while a step runs (R237,
R311). -/
def State.upeStepAct (s : State) (st c : Nat) (commit : Bool) : State :=
  if s.upeBusyFor st c then s.reject (upePage st) 0x118 else if commit then s.upeCommitAct st c else s.upeRollbackAct st c
def State.cleStepAct (s : State) (st c : Nat) (commit : Bool) : State :=
  if commit then (if s.cleBusyFor st c then s.reject (clePage st) 0x118 else s.cleCommitAct st c) else s.cleRollbackAct st c

/-- C of a context on a UPE is set (R237). -/
def State.cLoadAct (s : State) (st c : Nat) (v : Word) : State := s.modUpe fun u => { u with c := Tab.set 0 u.c (st * 256 + c) v }
/-- ATTEMPT of a context on a CLE is set (R311). -/
def State.attemptAct (s : State) (st c : Nat) (v : Byte) : State := s.modCle fun u => { u with attempt := Tab.set 0 u.attempt (st * 256 + c) v }

/-- FTS CMD.GO is rejected while BUSY (R183), TRS CMD.GO while an operation runs (R211). -/
def State.ftsCmd (s : State) (t : Nat) (resv : Bool) : State :=
  if (s.tile t).fts.isSome then s.reject (ftsPage t) 0x100 else s.ftsGoAct t resv
def State.trsCmd (s : State) (t : Nat) (resv : Bool) : State :=
  if (s.tile t).route.isSome then s.reject (trsPage t) 0x100 else s.trsGoAct t resv

/-- The die's half of HALF_OFF that a write would clear while its domain is off stays set (R252). -/
def State.halfBits (s : State) (die : Nat) (val : Word) : Nat :=
  let old := bits (s.raw (mscPage die) 0x108) 2 2
  let off := flag (!s.pkg.powered.getLsbD (64 + 2 * die)) + 2 * flag (!s.pkg.powered.getLsbD (65 + 2 * die))
  bits val 2 2 ||| (old &&& off)

/-- CMD of MSC: HALF_OFF, then FLUSH or INVAL_ALL (R252). -/
def State.mscCmd (s : State) (die : Nat) (val : Word) : State :=
  let pg := mscPage die
  let h := s.halfBits die val
  let s := if h = bits val 2 2 then s else s.reject pg 0x108
  let s := if h = bits (s.raw pg 0x108) 2 2 then s else (s.setFld pg 0x108 2 2 h).halfOffAct die
  if val.getLsbD 1 then s.flushAct die true else if val.getLsbD 0 then s.flushAct die false else s

/-- What a write does beyond its fields, by block and offset; `ok` says that its locked fields were not rejected. -/
def State.blockAct (s : State) (n o : Nat) (val : Word) (ok : Bool) : State :=
  let t := n / 9
  let st := dieOf n
  let b (i : Nat) : Bool := val.getLsbD i
  match blockOf n with
  | .seq =>
    if o = 0x110 then
      let s := if b 0 then s.runStartAct t else s
      if b 1 then s.runHaltAct t else s
    else s
  | .fts => if o = 0x100 ∧ b 14 then s.ftsCmd t (decide (bits val 15 49 ≠ 0)) else s
  | .trs => if o = 0x100 ∧ b 15 then s.trsCmd t (decide (bits val 16 48 ≠ 0)) else s
  | .msc => if o = 0x118 ∧ b 9 ∧ st = 0 then s.xlatAct else s
  | .rtr =>
    if o = 0x110 ∨ o = 0x118 ∨ o = 0x130 then (s.allSlices n o).retryHeld
    else if o = 0x100 ∨ (o = 0x108 ∧ st < 2) then
      let q := portAt st ((o - 0x100) / 8)
      let s := s.portEnable q (b 8)
      if b 9 then s.retrain q else s
    else s
  | .cle =>
    if o = 0x100 then (if ok then s.ptBaseAct st else s)
    else if o = 0x108 then (if b 1 then s.tlcInvalAct st else s)
    else if o = 0x118 then
      let c := bits val 0 8
      let s := if b 8 then s.cleStepAct st c true else s
      if b 9 then s.cleStepAct st c false else s
    else if o = 0x120 then s.attemptAct st (bits (s.raw n 0x118) 0 8) (val.setWidth 8)
    else s
  | .upe =>
    if o = 0x100 then (if ok then s.rtBaseAct st else s)
    else if o = 0x118 then
      let c := bits val 0 8
      let s := if b 8 then s.upeStepAct st c true else s
      if b 9 then s.upeStepAct st c false else s
    else if o = 0x120 then s.cLoadAct st (bits (s.raw n 0x118) 0 8) val
    else s
  | .sbd => if o = 0x108 ∧ b 8 ∧ st = 0 then s.sbdQueue (s.raw n 0x100).toNat (bits val 0 8) else s
  | .flt => if o = 0x108 ∧ b 29 ∧ st = 0 then s.fltAct (bits val 0 20) (bits val 20 8) (b 28) else s
  | .key =>
    if o = 0x108 ∧ b 16 then s.switchAct
    else if o = 0x110 ∧ b 8 then s.reloadAct
    else if o = 0x118 ∧ b 9 then s.eraseAct
    else s
  | .bur =>
    if o = 0x328 then (if b 0 then s.resyncAct else s)
    else if o = 0x340 then (if ok then s.readRecords else s)
    else if o = 0x358 then (if b 16 then s.quarantineAct else s)
    else if o = 0x360 then
      let s := if b 3 then s.retryAct else s
      if ok then s.standbyAct (b 4) else s
    else if o = 0x370 then
      let s := if b 0 then s.pkgQuiesceAct else s
      let s := if b 1 then s.pkgReadyAct else s
      if b 3 then s.warmResetAct else s
    else s
  | .tst =>
    if o = 0x100 then
      let s := if b 0 then s.tstRunAct else s
      if b 1 then s.tstAbortAct else s
    else s
  | .age => if o = 0x108 ∧ b 0 then s.modSync fun y => { y with replanDue := true } else s
  | .hen =>
    if o = 0x100 then s.linkEnAct (n - 1778) (b 2)
    else if n = henPage 0 ∧ o = 0x128 ∧ b 52 then s.aclReloadAct
    else if n = henPage 0 ∧ o = 0x130 ∧ b 52 then s.hrtReloadAct
    else s
  | .lde | .mxe | .vxe | .ste | .xce | .tmon | .hmc | .pwr | .thm | .tel | .lct => s

/-- A write of CTL (R36): its fields, CNT_CLEAR, then RESET, QUIESCE or ENABLE. -/
def State.ctlWrite (s : State) (role : Option Nat) (n : Nat) (val : Word) : State :=
  let quiesced := (s.page n).quiesced
  let s := (s.writeFields n 0x010 val 1).2
  let s := if val.getLsbD 5 then s.clearCounts n (s.viewOf role n) else s
  if val.getLsbD 2 && quiesced then s.blockReset n
  else
    let s := if val.getLsbD 2 then s.reject n 0x010 else s
    if val.getLsbD 1 then (s.setEnable n (val.getLsbD 0)).startQuiesce n else s.enableAct n (val.getLsbD 0)

/-- An accepted write of a 64-bit word (R34 to R41). -/
def State.regWriteAt (s : State) (role : Option Nat) (n o : Nat) (val : Word) : State :=
  if o = 0x010 then s.ctlWrite role n val
  else if o = 0x018 then (if val.getLsbD 3 then s.modPage n fun p => { p with writeRejected := false } else s)
  else if o = 0x020 then s.modPage n fun p => { p with cause := p.cause &&& ~~~(val.setWidth 48) }
  else if o = 0x030 then (if val.getLsbD 3 then s.modPage n fun p => { p with err := {} } else s)
  else if elsewhere n o ∨ 0xC00 ≤ o then s
  else if n = pwrPage ∧ o = 0x100 then s.onWrite (List.range 48) (fun d => val.getLsbD d) o
  else if n = pwrPage ∧ o = 0x108 then s.onWrite ((List.range 24).map (48 + ·)) (fun d => val.getLsbD (d - 48)) o
  else if blockOf n = .msc ∧ o = 0x108 then s.mscCmd (dieOf n) val
  else
    let skip : Word := if blockOf n = .cle ∧ o = 0x120 then 0xFF else 0
    let (rej, s) := s.writeFields n o val skip
    (if rej then s.reject n o else s).blockAct n o val (!rej)

/-! ## Accesses -/

/-- An access to be made: its page and offset, or none where it is refused. -/
def State.readAt (s : State) (role : Option Nat) (addr : Nat) : Option (Nat × Nat) :=
  match s.accessAt addr with
  | some (n, o) => if s.mayRead role n o then some (n, o) else none
  | none => none
def State.writeAt (s : State) (role : Option Nat) (addr : Nat) (val : Word) : Option (Nat × Nat) :=
  match s.accessAt addr with
  | some (n, o) => if s.mayWrite role n o val then some (n, o) else none
  | none => none

/-- One 8-byte read: the value, or none where it is refused. -/
def State.regRead (s : State) (role : Option Nat) (addr : Nat) : Option Word × State :=
  match s.readAt role addr with
  | some (n, o) => (some (s.regWord role n o), s.readSide n o)
  | none => (none, s)

/-- One 8-byte write, and whether it was done. -/
def State.regWrite (s : State) (role : Option Nat) (addr : Nat) (val : Word) : Bool × State :=
  match s.writeAt role addr val with
  | some (n, o) => (true, s.regWriteAt role n o val)
  | none => (false, s)

/-- A write by a source, as a command of its own. -/
def State.rowWrite (s : State) (a : Access) (addr : Nat) (val : Word) : State :=
  if s.reaches a then
    match s.regWrite (s.roleOf a) addr val with
    | (true, s) => s
    | (false, s) => s.refuseAccess a
  else s

/-- A write-one bit of word o of page n is written by a source, the word's other fields left as they are. -/
def State.rowDo (s : State) (a : Access) (n o : Nat) (f : State → State) : State :=
  if s.reaches a then
    match s.writeAt (s.roleOf a) (pageAddr n o) (s.raw n o) with
    | some _ => f s
    | none => s.refuseAccess a
  else s

end Sys2Proof.Machine
end

