-- ==== Sys2Proof/Machine/Lectern.lean ====
section
/-! DEFINITION. The debug port and the Lectern (R415, R416, R434). -/

namespace Sys2Proof.Machine

/-! ## What an address reads (R416) -/

/-- The words that every freeze or stop leaves readable: pages of BUR, PWR, THM, TST, AGE and LCT, and the IDENT, STS, ERR_FIRST and
ERR_COUNT words of every page. -/
def plainWord (n o : Nat) : Bool :=
  decide (o = 0x000 ∨ o = 0x018 ∨ o = 0x030 ∨ o = 0x038)
    || (match blockOf n with
        | .bur | .pwr | .thm | .tst | .age | .lct => true
        | _ => false)

/-- The place holds the key of a session that the access list in memory gives. -/
def State.sessionKeyAt (s : State) (a : Nat) : Bool :=
  let base := s.fld (henPage 0) 0x128 0 52
  (List.range 64).any fun i =>
    (s.session i).valid && decide (base + 64 * i + 32 ≤ a ∧ a < base + 64 * i + 64)
      && decide (s.peek (base + 64 * i + 32) 32 = toBytesBE 32 (s.session i).key.toNat)

/-- A word of a tile, in a domain that may be off. -/
def State.lctTile (s : State) (t : Nat) (w : Nat) : Option Nat :=
  some (if s.pkg.powered.getLsbD (quadOf t) then w else 0)

/-- The word at a Lectern address; none where it is blanked. -/
def State.lctWord (s : State) (v : Word) : Option Nat :=
  let a := bits v 0 52 / 8 * 8
  let t := bits v 52 8
  let full := s.pkg.armed
  if !(s.pkg.frozen || s.pkg.stopped) then none
  else match bits v 60 4 with
    | 0 =>
      if bits v 52 8 ≠ 0 then none
      else (match pageAt a with
        | none => none
        | some (n, o) =>
          if !full && !plainWord n o then none
          else if n < 1728 ∧ !s.pkg.powered.getLsbD (quadOf (n / 9)) then some 0
          else some (s.regWord none n o).toNat)
    | 1 => if full && decide (t < 192 ∧ a < storeBytes) then s.lctTile t (ofBytes (getBytes (s.tile t).store a 8)) else none
    | 2 => if full && decide (t < 192 ∧ a < rfBytes) then s.lctTile t (ofBytes (getBytes (s.tile t).rf a 8)) else none
    | 3 =>
      if full && decide (t < 192 ∧ a < 2 ^ 19) then
        s.lctTile t ((Tab.get {} (s.tile t).acc (a / 16)).bits / 2 ^ (a % 16 * 8) % 2 ^ 64)
      else none
    | 4 =>
      if full && decide (bits v 52 8 = 0 ∧ a < hbmBytes) && !s.sessionKeyAt a then
        some (if s.stackOn (homeOf a) then ofBytes (s.mem.bytes a 8) else 0)
      else none
    | _ => none

/-! ## TAP instructions (R415) -/

/-- The debug port works while its rail is up. -/
def State.tap (s : State) (ir : BitVec 8) : State := s.modPkg fun p => { p with ir := ir, tapReset := false }

/-- A data register is shifted out; TDO is high-impedance while PORST_N is asserted (R431). -/
def State.tdo (s : State) (v w : Nat) : State := if s.pkg.porst then s else s.send (.tdo v w)

def idcodeValue : Nat := 0x14192CA3

/-- LCT_STATUS (R415). -/
def State.lctStatus (s : State) : Nat :=
  let p := s.pkg
  flag p.frozen + flag (if p.frozen || p.stopped then p.armed else (s.raw lctPage 0x100).getLsbD 0) * 2 + flag p.blanked * 4
    + p.stage.toNat * 2 ^ 3 + flag p.stopped * 2 ^ 11

/-- EXTEST: the boundary register is selected. -/
def execExtest (s : State) : Host.Outcome State Fault Refusal := .next (if s.pkg.powerOn then s.tap 0x00 else s)
/-- SAMPLE/PRELOAD: the boundary register is selected. -/
def execSamplePreload (s : State) : Host.Outcome State Fault Refusal := .next (if s.pkg.powerOn then s.tap 0x02 else s)
/-- IDCODE: the 32-bit identification register. -/
def execIdcode (s : State) : Host.Outcome State Fault Refusal := .next (if s.pkg.powerOn then (s.tap 0x01).tdo idcodeValue 32 else s)
/-- BYPASS: one bit, captured as 0. -/
def execBypass (s : State) : Host.Outcome State Fault Refusal := .next (if s.pkg.powerOn then (s.tap 0xFF).tdo 0 1 else s)
/-- LCT_ADDR: the Lectern address. -/
def execLctAddr (v : Word) (s : State) : Host.Outcome State Fault Refusal :=
  .next (if s.pkg.powerOn then (s.tap 0x20).modPkg fun p => { p with lctAddr := v } else s)
/-- LCT_READ: the word at the address, which advances by 8 (R416). -/
def execLctRead (s : State) : Host.Outcome State Fault Refusal :=
  if !s.pkg.powerOn then .next s
  else
    let r := s.lctWord s.pkg.lctAddr
    let s := (s.tap 0x21).modPkg fun p => { p with lctAddr := p.lctAddr + 8, blanked := r.isNone }
    .next ((s.count lctPage (if r.isSome then 1 else 2)).tdo (r.getD 0) 64)
/-- LCT_STATUS: 32 bits of status. -/
def execLctStatus (s : State) : Host.Outcome State Fault Refusal := .next (if s.pkg.powerOn then (s.tap 0x22).tdo s.lctStatus 32 else s)
/-- TRST_N_ASSERT: the TAP is in reset (R434). -/
def execTrstNAssert (s : State) : Host.Outcome State Fault Refusal := .next (s.modPkg fun p => { p with ir := 0x01, tapReset := true })

end Sys2Proof.Machine
end

