-- ==== Sys2Proof/Machine/Lsu.lean ====
section
/-! DEFINITION. The Load and Store Engines: commands, checks, the levels of memory they reach, completion of any engine's
descriptor, and the idle scrub (R97, R98, R117 to R119, R128, R130, R131, R291, R341, R397). -/

namespace Sys2Proof.Machine

/-! ## Fields (R118, R128), addresses and lengths in bytes -/

structure LsF where
  maddr   : Nat
  saddr   : Nat
  ssel    : Bool
  sstride : Nat
  laddr   : Nat
  lsel    : Bool
  rows    : Nat
  rlen    : Nat
  hint    : Nat
  bexp    : Bool
  bdir    : Bool
  bfmt    : Nat
  mstride : Nat
  lstride : Nat
  baddr   : Nat
  bpitch  : Nat
  deriving DecidableEq, Repr

def lsOf (d : Desc) : LsF :=
  { maddr := d.w1.toNat, saddr := d.f 1 0 18 * 32, ssel := d.w1.getLsbD 18, sstride := d.f 1 23 18 * 32, laddr := d.f 2 0 18 * 32,
    lsel := d.w2.getLsbD 18, rows := d.f 2 20 16 + 1, rlen := (d.f 2 36 16 + 1) * 32, hint := d.f 2 52 2, bexp := d.w2.getLsbD 54,
    bdir := d.w2.getLsbD 55, bfmt := d.f 2 56 4, mstride := d.f 3 0 23 * 32, lstride := d.f 3 23 18 * 32, baddr := d.f 3 41 23,
    bpitch := d.f 0 34 7 * 64 }

/-- A two-dimensional extent passes the end of its space (R116). -/
def rowsPast (size a stride rows rlen : Nat) : Bool := decide (size < a + (rows - 1) * stride + rlen)
def spaceBytes (rf : Bool) : Nat := if rf then rfBytes else storeBytes

/-- Elements of a row, rows of the block-exponent array and its bytes in a row (R119). -/
def LsF.elems (x : LsF) : Nat := x.rlen * 8 / fmtBits x.bfmt
def LsF.bexpRows (x : LsF) : Nat := if x.bdir then (x.rows + 31) / 32 else x.rows
def LsF.bexpLen (x : LsF) : Nat := if x.bdir then x.elems else (x.elems + 31) / 32

/-- The formats a BFMT may name (R118). -/
def bexpFmt (f : Nat) : Bool := decide (f ≤ 4)

/-- The checks of R131 on a command of the LDE (`ste` false) or the STE. -/
def lsBad (ste : Bool) (d : Desc) (x : LsF) : Option Nat :=
  let copy := decide (d.op = 2)
  let gather := decide (d.op = 3)
  let bexp := !ste && x.bexp
  let src := copy && rowsPast (spaceBytes (ste && x.ssel)) x.saddr x.sstride x.rows x.rlen
  let dst := rowsPast (spaceBytes (!(ste && copy) && x.lsel)) x.laddr x.lstride x.rows x.rlen
  firstCode [
    (d.commonBad (if ste then .ste else .lde) (d.ownZero (if ste then .ste else .lde)) || d.w2.getLsbD 19 || decide (d.f 2 60 4 ≠ 0)
      || (ste && (decide (d.f 2 54 6 ≠ 0) || decide (x.baddr ≠ 0)))
      || (copy && decide (d.f 1 19 4 ≠ 0 ∨ d.f 1 41 23 ≠ 0))
      || (bexp && (x.lsel || gather)) || (copy && (if ste then x.lsel else x.ssel)), 0x040),
    (bexp && decide (11 ≤ x.bfmt), 0x042),
    (bexp && !bexpFmt x.bfmt, 0x043),
    ((src && !(ste && x.ssel)) || (dst && !(!(ste && copy) && x.lsel)) || (!copy && decide (x.maddr % 32 ≠ 0))
      || (!ste && gather && (decide (x.baddr % 4 ≠ 0) || decide (storeBytes < x.baddr + 4 * x.rows)))
      || (bexp && rowsPast storeBytes x.baddr x.bpitch x.bexpRows x.bexpLen), 0x045),
    ((src && (ste && x.ssel)) || (dst && (!(ste && copy) && x.lsel)), 0x046)]

/-! ## The memory a command names (R130, R245, R397) -/

/-- The part of a host range that one entry of the host region table covers: its QP, host address and R_Key, and its length. -/
structure HostPart where
  qpn  : Nat
  va   : Word
  rkey : BitVec 32
  len  : Nat
  deriving DecidableEq, Repr

/-- The entry of a context that covers a host-window offset (R397). -/
def State.hrtAt (s : State) (c off : Nat) : Option Hrt :=
  ((s.host.hrt.map Prod.snd).find? fun h => h.valid && decide (h.ctx = c ∧ h.base * 2 ^ 21 ≤ off ∧ off < (h.base + h.len) * 2 ^ 21))

/-- A host range split at entry boundaries and at 1 GiB, or the code that refuses it: 0x020 without an entry that allows the
access, 0x022 on a QP in ERROR. `fuel` bounds the parts. -/
def State.hostParts (s : State) (c : Nat) (write : Bool) : Nat → Nat → Nat → Nat ⊕ List HostPart
  | 0, _, n => if n = 0 then .inr [] else .inl 0x020
  | fuel + 1, off, n =>
    if n = 0 then .inr []
    else match s.hrtAt c off with
      | none => .inl 0x020
      | some h =>
        let q := Tab.get {} s.host.qps h.qpn
        if (write && !h.wr) || !q.there || decide (q.ctx ≠ c) then .inl 0x020
        else if q.error then .inl 0x022
        else
          let k := min (min n ((h.base + h.len) * 2 ^ 21 - off)) (2 ^ 30)
          match State.hostParts s c write fuel (off + k) (n - k) with
          | .inl e => .inl e
          | .inr ps => .inr ({ qpn := h.qpn, va := h.hva + BitVec.ofNat 64 (off - h.base * 2 ^ 21), rkey := h.rkey, len := k } :: ps)

/-- The host parts of a segment. -/
def State.segHost (s : State) (c : Nat) (write : Bool) (g : Seg) : Nat ⊕ List HostPart :=
  match regionOf s.member g.pa with
  | .host off => s.hostParts c write 4096 off g.len
  | _ => .inr []

/-- What the whole of a command's memory comes to before any byte moves. -/
inductive LsMem where
  | refused (code : Nat)
  | held
  | go (segs : List Seg)
  deriving DecidableEq, Repr

/-- The rows of a command translated and checked (R130): 0x020 and 0x022 of R397 stand before 0x021 of R97 only as the lower
code does; a stack that is off refuses with 0x0C4 (R256). -/
def State.lsReach (s : State) (die c : Nat) (write : Bool) (vas : List Nat) (n : Nat) : LsMem × State :=
  let r := vas.foldl (fun (acc : List Seg × Bool × State) va =>
    match acc.2.2.translate die (some c) va n write with
    | (none, s) => (acc.1, true, s)
    | (some gs, s) => (acc.1 ++ gs, acc.2.1, s)) (([] : List Seg), false, s)
  let gs := r.1
  let s := r.2.2
  let un := r.2.1 || gs.any fun g => match s.trayOf g with
    | some (m, _) => !s.trayOk c m
    | none => false
  let host := gs.filterMap fun g => match s.segHost c write g with
    | .inl k => some k
    | .inr _ => none
  if host.contains 0x020 then (.refused 0x020, s)
  else if un then (.refused 0x021, s)
  else if !host.isEmpty then (.refused 0x022, s)
  else match s.homeOff (gs.filterMap s.localOf) with
    | some h => (.refused 0x0C4, s.refuseOff h (some c))
    | none => if s.segsHeld gs then (.held, s) else (.go gs, s)

/-! ## Levels (R20, R97, R98) -/

/-- Bytes of a local range that the MSC holds, and the others. -/
def State.levelBytes (s : State) (a n : Nat) : Nat × Nat :=
  (linesOf a n).foldl (fun (r : Nat × Nat) l =>
    let k := min (a + n) (256 * l + 256) - max a (256 * l)
    if (s.mem.line l).there then (r.1 + k, r.2) else (r.1, r.2 + k)) (0, 0)

/-- Counters 0 to 4 of the engine's page count bytes of levels 1 to 5. A write that the MSC takes counts at level 2. -/
def State.countLevels (s : State) (page : Nat) (write : Bool) (hint : Nat) (gs : List Seg) : State :=
  gs.foldl (fun s g =>
    match regionOf s.member g.pa with
    | .local a =>
      let (m, h) := s.levelBytes a g.len
      let die := homeOf a / 4
      let takes := write && decide (hint ≠ 1) && !g.noalloc && !(s.mem.off die 0 && s.mem.off die 1)
      let (m, h) := if takes then (m + h, 0) else (m, h)
      let s := if m = 0 then s else s.count page 1 none m
      if h = 0 then s else s.count page 2 none h
    | .tray _ _ => s.count page 3 none g.len
    | .host _ => s.count page 4 none g.len
    | .unmapped => s) s

/-! ## The tray line cache (R291) -/

/-- What a LOAD gathers stands by its place in the command's data; whole tray lines stand above this bound, by address. -/
def tlcGot : Nat := 2 ^ 60

/-- A line of a context in a die's tray line cache; `none` where it is absent or has been replaced by another meanwhile. -/
def State.tlcLine (s : State) (die c pa : Nat) : Option (List Byte) × State :=
  match Tab.get [] s.mem.tlc (tlcKey die c pa) with
  | [] => (none, s)
  | b =>
    let (d, s) := s.draw
    if Config.mscEvicts d (pa / 256) then (none, s.modMem fun m => { m with tlc := Tab.erase m.tlc (tlcKey die c pa) })
    else (some b, s)

/-- A double-bit error in a line that is held drops it (R291). -/
def State.tlcError (s : State) (die c : Nat) (ecc : Ecc) : Met × State :=
  match ecc with
  | .uncorrectable a =>
    (match regionOf s.member a with
     | .tray _ _ =>
       (match Tab.get [] s.mem.tlc (tlcKey die c a) with
        | [] => (({} : Met), s)
        | _ => (⟨1, 0x0B7⟩, (s.modMem fun m => { m with tlc := Tab.erase m.tlc (tlcKey die c a) }).raise (clePage die) 1 0x0B7 (some c)))
     | _ => s.eccMem (some c) ecc)
  | .corrected a =>
    (match regionOf s.member a with
     | .tray _ _ => (({} : Met), s)
     | _ => s.eccMem (some c) ecc)
  | .clean => ({}, s)

/-- The lines of a range that lies in one page, as pieces: address, length. -/
def linePieces (pa n : Nat) : List (Nat × Nat) :=
  (linesOf pa n).map fun l => (max pa (256 * l), min (pa + n) (256 * l + 256) - max pa (256 * l))

/-- The tile's die looks tray lines up while TLC.EN = 1. -/
def State.tlcOn (s : State) (die : Nat) : Bool := decide (s.fld (clePage die) 0x108 0 1 = 1)

/-! ## Reading -/

/-- What a LOAD has asked for so far: GETs sent, data by place, host reads owed. -/
structure Asked where
  n    : Nat := 0
  got  : Tab Byte := []
  host : List (HostPart × Nat) := []
  lines : List (Nat × Nat × Nat) := []
  deriving DecidableEq, Repr

/-- One piece of a tray line: taken from the cache, or asked for, whole where it is to be allocated (R291). Counters 11 and 12 of
CLE. -/
def State.loadLine (s : State) (t c id hint : Nat) (pos m off pa n : Nat) (r : Asked) : Asked × State :=
  let die := tileDie t
  let pg := engPage t .lde
  match s.tlcLine die c pa with
  | (some b, s) =>
    let s := s.count (clePage die) 11 (some c)
    let s := if hint = 3 then s.modMem fun x => { x with tlc := Tab.erase x.tlc (tlcKey die c pa) } else s
    ({ r with got := putBytes r.got pos ((b.drop (pa % 256)).take n) }, s)
  | (none, s) =>
    let s := s.count (clePage die) 12 (some c)
    let whole := decide (hint = 0 ∨ hint = 2)
    let (k, s) := if whole then s.trayRead c (.tile t id) pg die 0 m (off / 256 * 256) 256 (fun j => .buf (tlcGot + pa / 256 * 256 + j))
      else s.trayRead c (.tile t id) pg die 0 m off n (fun j => .buf (pos + j))
    ({ r with n := r.n + k, lines := if whole then r.lines ++ [(pos, pa, n)] else r.lines }, s)

/-- One segment of a LOAD, its first byte at place `pos`: local bytes are read now, others asked for. -/
def State.loadSeg (s : State) (t c id hint pos : Nat) (g : Seg) (r : Asked) : Asked × State :=
  let die := tileDie t
  match regionOf s.member g.pa with
  | .local a =>
    let (b, s) := s.memRead (some c) a g.len hint (!g.noalloc)
    ({ r with got := putBytes r.got pos b }, s)
  | .tray m off =>
    if s.tlcOn die && decide (g.kind = 1) then
      (linePieces g.pa g.len).foldl (fun (q : Asked × State) p =>
        q.2.loadLine t c id hint (pos + (p.1 - g.pa)) m (off + (p.1 - g.pa)) p.1 p.2 q.1) (r, s)
    else
      let (k, s) := s.trayRead c (.tile t id) (engPage t .lde) die 0 m off g.len (fun j => .buf (pos + j))
      ({ r with n := r.n + k }, s)
  | .host _ =>
    (match s.segHost c false g with
     | .inr ps => ({ r with host := r.host ++ (ps.foldl (fun (q : List (HostPart × Nat) × Nat) p => (q.1 ++ [(p, q.2)], q.2 + p.len)) ([], pos)).1 }, s)
     | .inl _ => (r, s))
  | .unmapped => (r, s)

/-! ## Operations towards the host (R394, R397) -/

/-- Operations of a QP leave in order, sixteen READs outstanding at most. -/
def qpIssue (qpn : Nat) : Nat → Bool → List RdmaOp → List RdmaOp × List Out
  | _, _, [] => ([], [])
  | reads, stop, o :: os =>
    if o.sent then
      let r := qpIssue qpn (reads + flag o.read) stop os
      (o :: r.1, r.2)
    else if stop || (o.read && decide (16 ≤ reads)) then
      let r := qpIssue qpn reads true os
      (o :: r.1, r.2)
    else
      let r := qpIssue qpn (reads + flag o.read) false os
      ({ o with sent := true } :: r.1, (if o.read then Out.rdmaRead qpn o.rkey o.va o.len else Out.rdmaWrite qpn o.rkey o.va o.data) :: r.2)

/-- A QP sends what it can; a flight counts what it has not sent (R84). What a port that is down should carry is lost, and the
retries find out (R397). -/
def State.qpPump (s : State) (qpn : Nat) : State :=
  let q := Tab.get {} s.host.qps qpn
  if !q.there || q.error then s
  else
    let r := qpIssue qpn 0 false q.ops
    let now := (q.ops.zip r.1).filter fun p => !p.1.sent && p.2.sent
    let up := decide (Tab.get 0 s.host.linkUp q.port = 2)
    let timer := if now.isEmpty then q.timer else s.time
    let s := { (s.modHost fun h => { h with qps := Tab.set {} h.qps qpn { q with ops := r.1, timer := timer } }) with
      out := s.out ++ if up then r.2 else [] }
    let s := if up then s.roceOut q.port (r.2.map (rocePackets q.mtu)).sum else s
    now.foldl (fun s p => s.modTileOf q.ctx p.1.t (mapFlight p.1.flight fun f => { f with unsent := f.unsent - 1 })) s

/-- An operation enters its QP. -/
def State.qpPut (s : State) (qpn : Nat) (o : RdmaOp) : State :=
  (s.modHost fun h => { h with qps := Tab.mod {} h.qps qpn fun q => { q with ops := q.ops ++ [o] } }).qpPump qpn

/-! ## The end of a LOAD -/

/-- The data of a LOAD of n bytes: pieces of whole tray lines come to their places. -/
def loadData (f : Flight) (n : Nat) : List Byte :=
  getBytes (f.lines.foldl (fun m p => putBytes m p.1 (getBytes f.got (tlcGot + p.2.1) p.2.2)) f.got) 0 n

/-- The block-exponent array of moved rows (R119), as local writes. -/
def LsF.bexpWrites (x : LsF) (rows : List (List Byte)) : List LWrite :=
  if !x.bexp then []
  else
    let pats := rows.map fun r => let v := ofBytes r; (List.range x.elems).map fun j => elemAt x.bfmt v j
    (List.range x.bexpRows).map fun i =>
      { rf := false, addr := x.baddr + i * x.bpitch
        data := (List.range x.bexpLen).map fun j =>
          BitVec.ofNat 8 (bexpByte x.bfmt
            (if x.bdir then ((pats.drop (32 * i)).take 32).map fun r => r.getD j 0 else ((pats.getD i []).drop (32 * j)).take 32)) }

/-- The local writes of rows moved to a destination. -/
def LsF.rowWrites (x : LsF) (rows : List (List Byte)) : List LWrite :=
  (rows.mapIdx fun i r => { rf := x.lsel, addr := x.laddr + i * x.lstride, data := r : LWrite }) ++ x.bexpWrites rows

/-- The row numbers of a GATHER as it read them at its start; a LOAD's rows follow one another. -/
def LsF.vas (x : LsF) (idx : Option (List Nat)) : List Nat :=
  (List.range x.rows).map fun i => (x.maddr + (match idx with | some l => l.getD i 0 | none => i) * x.mstride) % 2 ^ 64

/-- Lines that a LOAD has read whole enter the tray line cache of its die. -/
def State.tlcFill (s : State) (die c : Nat) (f : Flight) : State :=
  s.modMem fun m =>
    { m with tlc := f.lines.foldl (fun k p => let pa := p.2.1 / 256 * 256
                                              Tab.set [] k (tlcKey die c pa) (getBytes f.got (tlcGot + pa) 256)) m.tlc }

/-- Every byte of a LOAD has arrived: its rows, and the block exponents of them, are in flight to tile storage. -/
def State.loadEnd (s : State) (t c : Nat) (f : Flight) : State :=
  let x := lsOf f.desc
  let d := loadData f (x.rows * x.rlen)
  (s.tlcFill (tileDie t) c f).modFlight t f.id fun f =>
    { f with phase := 2, got := [], lines := [], writes := x.rowWrites (cutRows x.rlen x.rows d) }

/-! ## Commands -/

/-- A command that names memory whose stack is off, or memory that does not reach, is refused (R97, R130, R256): 0x0C4 stands on
the HMC page already. -/
def State.refuseReach (s : State) (t : Nat) (e : Eng) (d : Desc) (code : Nat) : State :=
  if code = 0x0C4 then s.takeDesc t e d fun f => { f with refused := true, sev := 2, code := code }
  else s.refuseDesc t e d code

/-- The row numbers of a GATHER's index list, read at its start (R118). -/
def State.indexList (s : State) (t : Nat) (x : LsF) : List Nat × State :=
  let (b, s) := s.localRead t false x.baddr (4 * x.rows)
  ((List.range x.rows).map fun i => ofBytes ((b.drop (4 * i)).take 4), s)

/-- LOAD or GATHER after its checks. -/
def State.loadRun (t : Nat) (ecc : Ecc) (d : Desc) (s0 : State) : State :=
  let die := tileDie t
  let pg := engPage t .lde
  let x := lsOf d
  match s0.ctxOf t with
  | none => s0.refuseDesc t .lde d 0x021
  | some c =>
    let (idx, s) := if d.op = 3 then (let r := s0.indexList t x; (some r.1, r.2)) else (none, s0)
    match s.lsReach die c false (x.vas idx) x.rlen with
    | (.refused k, s) => s.refuseReach t .lde d k
    | (.held, _) => s0
    | (.go gs, s) =>
      let id := (s.tile t).serial
      let s := s.takeDesc t .lde d (fun f => f)
      let (m, s) := s.tlcError die c ecc
      let s := s.countLevels pg false x.hint gs
      let r := gs.foldl (fun (q : Asked × Nat × State) g =>
        let (a, s) := q.2.2.loadSeg t c id x.hint q.2.1 g q.1
        (a, q.2.1 + g.len, s)) (({} : Asked), 0, s)
      let a := r.1
      let n := a.n + a.host.length
      let s := r.2.2.modFlight t id fun f =>
        { (f.meet m) with phase := 1, bytes := x.rows * x.rlen, got := a.got, lines := a.lines, left := n, unsent := n }
      if n = 0 then s.loadEnd t c (((s.tile t).flights.find? fun f => decide (f.id = id)).getD { id := id, eng := Eng.lde, desc := d })
      else
        (a.host.foldl (fun s p =>
          s.qpPut p.1.qpn { read := true, t := t, flight := id, dest := .buf p.2, len := p.1.len, va := p.1.va, rkey := p.1.rkey }) s).pump

/-- LOAD: memory to tile store or register file (R118). -/
def execLoad (t : Fin 192) (ecc : Ecc) (s : State) : Host.Outcome State Fault Refusal :=
  .next (s.engineStart t .lde [1, 2, 3] 1 (fun _ => true) (fun d _ => lsBad false d (lsOf d)) (State.loadRun t ecc))

/-- GATHER: memory rows named by an index list (R118). -/
def execGather (t : Fin 192) (ecc : Ecc) (s : State) : Host.Outcome State Fault Refusal :=
  .next (s.engineStart t .lde [1, 2, 3] 3 (fun _ => true) (fun d _ => lsBad false d (lsOf d)) (State.loadRun t ecc))

/-- Rows of a COPY in order: each is read after the rows before it have been moved, in the units that they meet (R76). -/
def State.copyRows (t : Nat) (x : LsF) (src dst : Bool) : Nat → State → List (List Byte) × State
  | 0, s => ([], s)
  | n + 1, s =>
    let (rows, s) := State.copyRows t x src dst n s
    let a := x.saddr + n * x.sstride
    let (b, s) := s.localRead t src a x.rlen
    let own := (rows.mapIdx fun i r => (x.laddr + i * x.lstride, r)).filter fun w => decide (src = dst) && overlaps a x.rlen w.1 w.2.length
    if own.isEmpty then (rows ++ [b], s)
    else (rows ++ [overlay s.draws a 0 own b], { s with draws := s.draws + own.length })

/-- A COPY after its checks: level 1 of the engine's counters. -/
def State.copyRun (t : Nat) (e : Eng) (ecc : Ecc) (d : Desc) (s : State) : State :=
  let x := lsOf d
  let src := decide (e = .ste) && x.ssel
  let dst := decide (e = .lde) && x.lsel
  let id := (s.tile t).serial
  let s := s.takeDesc t e d (fun f => f)
  let (m, s) := s.eccTile t ecc
  let (rows, s) := State.copyRows t x src dst x.rows s
  let y := { x with lsel := dst, bexp := decide (e = Eng.lde) && x.bexp }
  (s.count (engPage t e) 0 none (x.rows * x.rlen)).modFlight t id fun f =>
    { (f.meet m) with bytes := x.rows * x.rlen, writes := y.rowWrites rows }

/-- COPY of the LDE: tile store to tile store or register file (R118). -/
def execLdeCopy (t : Fin 192) (ecc : Ecc) (s : State) : Host.Outcome State Fault Refusal :=
  .next (s.engineStart t .lde [1, 2, 3] 2 (fun _ => true) (fun d _ => lsBad false d (lsOf d)) (State.copyRun t .lde ecc))

/-- COPY of the STE: tile store or register file to tile store (R128). -/
def execSteCopy (t : Fin 192) (ecc : Ecc) (s : State) : Host.Outcome State Fault Refusal :=
  .next (s.engineStart t .ste [1, 2] 2 (fun _ => true) (fun d _ => lsBad true d (lsOf d)) (State.copyRun t .ste ecc))

/-- One segment of a STORE: local bytes wait under the flight, tray bytes leave as PUTs, host bytes as RDMA WRITEs. -/
def State.storeSeg (s : State) (t c id hint : Nat) (g : Seg) (d : List Byte) : Nat × State :=
  match regionOf s.member g.pa with
  | .local a =>
    (0, s.modMem fun m => { m with writes := m.writes ++ [{ id := memId t id, addr := a, data := d, hint := BitVec.ofNat 2 hint, alloc := !g.noalloc }] })
  | .tray m off => s.trayWrite c (.tile t id) (engPage t .ste) (tileDie t) 0 m off d
  | .host _ =>
    (match s.segHost c true g with
     | .inr ps =>
       let r := ps.foldl (fun (q : State × List Byte) p =>
         (q.1.modHost fun h => { h with qps := Tab.mod {} h.qps p.qpn fun qp => { qp with ops := qp.ops ++
             [{ read := false, t := t, flight := id, dest := .none, len := p.len, va := p.va, rkey := p.rkey, data := q.2.take p.len }] } },
          q.2.drop p.len)) (s, d)
       (ps.length, r.1)
     | .inl _ => (0, s))
  | .unmapped => (0, s)

/-- STORE after its checks. -/
def State.storeRun (t : Nat) (ecc : Ecc) (d : Desc) (s0 : State) : State :=
  let x := lsOf d
  match s0.ctxOf t with
  | none => s0.refuseDesc t .ste d 0x021
  | some c =>
    match s0.lsReach (tileDie t) c true (x.vas none) x.rlen with
    | (.refused k, s) => s.refuseReach t .ste d k
    | (.held, _) => s0
    | (.go gs, s) =>
      let id := (s.tile t).serial
      let s := s.takeDesc t .ste d (fun f => f)
      let (m, s) := s.eccTile t ecc
      let r := (List.range x.rows).foldl (fun (q : List Byte × State) i =>
        let (b, s) := q.2.localRead t x.lsel (x.laddr + i * x.lstride) x.rlen
        (q.1 ++ b, s)) (([] : List Byte), s)
      let s := r.2.countLevels (engPage t .ste) true x.hint gs
      let w := gs.foldl (fun (q : Nat × List Byte × State) g =>
        let (k, s) := q.2.2.storeSeg t c id x.hint g (q.2.1.take g.len)
        (q.1 + k, q.2.1.drop g.len, s)) (0, r.1, s)
      let s := w.2.2.modFlight t id fun f => { (f.meet m) with bytes := x.rows * x.rlen, left := w.1, unsent := w.1 }
      let qs := firsts (gs.flatMap fun g => match s.segHost c true g with
        | .inr ps => ps.map HostPart.qpn
        | .inl _ => []) []
      (qs.foldl (fun s q => s.qpPump q) s).pump

/-- STORE: tile store or register file to memory (R128). -/
def execStore (t : Fin 192) (ecc : Ecc) (s : State) : Host.Outcome State Fault Refusal :=
  .next (s.engineStart t .ste [1, 2] 1 (fun _ => true) (fun d _ => lsBad true d (lsOf d)) (State.storeRun t ecc))

/-! ## Completion of any engine's descriptor (R81, R84) -/

/-- DESCRIPTOR_COMPLETE: the oldest started descriptor of an engine completes once nothing of it is outstanding (R81). -/
def execDescriptorComplete (t : Fin 192) (e : Eng) (heldNs : Nat) (s : State) : Host.Outcome State Fault Refusal :=
  if !s.tileRuns t then .next s else
  let find (s : State) (id : Nat) : Option Flight := (s.tile t).flights.find? fun f => decide (f.id = id)
  match (s.tile t).flightsOf e with
  | [] => .next s
  | f :: _ =>
    if !s.tileRuns t || !f.finished || (decide (f.eng = .mxe ∧ f.desc.op = 3 ∧ f.phase ≠ 3) && !f.refused) then .next s
    else
      let s := if e = .lde ∧ f.phase = 1 ∧ f.refused = false then (match s.ctxOf t with
          | some c => s.loadEnd t c f
          | none => s) else s
      match find s f.id with
      | some f => .next (s.completeFlight t e f heldNs)
      | none => .next s

/-! ## Idle scrub (R341, R376) -/

/-- IDLE_SCRUB: while TMON.SCRUB_EN = 1 the idle scrub reads a word of tile store or of the register file (R341). -/
def execIdleScrub (t : Fin 192) (rf : Bool) (ecc : Ecc) (s : State) : Host.Outcome State Fault Refusal :=
  let loc (n : Nat) : Nat := if rf then n % 2 ^ 16 + 2 ^ 20 else n % (storeBytes / 8)
  if !s.tileRuns t || s.fld (tmonPage t) 0x100 0 1 = 0 then .next s
  else match ecc with
    | .clean => .next s
    | .corrected n => .next (s.eccTile t (.corrected (loc n))).2
    | .uncorrectable n => .next (s.eccTile t (.uncorrectable (loc n))).2

end Sys2Proof.Machine
end

