-- ==== Sys2Proof/Machine/Qps.lean ====
section
/-! DEFINITION. RoCEv2: queue pairs, inbound RDMA operations, and the answers to the operations that carry the device's own accesses
to host memory (R394 to R397), with the neighbour and echo answers of a host port (R380). -/

namespace Sys2Proof.Machine

/-! ## Queue pairs -/

/-- The send rate of a QP: what the last CNP left, and 1 GB/s more every 55 µs (R397). -/
def Qp.rateNow (q : Qp) (now : Nat) : Nat := min 50000 (q.rate + (now - q.rateAt) / 55000 * 1000)

/-- RoCEv2 traffic of a QP reaches the device: bring-up is complete, the package works and the port's link is up (R389). -/
def State.qpHears (s : State) (n : Nat) : Bool :=
  s.awake && decide (s.pkg.stage = 7) && (s.qp n).there && decide (s.linkState (s.qp n).port = 2)

/-- An ECN-marked packet arrives on a QP: it produces a CNP, at most once per 50 µs (R397). -/
def State.ecnMark (s : State) (n : Nat) (ecn : Bool) : State :=
  if ecn && ((s.qp n).cnpAt.all fun t => decide (t + 50000 ≤ s.time)) then
    (s.modQp n fun q => { q with cnpAt := some s.time }).qpSay n (.cnp n)
  else s

/-- The packets of a RoCEv2 message of len bytes are received on a QP's port, marked or not: HEN counters 0 and 7. -/
def State.qpHeard (s : State) (n : Nat) (ecn : Bool) (len : Nat := 0) : State :=
  let s := s.ecnMark n ecn
  let q := s.qp n
  (s.count (henPage q.port) 7 none (packetsOf q.mtu len)).count (henPage q.port) 0 none (packetsOf q.mtu len)

/-! ## Inbound operations (R396) -/

/-- An inbound request is entered with its answer, and what is due is answered. -/
def State.qpAnswer (s : State) (n : Nat) (a : Nat) : State :=
  let id := s.host.bound
  (s.modHost fun h => { h with bound := id + 1, inbound := h.inbound ++ [{ id := id, qpn := n, answer := a }] }).answersDue

/-- The registration that an R_Key names for a QP, where it covers the range with the right (R396). -/
def State.mrOf (s : State) (c : Nat) (rkey : BitVec 32) (va n : Nat) (write : Bool) : Bool :=
  s.host.mrs.any fun e => e.2.there && decide (e.2.rkey = rkey ∧ e.2.ctx = c ∧ e.2.va ≤ va ∧ va + n ≤ e.2.va + e.2.len)
    && (if write then e.2.wr else e.2.rd)

/-- Largest message (R394). -/
def maxMessage : Nat := 2 ^ 30

/-- The segments of an inbound operation: checked against its R_Key, then translated with rights and reach again (R395, R396). Host
memory is no target. -/
def State.rdmaReach (s : State) (n : Nat) (rkey : BitVec 32) (va len : Nat) (write : Bool) : Option (List Seg) × State :=
  let q := s.qp n
  if !s.mrOf q.ctx rkey va len write then (none, s)
  else match s.reach (2 + q.port) (some q.ctx) va len write with
    | (.refused _, s) => (none, s)
    | (.ok gs, s) => (some gs, s)

/-- An inbound operation whose memory is held (R41, R256): it is not served yet. -/
def State.rdmaHeld (s : State) (n : Nat) (rkey : BitVec 32) (va len : Nat) (write : Bool) : Bool :=
  match (s.rdmaReach n rkey va len write).1 with | some gs => s.segsHeld gs | none => false

/-- The identity of memory writes that an RDMA operation makes good at once. -/
def rdmaMem : Nat := memId 202 0

/-- RDMA_WRITE (R396): checked, applied with default allocation, and acknowledged once tray memory has answered. -/
def execRdmaWrite (qpn : BitVec 24) (rkey : BitVec 32) (va : Word) (data : List Byte) (ecn : Bool) (s : State) : Host.Outcome State Fault Refusal :=
  let n := qpn.toNat
  if !s.qpHears n || (s.qp n).error || (decide (data.length ≤ maxMessage) && s.rdmaHeld n rkey va.toNat data.length true) then .next s
  else
    let s := s.qpHeard n ecn data.length
    let q := s.qp n
    if maxMessage < data.length then .next (s.qpAnswer n 3)
    else match s.rdmaReach n rkey va.toNat data.length true with
      | (none, s) => .next (s.qpAnswer n 2)
      | (some gs, s) =>
        let id := s.host.bound
        let (k, s) := s.reachWrite q.ctx (.rdma id) (henPage q.port) (2 + q.port) 0 rdmaMem 0 gs data
        let s := s.flushWrites (some q.ctx) rdmaMem
        .next (((s.modHost fun h => { h with bound := id + 1, inbound := h.inbound ++ [{ id := id, qpn := n, left := k }] }).pump).answersDue)

/-- RDMA_READ (R396): checked, and answered with what memory holds; sixteen outstanding at most (R394). -/
def execRdmaRead (qpn : BitVec 24) (rkey : BitVec 32) (va : Word) (len : Nat) (ecn : Bool) (s : State) : Host.Outcome State Fault Refusal :=
  let n := qpn.toNat
  if !s.qpHears n || (s.qp n).error || (decide (len ≤ maxMessage) && s.rdmaHeld n rkey va.toNat len false) then .next s
  else
    let s := s.qpHeard n ecn
    let q := s.qp n
    if maxMessage < len ∨ 16 ≤ (s.host.inbound.filter fun x => decide (x.qpn = n ∧ x.answer = 1)).length then .next (s.qpAnswer n 3)
    else match s.rdmaReach n rkey va.toNat len false with
      | (none, s) => .next (s.qpAnswer n 2)
      | (some gs, s) =>
        let id := s.host.bound
        let r := gs.foldl (fun (r : Nat × Tab Byte × Nat × State) g =>
          match r.2.2.2.localOf g, r.2.2.2.trayOf g with
          | some a, _ =>
            let (b, s) := r.2.2.2.memRead (some q.ctx) a g.len 0 (!g.noalloc)
            (r.1, putBytes r.2.1 r.2.2.1 b, r.2.2.1 + g.len, s)
          | none, some (m, off) =>
            let (k, s) := r.2.2.2.trayRead q.ctx (.rdma id) (henPage q.port) (2 + q.port) 0 m off g.len (fun j => .buf (r.2.2.1 + j))
            (r.1 + k, r.2.1, r.2.2.1 + g.len, s)
          | none, none => r) (0, ([] : Tab Byte), 0, s)
        .next (((r.2.2.2.modHost fun h =>
          { h with bound := id + 1
                   inbound := h.inbound ++ [{ id := id, qpn := n, answer := 1, len := len, got := r.2.1, left := r.1 }] }).pump).answersDue)

/-- The receive ring of a QP is full: the entries filled less those that the host has consumed, by the consumer word (R396). -/
def State.ringFull (s : State) (q : Qp) : Option Bool × State :=
  match s.loadVirt (2 + q.port) q.ctx (q.ringVa.toNat + q.entries * q.entSize) 8 0 with
  | (none, s) => (none, s)
  | (some b, s) => (some (decide (q.entries ≤ q.head - ofBytes b)), s)

/-- The receive ring's memory that a SEND of m bytes needs is held (R41, R256). -/
def State.sendHeld (s : State) (n m : Nat) : Bool :=
  let q := s.qp n
  decide (m ≤ q.entSize) && (s.vaHeld (2 + q.port) q.ctx (q.ringVa.toNat + q.entries * q.entSize) 8 false
    || s.vaHeld (2 + q.port) q.ctx (q.ringVa.toNat + q.head % q.entries * q.entSize) m true)

/-- RDMA_SEND (R396): the next receive-ring entry is filled and a receive record queued; a full ring answers NAK RNR. -/
def execRdmaSend (qpn : BitVec 24) (data : List Byte) (ecn : Bool) (s : State) : Host.Outcome State Fault Refusal :=
  let n := qpn.toNat
  if !s.qpHears n || (s.qp n).error || s.sendHeld n data.length then .next s
  else
    let s := s.qpHeard n ecn data.length
    let q := s.qp n
    if q.entSize < data.length then .next (s.qpAnswer n 3)
    else match s.ringFull q with
      | (none, s) => .next (s.qpAnswer n 2)
      | (some true, s) => .next (s.qpAnswer n 4)
      | (some false, s) =>
        let i := q.head % q.entries
        match s.storeVirt (2 + q.port) q.ctx (q.ringVa.toNat + i * q.entSize) data 0 with
        | (false, s) => .next (s.qpAnswer n 2)
        | (true, s) =>
          let s := s.modQp n fun q => { q with head := q.head + 1 }
          let s := s.queueRec (2048 + 8 * q.ctx + 1) 2 0 [BitVec.ofNat 64 (n + data.length * 2 ^ 32), BitVec.ofNat 64 i, 0, 0]
          .next (s.qpAnswer n 0)

/-- UNSUPPORTED_RDMA_OPCODE: NAK Invalid Request, and the QP enters ERROR (R394). -/
def execUnsupportedRdmaOpcode (qpn : BitVec 24) (ecn : Bool) (s : State) : Host.Outcome State Fault Refusal :=
  let n := qpn.toNat
  if s.qpHears n && !(s.qp n).error then .next ((s.qpHeard n ecn).qpAnswer n 3) else .next s

/-! ## Answers to the device's own operations (R397) -/

/-- The end of an operation for the flight it serves. -/
def State.opEnd (s : State) (c : Nat) (o : RdmaOp) (data : List Byte) : State :=
  s.modTileOf c o.t (mapFlight o.flight fun f =>
    { f with left := f.left - 1
             got := match o.dest with
               | .buf pos => putBytes f.got pos data
               | _ => f.got })

/-- The operations of a QP up to and with number i have been answered; the others go on. -/
def State.opsDone (s : State) (n i : Nat) : State :=
  (s.modQp n fun q => { q with ops := q.ops.drop (i + 1), tries := 0, rnrs := 0, timer := s.time }).qpPump n

/-- READ_RESPONSE: the oldest RDMA READ of a QP has its data; WRITEs before it are thereby acknowledged. -/
def execReadResponse (qpn : BitVec 24) (data : List Byte) (ecn : Bool) (s : State) : Host.Outcome State Fault Refusal :=
  let n := qpn.toNat
  let q := s.qp n
  if !s.qpHears n || q.error then .next s
  else
    let s := s.qpHeard n ecn data.length
    match q.ops.findIdx? fun o => o.read with
    | none => .next s
    | some i => match q.ops[i]? with
      | none => .next s
      | some o =>
        if !o.sent || decide (data.length ≠ o.len) then .next s
        else
          let s := (q.ops.take i).foldl (fun s w => s.opEnd q.ctx w []) s
          .next ((s.opEnd q.ctx o data).opsDone n i)

/-- WRITE_ACK: the oldest operation of a QP, an RDMA WRITE, is acknowledged. -/
def execWriteAck (qpn : BitVec 24) (ecn : Bool) (s : State) : Host.Outcome State Fault Refusal :=
  let n := qpn.toNat
  let q := s.qp n
  if !s.qpHears n || q.error then .next s
  else
    let s := s.qpHeard n ecn
    match q.ops with
    | [] => .next s
    | o :: _ => if o.read || !o.sent then .next s else .next ((s.opEnd q.ctx o []).opsDone n 0)

/-- Every operation that has been sent leaves again. -/
def State.qpAgain (s : State) (n : Nat) : State :=
  let q := s.qp n
  let s := q.ops.foldl (fun s o => s.modTileOf q.ctx o.t (mapFlight o.flight fun f => { f with unsent := f.unsent + flag o.sent })) s
  (s.modQp n fun q => { q with ops := q.ops.map fun o => { o with sent := false }, timer := s.time }).qpPump n

/-- RDMA_NAK (R394, R397): an RNR NAK is retried under the RNR retry count, a sequence NAK by sending again, and any other NAK moves
the QP to ERROR. -/
def execRdmaNak (qpn : BitVec 24) (syndrome : Byte) (ecn : Bool) (s : State) : Host.Outcome State Fault Refusal :=
  let n := qpn.toNat
  let q := s.qp n
  if !s.qpHears n || q.error then .next s
  else
    let s := s.qpHeard n ecn
    if q.ops.isEmpty then .next s
    else if syndrome.toNat / 32 = 1 then
      (if q.rnrs < q.rnr then .next ((s.modQp n fun q => { q with rnrs := q.rnrs + 1 }).qpAgain n) else .next (s.qpError n syndrome.toNat))
    else if syndrome = 0x60 then
      (if q.tries < q.retries then .next ((s.modQp n fun q => { q with tries := q.tries + 1 }).qpAgain n) else .next (s.qpError n syndrome.toNat))
    else .next (s.qpError n syndrome.toNat)

/-- QP_RETRY_TIMEOUT: the local ACK timeout, 4.096 µs × 2^n, expires; the QP retries, or enters ERROR with its retries exhausted (R394,
R397). The syndrome of the record is then a free value. -/
def execQpRetryTimeout (qpn : BitVec 24) (s : State) : Host.Outcome State Fault Refusal :=
  let n := qpn.toNat
  let q := s.qp n
  if !s.awake || !q.there || q.error || !(q.ops.any fun o => o.sent) || decide (s.time < q.timer + 4096 * 2 ^ q.timeout) then .next s
  else if q.tries < q.retries then .next ((s.modQp n fun q => { q with tries := q.tries + 1 }).qpAgain n)
  else
    let (k, s) := s.draw
    .next (s.qpError n ((Config.freeWord k).toNat % 256))

/-- CNP: the QP's send rate is halved (R397), while QOS.ECN_EN = 1 (R398). -/
def execCnp (qpn : BitVec 24) (s : State) : Host.Outcome State Fault Refusal :=
  let n := qpn.toNat
  if !s.qpHears n then .next s
  else
    let pg := henPage (s.qp n).port
    let s := (s.qpHeard n false).count pg 10
    if s.fld pg 0x400 10 1 = 1 then .next (s.modQp n fun q => { q with rate := q.rateNow s.time / 2, rateAt := s.time }) else .next s

/-! ## Neighbour Discovery and echo (R380) -/

/-- The unicast address of a port (HEN.IP6), and its link-local address, formed from the MAC. -/
def State.unicast (s : State) (q : Nat) : Nat := (s.raw (henPage q) 0x110).toNat + (s.raw (henPage q) 0x118).toNat * 2 ^ 64
def State.linkLocal (s : State) (q : Nat) : Nat :=
  let mac := s.fld (henPage q) 0x108 0 48
  0xFE80 * 2 ^ 112 + (mac / 2 ^ 24 ^^^ 2 ^ 17) * 2 ^ 40 + 0xFFFE * 2 ^ 24 + mac % 2 ^ 24
/-- The address is one of the port's own. -/
def State.ownAddr (s : State) (q : Nat) (a : BitVec 128) : Bool := decide (a.toNat = s.unicast q ∨ a.toNat = s.linkLocal q)
/-- The port exchanges frames. -/
def State.hears (s : State) (q : Nat) : Bool := s.portLive && decide (s.linkState q = 2)
/-- A frame comes in, and another leaves: HEN counters 0 and 1. -/
def State.frameIn (s : State) (q : Nat) : State := s.count (henPage q) 0
def State.frameOut (s : State) (q : Nat) (o : Out) : State := (s.send o).count (henPage q) 1

/-- NEIGHBOR_SOLICITATION: a solicitation of an own address is answered, to all nodes where it has no source. -/
def execNeighborSolicitation (port : Fin 2) (target : BitVec 128) (src : BitVec 128) (s : State) : Host.Outcome State Fault Refusal :=
  if !s.hears port then .next s
  else
    let s := s.frameIn port
    if s.ownAddr port target then
      .next (s.frameOut port (.neighbor port target (if src = 0 then 0xFF020000000000000000000000000001 else src)))
    else .next s

/-- ECHO_REQUEST: an ICMPv6 echo request to an own address is answered with its data. -/
def execEchoRequest (port : Fin 2) (dst : BitVec 128) (src : BitVec 128) (data : List Byte) (s : State) : Host.Outcome State Fault Refusal :=
  if !s.hears port then .next s
  else
    let s := s.frameIn port
    if s.ownAddr port dst then .next (s.frameOut port (.echo port dst src data)) else .next s

end Sys2Proof.Machine
end

