-- ==== Sys2Proof/Machine/Rows.lean ====
section
/-! DEFINITION. The commands that are one write or read of a control page by a source. -/

namespace Sys2Proof.Machine

/-! ## Common registers (R36 to R41) -/

/-- ENABLE_WRITE: CTL.ENABLE is written (R36, R41). -/
def execEnableWrite (a : Access) (page : Fin 1781) (en : Bool) (s : State) : Host.Outcome State Fault Refusal :=
  .next (s.rowDo a page 0x010 fun s => s.enableAct page en)
/-- QUIESCE: CTL.QUIESCE starts draining the block (R437). -/
def execQuiesce (a : Access) (page : Fin 1781) (s : State) : Host.Outcome State Fault Refusal :=
  .next (s.rowDo a page 0x010 fun s => s.startQuiesce page)
/-- BLOCK_RESET: CTL.RESET resets a quiesced block, and is rejected otherwise (R40). -/
def execBlockReset (a : Access) (page : Fin 1781) (s : State) : Host.Outcome State Fault Refusal :=
  .next (s.rowDo a page 0x010 fun s => s.resetAct page)
/-- CNT_CLEAR: the counters of the source's view are cleared (R36). -/
def execCntClear (a : Access) (page : Fin 1781) (s : State) : Host.Outcome State Fault Refusal :=
  .next (s.rowDo a page 0x010 fun s => s.clearCounts page (s.viewOf (s.roleOf a) page))
/-- ERR_FIRST_CLEAR: the record is cleared and capture re-armed (R36). -/
def execErrFirstClear (a : Access) (page : Fin 1781) (s : State) : Host.Outcome State Fault Refusal :=
  .next (s.rowDo a page 0x030 fun s => s.modPage page fun p => { p with err := {} })
/-- One read by a source, as a command of its own. -/
def State.rowRead (s : State) (a : Access) (n o : Nat) : State :=
  if s.reaches a then
    match s.regRead (s.roleOf a) (pageAddr n o) with
    | (some _, s) => s
    | (none, s) => s.refuseAccess a
  else s
/-- ERR_COUNT_READ: the count is returned and cleared (R36). -/
def execErrCountRead (a : Access) (page : Fin 1781) (s : State) : Host.Outcome State Fault Refusal := .next (s.rowRead a page 0x038)
/-- P_MAX_READ: P_MAX is returned and cleared (R418). -/
def execPMaxRead (a : Access) (s : State) : Host.Outcome State Fault Refusal := .next (s.rowRead a pwrPage 0x118)
/-- REGISTER_WRITE: a write of any word, under its field classes (R38, R39). -/
def execRegisterWrite (a : Access) (addr : Word) (val : Word) (s : State) : Host.Outcome State Fault Refusal :=
  .next (s.rowWrite a addr.toNat val)

/-! ## Tile pages -/

/-- RUN_START: SEQ.RUN.START (R41, R96). -/
def execRunStart (a : Access) (t : Fin 192) (s : State) : Host.Outcome State Fault Refusal :=
  .next (s.rowDo a (seqPage t) 0x110 fun s => s.runStartAct t)
/-- RUN_HALT: SEQ.RUN.HALT (R41, R96). -/
def execRunHalt (a : Access) (t : Fin 192) (s : State) : Host.Outcome State Fault Refusal :=
  .next (s.rowDo a (seqPage t) 0x110 fun s => s.runHaltAct t)

/-! ## Base-die engines -/

/-- JOB_GO: JOB.ADDR and JOB.CTX, then JOB.GO on the stack 0 page (R190, R212). -/
def execJobGo (a : Access) (addr : Word) (ctx : Fin 256) (s : State) : Host.Outcome State Fault Refusal :=
  .next ((s.rowWrite a (pageAddr (sbdPage 0) 0x100) addr).rowWrite a (pageAddr (sbdPage 0) 0x108) (BitVec.ofNat 64 (ctx.val + 2 ^ 8)))
/-- RT_BASE: every context's rings are re-read (R237). -/
def execRtBase (a : Access) (stack : Fin 4) (base : BitVec 52) (s : State) : Host.Outcome State Fault Refusal :=
  .next (s.rowWrite a (pageAddr (upePage stack) 0x100) (base.setWidth 64))
/-- UPE_COMMIT (R227, R237). -/
def execUpeCommit (a : Access) (stack : Fin 4) (ctx : Fin 256) (s : State) : Host.Outcome State Fault Refusal :=
  .next (s.rowWrite a (pageAddr (upePage stack) 0x118) (BitVec.ofNat 64 (ctx.val + 2 ^ 8)))
/-- UPE_ROLLBACK (R227, R237). -/
def execUpeRollback (a : Access) (stack : Fin 4) (ctx : Fin 256) (s : State) : Host.Outcome State Fault Refusal :=
  .next (s.rowWrite a (pageAddr (upePage stack) 0x118) (BitVec.ofNat 64 (ctx.val + 2 ^ 9)))
/-- C_LOAD: STEP.CTX, then STEP.C_LOAD (R237). -/
def execCLoad (a : Access) (stack : Fin 4) (ctx : Fin 256) (c : Word) (s : State) : Host.Outcome State Fault Refusal :=
  .next ((s.rowWrite a (pageAddr (upePage stack) 0x118) (BitVec.ofNat 64 ctx.val)).rowWrite a (pageAddr (upePage stack) 0x120) c)
/-- PT_BASE: every context's queues are re-read (R298, R311). -/
def execPtBase (a : Access) (stack : Fin 4) (base : BitVec 52) (s : State) : Host.Outcome State Fault Refusal :=
  .next (s.rowWrite a (pageAddr (clePage stack) 0x100) (base.setWidth 64))
/-- CLE_COMMIT (R299, R311). -/
def execCleCommit (a : Access) (stack : Fin 4) (ctx : Fin 256) (s : State) : Host.Outcome State Fault Refusal :=
  .next (s.rowWrite a (pageAddr (clePage stack) 0x118) (BitVec.ofNat 64 (ctx.val + 2 ^ 8)))
/-- CLE_ROLLBACK (R299, R311). -/
def execCleRollback (a : Access) (stack : Fin 4) (ctx : Fin 256) (s : State) : Host.Outcome State Fault Refusal :=
  .next (s.rowWrite a (pageAddr (clePage stack) 0x118) (BitVec.ofNat 64 (ctx.val + 2 ^ 9)))
/-- ATTEMPT_WRITE: STEP.CTX, then STEP.ATTEMPT (R311). -/
def execAttemptWrite (a : Access) (stack : Fin 4) (ctx : Fin 256) (v : Byte) (s : State) : Host.Outcome State Fault Refusal :=
  .next ((s.rowWrite a (pageAddr (clePage stack) 0x118) (BitVec.ofNat 64 ctx.val)).rowWrite a (pageAddr (clePage stack) 0x120) (v.setWidth 64))
/-- TLC_INVAL_ALL: every tray line of the die is dropped (R311). -/
def execTlcInvalAll (a : Access) (stack : Fin 4) (s : State) : Host.Outcome State Fault Refusal :=
  .next (s.rowDo a (clePage stack) 0x108 fun s => s.tlcInvalAct stack)

/-! ## Fabric -/

/-- PORT_RETRAIN: PORT.RETRAIN (R261, R279). -/
def execPortRetrain (a : Access) (port : Fin 6) (s : State) : Host.Outcome State Fault Refusal :=
  .next (s.rowDo a (rtrPage (portDie port)) (0x100 + 8 * portSlot port) fun s => s.retrain port)
/-- PORT_EN_WRITE: PORT.EN (R279). -/
def execPortEnWrite (a : Access) (port : Fin 6) (en : Bool) (s : State) : Host.Outcome State Fault Refusal :=
  .next (s.rowWrite a (pageAddr (rtrPage (portDie port)) (0x100 + 8 * portSlot port)) (BitVec.ofNat 64 (flag en * 2 ^ 8)))
/-- FLT_INVAL: FLT.CMD with GO on the stack 0 page (R276, R280). -/
def execFltInval (a : Access) (flow : BitVec 20) (ctx : Fin 256) (byCtx : Bool) (s : State) : Host.Outcome State Fault Refusal :=
  .next (s.rowWrite a (pageAddr (fltPage 0) 0x108) (BitVec.ofNat 64 (flow.toNat + ctx.val * 2 ^ 20 + flag byCtx * 2 ^ 28 + 2 ^ 29)))

/-! ## The Bureau, rounds and ageing -/

/-- RESYNC: SYNC.RESYNC (R323). -/
def execResync (a : Access) (s : State) : Host.Outcome State Fault Refusal := .next (s.rowWrite a (pageAddr burPage 0x328) 1)
/-- REPLAN: AGE.REPLAN (R374, R378). -/
def execReplan (a : Access) (s : State) : Host.Outcome State Fault Refusal := .next (s.rowWrite a (pageAddr agePage 0x108) 1)
/-- CT_BASE: the Bureau reads every commit record (R348). -/
def execCtBase (a : Access) (base : BitVec 52) (s : State) : Host.Outcome State Fault Refusal :=
  .next (s.rowWrite a (pageAddr burPage 0x340) (base.setWidth 64))
/-- SETTEE_RETRY: SETTEE.RETRY (R365). -/
def execSetteeRetry (a : Access) (s : State) : Host.Outcome State Fault Refusal := .next (s.rowDo a burPage 0x360 State.retryAct)
/-- QUARANTINE: QUAR.QUARANTINE (R367). -/
def execQuarantine (a : Access) (s : State) : Host.Outcome State Fault Refusal := .next (s.rowDo a burPage 0x358 State.quarantineAct)
/-- PKG_QUIESCE (R368). -/
def execPkgQuiesce (a : Access) (s : State) : Host.Outcome State Fault Refusal := .next (s.rowDo a burPage 0x370 State.pkgQuiesceAct)
/-- PKG_READY (R368). -/
def execPkgReady (a : Access) (s : State) : Host.Outcome State Fault Refusal := .next (s.rowDo a burPage 0x370 State.pkgReadyAct)
/-- WARM_RESET (R369). -/
def execWarmReset (a : Access) (s : State) : Host.Outcome State Fault Refusal := .next (s.rowDo a burPage 0x370 State.warmResetAct)

/-! ## Memory-side cache and translation -/

/-- XLAT_GO: the range, then XLAT.CTX, ALLCTX and GO on the stack 0 page (R244, R258). -/
def execXlatGo (a : Access) (ctx : Fin 256) (allCtx : Bool) (vaBase vaPages : BitVec 27) (s : State) : Host.Outcome State Fault Refusal :=
  .next (((s.rowWrite a (pageAddr (mscPage 0) 0x120) (BitVec.ofNat 64 (vaBase.toNat * 2 ^ 21))).rowWrite a (pageAddr (mscPage 0) 0x128)
    (vaPages.setWidth 64)).rowWrite a (pageAddr (mscPage 0) 0x118) (BitVec.ofNat 64 (ctx.val + flag allCtx * 2 ^ 8 + 2 ^ 9)))
/-- FLUSH (R252). -/
def execFlush (a : Access) (stack : Fin 4) (s : State) : Host.Outcome State Fault Refusal :=
  .next (s.rowDo a (mscPage stack) 0x108 fun s => s.flushAct stack false)
/-- MSC_INVAL_ALL (R252). -/
def execMscInvalAll (a : Access) (stack : Fin 4) (s : State) : Host.Outcome State Fault Refusal :=
  .next (s.rowDo a (mscPage stack) 0x108 fun s => s.flushAct stack true)
/-- HALF_OFF (R252). -/
def execHalfOff (a : Access) (stack : Fin 4) (halves : BitVec 2) (s : State) : Host.Outcome State Fault Refusal :=
  .next (s.rowWrite a (pageAddr (mscPage stack) 0x108) (BitVec.ofNat 64 (halves.toNat * 4)))

/-! ## Contexts and keys -/

/-- A KEY.SWITCH word with GO (R327, R340). -/
def switchWord (quad ctx mode : Nat) : Word := BitVec.ofNat 64 (quad + ctx * 2 ^ 6 + mode * 2 ^ 14 + 2 ^ 16)
/-- SWITCH_RESTORE: mode 0 (R327). -/
def execSwitchRestore (a : Access) (quad : Fin 64) (ctx : Fin 256) (s : State) : Host.Outcome State Fault Refusal :=
  .next (s.rowWrite a (pageAddr (keyPage 0) 0x108) (switchWord quad ctx 0))
/-- SWITCH_CLEAR: mode 1 (R327). -/
def execSwitchClear (a : Access) (quad : Fin 64) (ctx : Fin 256) (s : State) : Host.Outcome State Fault Refusal :=
  .next (s.rowWrite a (pageAddr (keyPage 0) 0x108) (switchWord quad ctx 1))
/-- SWITCH_VACATE: mode 2 (R327). -/
def execSwitchVacate (a : Access) (quad : Fin 64) (s : State) : Host.Outcome State Fault Refusal :=
  .next (s.rowWrite a (pageAddr (keyPage 0) 0x108) (switchWord quad 0 2))
/-- RELOAD (R326). -/
def execReload (a : Access) (ctx : Fin 256) (s : State) : Host.Outcome State Fault Refusal :=
  .next (s.rowWrite a (pageAddr (keyPage 0) 0x110) (BitVec.ofNat 64 (ctx.val + 2 ^ 8)))
/-- ERASE (R339). -/
def execErase (a : Access) (ctx : Fin 256) (mgmt : Bool) (s : State) : Host.Outcome State Fault Refusal :=
  .next (s.rowWrite a (pageAddr (keyPage 0) 0x118) (BitVec.ofNat 64 (ctx.val + flag mgmt * 2 ^ 8 + 2 ^ 9)))

/-! ## Host lists, power and test -/

/-- ACL_RELOAD (R382). -/
def execAclReload (a : Access) (s : State) : Host.Outcome State Fault Refusal := .next (s.rowDo a (henPage 0) 0x128 State.aclReloadAct)
/-- HRT_RELOAD (R397). -/
def execHrtReload (a : Access) (s : State) : Host.Outcome State Fault Refusal := .next (s.rowDo a (henPage 0) 0x130 State.hrtReloadAct)
/-- QUAD_ON (R406). -/
def execQuadOn (a : Access) (bits : BitVec 48) (s : State) : Host.Outcome State Fault Refusal :=
  .next (s.rowWrite a (pageAddr pwrPage 0x100) (bits.setWidth 64))
/-- HBM_ON: the HBM field of its word; the MSC field keeps its value (R406, R418). -/
def execHbmOn (a : Access) (bits : BitVec 16) (s : State) : Host.Outcome State Fault Refusal :=
  .next (s.rowWrite a (pageAddr pwrPage 0x108) (putBits (s.raw pwrPage 0x108) 0 16 bits.toNat))
/-- MSC_ON: the MSC field of its word; the HBM field keeps its value (R406, R418). -/
def execMscOn (a : Access) (bits : BitVec 8) (s : State) : Host.Outcome State Fault Refusal :=
  .next (s.rowWrite a (pageAddr pwrPage 0x108) (putBits (s.raw pwrPage 0x108) 16 8 bits.toNat))
/-- TST_RUN (R372). -/
def execTstRun (a : Access) (s : State) : Host.Outcome State Fault Refusal := .next (s.rowWrite a (pageAddr tstPage 0x100) 1)
/-- TST_ABORT (R377). -/
def execTstAbort (a : Access) (s : State) : Host.Outcome State Fault Refusal := .next (s.rowWrite a (pageAddr tstPage 0x100) 2)

end Sys2Proof.Machine
end

