-- ==== Sys2Proof/Machine/Seq.lean ====
section
/-! DEFINITION. The tile sequencer: fetching, legality, the instructions, the ends of its stalls, task picks, spill refills and the
stall watchdog (R72 to R93, R99 to R113). -/

namespace Sys2Proof.Machine

/-! ## The instruction word (R100) -/

def insOpc (w : Word) : Nat := bits w 0 8
def insPg (w : Word) : Nat := bits w 8 3
def insPn (w : Word) : Bool := w.getLsbD 11
def insRd (w : Word) : Nat := bits w 12 5
def insRa (w : Word) : Nat := bits w 17 5
def insRb (w : Word) : Nat := bits w 22 5
def insX (w : Word) : Nat := bits w 27 5
/-- IMM as it stands. -/
def insImm (w : Word) : BitVec 32 := BitVec.ofNat 32 (bits w 32 32)
/-- IMM sign-extended to 64 bits. -/
def insSimm (w : Word) : Word := (insImm w).signExtend 64
/-- The two fields of IMM in INS and EXT: position and width. -/
def insPos (w : Word) : Nat := bits w 32 6
def insWidth (w : Word) : Nat := bits w 38 7

/-! ## Legality (R102, R103) -/

/-- What an opcode uses: RD, RA, RB, X, and the bits of IMM; none for a value that has no entry in the map. -/
def insUses (opc : Nat) : Option (Bool × Bool × Bool × Bool × Nat) :=
  let all := 2 ^ 32 - 1
  if 0x01 ≤ opc ∧ opc ≤ 0x0D then some (true, true, true, false, 0)
  else if 0x17 ≤ opc ∧ opc ≤ 0x19 then some (true, true, false, false, 0x3F)
  else if 0x11 ≤ opc ∧ opc ≤ 0x1D then some (true, true, false, false, all)
  else match opc with
    | 0x00 => some (false, false, false, false, 0)
    | 0x1E => some (true, false, false, false, all)
    | 0x1F => some (true, false, false, false, all)
    | 0x20 => some (true, true, false, false, 0x1FFF)
    | 0x21 => some (true, true, false, false, 0x1FFF)
    | 0x28 => some (true, true, true, true, 0)
    | 0x29 => some (true, true, false, true, all)
    | 0x2A => some (true, true, true, true, 0)
    | 0x2B => some (true, true, true, true, 0)
    | 0x2C => some (true, true, false, true, all)
    | 0x30 => some (false, false, false, false, all)
    | 0x31 => some (false, true, false, false, 0)
    | 0x32 => some (true, false, false, false, all)
    | 0x33 => some (true, false, false, false, all)
    | 0x34 => some (false, false, false, false, 0)
    | 0x38 => some (true, true, false, false, all)
    | 0x39 => some (false, true, true, false, all)
    | 0x40 => some (false, false, false, true, 3)
    | 0x41 => some (true, false, false, true, 0)
    | 0x48 => some (false, false, false, true, 0xFFFF)
    | 0x49 => some (false, false, false, true, 0xF)
    | 0x4A => some (false, false, false, true, 0)
    | 0x4B => some (true, false, false, true, 0)
    | 0x50 => some (false, true, false, false, all)
    | 0x51 => some (false, false, false, false, 0)
    | 0x52 => some (false, false, false, false, 0x3F)
    | 0x58 => some (false, true, false, false, 0)
    | _ => none

/-- A code held in RD, X or IMM, or the task word of a TARM, has a meaning for the opcode (R102 to R106, R111, R112). -/
def insCodes (ti : Tile) (w : Word) : Bool :=
  match insOpc w with
  | 0x20 => decide (insWidth w ≠ 0 ∧ insPos w + insWidth w ≤ 64)
  | 0x21 => decide (insWidth w ≠ 0 ∧ insPos w + insWidth w ≤ 64)
  | 0x28 => decide (insRd w < 10 ∧ insX w < 8)
  | 0x29 => decide (insRd w < 10 ∧ insX w < 8)
  | 0x2A => decide (insRd w < 4 ∧ insRa w < 8 ∧ insRb w < 8 ∧ insX w < 8)
  | 0x2B => decide (insX w < 8) && (fcond (insRd w) (ofF32 0) (ofF32 0)).isSome
  | 0x2C => decide (insX w < 8) && (fcond (insRd w) (ofF32 0) (ofF32 0)).isSome
  | 0x40 => decide (insX w < 16)
  | 0x41 => decide (insX w < 16)
  | 0x49 => decide (bits w 32 4 ≠ 0)
  | 0x50 => decide (bits (ti.reg (insRa w)) 26 38 = 0)
  | 0x58 => decide (insRa w % 4 = 0)
  | _ => true

/-- The instruction is legal (R102). -/
def insLegal (ti : Tile) (w : Word) : Bool :=
  match insUses (insOpc w) with
  | none => false
  | some (rd, ra, rb, x, imm) =>
    (rd || decide (insRd w = 0)) && (ra || decide (insRa w = 0)) && (rb || decide (insRb w = 0)) && (x || decide (insX w = 0))
      && decide ((insImm w).toNat &&& (2 ^ 32 - 1 - imm) = 0) && insCodes ti w

/-- The guard holds (R101). -/
def insGuard (ti : Tile) (w : Word) : Bool := ti.pred (insPg w) != insPn w

/-! ## Running one instruction (R92, R99, R101) -/

/-- The sequencer runs and is not stalled. -/
def State.seqReady (s : State) (t : Nat) : Bool :=
  s.tileRuns t && decide ((s.tile t).seq = .running) && !(s.tile t).stopped && decide ((s.tile t).stall = .none)

/-- PC lies inside the program region. -/
def State.pcInside (s : State) (t : Nat) : Bool := decide ((s.tile t).pc.toNat < s.progLen t)

/-- The instruction at PC. -/
def State.insAt (s : State) (t : Nat) : Word :=
  BitVec.ofNat 64 (ofBytes ((s.tile t).bytes false (s.progBase t + 8 * (s.tile t).pc.toNat) 8))

/-- The line of the instruction at PC is the most recently used of the instruction buffer's 16 (R92). -/
def State.touchLine (s : State) (t : Nat) : State :=
  let l := (s.progBase t + 8 * (s.tile t).pc.toNat) / 1024
  s.modTile t fun ti => { ti with tileLine := (l :: ti.tileLine.filter fun x => decide (x ≠ l)).take 16 }

/-- PC becomes PC + 1. -/
def Tile.step (ti : Tile) : Tile := { ti with pc := ti.pc + 1 }
def State.stepPc (s : State) (t : Nat) : State := s.modTile t Tile.step

/-- An instruction fetched for execution: its line is used, and it counts as executed. -/
def State.fetched (s : State) (t : Nat) : State := (s.touchLine t).count (seqPage t) 0

/-- One instruction with opcode `opc` at PC: outside the region and illegal instructions halt the sequencer, whatever row meets
them; a guard of 0 leaves no effect (R92, R101, R102). -/
def State.seqRow (t opc : Nat) (run : Word → State → State) (s : State) : State :=
  if !s.seqReady t then s
  else if !s.pcInside t then s.haltWith t 0x013
  else if !insLegal (s.tile t) (s.insAt t) then s.haltWith t 0x015
  else if insOpc (s.insAt t) ≠ opc then s
  else if insGuard (s.tile t) (s.insAt t) then run (s.insAt t) (s.fetched t)
  else (s.touchLine t).stepPc t

/-- A change of the tile's registers, then the next instruction. -/
def seqRegs (t : Nat) (f : Word → Tile → Tile) (w : Word) (s : State) : State := s.modTile t fun ti => (f w ti).step

/-- s[RD] = s[RA] op s[RB] (R103). -/
def aluReg (f : Word → Word → Word) (w : Word) (ti : Tile) : Tile := ti.setReg (insRd w) (f (ti.reg (insRa w)) (ti.reg (insRb w)))
/-- s[RD] = s[RA] op sign-extended IMM (R103). -/
def aluImm (f : Word → Word → Word) (w : Word) (ti : Tile) : Tile := ti.setReg (insRd w) (f (ti.reg (insRa w)) (insSimm w))

/-- Shifts by bits [5:0] of the second operand. -/
def shamt (b : Word) : Nat := bits b 0 6
def opShl (a b : Word) : Word := a <<< shamt b
def opShr (a b : Word) : Word := a >>> shamt b
def opSra (a b : Word) : Word := a.sshiftRight (shamt b)
def opMin (a b : Word) : Word := if a.slt b then a else b
def opMax (a b : Word) : Word := if a.slt b then b else a
def opMinu (a b : Word) : Word := if a.ult b then a else b
def opMaxu (a b : Word) : Word := if a.ult b then b else a

/-- The condition codes of CMP (R105). -/
def cmpCond (cc : Nat) (a b : Word) : Bool :=
  match cc with
  | 0 => a == b
  | 1 => a != b
  | 2 => a.slt b
  | 3 => !a.slt b
  | 4 => a.ult b
  | 5 => !a.ult b
  | 6 => b.slt a
  | 7 => !b.slt a
  | 8 => b.ult a
  | _ => !b.ult a

/-- FP32 comparison of the low halves (R52, R106). -/
def fcmpCond (cc : Nat) (a b : Nat) : Bool := (fcond cc (ofF32 (a % 2 ^ 32)) (ofF32 (b % 2 ^ 32))).getD false

/-- Predicate logic (R106). -/
def plogOp (op : Nat) (a b : Bool) : Bool :=
  match op with
  | 0 => a && b
  | 1 => a || b
  | 2 => a != b
  | _ => a && !b

/-- INS (R103). -/
def insField (w : Word) (d a : Word) : Word := putBits d (insPos w) (insWidth w) (a.toNat % 2 ^ insWidth w)

/-! ## Scalar arithmetic (R103, R104) -/

/-- ADD: the sum. -/
def execAdd (t : Fin 192) (s : State) : Host.Outcome State Fault Refusal := .next (s.seqRow t 0x01 (seqRegs t (aluReg (· + ·))))
/-- SUB: the difference. -/
def execSub (t : Fin 192) (s : State) : Host.Outcome State Fault Refusal := .next (s.seqRow t 0x02 (seqRegs t (aluReg (· - ·))))
/-- MUL: the low half of the product. -/
def execMul (t : Fin 192) (s : State) : Host.Outcome State Fault Refusal := .next (s.seqRow t 0x03 (seqRegs t (aluReg (· * ·))))
/-- AND: bitwise and. -/
def execAnd (t : Fin 192) (s : State) : Host.Outcome State Fault Refusal := .next (s.seqRow t 0x04 (seqRegs t (aluReg (· &&& ·))))
/-- OR: bitwise or. -/
def execOr (t : Fin 192) (s : State) : Host.Outcome State Fault Refusal := .next (s.seqRow t 0x05 (seqRegs t (aluReg (· ||| ·))))
/-- XOR: bitwise exclusive or. -/
def execXor (t : Fin 192) (s : State) : Host.Outcome State Fault Refusal := .next (s.seqRow t 0x06 (seqRegs t (aluReg (· ^^^ ·))))
/-- SHL: left shift. -/
def execShl (t : Fin 192) (s : State) : Host.Outcome State Fault Refusal := .next (s.seqRow t 0x07 (seqRegs t (aluReg opShl)))
/-- SHR: logical right shift. -/
def execShr (t : Fin 192) (s : State) : Host.Outcome State Fault Refusal := .next (s.seqRow t 0x08 (seqRegs t (aluReg opShr)))
/-- SRA: arithmetic right shift. -/
def execSra (t : Fin 192) (s : State) : Host.Outcome State Fault Refusal := .next (s.seqRow t 0x09 (seqRegs t (aluReg opSra)))
/-- MIN: signed minimum. -/
def execMin (t : Fin 192) (s : State) : Host.Outcome State Fault Refusal := .next (s.seqRow t 0x0A (seqRegs t (aluReg opMin)))
/-- MAX: signed maximum. -/
def execMax (t : Fin 192) (s : State) : Host.Outcome State Fault Refusal := .next (s.seqRow t 0x0B (seqRegs t (aluReg opMax)))
/-- MINU: unsigned minimum. -/
def execMinu (t : Fin 192) (s : State) : Host.Outcome State Fault Refusal := .next (s.seqRow t 0x0C (seqRegs t (aluReg opMinu)))
/-- MAXU: unsigned maximum. -/
def execMaxu (t : Fin 192) (s : State) : Host.Outcome State Fault Refusal := .next (s.seqRow t 0x0D (seqRegs t (aluReg opMaxu)))
/-- ADDI: the sum, with IMM. -/
def execAddi (t : Fin 192) (s : State) : Host.Outcome State Fault Refusal := .next (s.seqRow t 0x11 (seqRegs t (aluImm (· + ·))))
/-- SUBI: the difference, with IMM. -/
def execSubi (t : Fin 192) (s : State) : Host.Outcome State Fault Refusal := .next (s.seqRow t 0x12 (seqRegs t (aluImm (· - ·))))
/-- MULI: the low half of the product, with IMM. -/
def execMuli (t : Fin 192) (s : State) : Host.Outcome State Fault Refusal := .next (s.seqRow t 0x13 (seqRegs t (aluImm (· * ·))))
/-- ANDI: bitwise and, with IMM. -/
def execAndi (t : Fin 192) (s : State) : Host.Outcome State Fault Refusal := .next (s.seqRow t 0x14 (seqRegs t (aluImm (· &&& ·))))
/-- ORI: bitwise or, with IMM. -/
def execOri (t : Fin 192) (s : State) : Host.Outcome State Fault Refusal := .next (s.seqRow t 0x15 (seqRegs t (aluImm (· ||| ·))))
/-- XORI: bitwise exclusive or, with IMM. -/
def execXori (t : Fin 192) (s : State) : Host.Outcome State Fault Refusal := .next (s.seqRow t 0x16 (seqRegs t (aluImm (· ^^^ ·))))
/-- SHLI: left shift, with IMM. -/
def execShli (t : Fin 192) (s : State) : Host.Outcome State Fault Refusal := .next (s.seqRow t 0x17 (seqRegs t (aluImm opShl)))
/-- SHRI: logical right shift, with IMM. -/
def execShri (t : Fin 192) (s : State) : Host.Outcome State Fault Refusal := .next (s.seqRow t 0x18 (seqRegs t (aluImm opShr)))
/-- SRAI: arithmetic right shift, with IMM. -/
def execSrai (t : Fin 192) (s : State) : Host.Outcome State Fault Refusal := .next (s.seqRow t 0x19 (seqRegs t (aluImm opSra)))
/-- MINI: signed minimum, with IMM. -/
def execMini (t : Fin 192) (s : State) : Host.Outcome State Fault Refusal := .next (s.seqRow t 0x1A (seqRegs t (aluImm opMin)))
/-- MAXI: signed maximum, with IMM. -/
def execMaxi (t : Fin 192) (s : State) : Host.Outcome State Fault Refusal := .next (s.seqRow t 0x1B (seqRegs t (aluImm opMax)))
/-- MINUI: unsigned minimum, with IMM. -/
def execMinui (t : Fin 192) (s : State) : Host.Outcome State Fault Refusal := .next (s.seqRow t 0x1C (seqRegs t (aluImm opMinu)))
/-- MAXUI: unsigned maximum, with IMM. -/
def execMaxui (t : Fin 192) (s : State) : Host.Outcome State Fault Refusal := .next (s.seqRow t 0x1D (seqRegs t (aluImm opMaxu)))

/-- NOP. -/
def execNop (t : Fin 192) (s : State) : Host.Outcome State Fault Refusal := .next (s.seqRow t 0x00 (seqRegs t fun _ ti => ti))
/-- MOVI: s[RD] = sign-extended IMM. -/
def execMovi (t : Fin 192) (s : State) : Host.Outcome State Fault Refusal :=
  .next (s.seqRow t 0x1E (seqRegs t fun w ti => ti.setReg (insRd w) (insSimm w)))
/-- MOVHI: s[RD][63:32] = IMM. -/
def execMovhi (t : Fin 192) (s : State) : Host.Outcome State Fault Refusal :=
  .next (s.seqRow t 0x1F (seqRegs t fun w ti => ti.setReg (insRd w) (putBits (ti.reg (insRd w)) 32 32 (insImm w).toNat)))
/-- INS: bits of s[RD] are replaced by the low bits of s[RA]. -/
def execIns (t : Fin 192) (s : State) : Host.Outcome State Fault Refusal :=
  .next (s.seqRow t 0x20 (seqRegs t fun w ti => ti.setReg (insRd w) (insField w (ti.reg (insRd w)) (ti.reg (insRa w)))))
/-- EXT: a field of s[RA], zero-extended. -/
def execExt (t : Fin 192) (s : State) : Host.Outcome State Fault Refusal :=
  .next (s.seqRow t 0x21 (seqRegs t fun w ti => ti.setReg (insRd w) (BitVec.ofNat 64 (bits (ti.reg (insRa w)) (insPos w) (insWidth w)))))

/-! ## Compares and predicates (R105, R106) -/

/-- CMP. -/
def execCmp (t : Fin 192) (s : State) : Host.Outcome State Fault Refusal :=
  .next (s.seqRow t 0x28 (seqRegs t fun w ti => ti.setPred (insX w) (cmpCond (insRd w) (ti.reg (insRa w)) (ti.reg (insRb w)))))
/-- CMPI. -/
def execCmpi (t : Fin 192) (s : State) : Host.Outcome State Fault Refusal :=
  .next (s.seqRow t 0x29 (seqRegs t fun w ti => ti.setPred (insX w) (cmpCond (insRd w) (ti.reg (insRa w)) (insSimm w))))
/-- PLOG. -/
def execPlog (t : Fin 192) (s : State) : Host.Outcome State Fault Refusal :=
  .next (s.seqRow t 0x2A (seqRegs t fun w ti => ti.setPred (insX w) (plogOp (insRd w) (ti.pred (insRa w)) (ti.pred (insRb w)))))
/-- FCMP. -/
def execFcmp (t : Fin 192) (s : State) : Host.Outcome State Fault Refusal :=
  .next (s.seqRow t 0x2B (seqRegs t fun w ti =>
    ti.setPred (insX w) (fcmpCond (insRd w) (ti.reg (insRa w)).toNat (ti.reg (insRb w)).toNat)))
/-- FCMPI. -/
def execFcmpi (t : Fin 192) (s : State) : Host.Outcome State Fault Refusal :=
  .next (s.seqRow t 0x2C (seqRegs t fun w ti => ti.setPred (insX w) (fcmpCond (insRd w) (ti.reg (insRa w)).toNat (insImm w).toNat)))

/-! ## Transfers of control (R103, R107) -/

/-- BR: PC = PC + signed IMM. -/
def execBr (t : Fin 192) (s : State) : Host.Outcome State Fault Refusal :=
  .next (s.seqRow t 0x30 fun w s => s.modTile t fun ti => { ti with pc := ti.pc + insImm w })
/-- JR: PC = s[RA][31:0]. -/
def execJr (t : Fin 192) (s : State) : Host.Outcome State Fault Refusal :=
  .next (s.seqRow t 0x31 fun w s => s.modTile t fun ti => { ti with pc := (ti.reg (insRa w)).setWidth 32 })
/-- CALL: s[RD] = PC + 1, then PC = PC + signed IMM. -/
def execCall (t : Fin 192) (s : State) : Host.Outcome State Fault Refusal :=
  .next (s.seqRow t 0x32 fun w s => s.modTile t fun ti => { ti.setReg (insRd w) ((ti.pc + 1).setWidth 64) with pc := ti.pc + insImm w })
/-- LOOP: s[RD] counts down, and the branch is taken until it reaches 0. -/
def execLoop (t : Fin 192) (s : State) : Host.Outcome State Fault Refusal :=
  .next (s.seqRow t 0x33 fun w s => s.modTile t fun ti =>
    let v := ti.reg (insRd w) - 1
    { ti.setReg (insRd w) v with pc := if v = 0 then ti.pc + 1 else ti.pc + insImm w })
/-- HALT: HALTED with PC + 1, no error. -/
def execHalt (t : Fin 192) (s : State) : Host.Outcome State Fault Refusal := .next (s.seqRow t 0x34 fun _ s => (s.stepPc t).haltSeq t)

/-! ## Stalls -/

/-- A stalled instruction ends: the next one follows, or HALTED where RUN.HALT was written meanwhile (R96). -/
def State.endStall (s : State) (t : Nat) : State :=
  let due := (s.tile t).haltDue
  let s := s.modTile t fun ti => { ti.step with stall := .none }
  if due then s.haltSeq t else s

/-- The sequencer stalls at the instruction. -/
def State.stallOn (s : State) (t : Nat) (x : Stall) : State := s.modTile t fun ti => { ti with stall := x }

/-- The address of LDC and STC. -/
def ctlAddr (w : Word) (ti : Tile) : Nat := (ti.reg (insRa w) + insSimm w).toNat

/-- What a control access came to is held until its reply (R108). -/
def State.setReply (s : State) (t : Nat) (served : Bool) (v : Word) : State :=
  s.modTile t fun ti => match ti.stall with
    | .control rd _ _ => { ti with stall := .control rd served v }
    | _ => ti

/-- LDC: one 8-byte read of the control window; the sequencer stalls for the reply (R108). -/
def execLdc (t : Fin 192) (s : State) : Host.Outcome State Fault Refusal :=
  .next (s.seqRow t 0x38 fun w s =>
    let a := ctlAddr w (s.tile t)
    let s := s.stallOn t (.control (some (BitVec.ofNat 5 (insRd w))) false 0)
    let (r, s) := s.regRead (s.roleOf (s.tileAccess t)) a
    s.setReply t r.isSome (r.getD 0))
/-- STC: one 8-byte write of the control window; the sequencer stalls until it is accepted (R108). -/
def execStc (t : Fin 192) (s : State) : Host.Outcome State Fault Refusal :=
  .next (s.seqRow t 0x39 fun w s =>
    let a := ctlAddr w (s.tile t)
    let v := (s.tile t).reg (insRb w)
    let s := s.stallOn t (.control none false 0)
    let (ok, s) := s.regWrite (s.roleOf (s.tileAccess t)) a v
    s.setReply t ok 0)
/-- CONTROL_REPLY: the reply of an LDC or the acceptance of an STC; a refused access raises 0x016 and leaves s[RD] (R108). -/
def execControlReply (t : Fin 192) (s : State) : Host.Outcome State Fault Refusal :=
  let ti := s.tile t
  if !s.tileRuns t || decide (ti.seq ≠ .running) then .next s
  else match ti.stall with
    | .control rd served v =>
      if served then
        .next ((s.modTile t fun ti => match rd with
          | some r => ti.setReg r.toNat v
          | none => ti).endStall t)
      else .next ((s.contained (seqPage t) 0x016 (s.ctxOf t)).endStall t)
    | _ => .next s

/-! ## Summary registers (R86, R109) -/

/-- What UCLR and URD do to the tile. -/
def sumEffect (w : Word) (ti : Tile) : Tile :=
  if insOpc w = 0x40 then ti.setSum (insX w) { kind := (sumKindOf (bits w 32 2)).getD .empty, val := 0, pending := (ti.sum (insX w)).pending }
  else ti.setReg (insRd w) (ti.sum (insX w)).val

/-- UCLR or URD: at once with no contribution pending, else a stall (R86). -/
def State.sumRun (t : Nat) (w : Word) (s : State) : State :=
  if ((s.tile t).sum (insX w)).pending = 0 then (s.modTile t (sumEffect w)).stepPc t else s.stallOn t .summary

/-- UCLR. -/
def execUclr (t : Fin 192) (s : State) : Host.Outcome State Fault Refusal := .next (s.seqRow t 0x40 (State.sumRun t))
/-- URD. -/
def execUrd (t : Fin 192) (s : State) : Host.Outcome State Fault Refusal := .next (s.seqRow t 0x41 (State.sumRun t))

/-- A stall of the kind x can be looked at again. -/
def State.stalledOn (s : State) (t : Nat) (x : Stall) : Bool :=
  s.tileRuns t && decide ((s.tile t).seq = .running) && !(s.tile t).stopped && decide ((s.tile t).stall = x)

/-- SUMMARY_RESUME: a stalled UCLR or URD proceeds once nothing is pending (R86). -/
def execSummaryResume (t : Fin 192) (s : State) : Host.Outcome State Fault Refusal :=
  let w := s.insAt t
  if !s.stalledOn t .summary then .next s
  else if insOpc w ≠ 0x40 ∧ insOpc w ≠ 0x41 then .next (s.stallOn t .none)
  else if ((s.tile t).sum (insX w)).pending = 0 then .next ((s.modTile t (sumEffect w)).endStall t)
  else .next s

/-! ## Tokens (R79 to R82, R110) -/

/-- TSET. -/
def execTset (t : Fin 192) (s : State) : Host.Outcome State Fault Refusal :=
  .next (s.seqRow t 0x48 (seqRegs t fun w ti => ti.setTok (insX w) (bits w 32 16)))
/-- TSIG. -/
def execTsig (t : Fin 192) (s : State) : Host.Outcome State Fault Refusal := .next (s.seqRow t 0x4A fun w s => (s.signal t (insX w)).stepPc t)
/-- TRD. -/
def execTrd (t : Fin 192) (s : State) : Host.Outcome State Fault Refusal :=
  .next (s.seqRow t 0x4B (seqRegs t fun w ti => ti.setReg (insRd w) (BitVec.ofNat 64 (ti.tok (insX w)))))
/-- The amount of a TWAIT is taken from its counter. -/
def takeToken (w : Word) (ti : Tile) : Tile := ti.setTok (insX w) (ti.tok (insX w) - bits w 32 4)
/-- TWAIT: the amount is there and is taken, or the sequencer stalls (R82). -/
def execTwait (t : Fin 192) (s : State) : Host.Outcome State Fault Refusal :=
  .next (s.seqRow t 0x49 fun w s =>
    if bits w 32 4 ≤ (s.tile t).tok (insX w) then (s.modTile t (takeToken w)).stepPc t else s.stallOn t .token)
/-- TWAIT_RESUME: a waiting TWAIT finds its counter sufficient (R82). -/
def execTwaitResume (t : Fin 192) (s : State) : Host.Outcome State Fault Refusal :=
  let w := s.insAt t
  if !s.stalledOn t .token then .next s
  else if insOpc w ≠ 0x49 then .next (s.stallOn t .none)
  else if bits w 32 4 ≤ (s.tile t).tok (insX w) then .next ((s.modTile t (takeToken w)).endStall t)
  else .next s

/-! ## Tasks (R88, R89, R111) -/

/-- The task that a TARM's word describes. -/
def taskOf (v : Word) (entry : BitVec 32) : Task :=
  { armed := true, entry := entry, cls := BitVec.ofNat 2 (bits v 6 2), ka := BitVec.ofNat 5 (bits v 8 5), amtA := BitVec.ofNat 4 (bits v 13 4)
    kb := BitVec.ofNat 5 (bits v 17 5), amtB := BitVec.ofNat 4 (bits v 22 4) }

/-- TARM: the slot that s[RA] names is armed, its entry at PC + signed IMM. -/
def execTarm (t : Fin 192) (s : State) : Host.Outcome State Fault Refusal :=
  .next (s.seqRow t 0x50 (seqRegs t fun w ti =>
    let v := ti.reg (insRa w)
    { ti with tasks := Tab.set {} ti.tasks (bits v 0 6) (taskOf v (ti.pc + insImm w)) }))
/-- TDIS: the slot is disarmed. -/
def execTdis (t : Fin 192) (s : State) : Host.Outcome State Fault Refusal :=
  .next (s.seqRow t 0x52 (seqRegs t fun w ti =>
    { ti with tasks := Tab.set {} ti.tasks (bits w 32 6) { ti.taskAt (bits w 32 6) with armed := false } }))
/-- TEND: the task ends and the sequencer picks (R89). -/
def execTend (t : Fin 192) (s : State) : Host.Outcome State Fault Refusal := .next (s.seqRow t 0x51 fun _ s => s.pick t)
/-- TASK_PICK: a WAITING sequencer tests its tasks again (R89). -/
def execTaskPick (t : Fin 192) (s : State) : Host.Outcome State Fault Refusal :=
  .next (if s.tileRuns t && decide ((s.tile t).seq = .waiting) && !(s.tile t).stopped then s.pick t else s)

/-! ## Issue and spill rings (R77, R112) -/

/-- The descriptor held in s[RA] to s[RA + 3]. -/
def issued (w : Word) (ti : Tile) : Desc :=
  { w0 := ti.reg (insRa w), w1 := ti.reg (insRa w + 1), w2 := ti.reg (insRa w + 2), w3 := ti.reg (insRa w + 3) }

/-- ISSUE after its checks: an ENG without an engine halts with 0x017; else the descriptor is placed, or the sequencer stalls. -/
def State.issueRun (t : Nat) (w : Word) (s : State) : State :=
  let d := issued w (s.tile t)
  match engOf (d.f 0 0 3) with
  | none => s.haltWith t 0x017
  | some e => if s.canPlace t e then (s.place t e d).endStall t else s.stallOn t .queue

/-- ISSUE; a stalled one is tried again (R77). -/
def execIssue (t : Fin 192) (s : State) : Host.Outcome State Fault Refusal :=
  if s.stalledOn t .queue then
    let w := s.insAt t
    .next (if insOpc w = 0x58 ∧ insRa w % 4 = 0 then s.issueRun t w else s.stallOn t .none)
  else .next (s.seqRow t 0x58 (State.issueRun t))

/-- SPILL_REFILL: the oldest ring entry moves into a queue that has room (R77). -/
def execSpillRefill (t : Fin 192) (e : Eng) (s : State) : Host.Outcome State Fault Refusal := .next (if s.tileRuns t then s.refill t e else s)

/-! ## The stall watchdog (R93) -/

/-- The sequencer is stalled or WAITING. -/
def State.seqStuck (s : State) (t : Nat) : Bool :=
  let ti := s.tile t
  s.tileRuns t && !ti.stopped && (decide (ti.seq = .waiting) || (decide (ti.seq = .running) && decide (ti.stall ≠ .none)))

/-- STALL_WATCHDOG: the stall count has reached its limit: code 0x011, HALTED, and the engines hold what they have not started. -/
def execStallWatchdog (t : Fin 192) (s : State) : Host.Outcome State Fault Refusal :=
  if s.seqStuck t && decide (s.fld (seqPage t) 0x120 0 6 ≠ 0) then
    .next ((((s.event (seqPage t) 4).contained (seqPage t) 0x011 (s.ctxOf t)).modTile t fun ti => { ti with held := true }).haltSeq t)
  else .next s

end Sys2Proof.Machine
end

