-- ==== Sys2Proof/Machine/Umlon.lean ====
section
/-! DEFINITION. The Umlon protocol: framing and authentication, the command queue of a session, the commands, and the event channels'
messages (R334 to R339, R372, R381 to R393, R395, R404). -/

namespace Sys2Proof.Machine

/-! ## Messages (R381) -/

def umVersion (m : Umlon) : Nat := bits m.h0 0 8
def umFlags (m : Umlon) : Nat := bits m.h0 8 8
def umOp (m : Umlon) : Nat := bits m.h0 16 8
def umStatus (m : Umlon) : Nat := bits m.h0 24 8
def umSeq (m : Umlon) : BitVec 32 := BitVec.ofNat 32 (bits m.h0 32 32)
def umSession (m : Umlon) : Nat := bits m.h1 0 16
def umPart (m : Umlon) : Nat := bits m.h1 16 16
def umParts (m : Umlon) : Nat := bits m.h1 32 16
def umLen (m : Umlon) : Nat := bits m.h1 48 16

/-- The tag of a message under a session key (R381). -/
def umTag (key : BitVec 256) (h0 h1 h2 h3 : Word) (data : List Byte) : BitVec 128 :=
  BitVec.ofNat 128 (ofBytesBE ((hmac (toBytesBE 32 key.toNat) (bytesOf [h0, h1, h2, h3] ++ data)).take 16))

/-- A message of the device: its tag is zero where it has no key. -/
def umMake (key : Option (BitVec 256)) (port : Fin 2) (addr : BitVec 128) (boot : Word) (flags op status : Nat) (seq : BitVec 32)
    (sess part parts : Nat) (data : List Byte) : Umlon :=
  let h0 := BitVec.ofNat 64 (1 + flags * 2 ^ 8 + op * 2 ^ 16 + status * 2 ^ 24 + seq.toNat * 2 ^ 32)
  let h1 := BitVec.ofNat 64 (sess + part * 2 ^ 16 + parts * 2 ^ 32 + data.length * 2 ^ 48)
  { port := port, addr := addr, h0 := h0, h1 := h1, h2 := boot, h3 := 0, data := data
    tag := match key with
      | none => 0
      | some k => umTag k h0 h1 boot 0 data }

/-- HEN.NET.MAXPAY as it acts (R398). -/
def State.maxPay (s : State) (q : Nat) : Nat := min 8192 (max 1024 (s.fld (henPage q) 0x120 16 14))

/-- A payload cut into parts of at most n bytes; an empty payload is one part. -/
def payParts (n : Nat) : Nat → List Byte → List (List Byte)
  | 0, d => [d]
  | k + 1, d => if d.length ≤ n then [d] else d.take n :: payParts n k (d.drop n)

/-- Exactly n bytes of a byte string, zeros beyond its end. -/
def fitBytes (n : Nat) (d : List Byte) : List Byte := (d ++ List.replicate n 0).take n

/-- The requester of a command: its session, or none where it is unauthenticated. -/
structure Cmd where
  port : Fin 2
  addr : BitVec 128
  sess : Option Nat
  op   : Nat
  seq  : BitVec 32
  data : List Byte
  bad  : Bool := false        -- its header or parts are malformed
  deriving DecidableEq, Repr

/-- What a command answers: a status of R385 and a payload. -/
structure Answer where
  status : Nat
  data   : List Byte := []
  deriving DecidableEq, Repr

def stOk : Nat := 0
def stRefused : Nat := 1
def stMalformed : Nat := 2
def stNotPermitted : Nat := 3
def stBusy : Nat := 4
def stSkipped : Nat := 5
def stStale : Nat := 6

/-- The datagrams of a reply (R385). -/
def State.replyMsgs (s : State) (c : Cmd) (a : Answer) : List Umlon :=
  let key := c.sess.map fun i => (s.session i).key
  let ps := payParts (s.maxPay c.port) 64 a.data
  ps.mapIdx fun k d =>
    umMake key c.port c.addr s.pkg.bootId (1 + (if k + 1 < ps.length then 2 else 0)) c.op a.status c.seq (c.sess.getD 0xFFFF) k ps.length d

/-- Datagrams leave on a port. -/
def State.sendUmlon (s : State) (q : Fin 2) (addr : BitVec 128) (ms : List Umlon) : State :=
  let udp := BitVec.ofNat 16 (s.fld (henPage q) 0x120 0 16)
  ms.foldl (fun s m => s.frameOut q (.umlon q udp addr m)) s

def State.reply (s : State) (c : Cmd) (a : Answer) : State := s.sendUmlon c.port c.addr (s.replyMsgs c a)

/-! ## Identity and status (R334, R388) -/

def identityRecord : List Byte :=
  asciiBytes "GVID" ++ toBytes 2 1 ++ toBytes 2 0x4192 ++ toBytes 16 Config.serial.toNat ++ toBytes 32 Config.attPk.toNat ++ [Config.signer]
    ++ toBytes 7 0 ++ fitBytes sigBytes Config.identitySig

/-- HANDLER.LEVEL. -/
def State.handlerLevel (s : State) : Nat := min 3 s.bur.levels.length

def State.statusRecord (s : State) : List Byte :=
  toBytes 1 s.pkg.stage.toNat
    ++ toBytes 1 (flag (decide (s.pkg.stage = 7)) + s.bur.settee.toNat * 2 + s.fld tstPage 0x100 2 2 * 2 ^ 4 + flag s.bur.quarantined * 2 ^ 6
        + flag s.pkgQuiesced * 2 ^ 7)
    ++ toBytes 2 s.ownLc ++ toBytes 2 (s.fld (rtrPage 0) 0x110 0 13) ++ toBytes 2 s.handlerLevel ++ toBytes 8 s.pkg.bootId.toNat ++ toBytes 16 0

/-! ## Registers (R386) -/

/-- The role of a session: none is the provider's. -/
def Session.role (x : Session) : Option Nat := if x.prov then none else some x.ctx

/-- One entry of REG_READ or REG_WRITE at port q: what it answers. A host's access reaches the control window only once bring-up is complete. -/
def State.regEntry (s : State) (q : Nat) (role : Option Nat) (write : Bool) (addr : Nat) (val : Word) : List Byte × State :=
  if s.pkg.stage ≠ 7 then (toBytes 8 0 ++ toBytes 8 1, s)
  else if write then
    (match s.regWrite role addr val with
     | (true, s) => (toBytes 16 0, s)
     | (false, s) => (toBytes 8 0 ++ toBytes 8 1, s.refusedAt (henPage q) role))
  else match s.regRead role addr with
    | (some v, s) => (toBytes 8 v.toNat ++ toBytes 8 0, s)
    | (none, s) => (toBytes 8 0 ++ toBytes 8 1, s.refusedAt (henPage q) role)

/-- REG_READ and REG_WRITE: 1 to 256 entries in payload order. -/
def State.regEntries (s : State) (q : Nat) (role : Option Nat) (write : Bool) (d : List Byte) : Answer × State :=
  let n := d.length / 16
  if d.length % 16 ≠ 0 ∨ n = 0 ∨ 256 < n then ({ status := stMalformed }, s)
  else if !write && (List.range n).any fun i => decide (recNum d (16 * i + 8) 8 ≠ 0) then ({ status := stMalformed }, s)
  else
    let r := (List.range n).foldl (fun (r : List Byte × State) i =>
      let (b, s) := r.2.regEntry q role write (recNum d (16 * i) 8) (BitVec.ofNat 64 (recNum d (16 * i + 8) 8))
      (r.1 ++ b, s)) (([] : List Byte), s)
    ({ status := stOk, data := r.1 }, r.2)

/-! ## Event channels (R390, R391, R393) -/

/-- A channel that can be bound. -/
def bindable (c : Nat) : Bool := decide (c < 1781 ∨ (2048 ≤ c ∧ c < 4096 ∧ c % 8 < 4))
/-- A channel that a session may bind. -/
def mayBind (x : Session) (c : Nat) : Bool := x.prov || decide (2048 + 8 * x.ctx ≤ c ∧ c ≤ 2048 + 8 * x.ctx + 3)

/-- EVT_BIND: the binding of a channel, in force at once (R391). -/
def State.evtBind (s : State) (i : Nat) (d : List Byte) : Answer × State :=
  let c := recNum d 0 2
  let x := s.session i
  if d.length ≠ 32 ∨ 4096 ≤ c ∨ 1 < recNum d 2 1 ∨ 2 < recNum d 3 1 ∨ 64 < recNum d 4 2 ∨ recNum d 10 6 ≠ 0 then ({ status := stMalformed }, s)
  else if !mayBind x c then ({ status := stNotPermitted }, s)
  else if !bindable c then ({ status := stRefused }, s)
  else if recNum d 2 1 = 0 then
    ({ status := stOk }, s.modChan c fun h => { dropped := h.dropped, recSeq := h.recSeq, msgSeq := h.msgSeq })
  else
    ({ status := stOk }, s.modChan c fun h =>
      { h with bound := true, sess := i, portSel := BitVec.ofNat 8 (recNum d 3 1), coalN := max 1 (recNum d 4 2), coalUs := recNum d 6 2
               udp := BitVec.ofNat 16 (recNum d 8 2), addr := BitVec.ofNat 128 (ofBytesBE ((d.drop 16).take 16))
               unacked := if h.stalled then [] else h.unacked, stalled := false })

/-- EVT_ACK: an EVENT message is acknowledged (R393). -/
def State.evtAck (s : State) (i : Nat) (d : List Byte) : Answer × State :=
  let c := recNum d 0 2
  if d.length ≠ 6 ∨ 4096 ≤ c then ({ status := stMalformed }, s)
  else if !mayBind (s.session i) c then ({ status := stNotPermitted }, s)
  else ({ status := stOk }, s.modChan c fun h => { h with unacked := h.unacked.filter fun e => decide (e.1 ≠ recNum d 2 4) })

/-! ## Attestation and keys (R336 to R339) -/

/-- A context descriptor as 64 bytes. -/
def CtxDesc.bytes (d : CtxDesc) : List Byte := bytesOf [d.w0, d.w1, d.w2, d.w3, d.w4, d.w5, d.w6, d.w7]

/-- Bytes 0 to 1,391 of the attestation report (R337). -/
def State.reportBody (s : State) (nonce : BitVec 256) (c target draw : Nat) : List Byte :=
  asciiBytes "GVAR" ++ toBytes 2 1 ++ toBytes 2 0x4192 ++ toBytes 16 Config.serial.toNat ++ toBytesBE 32 nonce.toNat ++ toBytes 2 c
    ++ toBytes 1 target ++ toBytes 1 0 ++ toBytes 2 s.ownLc ++ toBytes 2 (s.fld (rtrPage 0) 0x110 0 13) ++ toBytesBE 32 Config.romHash.toNat
    ++ toBytesBE 32 s.pkg.patchHash.toNat ++ toBytes 4 Config.fwFloor ++ toBytes 4 (s.fld tstPage 0x108 0 32) ++ toBytesBE 32 s.pkg.packHash.toNat
    ++ toBytes 4 s.pkg.ageIndex ++ toBytes 4 0 ++ sha256 (s.desc c).bytes ++ fitBytes 1184 (Config.kemKey draw)

/-- An attestation request is refused: 0x102 (R339). -/
def State.attRefused (s : State) : Answer × State := ({ status := stRefused }, s.contained (keyPage 0) 0x102)

/-- ATT_REPORT: an attestation session opens with its report (R336, R339). A duplicate returns the report of its pending session. -/
def State.attReport (s : State) (x : Session) (d : List Byte) (dup : Bool) : Answer × State :=
  let nonce := BitVec.ofNat 256 (ofBytesBE (d.take 32))
  let c := recNum d 32 2
  let t := recNum d 34 1
  if d.length ≠ 40 ∨ 1 < t ∨ recNum d 35 5 ≠ 0 then ({ status := stMalformed }, s)
  else if !x.prov && decide (c ≠ x.ctx) then ({ status := stNotPermitted }, s)
  else if dup then
    match s.key.sessions.find? fun k => decide (k.nonce = nonce ∧ k.ctx = c ∧ k.target = t) with
    | some k => ({ status := stOk, data := k.report }, s)
    | none => ({ status := stRefused }, s)
  else if (!x.prov && decide (t = 1)) || decide (8 ≤ s.key.sessions.length ∨ 256 ≤ c) || (s.checkDesc c).isNone then s.attRefused
  else
    let (k, s) := s.draw
    let body := s.reportBody nonce c t k
    let rep := body ++ fitBytes 17088 (Config.attSign body)
    ({ status := stOk, data := rep }, s.modKey fun y =>
      { y with sessions := y.sessions ++ [{ nonce := nonce, ctx := c, target := t, draw := k, opened := s.time, report := rep }] })

/-- A key blob is refused: 0x103 and KEY_REFUSED (R339, R340). -/
def State.keyRefused (s : State) : Answer × State := ({ status := stRefused }, (s.contained (keyPage 0) 0x103).event (keyPage 0) 6)

/-- KEY_BLOB: a wrapped key is unwrapped and installed at the next round boundary (R338, R339). -/
def State.keyBlob (s : State) (x : Session) (d : List Byte) : Answer × State :=
  let nonce := BitVec.ofNat 256 (ofBytesBE ((d.drop 8).take 32))
  if d.length ≠ 1168 ∨ d.take 4 ≠ asciiBytes "GVKB" ∨ recNum d 4 2 ≠ 1 ∨ recNum d 6 2 ≠ 0 then ({ status := stMalformed }, s)
  else match s.key.sessions.find? fun k => decide (k.nonce = nonce) with
    | none => s.keyRefused
    | some k =>
      if !x.prov && decide (k.ctx ≠ x.ctx) then ({ status := stNotPermitted }, s)
      else if sessionNs < s.time - k.opened then s.keyRefused
      else
        let s := s.modKey fun y => { y with sessions := y.sessions.erase k }
        let kek := hkdf32 (toBytesBE 32 nonce.toNat) (toBytesBE 32 (Config.kemSecret k.draw ((d.drop 40).take 1088)).toNat) (sha256 (k.report.take 1392))
        match kwUnwrap kek (d.drop 1128) with
        | none => s.keyRefused
        | some b => ({ status := stOk }, s.modKey fun y =>
            { y with arriving := y.arriving ++ [(if k.target = 1 then none else some k.ctx, BitVec.ofNat 256 (ofBytesBE b))] })

/-! ## Images (R372, R384, R404) -/

/-- A patch image is committed: appended to the patch slot, or alone in it with REPLACE (R404). -/
def State.commitPatch (s : State) (d : List Byte) : Answer × State :=
  if !patchOk d then ({ status := stRefused }, s.sigFail)
  else
    let replace := decide (recNum d 17 1 % 2 = 1)
    let at' := if replace then patchBase else s.patchEnd 256 patchBase
    if patchBase + patchRoom < at' + d.length then ({ status := stBusy }, s)
    else
      let s := if replace then s.flashWrite patchBase (List.replicate patchRoom 0xFF) else s
      ({ status := stOk }, s.flashWrite at' d)

/-- A pack is committed to the flash slot that does not hold the pack in use (R372). -/
def State.commitPack (s : State) (d : List Byte) : Answer × State :=
  match if packRoom < d.length then some 0x132 else packCode d with
  | some c => ({ status := stRefused }, s.packRefuse c)
  | none => ({ status := stOk }, s.flashWrite (packBase (!s.pkg.packSlot)) d)

/-- IMAGE_COMMIT: the parts received are verified and written, or refused with flash unchanged (R384). -/
def State.imageCommit (s : State) (d : List Byte) : Answer × State :=
  let image := s.host.image
  if d.length ≠ 1 ∨ 1 < recNum d 0 1 then ({ status := stMalformed }, s)
  else
    let s := s.modHost fun h => { h with image := [] }
    if recNum d 0 1 = 0 then s.commitPatch image else s.commitPack image

/-! ## Queue pairs and registrations (R395) -/

/-- The smallest free number below a limit. -/
def freeBelow (n : Nat) (used : Nat → Bool) : Option Nat := (List.range n).find? fun i => !used i

/-- QP_CREATE: a queue pair, ready to send (R395). -/
def State.qpCreate (s : State) (x : Session) (d : List Byte) : Answer × State :=
  let c := recNum d 0 2
  let mtu := recNum d 4 4
  if d.length ≠ 56 ∨ 256 ≤ c ∨ 1 < recNum d 2 1 ∨ recNum d 3 1 ≠ 0 ∨ ¬(mtu = 1024 ∨ mtu = 2048 ∨ mtu = 4096) ∨ 2 ^ 24 ≤ recNum d 24 4
      ∨ 2 ^ 24 ≤ recNum d 28 4 ∨ 7 < recNum d 32 1 ∨ 7 < recNum d 33 1 ∨ recNum d 34 1 < 8 ∨ 20 < recNum d 34 1 ∨ recNum d 35 1 ≠ 0
      ∨ recNum d 36 4 = 0 ∨ recNum d 36 4 % 32 ≠ 0 ∨ 8192 < recNum d 36 4 ∨ recNum d 52 4 ≠ 0 then ({ status := stMalformed }, s)
  else if !x.prov && decide (c ≠ x.ctx) then ({ status := stNotPermitted }, s)
  else match freeBelow 1024 fun n => (s.qp n).there with
    | none => ({ status := stBusy }, s)
    | some n =>
      let psn := Config.startPsn s.host.bound
      let q : Qp :=
        { there := true, ctx := c, port := recNum d 2 1, mtu := mtu, gid := BitVec.ofNat 128 (ofBytesBE ((d.drop 8).take 16))
          rqpn := BitVec.ofNat 24 (recNum d 24 4), rpsn := BitVec.ofNat 24 (recNum d 28 4), psn := psn, retries := recNum d 32 1
          rnr := recNum d 33 1, timeout := recNum d 34 1, entSize := recNum d 36 4, ringVa := BitVec.ofNat 64 (recNum d 40 8)
          entries := recNum d 48 4 }
      ({ status := stOk, data := toBytes 4 n ++ toBytes 4 psn.toNat },
       (s.modHost fun h => { h with bound := h.bound + 1 }).modQp n fun _ => q)

/-- QP_DESTROY: the queue pair is gone; descriptors outstanding on it end as in ERROR (R397). -/
def State.qpDestroy (s : State) (x : Session) (d : List Byte) : Answer × State :=
  let n := recNum d 0 4
  let q := s.qp n
  if d.length ≠ 4 then ({ status := stMalformed }, s)
  else if !q.there then ({ status := stRefused }, s)
  else if !x.prov && decide (q.ctx ≠ x.ctx) then ({ status := stNotPermitted }, s)
  else
    let (k, s) := s.draw
    let s := if q.ops.isEmpty then s else s.qpError n ((Config.freeWord k).toNat % 256)
    ({ status := stOk }, (s.modQp n fun _ => {}).modHost fun h => { h with inbound := h.inbound.filter fun y => decide (y.qpn ≠ n) })

/-- Every page of a range is translated with KIND 0 or 1, and writable where a write right is asked for (R395). -/
def State.mrRange (s : State) (c va n : Nat) (write : Bool) : Bool :=
  match (s.translate 2 (some c) va n write).1 with
  | none => false
  | some gs => gs.all fun g => decide (g.kind ≤ 1)

/-- MR_REG: a range of a context's virtual space is registered for remote access (R395). -/
def State.mrReg (s : State) (x : Session) (d : List Byte) : Answer × State :=
  let c := recNum d 0 2
  let va := recNum d 8 8
  let n := recNum d 16 8
  let rd := decide (recNum d 2 1 % 2 = 1)
  let wr := decide (recNum d 2 1 / 2 = 1)
  if d.length ≠ 24 ∨ 256 ≤ c ∨ recNum d 2 1 = 0 ∨ 3 < recNum d 2 1 ∨ recNum d 3 5 ≠ 0 ∨ n = 0 then ({ status := stMalformed }, s)
  else if !x.prov && decide (c ≠ x.ctx) then ({ status := stNotPermitted }, s)
  else if !s.mrRange c va n wr then ({ status := stRefused }, s)
  else match freeBelow 4096 fun k => (Tab.get ({} : Mr) s.host.mrs k).there with
    | none => ({ status := stBusy }, s)
    | some k =>
      let key := (Config.rKey s.host.bound &&& 0xFFFFF000) ||| BitVec.ofNat 32 k
      ({ status := stOk, data := toBytes 4 key.toNat },
       s.modHost fun h => { h with bound := h.bound + 1
                                   mrs := Tab.set {} h.mrs k { there := true, rkey := key, ctx := c, va := va, len := n, rd := rd, wr := wr } })

/-- MR_DEREG: a registration ends (R384). -/
def State.mrDereg (s : State) (x : Session) (d : List Byte) : Answer × State :=
  let key := recNum d 0 4
  if d.length ≠ 4 then ({ status := stMalformed }, s)
  else match s.host.mrs.find? fun e => e.2.there && decide (e.2.rkey.toNat = key) with
    | none => ({ status := stRefused }, s)
    | some e =>
      if !x.prov && decide (e.2.ctx ≠ x.ctx) then ({ status := stNotPermitted }, s)
      else ({ status := stOk }, s.modHost fun h => { h with mrs := Tab.set {} h.mrs e.1 {} })

/-! ## Commands (R384) -/

/-- The command codes of a host; 0x80 is sent by the device only. -/
def knownOps : List Nat := [0x01, 0x02, 0x10, 0x11, 0x20, 0x21, 0x30, 0x31, 0x40, 0x41, 0x50, 0x52, 0x53, 0x54]

/-- What a command does and answers. -/
def State.command (s : State) (c : Cmd) (dup : Bool) : Answer × State :=
  if c.bad || !(knownOps.contains c.op || decide (c.op = 0x80)) then ({ status := stMalformed }, s)
  else if c.op = 0x01 then (if c.data.isEmpty then ({ status := stOk, data := identityRecord }, s) else ({ status := stMalformed }, s))
  else if c.op = 0x02 then (if c.data.isEmpty then ({ status := stOk, data := s.statusRecord }, s) else ({ status := stMalformed }, s))
  else match c.sess with
    | none => ({ status := stNotPermitted }, s)
    | some i =>
      let x := s.session i
      if c.op = 0x80 ∨ (!x.prov ∧ (c.op = 0x40 ∨ c.op = 0x41)) then ({ status := stNotPermitted }, s)
      else if c.op = 0x10 then s.regEntries c.port x.role false c.data
      else if c.op = 0x11 then s.regEntries c.port x.role true c.data
      else if c.op = 0x20 then s.evtBind i c.data
      else if c.op = 0x21 then s.evtAck i c.data
      else if c.op = 0x30 then s.attReport x c.data dup
      else if c.op = 0x31 then s.keyBlob x c.data
      else if c.op = 0x40 then ({ status := stOk }, s.modHost fun h => { h with image := h.image ++ c.data })
      else if c.op = 0x41 then s.imageCommit c.data
      else if c.op = 0x50 then s.qpCreate x c.data
      else if c.op = 0x52 then s.qpDestroy x c.data
      else if c.op = 0x53 then s.mrReg x c.data
      else s.mrDereg x c.data

/-- The package answers a command in its present state (R389). -/
def State.answersOp (s : State) (sess : Option Nat) (op : Nat) : Bool :=
  decide (op = 0x01 ∨ op = 0x02)
    || (decide (s.pkg.stage = 7) && (!s.pkg.stopped || (decide (op = 0x10) && (match sess with
      | none => false
      | some i => (s.session i).prov))))

/-- The session of the command still stands, with its key. -/
def State.stands (s t : State) (i : Nat) : Bool := (t.session i).valid && decide ((t.session i).key = (s.session i).key)

/-- A command of a session runs, is answered while its session stands, and its reply is recorded (R387). -/
def State.runCmd (s : State) (i : Nat) (c : Cmd) (dup : Bool) : State :=
  if !s.answersOp (some i) c.op then s.count (henPage c.port) 5
  else
    let (a, t) := s.command c dup
    if s.stands t i then
      let ms := t.replyMsgs c a
      let t := t.sendUmlon c.port c.addr ms
      if c.op = 0x01 ∨ c.op = 0x02 ∨ c.op = 0x10 ∨ c.op = 0x30 then t
      else t.modSession i fun x => { x with replies := x.replies.filter (fun r => decide (r.1 ≠ c.seq.toNat)) ++ [(c.seq.toNat, ms)] }
    else t

/-! ## The queue of a session (R387) -/

/-- The parts of a SEQ that are held. -/
def Session.held (x : Session) (q : BitVec 32) : List (Nat × Umlon) := x.waiting.filter fun e => decide (umSeq e.2 = q)

/-- A part's header is in order but for its tag. -/
def umWell (m : Umlon) : Bool :=
  decide (1 ≤ umParts m ∧ umParts m ≤ 64 ∧ umPart m < umParts m ∧ umStatus m = 0 ∧ m.h3 = 0 ∧ umFlags m = if umPart m + 1 < umParts m then 2 else 0)

/-- Held parts are of one message. -/
def sameMsg (ps : List (Nat × Umlon)) : Bool :=
  match ps with
  | [] => true
  | p :: _ => ps.all fun e => umWell e.2 && decide (umParts e.2 = umParts p.2 ∧ umOp e.2 = umOp p.2)

/-- A held SEQ can run: every part has come, or one is malformed. -/
def seqWhole (ps : List (Nat × Umlon)) : Bool :=
  match ps with
  | [] => false
  | p :: _ => !sameMsg ps || (List.range (umParts p.2)).all fun k => ps.any fun e => decide (umPart e.2 = k)

/-- The command that held parts make. -/
def cmdOf (i : Nat) (ps : List (Nat × Umlon)) : Option Cmd :=
  match ps with
  | [] => none
  | p :: _ => some
    { port := p.2.port, addr := p.2.addr, sess := some i, op := umOp p.2, seq := umSeq p.2, bad := !sameMsg ps
      data := (List.range (umParts p.2)).flatMap fun k => match ps.find? fun e => decide (umPart e.2 = k) with
        | some e => e.2.data
        | none => [] }

/-- The commands whose turn has come run, one at a time in SEQ order. -/
def State.runDue (i : Nat) : Nat → State → State
  | 0, s => s
  | k + 1, s =>
    let x := s.session i
    let ps := x.held x.next
    if x.valid && seqWhole ps then
      match cmdOf i ps with
      | none => s
      | some c =>
        let s := s.modSession i fun x =>
          { x with next := x.next + 1, waiting := x.waiting.filter fun e => decide (umSeq e.2 ≠ x.next)
                   replies := x.replies.filter fun r => decide ((x.next - BitVec.ofNat 32 r.1).toNat < 64)
                   lost := x.lost.filter fun r => decide ((x.next - BitVec.ofNat 32 r).toNat < 64) }
        State.runDue i k (s.runCmd i c false)
    else s

/-- The SEQs that a session holds. -/
def Session.heldSeqs (x : Session) : List (BitVec 32) := (x.waiting.map fun e => umSeq e.2).eraseDups

/-- A request of a session within its window: held, run, answered from the record, executed again, or skipped (R387). -/
def State.queueIn (s : State) (i : Nat) (m : Umlon) : State :=
  let s := if (s.session i).begun then s else s.modSession i fun x => { x with begun := true, next := umSeq m }
  let x := s.session i
  let q := umSeq m
  let c : Cmd := { port := m.port, addr := m.addr, sess := some i, op := umOp m, seq := q, data := m.data, bad := !umWell m }
  if (q - x.next).toNat ≤ 64 then
    if (x.held q).any fun e => decide (umPart e.2 = umPart m) then s
    else if 64 ≤ x.heldSeqs.length ∧ (x.held q).isEmpty then s.reply c { status := stBusy }
    else State.runDue i 65 (s.modSession i fun x => { x with waiting := x.waiting ++ [(s.time, m)] })
  else if (x.next - q).toNat ≤ 64 then
    if x.lost.contains q.toNat then s.reply c { status := stSkipped }
    else match x.replies.find? fun r => decide (r.1 = q.toNat) with
      | some r => (s.sendUmlon m.port m.addr r.2).count (henPage m.port) 6
      | none => if umOp m = 0x01 ∨ umOp m = 0x02 ∨ umOp m = 0x10 ∨ umOp m = 0x30 then s.runCmd i c true else s
  else s

/-- SEQ_GAP_TIMEOUT: a SEQ missing 10 ms after a held request is declared lost, and the held requests run (R387). -/
def execSeqGapTimeout (session : Fin 64) (s : State) : Host.Outcome State Fault Refusal :=
  let x := s.session session
  if !s.awake || decide (s.pkg.stage ≠ 7) then .next s
  else match (List.range 65).find? fun k => seqWhole (x.held (x.next + BitVec.ofNat 32 k)) with
    | none => .next s
    | some 0 => .next s
    | some k =>
      let q := x.next + BitVec.ofNat 32 k
      if s.time < ((x.held q).foldl (fun a e => max a e.1) 0) + 10000000 then .next s
      else
        .next (State.runDue session 65 (s.modSession session fun x =>
          { x with next := q, lost := x.lost ++ (List.range k).map (fun j => (x.next + BitVec.ofNat 32 j).toNat)
                   waiting := x.waiting.filter fun e => decide ((umSeq e.2 - q).toNat ≤ 64) }))

/-! ## Receiving (R381 to R383, R389) -/

/-- The source address lies inside a session's prefix. -/
def Session.inPrefix (x : Session) (a : BitVec 128) : Bool := decide (a.toNat / 2 ^ (128 - x.plen) = x.pfx.toNat / 2 ^ (128 - x.plen))

/-- Whom a message comes from: `some none` is an unauthenticated request, `none` fails authentication. -/
def State.sender (s : State) (m : Umlon) : Option (Option Nat) :=
  if umSession m = 0xFFFF then (if m.tag = 0 then some none else none)
  else
    let i := umSession m
    let x := s.session i
    if i < 64 ∧ x.valid ∧ x.inPrefix m.addr ∧ m.tag = umTag x.key m.h0 m.h1 m.h2 m.h3 m.data then some (some i) else none

/-- The message names the present boot, or needs not to (R383). -/
def State.freshBoot (s : State) (m : Umlon) : Bool :=
  if m.h2 = 0 then decide (umOp m = 0x01 ∨ umOp m = 0x02) else decide (m.h2 = s.pkg.bootId)

/-- An Umlon datagram arrives at a port. -/
def State.umlonIn (s : State) (m : Umlon) : State :=
  let pg := henPage m.port
  if !s.hears m.port then s
  else
    let s := s.frameIn m.port
    if umVersion m ≠ 1 ∨ umLen m ≠ m.data.length then s.count pg 4
    else match s.sender m with
      | none => (s.count pg 3).event pg 7
      | some who =>
        if !s.answersOp who (umOp m) then s.count pg 5
        else
          let s := s.count pg 2
          let c : Cmd := { port := m.port, addr := m.addr, sess := who, op := umOp m, seq := umSeq m, data := m.data, bad := !umWell m }
          if !s.freshBoot m then s.reply c { status := stStale }
          else match who with
            | none =>
              let (a, s) := s.command c false
              s.reply c a
            | some i => s.queueIn i m

/-- A row of R384: a message with that row's OP. -/
def State.umlonRow (s : State) (op : Nat) (m : Umlon) : Host.Outcome State Fault Refusal := .next (if umOp m = op then s.umlonIn m else s)

/-- IDENTIFY: the identity record (R334). -/
def execIdentify (m : Umlon) (s : State) : Host.Outcome State Fault Refusal := s.umlonRow 0x01 m
/-- STATUS: the status record (R388). -/
def execStatus (m : Umlon) (s : State) : Host.Outcome State Fault Refusal := s.umlonRow 0x02 m
/-- REG_READ: control-window reads (R386). -/
def execRegRead (m : Umlon) (s : State) : Host.Outcome State Fault Refusal := s.umlonRow 0x10 m
/-- REG_WRITE: control-window writes (R386). -/
def execRegWrite (m : Umlon) (s : State) : Host.Outcome State Fault Refusal := s.umlonRow 0x11 m
/-- EVT_BIND: the binding of an event channel (R391). -/
def execEvtBind (m : Umlon) (s : State) : Host.Outcome State Fault Refusal := s.umlonRow 0x20 m
/-- EVT_ACK: an EVENT message is acknowledged (R393). -/
def execEvtAck (m : Umlon) (s : State) : Host.Outcome State Fault Refusal := s.umlonRow 0x21 m
/-- ATT_REPORT: an attestation session and its report (R336, R339). -/
def execAttReport (m : Umlon) (s : State) : Host.Outcome State Fault Refusal := s.umlonRow 0x30 m
/-- KEY_BLOB: a wrapped key (R339). -/
def execKeyBlob (m : Umlon) (s : State) : Host.Outcome State Fault Refusal := s.umlonRow 0x31 m
/-- IMAGE_PART: image bytes, in SEQ order (R384). -/
def execImagePart (m : Umlon) (s : State) : Host.Outcome State Fault Refusal := s.umlonRow 0x40 m
/-- IMAGE_COMMIT: the image is verified and written to flash (R384). -/
def execImageCommit (m : Umlon) (s : State) : Host.Outcome State Fault Refusal := s.umlonRow 0x41 m
/-- QP_CREATE (R395). -/
def execQpCreate (m : Umlon) (s : State) : Host.Outcome State Fault Refusal := s.umlonRow 0x50 m
/-- QP_DESTROY (R397). -/
def execQpDestroy (m : Umlon) (s : State) : Host.Outcome State Fault Refusal := s.umlonRow 0x52 m
/-- MR_REG (R395). -/
def execMrReg (m : Umlon) (s : State) : Host.Outcome State Fault Refusal := s.umlonRow 0x53 m
/-- MR_DEREG (R384). -/
def execMrDereg (m : Umlon) (s : State) : Host.Outcome State Fault Refusal := s.umlonRow 0x54 m
/-- UNKNOWN_OP: an OP that is no command of a host is not executed: 0x80, which only the device sends, answers NOT_PERMITTED, any other
MALFORMED (R384). -/
def execUnknownOp (m : Umlon) (s : State) : Host.Outcome State Fault Refusal :=
  .next (if knownOps.contains (umOp m) then s else s.umlonIn m)

/-! ## EVENT messages (R392, R393) -/

/-- The port that a channel sends on, if one is up (R391). -/
def State.chanPort (s : State) (h : Chan) : Option (Fin 2) :=
  if h.portSel = 1 then (if s.hears 1 then some 1 else none)
  else if s.hears 0 then some 0
  else if h.portSel = 2 ∧ s.hears 1 then some 1 else none

/-- A record's 40 bytes (R392). -/
def EvRec.bytes (r : EvRec) : List Byte := toBytes 8 (r.type.toNat + r.seqno.toNat * 2 ^ 8) ++ fitBytes 32 (bytesOf r.body)

/-- How many records the next EVENT message of a channel carries; 0 while no condition is met (R392). -/
def Chan.sends (h : Chan) (now room : Nat) : Nat :=
  let urgent := match h.queue.reverse.findIdx? fun r => r.fatal with
    | some i => h.queue.length - i
    | none => 0
  let full := if h.coalN ≤ h.queue.length then h.coalN else 0
  let late := match h.queue with
    | [] => 0
    | r :: _ => if r.at' + h.coalUs * 1000 ≤ now then min h.coalN h.queue.length else 0
  let packed := if room ≤ h.queue.length then room else 0
  min (max (max urgent full) (max late packed)) (min room h.queue.length)

/-- EVENT: a channel sends a message of records (R392): at most four are unacknowledged. -/
def execEvent (chan : Fin 4096) (s : State) : Host.Outcome State Fault Refusal :=
  let h := s.chan chan
  if !s.awake || decide (s.pkg.stage ≠ 7) || !h.bound || h.stalled || decide (4 ≤ h.unacked.length) then .next s
  else match s.chanPort h with
    | none => .next s
    | some q =>
      let n := h.sends s.time ((s.maxPay q - 16) / 40)
      if n = 0 then .next s
      else
        let data := toBytes 2 chan.val ++ toBytes 2 n ++ toBytes 4 h.dropped.toNat ++ toBytes 4 h.msgSeq.toNat ++ toBytes 4 0
          ++ (h.queue.take n).flatMap EvRec.bytes
        let m := umMake (some (s.session h.sess).key) q h.addr s.pkg.bootId 0 0x80 0 h.msgSeq h.sess 0 1 data
        let s := s.modChan chan fun h =>
          { h with queue := h.queue.drop n, dropped := 0, msgSeq := h.msgSeq + 1, unacked := h.unacked ++ [(h.msgSeq.toNat, 0, s.time, m)] }
        .next ((s.frameOut q (.umlon q h.udp h.addr m)).count telPage 3)

/-- TEL.EVT.ACK_US as it acts, in ns, and TEL.EVT.RETRIES (R399). -/
def State.ackNs (s : State) : Nat := max 1 (s.fld telPage 0x100 0 16) * 1000
def State.evtRetries (s : State) : Nat := s.fld telPage 0x100 16 4

/-- EVENT_RESEND: a message unacknowledged for ACK_US is sent again unchanged; after its last resend the channel is STALLED (R393). -/
def execEventResend (chan : Fin 4096) (s : State) : Host.Outcome State Fault Refusal :=
  let h := s.chan chan
  if !s.awake || decide (s.pkg.stage ≠ 7) || !h.bound || h.stalled then .next s
  else match s.chanPort h, h.unacked.find? fun e => decide (e.2.2.1 + s.ackNs ≤ s.time) with
    | some q, some e =>
      if e.2.1 < s.evtRetries then
        let s := s.modChan chan fun h =>
          { h with unacked := h.unacked.map fun x => if x.1 = e.1 then (e.1, e.2.1 + 1, s.time, e.2.2.2) else x }
        .next ((s.frameOut q (.umlon q h.udp h.addr e.2.2.2)).count telPage 4)
      else .next ((((s.modChan chan fun h => { h with stalled := true }).count telPage 5).contained telPage 0x161).event telPage 4)
    | _, _ => .next s

end Sys2Proof.Machine
end

