-- ==== Sys2Proof/Machine/Xce.lean ====
section
/-! DEFINITION. The Exchange Engine: remote addresses, admission, requests, fences and flags (R129, R263, R264, R277, R281 to R283,
R287 to R292). -/

namespace Sys2Proof.Machine

structure XceF where
  raddr : Word
  laddr : Nat
  allf  : Bool
  len   : Nat      -- bytes
  flow  : Nat
  rop   : Nat
  rtype : Nat
  otol  : Bool
  flag  : Bool
  faddr : Word
  mask  : Nat
  deriving DecidableEq, Repr

def xceOf (d : Desc) : XceF :=
  { raddr := d.w1, laddr := d.f 2 0 18 * 32, allf := d.w2.getLsbD 18, len := (d.f 2 20 16 + 1) * 32, flow := d.f 2 36 20, rop := d.f 2 56 3,
    rtype := d.f 2 59 3, otol := d.w2.getLsbD 62, flag := d.w2.getLsbD 63, faddr := d.w3, mask := d.f 3 0 4 }

/-- A global address that names an inbox (R263). -/
def inboxForm (a : Word) : Bool := decide (bits a 62 2 = 1) && a.getLsbD 48

/-- The checks of R129 and R131. -/
def xceBad (d : Desc) (x : XceF) : Option Nat :=
  let op := d.op
  firstCode [
    (d.commonBad .xce (d.ownZero .xce) || d.w2.getLsbD 19 || (x.flag && decide (op ≠ 1)) || (x.otol && decide (x.rop ≠ 2))
      || (decide (op ≠ 3) && decide (x.rop ≠ 0)), 0x040),
    (decide (op = 3) && decide (5 ≤ x.rop ∨ 6 ≤ x.rtype), 0x042),
    (decide (op = 3) && !redOk x.rop x.rtype, 0x043),
    ((decide (1 ≤ op ∧ op ≤ 5) && decide (storeBytes < x.laddr + x.len))
      || (decide (op ≠ 5 ∧ op ≠ 6) && !inboxForm x.raddr && decide (bits x.raddr 0 5 ≠ 0))
      || (x.flag && !inboxForm x.faddr && decide (bits x.faddr 0 5 ≠ 0)), 0x045),
    (decide (op = 4) && decide (x.mask = 0), 0x048)]

/-! ## Addresses (R263) -/

/-- One run of remote bytes: target coordinate, TVA, SPACE, length, and its tray-window address where it has one. -/
structure Remote where
  coord : Nat
  tva   : Nat
  space : Bool
  len   : Nat
  tray  : Option Nat := none
  deriving DecidableEq, Repr

/-- Runs that follow one another at one target become one. -/
def joinRuns : List Remote → List Remote
  | [] => []
  | r :: rs =>
    match joinRuns rs with
    | [] => [r]
    | q :: qs =>
      if q.coord = r.coord ∧ q.tva = r.tva + r.len ∧ q.space = r.space ∧ q.tray.isSome = r.tray.isSome then { r with len := r.len + q.len } :: qs
      else r :: q :: qs

/-- What an address of n bytes resolves to: none is code 0x090. -/
def State.resolve (s : State) (t c : Nat) (a : Word) (n : Nat) (write : Bool) : Option (List Remote) × State :=
  match bits a 62 2 with
  | 0 =>
    (match s.translate (tileDie t) (some c) a.toNat n write with
     | (none, s) => (none, s)
     | (some gs, s) =>
       if gs.any fun g => decide (2 ≤ g.kind) then (none, s)
       else (some (joinRuns (gs.map fun g =>
         if g.kind = 0 then { coord := s.ownLc, tva := g.va, space := false, len := g.len }
         else
           let w := g.pa - 0x020000000000
           { coord := s.ownLc / 4 * 4 + w / 0x010000000000, tva := w % 0x010000000000, space := false, len := g.len, tray := some g.pa })), s))
  | 1 =>
    let r : Remote := { coord := bits a 49 13, tva := bits a 0 48, space := a.getLsbD 48, len := n }
    if r.space ∧ 256 ≤ r.tva then (none, s) else (some [r], s)
  | _ => (none, s)

/-- The flow of a descriptor may be used: valid, of the context, to the coordinate (R264). -/
def State.flowOk (s : State) (f c coord : Nat) : Bool :=
  let e := s.flowNow f
  e.valid && !e.mgmt && decide (e.ctx = c) && decide (e.peer = coord)

/-! ## Requests (R282) -/

/-- The requests of one run: pieces at 8 KiB boundaries of the remote address with their places in the data; one where it is a GET
or an INVAL. -/
def runPieces (whole : Bool) : Nat → Nat → Nat → Nat → List (Nat × Nat × Nat)
  | 0, _, _, _ => []
  | fuel + 1, tva, at', n =>
    if n = 0 then []
    else if whole then [(tva, at', n)]
    else
      let k := min n (8192 - tva % 8192)
      (tva, at', k) :: runPieces whole fuel (tva + k) (at' + k) (n - k)

/-- Pieces of a run; the address of an inbox stays. -/
def piecesOf (whole : Bool) (at' : Nat) (r : Remote) : List (Nat × Nat × Nat) :=
  if r.space then (runPieces whole (r.len / 8192 + 2) 0 at' r.len).map fun p => (r.tva, p.2.1, p.2.2)
  else runPieces whole (r.len / 8192 + 2) r.tva at' r.len

/-- The operation bits of word 2 (R265); COMB as R297 sets it. -/
def opBits (op : Nat) (x : XceF) (space : Bool) : Nat :=
  let comb := decide (op = 2) || (decide (op = 3) && (decide (x.rop ≠ 2) || x.otol))
  flag space * 2 ^ 48 + (if op = 3 then x.rop * 2 ^ 49 + x.rtype * 2 ^ 52 + flag x.otol * 2 ^ 55 else 0) + flag comb * 2 ^ 56

/-- POP of an opcode: an MCAST stream is of PUTs (R287). -/
def popOf (op : Nat) : Nat := match op with | 1 => 1 | 2 => 2 | 3 => 4 | 4 => 1 | 5 => 5 | _ => 7

/-- The requests of an operation over its runs on each of its flows. -/
def xceReqs (t c id : Nat) (op : Nat) (x : XceF) (targets : List (Nat × List Remote)) (data : List Byte) : List Req :=
  targets.flatMap fun (f, runs) =>
    let ps := (runs.foldl (fun (acc : List (Nat × Nat × Nat × Bool) × Nat) r =>
      (acc.1 ++ (piecesOf (decide (op = 2 ∨ op = 7)) acc.2 r).map (fun p => (p.1, p.2.1, p.2.2, r.space)), acc.2 + r.len)) ([], 0)).1
    ps.map fun (tva, at', n, space) =>
      { flow := f, seq := 0, pop := popOf op, ctx := c, owner := .tile t id, w2 := BitVec.ofNat 64 (tva % 2 ^ 48 + opBits op x space)
        len := if op = 2 then n / 32 - 1 else 0
        arg := if op = 7 then toBytes 8 n else if op = 2 then [] else (data.drop at').take n
        dest := if op = 2 then .store t (x.laddr + at') else .none
        page := engPage t .xce, die := tileDie t }

/-- The budget of the context's period is spent (R330). -/
def State.budgetSpent (s : State) (c : Nat) : Bool :=
  let b := bits (s.desc c).w3 32 32
  decide (b ≠ 0) && decide (b * 4096 ≤ Tab.get 0 s.fab.spent c)

/-- What of an operation is refused at admission (R277), in the order of its codes with the budget last. -/
def State.admitCode (s : State) (c : Nat) (ops : List (Nat × Nat × Nat)) : Option Nat :=
  firstCode [
    (ops.any fun o => !s.flowOk o.1 c o.2.1, 0x095),
    (ops.any fun o => (s.keyOf (s.flowNow o.1)).isNone, 0x096),
    (ops.any fun o => s.fab.worn.contains o.1
      || decide (2 ^ 32 < (s.flowNow o.1).next + (s.fab.unsent.filter fun u => decide (u.req.flow = o.1)).length + o.2.2), 0x097),
    (s.budgetSpent c, 0x094)]

/-- An admitted operation starts: its requests are handed to their flows. -/
def State.xceGo (s : State) (t c : Nat) (ecc : Ecc) (d : Desc) (x : XceF) (targets : List (Nat × List Remote)) (fl : Option (Nat × Word)) : State :=
  let op := d.op
  let id := (s.tile t).serial
  let s := s.takeDesc t .xce d (fun f => f)
  let reads := decide (op = 1 ∨ op = 3 ∨ op = 4 ∨ op = 5)
  let (m, s) := if reads then s.eccTile t ecc else (({} : Met), s)
  let (data, s) := if reads then s.localRead t false x.laddr x.len else (([] : List Byte), s)
  let s := if op = 1 ∨ op = 3 then targets.foldl (fun s p => p.2.foldl (fun s r => match r.tray with
      | some pa => s.dropTlc pa r.len
      | none => s) s) s else s
  let rs := xceReqs t c id op x targets data
  let s := s.modFlight t id fun f =>
    { (f.meet m) with bytes := if op = 7 then 0 else x.len * targets.length, left := rs.length, unsent := rs.length
                      flag := fl.map fun p => (p.1, p.2, none) }
  (rs.foldl (fun s r => s.request r) s).pump

/-- A descriptor with its targets: refused at admission, or started. -/
def State.xceAdmit (s : State) (t c : Nat) (ecc : Ecc) (d : Desc) (x : XceF) (targets : List (Nat × List Remote)) (coords : List (Nat × Nat))
    (fl : Option (Nat × Word)) : State :=
  let n := (xceReqs t c 0 d.op x targets []).length
  match s.admitCode c (coords.map fun p => (p.1, p.2, n + flag fl.isSome)) with
  | some k => s.refuseDesc t .xce d k
  | none => s.xceGo t c ecc d x targets fl

/-- Every run leads to one coordinate, or to none that a flow can have. -/
def oneCoord (rs : List Remote) : Nat := match rs with
  | [] => 8192
  | r :: more => if more.all fun q => decide (q.coord = r.coord) then r.coord else 8192

/-- PUT, GET, RED, SEND and INVAL after their checks. -/
def State.xceRun (t : Nat) (ecc : Ecc) (d : Desc) (s : State) : State :=
  let op := d.op
  let x := xceOf d
  match s.ctxOf t with
  | none => s.refuseDesc t .xce d 0x090
  | some c =>
    match s.resolve t c x.raddr x.len (decide (op = 1 ∨ op = 3)) with
    | (none, s) => s.refuseDesc t .xce d 0x090
    | (some rs, s) =>
      let coord := oneCoord rs
      if (rs.any fun r => r.space) && decide (op ≠ 5) then s.refuseDesc t .xce d 0x090
      else if x.flag then
        match s.resolve t c x.faddr 4 true with
        | (none, s) => s.refuseDesc t .xce d 0x090
        | (some fs, s) =>
          match fs with
          | [r] =>
            let s := match r.tray with
              | some pa => if s.flowOk x.flow c r.coord then s.dropTlc pa 4 else s
              | none => s
            s.xceAdmit t c ecc d x [(x.flow, rs)] [(x.flow, coord), (x.flow, r.coord)]
              (some (x.flow, BitVec.ofNat 64 (r.tva % 2 ^ 48 + flag r.space * 2 ^ 48)))
          | _ => s.refuseDesc t .xce d 0x095
      else s.xceAdmit t c ecc d x [(x.flow, rs)] [(x.flow, coord)] none

/-- MCAST after its checks: member m of the tray on flow FLOW + m (R264, R287). -/
def State.mcastRun (t : Nat) (ecc : Ecc) (d : Desc) (s : State) : State :=
  let x := xceOf d
  match s.ctxOf t with
  | none => s.refuseDesc t .xce d 0x090
  | some c =>
    if 2 ≤ bits x.raddr 62 2 ∨ inboxForm x.raddr = true then s.refuseDesc t .xce d 0x090
    else
      let ms := (List.range 4).filter fun m => decide (x.mask / 2 ^ m % 2 = 1)
      let coord (m : Nat) : Nat := s.ownLc / 4 * 4 + m
      let fl (m : Nat) : Nat := x.flow / 4 * 4 + m
      s.xceAdmit t c ecc d x (ms.map fun m => (fl m, [{ coord := coord m, tva := bits x.raddr 0 48, space := false, len := x.len }]))
        (ms.map fun m => (fl m, coord m)) none

/-- FENCE after its checks: ISSUED is captured (R289). -/
def State.fenceRun (t : Nat) (d : Desc) (s : State) : State :=
  let x := xceOf d
  match s.ctxOf t with
  | none => s.refuseDesc t .xce d 0x095
  | some c =>
    let e := s.flowNow x.flow
    if !x.allf && (!e.valid || decide (e.ctx ≠ c)) then s.refuseDesc t .xce d 0x095
    else
      let cap := if x.allf then (Tab.get 0 s.fab.issuedAll c).toNat else e.issued
      (s.takeDesc t .xce d fun f => { f with waitFor := some (x.allf, x.flow, cap) }).settle

def xceOps : List Nat := [1, 2, 3, 4, 5, 6, 7]

/-- PUT: tile store to remote memory, with a flag after it where FLAG = 1 (R290). -/
def execPut (t : Fin 192) (ecc : Ecc) (s : State) : Host.Outcome State Fault Refusal :=
  .next (s.engineStart t .xce xceOps 1 (fun _ => true) (fun d _ => xceBad d (xceOf d)) (State.xceRun t ecc))
/-- GET: remote memory to tile store. -/
def execGet (t : Fin 192) (s : State) : Host.Outcome State Fault Refusal :=
  .next (s.engineStart t .xce xceOps 2 (fun _ => true) (fun d _ => xceBad d (xceOf d)) (State.xceRun t .clean))
/-- RED: reduction of tile-store data into remote memory. -/
def execRed (t : Fin 192) (ecc : Ecc) (s : State) : Host.Outcome State Fault Refusal :=
  .next (s.engineStart t .xce xceOps 3 (fun _ => true) (fun d _ => xceBad d (xceOf d)) (State.xceRun t ecc))
/-- MCAST: the same data to several tray members. -/
def execMcast (t : Fin 192) (ecc : Ecc) (s : State) : Host.Outcome State Fault Refusal :=
  .next (s.engineStart t .xce xceOps 4 (fun _ => true) (fun d _ => xceBad d (xceOf d)) (State.mcastRun t ecc))
/-- SEND: tile store to a tile's inbox. -/
def execSend (t : Fin 192) (ecc : Ecc) (s : State) : Host.Outcome State Fault Refusal :=
  .next (s.engineStart t .xce xceOps 5 (fun _ => true) (fun d _ => xceBad d (xceOf d)) (State.xceRun t ecc))
/-- FENCE: starts once every earlier descriptor of the tile has issued all its requests (R289). -/
def execFence (t : Fin 192) (s : State) : Host.Outcome State Fault Refusal :=
  .next (s.engineStart t .xce xceOps 6
    (fun _ => ((s.tile t).flightsOf .xce).all fun f => decide (f.unsent = 0) && f.flag.isNone)
    (fun d _ => xceBad d (xceOf d)) (State.fenceRun t))
/-- INVAL: cached copies of a remote range are dropped at the flow's peer (R292). -/
def execInval (t : Fin 192) (s : State) : Host.Outcome State Fault Refusal :=
  .next (s.engineStart t .xce xceOps 7 (fun _ => true) (fun d _ => xceBad d (xceOf d)) (State.xceRun t .clean))

end Sys2Proof.Machine
end

