-- ==== Sys2Proof/Machine/Dispatch.lean ====
section
/-! DEFINITION. The dispatch: one arm per command of the table, each one call of that command's meaning. -/

namespace Sys2Proof.Machine

open Sys2Proof

/-- The effect of a command on everything but the queue. -/
def exec (i : Instr) (s : State) : Host.Outcome State Fault Refusal :=
  match i with
  | .add t => Sys2Proof.Machine.execAdd t s
  | .sub t => Sys2Proof.Machine.execSub t s
  | .mul t => Sys2Proof.Machine.execMul t s
  | .and t => Sys2Proof.Machine.execAnd t s
  | .or t => Sys2Proof.Machine.execOr t s
  | .xor t => Sys2Proof.Machine.execXor t s
  | .shl t => Sys2Proof.Machine.execShl t s
  | .shr t => Sys2Proof.Machine.execShr t s
  | .sra t => Sys2Proof.Machine.execSra t s
  | .min t => Sys2Proof.Machine.execMin t s
  | .max t => Sys2Proof.Machine.execMax t s
  | .minu t => Sys2Proof.Machine.execMinu t s
  | .maxu t => Sys2Proof.Machine.execMaxu t s
  | .addi t => Sys2Proof.Machine.execAddi t s
  | .subi t => Sys2Proof.Machine.execSubi t s
  | .muli t => Sys2Proof.Machine.execMuli t s
  | .andi t => Sys2Proof.Machine.execAndi t s
  | .ori t => Sys2Proof.Machine.execOri t s
  | .xori t => Sys2Proof.Machine.execXori t s
  | .shli t => Sys2Proof.Machine.execShli t s
  | .shri t => Sys2Proof.Machine.execShri t s
  | .srai t => Sys2Proof.Machine.execSrai t s
  | .mini t => Sys2Proof.Machine.execMini t s
  | .maxi t => Sys2Proof.Machine.execMaxi t s
  | .minui t => Sys2Proof.Machine.execMinui t s
  | .maxui t => Sys2Proof.Machine.execMaxui t s
  | .nop t => Sys2Proof.Machine.execNop t s
  | .movi t => Sys2Proof.Machine.execMovi t s
  | .movhi t => Sys2Proof.Machine.execMovhi t s
  | .ins t => Sys2Proof.Machine.execIns t s
  | .ext t => Sys2Proof.Machine.execExt t s
  | .cmp t => Sys2Proof.Machine.execCmp t s
  | .cmpi t => Sys2Proof.Machine.execCmpi t s
  | .plog t => Sys2Proof.Machine.execPlog t s
  | .fcmp t => Sys2Proof.Machine.execFcmp t s
  | .fcmpi t => Sys2Proof.Machine.execFcmpi t s
  | .br t => Sys2Proof.Machine.execBr t s
  | .jr t => Sys2Proof.Machine.execJr t s
  | .call t => Sys2Proof.Machine.execCall t s
  | .loop t => Sys2Proof.Machine.execLoop t s
  | .halt t => Sys2Proof.Machine.execHalt t s
  | .ldc t => Sys2Proof.Machine.execLdc t s
  | .stc t => Sys2Proof.Machine.execStc t s
  | .controlReply t => Sys2Proof.Machine.execControlReply t s
  | .uclr t => Sys2Proof.Machine.execUclr t s
  | .urd t => Sys2Proof.Machine.execUrd t s
  | .summaryResume t => Sys2Proof.Machine.execSummaryResume t s
  | .tset t => Sys2Proof.Machine.execTset t s
  | .twait t => Sys2Proof.Machine.execTwait t s
  | .twaitResume t => Sys2Proof.Machine.execTwaitResume t s
  | .tsig t => Sys2Proof.Machine.execTsig t s
  | .trd t => Sys2Proof.Machine.execTrd t s
  | .tarm t => Sys2Proof.Machine.execTarm t s
  | .tend t => Sys2Proof.Machine.execTend t s
  | .tdis t => Sys2Proof.Machine.execTdis t s
  | .issue t => Sys2Proof.Machine.execIssue t s
  | .taskPick t => Sys2Proof.Machine.execTaskPick t s
  | .spillRefill t e => Sys2Proof.Machine.execSpillRefill t e s
  | .stallWatchdog t => Sys2Proof.Machine.execStallWatchdog t s
  | .runStart a t => Sys2Proof.Machine.execRunStart a t s
  | .runHalt a t => Sys2Proof.Machine.execRunHalt a t s
  | .load t ecc => Sys2Proof.Machine.execLoad t ecc s
  | .ldeCopy t ecc => Sys2Proof.Machine.execLdeCopy t ecc s
  | .gather t ecc => Sys2Proof.Machine.execGather t ecc s
  | .mma t ecc => Sys2Proof.Machine.execMma t ecc s
  | .drain t ecc => Sys2Proof.Machine.execDrain t ecc s
  | .group t ecc => Sys2Proof.Machine.execGroup t ecc s
  | .run t ecc => Sys2Proof.Machine.execRun t ecc s
  | .loadp t ecc => Sys2Proof.Machine.execLoadp t ecc s
  | .rawacc t ecc => Sys2Proof.Machine.execRawacc t ecc s
  | .store t ecc => Sys2Proof.Machine.execStore t ecc s
  | .steCopy t ecc => Sys2Proof.Machine.execSteCopy t ecc s
  | .put t ecc => Sys2Proof.Machine.execPut t ecc s
  | .get t => Sys2Proof.Machine.execGet t s
  | .red t ecc => Sys2Proof.Machine.execRed t ecc s
  | .mcast t ecc => Sys2Proof.Machine.execMcast t ecc s
  | .send t ecc => Sys2Proof.Machine.execSend t ecc s
  | .fence t => Sys2Proof.Machine.execFence t s
  | .inval t => Sys2Proof.Machine.execInval t s
  | .descriptorComplete t e heldNs => Sys2Proof.Machine.execDescriptorComplete t e heldNs s
  | .accScrub t ecc => Sys2Proof.Machine.execAccScrub t ecc s
  | .idleScrub t rf ecc => Sys2Proof.Machine.execIdleScrub t rf ecc s
  | .clear t => Sys2Proof.Machine.execClear t s
  | .acc t ecc => Sys2Proof.Machine.execAcc t ecc s
  | .select t => Sys2Proof.Machine.execSelect t s
  | .expand t => Sys2Proof.Machine.execExpand t s
  | .audit t ecc => Sys2Proof.Machine.execAudit t ecc s
  | .begin t => Sys2Proof.Machine.execBegin t s
  | .close t => Sys2Proof.Machine.execClose t s
  | .ftsComplete t => Sys2Proof.Machine.execFtsComplete t s
  | .route t ecc => Sys2Proof.Machine.execRoute t ecc s
  | .clrcnt t => Sys2Proof.Machine.execClrcnt t s
  | .routeComplete t => Sys2Proof.Machine.execRouteComplete t s
  | .jobGo a addr ctx => Sys2Proof.Machine.execJobGo a addr ctx s
  | .sbdJobStart ecc => Sys2Proof.Machine.execSbdJobStart ecc s
  | .sbdJobComplete busyNs => Sys2Proof.Machine.execSbdJobComplete busyNs s
  | .upeJobHead stack ctx ring => Sys2Proof.Machine.execUpeJobHead stack ctx ring s
  | .upeJobStart stack ctx ring heldNs ecc => Sys2Proof.Machine.execUpeJobStart stack ctx ring heldNs ecc s
  | .upeJobComplete stack busyNs => Sys2Proof.Machine.execUpeJobComplete stack busyNs s
  | .rtBase a stack base => Sys2Proof.Machine.execRtBase a stack base s
  | .upeCommit a stack ctx => Sys2Proof.Machine.execUpeCommit a stack ctx s
  | .upeRollback a stack ctx => Sys2Proof.Machine.execUpeRollback a stack ctx s
  | .cLoad a stack ctx c => Sys2Proof.Machine.execCLoad a stack ctx c s
  | .cleStepStart stack ctx q heldNs => Sys2Proof.Machine.execCleStepStart stack ctx q heldNs s
  | .xfer stack ctx q ecc => Sys2Proof.Machine.execXfer stack ctx q ecc s
  | .xferChunk stack ctx q chunk ecc => Sys2Proof.Machine.execXferChunk stack ctx q chunk ecc s
  | .cleAdd stack ctx q => Sys2Proof.Machine.execCleAdd stack ctx q s
  | .addChunk stack ctx q chunk addersAgree ecc => Sys2Proof.Machine.execAddChunk stack ctx q chunk addersAgree ecc s
  | .perm stack ctx q ecc => Sys2Proof.Machine.execPerm stack ctx q ecc s
  | .fetch stack ctx q => Sys2Proof.Machine.execFetch stack ctx q s
  | .cleStepComplete stack ctx q busyNs => Sys2Proof.Machine.execCleStepComplete stack ctx q busyNs s
  | .ptBase a stack base => Sys2Proof.Machine.execPtBase a stack base s
  | .cleCommit a stack ctx => Sys2Proof.Machine.execCleCommit a stack ctx s
  | .cleRollback a stack ctx => Sys2Proof.Machine.execCleRollback a stack ctx s
  | .attemptWrite a stack ctx v => Sys2Proof.Machine.execAttemptWrite a stack ctx v s
  | .tlcInvalAll a stack => Sys2Proof.Machine.execTlcInvalAll a stack s
  | .packetArrival port p => Sys2Proof.Machine.execPacketArrival port p s
  | .creditReturn port vc cls n => Sys2Proof.Machine.execCreditReturn port vc cls n s
  | .popPut => Sys2Proof.Machine.execPopPut s
  | .popGet ecc => Sys2Proof.Machine.execPopGet ecc s
  | .popData => Sys2Proof.Machine.execPopData s
  | .popRed ecc => Sys2Proof.Machine.execPopRed ecc s
  | .combineDrain => Sys2Proof.Machine.execCombineDrain s
  | .popSend => Sys2Proof.Machine.execPopSend s
  | .popFlag => Sys2Proof.Machine.execPopFlag s
  | .popInval => Sys2Proof.Machine.execPopInval s
  | .popAck => Sys2Proof.Machine.execPopAck s
  | .popNack => Sys2Proof.Machine.execPopNack s
  | .popColl => Sys2Proof.Machine.execPopColl s
  | .popMirror => Sys2Proof.Machine.execPopMirror s
  | .popReady => Sys2Proof.Machine.execPopReady s
  | .resendTimeout flow seq => Sys2Proof.Machine.execResendTimeout flow seq s
  | .flowFill flow ecc => Sys2Proof.Machine.execFlowFill flow ecc s
  | .fabBudgetPeriod => Sys2Proof.Machine.execFabBudgetPeriod s
  | .uncorrectableCodeword port => Sys2Proof.Machine.execUncorrectableCodeword port s
  | .replayRequest port ok => Sys2Proof.Machine.execReplayRequest port ok s
  | .linkLossOfLock port => Sys2Proof.Machine.execLinkLossOfLock port s
  | .retrainTimer port => Sys2Proof.Machine.execRetrainTimer port s
  | .portTrainingDone port lanes rtt => Sys2Proof.Machine.execPortTrainingDone port lanes rtt s
  | .fecWindow port symbols => Sys2Proof.Machine.execFecWindow port symbols s
  | .portRetrain a port => Sys2Proof.Machine.execPortRetrain a port s
  | .portEnWrite a port en => Sys2Proof.Machine.execPortEnWrite a port en s
  | .fltInval a flow ctx byCtx => Sys2Proof.Machine.execFltInval a flow ctx byCtx s
  | .invalDone => Sys2Proof.Machine.execInvalDone s
  | .stepSyncEdge => Sys2Proof.Machine.execStepSyncEdge s
  | .popSync => Sys2Proof.Machine.execPopSync s
  | .roundBoundary slacks => Sys2Proof.Machine.execRoundBoundary slacks s
  | .resync a => Sys2Proof.Machine.execResync a s
  | .replanTimer => Sys2Proof.Machine.execReplanTimer s
  | .replan a => Sys2Proof.Machine.execReplan a s
  | .slackSample t ps => Sys2Proof.Machine.execSlackSample t ps s
  | .fatalReport => Sys2Proof.Machine.execFatalReport s
  | .bureauWatchdog => Sys2Proof.Machine.execBureauWatchdog s
  | .voteSend ctx => Sys2Proof.Machine.execVoteSend ctx s
  | .mirrorCopy ctx entry ecc => Sys2Proof.Machine.execMirrorCopy ctx entry ecc s
  | .heartbeatTimer => Sys2Proof.Machine.execHeartbeatTimer s
  | .heartbeatMiss => Sys2Proof.Machine.execHeartbeatMiss s
  | .heartbeat => Sys2Proof.Machine.execHeartbeat s
  | .vote => Sys2Proof.Machine.execVote s
  | .abort => Sys2Proof.Machine.execAbort s
  | .dlog => Sys2Proof.Machine.execDlog s
  | .decide => Sys2Proof.Machine.execDecide s
  | .rollbackQuiesceDone ctx => Sys2Proof.Machine.execRollbackQuiesceDone ctx s
  | .quiesced => Sys2Proof.Machine.execQuiesced s
  | .reset => Sys2Proof.Machine.execReset s
  | .queryTimer ctx => Sys2Proof.Machine.execQueryTimer ctx s
  | .query => Sys2Proof.Machine.execQuery s
  | .voteTimeout ctx => Sys2Proof.Machine.execVoteTimeout ctx s
  | .takeoverReq => Sys2Proof.Machine.execTakeoverReq s
  | .probe => Sys2Proof.Machine.execProbe s
  | .probeAck => Sys2Proof.Machine.execProbeAck s
  | .probeTimeout ctx => Sys2Proof.Machine.execProbeTimeout ctx s
  | .grant => Sys2Proof.Machine.execGrant s
  | .mgmtFence => Sys2Proof.Machine.execMgmtFence s
  | .dying => Sys2Proof.Machine.execDying s
  | .handover => Sys2Proof.Machine.execHandover s
  | .assign => Sys2Proof.Machine.execAssign s
  | .standbyCopyDone => Sys2Proof.Machine.execStandbyCopyDone s
  | .mgmtReady => Sys2Proof.Machine.execMgmtReady s
  | .ctBase a base => Sys2Proof.Machine.execCtBase a base s
  | .setteeRetry a => Sys2Proof.Machine.execSetteeRetry a s
  | .quarantine a => Sys2Proof.Machine.execQuarantine a s
  | .pkgQuiesce a => Sys2Proof.Machine.execPkgQuiesce a s
  | .pkgReady a => Sys2Proof.Machine.execPkgReady a s
  | .warmReset a => Sys2Proof.Machine.execWarmReset a s
  | .enableWrite a page en => Sys2Proof.Machine.execEnableWrite a page en s
  | .quiesce a page => Sys2Proof.Machine.execQuiesce a page s
  | .blockReset a page => Sys2Proof.Machine.execBlockReset a page s
  | .cntClear a page => Sys2Proof.Machine.execCntClear a page s
  | .errFirstClear a page => Sys2Proof.Machine.execErrFirstClear a page s
  | .errCountRead a page => Sys2Proof.Machine.execErrCountRead a page s
  | .pMaxRead a => Sys2Proof.Machine.execPMaxRead a s
  | .registerWrite a addr val => Sys2Proof.Machine.execRegisterWrite a addr val s
  | .xlatGo a ctx allCtx vaBase vaPages => Sys2Proof.Machine.execXlatGo a ctx allCtx vaBase vaPages s
  | .xlatDone => Sys2Proof.Machine.execXlatDone s
  | .flush a stack => Sys2Proof.Machine.execFlush a stack s
  | .mscInvalAll a stack => Sys2Proof.Machine.execMscInvalAll a stack s
  | .flushDone stack => Sys2Proof.Machine.execFlushDone stack s
  | .halfOff a stack halves => Sys2Proof.Machine.execHalfOff a stack halves s
  | .halfEmpty stack half => Sys2Proof.Machine.execHalfEmpty stack half s
  | .thermSample hmc reading => Sys2Proof.Machine.execThermSample hmc reading s
  | .patrolScrub hmc ecc => Sys2Proof.Machine.execPatrolScrub hmc ecc s
  | .switchRestore a quad ctx => Sys2Proof.Machine.execSwitchRestore a quad ctx s
  | .switchClear a quad ctx => Sys2Proof.Machine.execSwitchClear a quad ctx s
  | .switchVacate a quad => Sys2Proof.Machine.execSwitchVacate a quad s
  | .switchDone ecc => Sys2Proof.Machine.execSwitchDone ecc s
  | .reload a ctx => Sys2Proof.Machine.execReload a ctx s
  | .erase a ctx mgmt => Sys2Proof.Machine.execErase a ctx mgmt s
  | .coarseRecord power temp util => Sys2Proof.Machine.execCoarseRecord power temp util s
  | .attSessionExpiry nonce => Sys2Proof.Machine.execAttSessionExpiry nonce s
  | .identify m => Sys2Proof.Machine.execIdentify m s
  | .status m => Sys2Proof.Machine.execStatus m s
  | .regRead m => Sys2Proof.Machine.execRegRead m s
  | .regWrite m => Sys2Proof.Machine.execRegWrite m s
  | .evtBind m => Sys2Proof.Machine.execEvtBind m s
  | .evtAck m => Sys2Proof.Machine.execEvtAck m s
  | .attReport m => Sys2Proof.Machine.execAttReport m s
  | .keyBlob m => Sys2Proof.Machine.execKeyBlob m s
  | .imagePart m => Sys2Proof.Machine.execImagePart m s
  | .imageCommit m => Sys2Proof.Machine.execImageCommit m s
  | .qpCreate m => Sys2Proof.Machine.execQpCreate m s
  | .qpDestroy m => Sys2Proof.Machine.execQpDestroy m s
  | .mrReg m => Sys2Proof.Machine.execMrReg m s
  | .mrDereg m => Sys2Proof.Machine.execMrDereg m s
  | .seqGapTimeout session => Sys2Proof.Machine.execSeqGapTimeout session s
  | .event chan => Sys2Proof.Machine.execEvent chan s
  | .eventResend chan => Sys2Proof.Machine.execEventResend chan s
  | .aclReload a => Sys2Proof.Machine.execAclReload a s
  | .hrtReload a => Sys2Proof.Machine.execHrtReload a s
  | .rdmaWrite qpn rkey va data ecn => Sys2Proof.Machine.execRdmaWrite qpn rkey va data ecn s
  | .rdmaRead qpn rkey va len ecn => Sys2Proof.Machine.execRdmaRead qpn rkey va len ecn s
  | .rdmaSend qpn data ecn => Sys2Proof.Machine.execRdmaSend qpn data ecn s
  | .readResponse qpn data ecn => Sys2Proof.Machine.execReadResponse qpn data ecn s
  | .writeAck qpn ecn => Sys2Proof.Machine.execWriteAck qpn ecn s
  | .rdmaNak qpn syndrome ecn => Sys2Proof.Machine.execRdmaNak qpn syndrome ecn s
  | .qpRetryTimeout qpn => Sys2Proof.Machine.execQpRetryTimeout qpn s
  | .cnp qpn => Sys2Proof.Machine.execCnp qpn s
  | .neighborSolicitation port target src => Sys2Proof.Machine.execNeighborSolicitation port target src s
  | .echoRequest port dst src data => Sys2Proof.Machine.execEchoRequest port dst src data s
  | .quadOn a bits => Sys2Proof.Machine.execQuadOn a bits s
  | .hbmOn a bits => Sys2Proof.Machine.execHbmOn a bits s
  | .mscOn a bits => Sys2Proof.Machine.execMscOn a bits s
  | .domainSwitchDone dom => Sys2Proof.Machine.execDomainSwitchDone dom s
  | .powerCapTick avgW => Sys2Proof.Machine.execPowerCapTick avgW s
  | .dieThermalSample stack hottest => Sys2Proof.Machine.execDieThermalSample stack hottest s
  | .railSample r l => Sys2Proof.Machine.execRailSample r l s
  | .refclkLoss => Sys2Proof.Machine.execRefclkLoss s
  | .porstNAssert => Sys2Proof.Machine.execPorstNAssert s
  | .porstNRelease straps => Sys2Proof.Machine.execPorstNRelease straps s
  | .strapSample straps => Sys2Proof.Machine.execStrapSample straps s
  | .bringupStage inp => Sys2Proof.Machine.execBringupStage inp s
  | .packDone r => Sys2Proof.Machine.execPackDone r s
  | .tstRun a => Sys2Proof.Machine.execTstRun a s
  | .tstAbort a => Sys2Proof.Machine.execTstAbort a s
  | .freezeNAssert => Sys2Proof.Machine.execFreezeNAssert s
  | .freezeNRelease => Sys2Proof.Machine.execFreezeNRelease s
  | .extest => Sys2Proof.Machine.execExtest s
  | .idcode => Sys2Proof.Machine.execIdcode s
  | .samplePreload => Sys2Proof.Machine.execSamplePreload s
  | .lctAddr v => Sys2Proof.Machine.execLctAddr v s
  | .lctRead => Sys2Proof.Machine.execLctRead s
  | .lctStatus => Sys2Proof.Machine.execLctStatus s
  | .bypass => Sys2Proof.Machine.execBypass s
  | .hostLinkDown port => Sys2Proof.Machine.execHostLinkDown port s
  | .hostLinkUp port => Sys2Proof.Machine.execHostLinkUp port s
  | .unsupportedRdmaOpcode qpn ecn => Sys2Proof.Machine.execUnsupportedRdmaOpcode qpn ecn s
  | .unknownOp m => Sys2Proof.Machine.execUnknownOp m s
  | .powerRemoved => Sys2Proof.Machine.execPowerRemoved s
  | .trstNAssert => Sys2Proof.Machine.execTrstNAssert s

end Sys2Proof.Machine
end

