-- ==== Sys2Proof/Safety.lean ====
section
/-! DEFINITION. What counts as a safe run: one in which no command stops the machine by a fault or a refusal. -/

namespace Sys2Proof.Machine

open Sys2Proof

/-- The command has a next state. -/
def Safe (i : Instr) (s : State) : Prop := ∃ s', exec i s = .next s'

/-- The state after n steps, when none of them stops. -/
def runFor : Nat → State → Option State
  | 0, s => some s
  | n + 1, s =>
    match step s with
    | .next s' => runFor n s'
    | _ => none

/-- The first n steps are safe. -/
def SafeFor (n : Nat) (s : State) : Prop := (runFor n s).isSome

end Sys2Proof.Machine
end

