-- ==== Sys2Proof/WellFormed.lean ====
section
/-! DEFINITION. Which commands are well formed: operands that can come from outside the package. -/

namespace Sys2Proof

/-- The Bureau acts in the provider role (R30). -/
def Access.wellFormed (a : Access) : Bool :=
  match a.source with
  | .bureau => a.role.isNone
  | .host0 | .host1 | .tile _ => true

/-- A storage location lies inside the package's address space (R239). -/
def Ecc.wellFormed (e : Ecc) : Bool :=
  match e with
  | .clean => true
  | .corrected loc => decide (loc < 2 ^ 52)
  | .uncorrectable loc => decide (loc < 2 ^ 52)

/-- A packet on the wire: a control cell carries a 28-byte body and no words 2 and 3, a bulk packet carries no cell check (R265). -/
def Packet.wellFormed (p : Packet) : Bool :=
  if p.w0 &&& 3 = 0 then p.ccrc == 0 && decide (p.body.length ≤ 8192)
  else p.body.length == 28 && p.w2 == 0 && p.w3 == 0

/-- OP of a message (R381). -/
def Umlon.op (m : Umlon) : Nat := m.h0.toNat / 2 ^ 16 % 256
/-- A datagram fits a frame (R380): the payload bytes and the header and tag around them. -/
def Umlon.wellFormed (m : Umlon) : Bool := decide (m.data.length ≤ 9216 - 48)
/-- The command codes of a host (R384). -/
def hostOps : List Nat := [0x01, 0x02, 0x10, 0x11, 0x20, 0x21, 0x30, 0x31, 0x40, 0x41, 0x50, 0x52, 0x53, 0x54]

/-- a is at most b. -/
def noMore (a b : Nat) : Bool := decide (a ≤ b)

/-- The operands of a command are ones that can occur. -/
def Instr.wellFormed (i : Instr) : Bool :=
  match i with
  | .add _ => true
  | .sub _ => true
  | .mul _ => true
  | .and _ => true
  | .or _ => true
  | .xor _ => true
  | .shl _ => true
  | .shr _ => true
  | .sra _ => true
  | .min _ => true
  | .max _ => true
  | .minu _ => true
  | .maxu _ => true
  | .addi _ => true
  | .subi _ => true
  | .muli _ => true
  | .andi _ => true
  | .ori _ => true
  | .xori _ => true
  | .shli _ => true
  | .shri _ => true
  | .srai _ => true
  | .mini _ => true
  | .maxi _ => true
  | .minui _ => true
  | .maxui _ => true
  | .nop _ => true
  | .movi _ => true
  | .movhi _ => true
  | .ins _ => true
  | .ext _ => true
  | .cmp _ => true
  | .cmpi _ => true
  | .plog _ => true
  | .fcmp _ => true
  | .fcmpi _ => true
  | .br _ => true
  | .jr _ => true
  | .call _ => true
  | .loop _ => true
  | .halt _ => true
  | .ldc _ => true
  | .stc _ => true
  | .controlReply _ => true
  | .uclr _ => true
  | .urd _ => true
  | .summaryResume _ => true
  | .tset _ => true
  | .twait _ => true
  | .twaitResume _ => true
  | .tsig _ => true
  | .trd _ => true
  | .tarm _ => true
  | .tend _ => true
  | .tdis _ => true
  | .issue _ => true
  | .taskPick _ => true
  | .spillRefill _ _ => true
  | .stallWatchdog _ => true
  | .runStart a _ => a.wellFormed
  | .runHalt a _ => a.wellFormed
  | .load _ ecc => ecc.wellFormed
  | .ldeCopy _ ecc => ecc.wellFormed
  | .gather _ ecc => ecc.wellFormed
  | .mma _ ecc => ecc.wellFormed
  | .drain _ ecc => ecc.wellFormed
  | .group _ ecc => ecc.wellFormed
  | .run _ ecc => ecc.wellFormed
  | .loadp _ ecc => ecc.wellFormed
  | .rawacc _ ecc => ecc.wellFormed
  | .store _ ecc => ecc.wellFormed
  | .steCopy _ ecc => ecc.wellFormed
  | .put _ ecc => ecc.wellFormed
  | .get _ => true
  | .red _ ecc => ecc.wellFormed
  | .mcast _ ecc => ecc.wellFormed
  | .send _ ecc => ecc.wellFormed
  | .fence _ => true
  | .inval _ => true
  | .descriptorComplete _ _ _ => true
  | .accScrub _ ecc => ecc.wellFormed
  | .idleScrub _ _ ecc => ecc.wellFormed
  | .clear _ => true
  | .acc _ ecc => ecc.wellFormed
  | .select _ => true
  | .expand _ => true
  | .audit _ ecc => ecc.wellFormed
  | .begin _ => true
  | .close _ => true
  | .ftsComplete _ => true
  | .route _ ecc => ecc.wellFormed
  | .clrcnt _ => true
  | .routeComplete _ => true
  | .jobGo a _ _ => a.wellFormed
  | .sbdJobStart ecc => ecc.wellFormed
  | .sbdJobComplete _ => true
  | .upeJobHead _ _ _ => true
  | .upeJobStart _ _ _ _ ecc => ecc.wellFormed
  | .upeJobComplete _ _ => true
  | .rtBase a _ _ => a.wellFormed
  | .upeCommit a _ _ => a.wellFormed
  | .upeRollback a _ _ => a.wellFormed
  | .cLoad a _ _ _ => a.wellFormed
  | .cleStepStart _ _ _ _ => true
  | .xfer _ _ _ ecc => ecc.wellFormed
  | .xferChunk _ _ _ _ ecc => ecc.wellFormed
  | .cleAdd _ _ _ => true
  | .addChunk _ _ _ _ _ ecc => ecc.wellFormed
  | .perm _ _ _ ecc => ecc.wellFormed
  | .fetch _ _ _ => true
  | .cleStepComplete _ _ _ _ => true
  | .ptBase a _ _ => a.wellFormed
  | .cleCommit a _ _ => a.wellFormed
  | .cleRollback a _ _ => a.wellFormed
  | .attemptWrite a _ _ _ => a.wellFormed
  | .tlcInvalAll a _ => a.wellFormed
  | .packetArrival _ p => p.wellFormed
  | .creditReturn _ _ _ n => noMore (1) (n)
  | .popPut => true
  | .popGet ecc => ecc.wellFormed
  | .popData => true
  | .popRed ecc => ecc.wellFormed
  | .combineDrain => true
  | .popSend => true
  | .popFlag => true
  | .popInval => true
  | .popAck => true
  | .popNack => true
  | .popColl => true
  | .popMirror => true
  | .popReady => true
  | .resendTimeout _ _ => true
  | .flowFill _ ecc => ecc.wellFormed
  | .fabBudgetPeriod => true
  | .uncorrectableCodeword _ => true
  | .replayRequest _ _ => true
  | .linkLossOfLock _ => true
  | .retrainTimer _ => true
  | .portTrainingDone _ lanes _ => noMore (lanes) (24)
  | .fecWindow _ _ => true
  | .portRetrain a _ => a.wellFormed
  | .portEnWrite a _ _ => a.wellFormed
  | .fltInval a _ _ _ => a.wellFormed
  | .invalDone => true
  | .stepSyncEdge => true
  | .popSync => true
  | .roundBoundary slacks => slacks.length == 48
  | .resync a => a.wellFormed
  | .replanTimer => true
  | .replan a => a.wellFormed
  | .slackSample _ _ => true
  | .fatalReport => true
  | .bureauWatchdog => true
  | .voteSend _ => true
  | .mirrorCopy _ _ ecc => ecc.wellFormed
  | .heartbeatTimer => true
  | .heartbeatMiss => true
  | .heartbeat => true
  | .vote => true
  | .abort => true
  | .dlog => true
  | .decide => true
  | .rollbackQuiesceDone _ => true
  | .quiesced => true
  | .reset => true
  | .queryTimer _ => true
  | .query => true
  | .voteTimeout _ => true
  | .takeoverReq => true
  | .probe => true
  | .probeAck => true
  | .probeTimeout _ => true
  | .grant => true
  | .mgmtFence => true
  | .dying => true
  | .handover => true
  | .assign => true
  | .standbyCopyDone => true
  | .mgmtReady => true
  | .ctBase a _ => a.wellFormed
  | .setteeRetry a => a.wellFormed
  | .quarantine a => a.wellFormed
  | .pkgQuiesce a => a.wellFormed
  | .pkgReady a => a.wellFormed
  | .warmReset a => a.wellFormed
  | .enableWrite a _ _ => a.wellFormed
  | .quiesce a _ => a.wellFormed
  | .blockReset a _ => a.wellFormed
  | .cntClear a _ => a.wellFormed
  | .errFirstClear a _ => a.wellFormed
  | .errCountRead a _ => a.wellFormed
  | .pMaxRead a => a.wellFormed
  | .registerWrite a _ _ => a.wellFormed
  | .xlatGo a _ _ _ _ => a.wellFormed
  | .xlatDone => true
  | .flush a _ => a.wellFormed
  | .mscInvalAll a _ => a.wellFormed
  | .flushDone _ => true
  | .halfOff a _ _ => a.wellFormed
  | .halfEmpty _ _ => true
  | .thermSample _ reading => (match reading with | none => true | some v => noMore v 255)
  | .patrolScrub _ ecc => ecc.wellFormed
  | .switchRestore a _ _ => a.wellFormed
  | .switchClear a _ _ => a.wellFormed
  | .switchVacate a _ => a.wellFormed
  | .switchDone ecc => ecc.wellFormed
  | .reload a _ => a.wellFormed
  | .erase a _ _ => a.wellFormed
  | .coarseRecord _ _ _ => true
  | .attSessionExpiry _ => true
  | .identify m => m.wellFormed && m.op == 0x01
  | .status m => m.wellFormed && m.op == 0x02
  | .regRead m => m.wellFormed && m.op == 0x10
  | .regWrite m => m.wellFormed && m.op == 0x11
  | .evtBind m => m.wellFormed && m.op == 0x20
  | .evtAck m => m.wellFormed && m.op == 0x21
  | .attReport m => m.wellFormed && m.op == 0x30
  | .keyBlob m => m.wellFormed && m.op == 0x31
  | .imagePart m => m.wellFormed && m.op == 0x40
  | .imageCommit m => m.wellFormed && m.op == 0x41
  | .qpCreate m => m.wellFormed && m.op == 0x50
  | .qpDestroy m => m.wellFormed && m.op == 0x52
  | .mrReg m => m.wellFormed && m.op == 0x53
  | .mrDereg m => m.wellFormed && m.op == 0x54
  | .seqGapTimeout _ => true
  | .event _ => true
  | .eventResend _ => true
  | .aclReload a => a.wellFormed
  | .hrtReload a => a.wellFormed
  | .rdmaWrite _ _ _ data _ => noMore (data.length) (2 ^ 30)
  | .rdmaRead _ _ _ len _ => noMore (len) (2 ^ 30)
  | .rdmaSend _ data _ => noMore (data.length) (2 ^ 30)
  | .readResponse _ data _ => noMore (data.length) (2 ^ 30)
  | .writeAck _ _ => true
  | .rdmaNak _ _ _ => true
  | .qpRetryTimeout _ => true
  | .cnp _ => true
  | .neighborSolicitation _ _ _ => true
  | .echoRequest _ _ _ data => noMore (data.length) (9216)
  | .quadOn a _ => a.wellFormed
  | .hbmOn a _ => a.wellFormed
  | .mscOn a _ => a.wellFormed
  | .domainSwitchDone _ => true
  | .powerCapTick _ => true
  | .dieThermalSample _ _ => true
  | .railSample _ _ => true
  | .refclkLoss => true
  | .porstNAssert => true
  | .porstNRelease _ => true
  | .strapSample _ => true
  | .bringupStage inp => inp.slacks.length == 48
  | .packDone _ => true
  | .tstRun a => a.wellFormed
  | .tstAbort a => a.wellFormed
  | .freezeNAssert => true
  | .freezeNRelease => true
  | .extest => true
  | .idcode => true
  | .samplePreload => true
  | .lctAddr _ => true
  | .lctRead => true
  | .lctStatus => true
  | .bypass => true
  | .hostLinkDown _ => true
  | .hostLinkUp _ => true
  | .unsupportedRdmaOpcode _ _ => true
  | .unknownOp m => m.wellFormed && !hostOps.contains m.op
  | .powerRemoved => true
  | .trstNAssert => true

end Sys2Proof
end

