-- ==== Sys2Proof/Certificates/Slice0/Obligations.lean ====
section
/-! DEFINITION. The statements for the provers: what the manual's rules say each command does, what it leaves unchanged, and what every
step keeps. -/

namespace Sys2Proof.Spec

open Sys2Proof Sys2Proof.Machine

/-- Command c answers a next state, of which P holds. -/
def Answers (c : Instr) (s : State) (P : State → Prop) : Prop := ∃ s', exec c s = .next s' ∧ P s'

/-! ## Frames -/

/-- Every byte of memory reads as before. -/
def MemSame (s s' : State) : Prop := ∀ a, s'.mem.byte a = s.mem.byte a
/-- Every byte of a tile's two spaces reads as before. -/
def BytesSame (ti ti' : Tile) : Prop := ∀ a, Tab.get 0 ti'.store a = Tab.get 0 ti.store a ∧ Tab.get 0 ti'.rf a = Tab.get 0 ti.rf a
/-- Every byte of a tile's two spaces reads as before, but for n bytes at address b of one space. -/
def BytesBut (ti ti' : Tile) (rf : Bool) (b n : Nat) : Prop :=
  (∀ a, rf = false → b ≤ a ∧ a < b + n ∨ Tab.get 0 ti'.store a = Tab.get 0 ti.store a)
  ∧ (∀ a, rf = true → b ≤ a ∧ a < b + n ∨ Tab.get 0 ti'.rf a = Tab.get 0 ti.rf a)
  ∧ (rf = true → ∀ a, Tab.get 0 ti'.store a = Tab.get 0 ti.store a) ∧ (rf = false → ∀ a, Tab.get 0 ti'.rf a = Tab.get 0 ti.rf a)
/-- No tile but t changes. -/
def OtherTiles (t : Nat) (s s' : State) : Prop := ∀ u, u ≠ t → s'.tile u = s.tile u
/-- No tile changes. -/
def TilesSame (s s' : State) : Prop := ∀ u, s'.tile u = s.tile u
/-- No page but n changes. -/
def OtherPages (n : Nat) (s s' : State) : Prop := ∀ m, m ≠ n → s'.page m = s.page m
/-- Every page keeps its words, its staged writes and its control bits; counters, causes and error records may change. -/
def WordsSame (s s' : State) : Prop :=
  ∀ n, (s'.page n).words = (s.page n).words ∧ (s'.page n).pend = (s.page n).pend ∧ (s'.page n).pendMask = (s.page n).pendMask
    ∧ (s'.page n).quiesceBit = (s.page n).quiesceBit
/-- Nothing of the base dies and the package changes: memory system, fabric, base-die engines, contexts and keys, the Bureau,
rounds, pins and time. -/
def BaseSame (s s' : State) : Prop :=
  s'.mem = s.mem ∧ s'.fab = s.fab ∧ s'.sbd = s.sbd ∧ s'.upe = s.upe ∧ s'.cle = s.cle ∧ s'.key = s.key ∧ s'.bur = s.bur
    ∧ s'.sync = s.sync ∧ s'.pkg = s.pkg ∧ s'.time = s.time ∧ s'.out = s.out ∧ s'.pending = s.pending

/-! ## The tile sequencer (R72 to R113) -/

/-- Tile t's quad is powered and the package works: neither held in reset, nor unpowered, nor frozen, nor fail-stopped. -/
def Works (s : State) (t : Nat) : Prop :=
  s.pkg.powered.getLsbD (quadOf t) = true ∧ s.pkg.porst = false ∧ s.pkg.powerOn = true ∧ s.pkg.frozen = false ∧ s.pkg.stopped = false

/-- The base dies work. -/
def Awake (s : State) : Prop := s.pkg.porst = false ∧ s.pkg.powerOn = true ∧ s.pkg.frozen = false ∧ s.pkg.stopped = false

/-- The sequencer of tile t runs, is not stalled and its PC lies inside the program region. -/
def Ready (s : State) (t : Nat) : Prop :=
  Works s t ∧ (s.tile t).seq = .running ∧ (s.tile t).stopped = false ∧ (s.tile t).stall = .none ∧ (s.tile t).pc.toNat < s.progLen t

/-- Ready, and the instruction at PC is w: legal, of opcode opc, its guard 1. -/
def Runs (s : State) (t opc : Nat) (w : Word) : Prop :=
  Ready s t ∧ s.insAt t = w ∧ insLegal (s.tile t) w = true ∧ w.toNat % 2 ^ 8 = opc
    ∧ ((s.tile t).pred (w.toNat / 2 ^ 8 % 2 ^ 3) != w.getLsbD 11) = true

/-- The fields of an instruction word (R100). -/
def rd (w : Word) : Nat := w.toNat / 2 ^ 12 % 2 ^ 5
def ra (w : Word) : Nat := w.toNat / 2 ^ 17 % 2 ^ 5
def rb (w : Word) : Nat := w.toNat / 2 ^ 22 % 2 ^ 5
def xf (w : Word) : Nat := w.toNat / 2 ^ 27 % 2 ^ 5
def imm (w : Word) : BitVec 32 := BitVec.ofNat 32 (w.toNat / 2 ^ 32)
/-- IMM sign-extended to 64 bits. -/
def simm (w : Word) : Word := BitVec.ofInt 64 (imm w).toInt

/-- Nothing but tile t and the counters of its SEQ page changes. -/
def SeqFrame (t : Nat) (s s' : State) : Prop :=
  OtherTiles t s s' ∧ BytesSame (s.tile t) (s'.tile t) ∧ MemSame s s' ∧ OtherPages (seqPage t) s s'
    ∧ { s'.page (seqPage t) with counts := (s.page (seqPage t)).counts } = s.page (seqPage t)
    ∧ BaseSame s s' ∧ s'.host = s.host ∧ s'.draws = s.draws

/-- The tile as before, but for its scalar registers, its PC and the instruction buffer. -/
def OnlyRegs (ti ti' : Tile) : Prop := { ti' with s := ti.s, pc := ti.pc, tileLine := ti.tileLine } = ti
/-- The tile as before, but for its predicates, its PC and the instruction buffer. -/
def OnlyPreds (ti ti' : Tile) : Prop := { ti' with p := ti.p, pc := ti.pc, tileLine := ti.tileLine } = ti

/-- s[d] = v, every other scalar register as before. -/
def RegIs (ti ti' : Tile) (d : Nat) (v : Word) : Prop := ∀ i, ti'.reg i = if i = d then v else ti.reg i
/-- p[d] = v unless d = 0, every other predicate as before; p0 reads 1. -/
def PredIs (ti ti' : Tile) (d : Nat) (v : Bool) : Prop :=
  ∀ i, i < 8 → ti'.pred i = if i = 0 then true else if i = d then v else ti.pred i

/-- The register forms of R103: command, opcode, operation. -/
def aluRows : List ((Fin 192 → Instr) × Nat × (Word → Word → Word)) :=
  [(.add, 0x01, fun a b => BitVec.ofNat 64 (a.toNat + b.toNat)),
   (.sub, 0x02, fun a b => BitVec.ofInt 64 ((a.toNat : Int) - b.toNat)),
   (.mul, 0x03, fun a b => BitVec.ofNat 64 (a.toNat * b.toNat)),
   (.and, 0x04, fun a b => a &&& b), (.or, 0x05, fun a b => a ||| b), (.xor, 0x06, fun a b => a ^^^ b),
   (.shl, 0x07, fun a b => a <<< (b.toNat % 64)), (.shr, 0x08, fun a b => a >>> (b.toNat % 64)),
   (.sra, 0x09, fun a b => BitVec.ofInt 64 (a.toInt / 2 ^ (b.toNat % 64))),
   (.min, 0x0A, fun a b => if a.toInt < b.toInt then a else b), (.max, 0x0B, fun a b => if a.toInt < b.toInt then b else a),
   (.minu, 0x0C, fun a b => if a.toNat < b.toNat then a else b), (.maxu, 0x0D, fun a b => if a.toNat < b.toNat then b else a)]

/-- The immediate forms, each at OPC + 0x10, with the operation of the register form. -/
def aluImmRows : List ((Fin 192 → Instr) × Nat × (Word → Word → Word)) :=
  List.zipWith (fun (c : Fin 192 → Instr) (r : (Fin 192 → Instr) × Nat × (Word → Word → Word)) => (c, r.2.1 + 0x10, r.2.2))
    [.addi, .subi, .muli, .andi, .ori, .xori, .shli, .shri, .srai, .mini, .maxi, .minui, .maxui] aluRows

/-- The instructions of R103 and their OPCs. -/
def seqRows : List ((Fin 192 → Instr) × Nat) :=
  (aluRows ++ aluImmRows).map (fun r => (r.1, r.2.1)) ++
    [(.nop, 0x00), (.movi, 0x1E), (.movhi, 0x1F), (.ins, 0x20), (.ext, 0x21), (.cmp, 0x28), (.cmpi, 0x29), (.plog, 0x2A), (.fcmp, 0x2B),
     (.fcmpi, 0x2C), (.br, 0x30), (.jr, 0x31), (.call, 0x32), (.loop, 0x33), (.halt, 0x34), (.ldc, 0x38), (.stc, 0x39), (.uclr, 0x40),
     (.urd, 0x41), (.tset, 0x48), (.twait, 0x49), (.tsig, 0x4A), (.trd, 0x4B), (.tarm, 0x50), (.tend, 0x51), (.tdis, 0x52), (.issue, 0x58)]

/-- The conditions of CMP and CMPI (R105). -/
def condition (cc : Nat) (a b : Word) : Prop :=
  (cc = 0 ∧ a = b) ∨ (cc = 1 ∧ a ≠ b) ∨ (cc = 2 ∧ a.toInt < b.toInt) ∨ (cc = 3 ∧ b.toInt ≤ a.toInt) ∨ (cc = 4 ∧ a.toNat < b.toNat)
    ∨ (cc = 5 ∧ b.toNat ≤ a.toNat) ∨ (cc = 6 ∧ b.toInt < a.toInt) ∨ (cc = 7 ∧ a.toInt ≤ b.toInt) ∨ (cc = 8 ∧ b.toNat < a.toNat)
    ∨ (cc = 9 ∧ a.toNat ≤ b.toNat)

/-! ## Errors, events and records (R36, R37, R343, R344) -/

/-- Page n has reported an error of a severity and a code: captured in ERR_FIRST, with cause bit 0, where it held nothing or something
less severe, and counted in ERR_COUNT otherwise. -/
def Reported (n sev code : Nat) (s s' : State) : Prop :=
  if (s.page n).err.valid = true ∧ sev ≤ (s.page n).err.severity.toNat then
    (s'.page n).err = (s.page n).err ∧ (s'.page n).errCount = (if (s.page n).errCount = 0xFFFFFFFF then 0xFFFFFFFF else (s.page n).errCount + 1)
  else
    (s'.page n).err.valid = true ∧ (s'.page n).err.severity.toNat = sev ∧ (s'.page n).err.code = BitVec.ofNat 12 code
      ∧ (s'.page n).cause.getLsbD 0 = true

/-- Event bit b of page n is set. -/
def Raised (n b : Nat) (s' : State) : Prop := (s'.page n).cause.getLsbD b = true

/-- Nothing but tile t, pages and the host's channels changes. -/
def TileFrame (t : Nat) (s s' : State) : Prop := OtherTiles t s s' ∧ MemSame s s' ∧ BaseSame s s'

/-- Nothing but pages and the host's channels changes. -/
def PageFrame (s s' : State) : Prop := TilesSame s s' ∧ MemSame s s' ∧ BaseSame s s'

/-! ## Stalls, tokens, summaries and tasks -/

/-- The sequencer runs and is stalled on x. -/
def Stalled (s : State) (t : Nat) (x : Stall) : Prop :=
  Works s t ∧ (s.tile t).seq = .running ∧ (s.tile t).stopped = false ∧ (s.tile t).stall = x

/-- The end of a stall: PC + 1, and running, or HALTED where RUN.HALT was written meanwhile (R96). -/
def Ended (ti ti' : Tile) : Prop := ti'.stall = .none ∧ ti'.pc = ti.pc + 1 ∧ ti'.seq = if ti.haltDue then .halted else .running

/-- The kind that IMM[1:0] names (R109). -/
def kindOf (n : Nat) : SumKind := if n = 0 then .empty else if n = 1 then .max else if n = 2 then .count else .sum

/-- u[x] is cleared to a kind; every other summary register as before. -/
def Cleared (ti ti' : Tile) (x : Nat) (k : SumKind) : Prop :=
  (∀ i, i ≠ x → ti'.sum i = ti.sum i) ∧ (ti'.sum x).kind = k ∧ (ti'.sum x).val = 0 ∧ ∀ i, ti'.reg i = ti.reg i

/-- k[x] = v, every other counter as before, and no scalar register changes. -/
def TokIs (ti ti' : Tile) (x v : Nat) : Prop := (∀ i, ti'.tok i = if i = x then v else ti.tok i) ∧ ∀ i, ti'.reg i = ti.reg i

/-- A task whose conditions hold (R79, R88): one counter named twice needs the sum. -/
def TaskReady (ti : Tile) (x : Task) : Prop :=
  x.armed = true ∧ x.amtA.toNat ≤ ti.tok x.ka.toNat ∧ x.amtB.toNat ≤ ti.tok x.kb.toNat
    ∧ (x.ka = x.kb → x.amtA.toNat + x.amtB.toNat ≤ ti.tok x.ka.toNat)

/-- The place of a class in the pick order of R96. -/
def rank (order cls : Nat) : Nat := (pickOrder order).idxOf cls

/-- What the amounts of a task leave of counter i (R89). -/
def leftOf (ti : Tile) (x : Task) (i : Nat) : Nat :=
  ti.tok i - (if i = x.ka.toNat then x.amtA.toNat else 0) - (if i = x.kb.toNat then x.amtB.toNat else 0)

/-- A pick of R89: the program ends with nothing armed, waits with nothing ready, and else takes the lowest ready slot of the first
class of the order. -/
def Picked (t : Nat) (s s' : State) : Prop :=
  let ti := s.tile t
  let ti' := s'.tile t
  let order := (s.written (seqPage t) 0x118).toNat % 2 ^ 8
  ((∀ i, i < 64 → (ti.taskAt i).armed = false) → ti'.seq = .idle ∧ Raised (seqPage t) 5 s')
  ∧ ((∃ i, i < 64 ∧ (ti.taskAt i).armed = true) → (∀ i, i < 64 → ¬ TaskReady ti (ti.taskAt i)) → ti'.seq = .waiting ∧ ti'.pc = ti.pc)
  ∧ ∀ i, i < 64 → TaskReady ti (ti.taskAt i) →
      (∀ j, j < 64 → TaskReady ti (ti.taskAt j) →
        rank order (ti.taskAt i).cls.toNat < rank order (ti.taskAt j).cls.toNat ∨ ((ti.taskAt i).cls = (ti.taskAt j).cls ∧ i ≤ j)) →
      ti'.seq = .running ∧ ti'.pc = (ti.taskAt i).entry ∧ ti'.task.toNat = i ∧ (ti'.taskAt i).armed = false
        ∧ (∀ j, j ≠ i → ti'.taskAt j = ti.taskAt j) ∧ (∀ k, ti'.tok k = leftOf ti (ti.taskAt i) k)
        ∧ ∀ r, ti'.reg r = ti.reg r

/-! ## Engines (R77 to R98, R114 to R131) -/

/-- Two waits hold (R79): a counter named twice needs the sum. -/
def WaitsHold (ti : Tile) (ka na kb nb : Nat) : Prop :=
  na ≤ ti.tok ka ∧ nb ≤ ti.tok kb ∧ (na ≠ 0 → nb ≠ 0 → ka = kb → na + nb ≤ ti.tok ka)

/-- The waits of a descriptor (R114): amounts and counters. -/
def waitA (d : Desc) : Nat := d.w0.toNat / 2 ^ 16 % 2 ^ 4
def waitAK (d : Desc) : Nat := d.w0.toNat / 2 ^ 20 % 2 ^ 5
def waitB (d : Desc) : Nat := d.w0.toNat / 2 ^ 25 % 2 ^ 4
def waitBK (d : Desc) : Nat := d.w0.toNat / 2 ^ 29 % 2 ^ 5
/-- What the waits of a descriptor leave of counter k. -/
def afterWaits (ti : Tile) (d : Desc) (k : Nat) : Nat :=
  ti.tok k - (if k = waitAK d then waitA d else 0) - (if k = waitBK d then waitB d else 0)

/-- Descriptor d has left engine e's queue: its waits are subtracted, FL or FM counts it, and it is the newest of the started
descriptors, as a flight of which P holds. -/
def Took (t : Nat) (e : Eng) (d : Desc) (s s' : State) (P : Flight → Prop) : Prop :=
  (s'.tile t).queue e = ((s.tile t).queue e).tail ∧ (∀ g, g ≠ e → (s'.tile t).queue g = (s.tile t).queue g)
    ∧ (∀ k, (s'.tile t).tok k = afterWaits (s.tile t) d k) ∧ (s'.tile t).serial = (s.tile t).serial + 1
    ∧ (s'.tile t).fl = (s.tile t).fl + (if d.w0.getLsbD 8 = true ∧ e = .lde then 1 else 0)
    ∧ (s'.tile t).fm = (s.tile t).fm + (if d.w0.getLsbD 8 = true ∧ e = .mxe then 1 else 0)
    ∧ (∀ i, (s'.tile t).reg i = (s.tile t).reg i) ∧ (s'.tile t).seq = (s.tile t).seq ∧ (s'.tile t).pc = (s.tile t).pc
    ∧ ∃ fs f, (s'.tile t).flights = fs ++ [f] ∧ fs.length = (s.tile t).flights.length ∧ f.id = (s.tile t).serial ∧ f.eng = e ∧ f.desc = d ∧ P f

/-- Nothing of the tile has started and not completed: no descriptor, no Footstool and no route operation. -/
def Quiet (ti : Tile) : Prop := ti.flights = [] ∧ ti.fts = none ∧ ti.route = none

/-- The accumulators of a tile and its checksum regions as before. -/
def AccSame (ti ti' : Tile) : Prop := ti'.acc = ti.acc ∧ ti'.chk0 = ti.chk0 ∧ ti'.chk1 = ti.chk1

/-- Nothing but tile t, pages, channels, memory that waits, the cache and the fabric changes; every byte of memory reads as before. -/
def EngFrame (t : Nat) (s s' : State) : Prop :=
  OtherTiles t s s' ∧ MemSame s s' ∧ BytesSame (s.tile t) (s'.tile t)
    ∧ s'.sbd = s.sbd ∧ s'.upe = s.upe ∧ s'.cle = s.cle ∧ s'.key = s.key ∧ s'.sync = s.sync ∧ s'.pkg = s.pkg ∧ s'.time = s.time

/-- Bytes of memory that local segments name, in order. -/
def segData (s : State) (gs : List Seg) : List Byte := gs.flatMap fun g => s.mem.bytes ((s.localOf g).getD 0) g.len

/-- The bytes of the rows that a command takes from a tile's space. -/
def rowData (ti : Tile) (rf : Bool) (a stride rows len : Nat) : List Byte :=
  (List.range rows).flatMap fun i => ti.bytes rf (a + i * stride) len

/-- The write of row i of a command's destination. -/
def rowWrite (rf : Bool) (a stride i : Nat) (data : List Byte) : LWrite := { rf := rf, addr := a + i * stride, data := data }

end Sys2Proof.Spec

open Sys2Proof Sys2Proof.Machine Sys2Proof.Spec

/-- R103, register forms: s[RD] = s[RA] op s[RB], modulo 2^64, for ADD to MAXU, and the frame. -/
def Sys2Proof.Spec.RegisterArithmetic : Prop :=
  ∀ c opc f, (c, opc, f) ∈ aluRows → ∀ (s : State) (t : Fin 192) (w : Word), Runs s t opc w →
    Answers (c t) s fun s' => RegIs (s.tile t) (s'.tile t) (rd w) (f ((s.tile t).reg (ra w)) ((s.tile t).reg (rb w)))
      ∧ (s'.tile t).pc = (s.tile t).pc + 1 ∧ OnlyRegs (s.tile t) (s'.tile t) ∧ SeqFrame t s s'

/-- R103, immediate forms: sign-extended IMM in place of s[RB], for ADDI to MAXUI, and the frame. -/
def Sys2Proof.Spec.ImmediateArithmetic : Prop :=
  ∀ c opc f, (c, opc, f) ∈ aluImmRows → ∀ (s : State) (t : Fin 192) (w : Word), Runs s t opc w →
    Answers (c t) s fun s' => RegIs (s.tile t) (s'.tile t) (rd w) (f ((s.tile t).reg (ra w)) (simm w))
      ∧ (s'.tile t).pc = (s.tile t).pc + 1 ∧ OnlyRegs (s.tile t) (s'.tile t) ∧ SeqFrame t s s'

/-- NOP, MOVI, MOVHI, INS and EXT (R103, R104): the register each writes, bit by bit for the field moves, and the frame. -/
def Sys2Proof.Spec.Moves : Prop :=
  ∀ (s : State) (t : Fin 192) (w : Word),
    (Runs s t 0x00 w → Answers (.nop t) s fun s' => (∀ i, (s'.tile t).reg i = (s.tile t).reg i)
      ∧ (s'.tile t).pc = (s.tile t).pc + 1 ∧ OnlyRegs (s.tile t) (s'.tile t) ∧ SeqFrame t s s')
    ∧ (Runs s t 0x1E w → Answers (.movi t) s fun s' => RegIs (s.tile t) (s'.tile t) (rd w) (simm w)
      ∧ (s'.tile t).pc = (s.tile t).pc + 1 ∧ OnlyRegs (s.tile t) (s'.tile t) ∧ SeqFrame t s s')
    ∧ (Runs s t 0x1F w → Answers (.movhi t) s fun s' => ∃ v : Word,
        (∀ b, b < 64 → v.getLsbD b = if 32 ≤ b then w.getLsbD b else ((s.tile t).reg (rd w)).getLsbD b)
      ∧ RegIs (s.tile t) (s'.tile t) (rd w) v
      ∧ (s'.tile t).pc = (s.tile t).pc + 1 ∧ OnlyRegs (s.tile t) (s'.tile t) ∧ SeqFrame t s s')
    ∧ (Runs s t 0x20 w → Answers (.ins t) s fun s' => ∃ v : Word,
        (∀ b, b < 64 → v.getLsbD b = if (imm w).toNat % 64 ≤ b ∧ b < (imm w).toNat % 64 + (imm w).toNat / 64 % 128
          then ((s.tile t).reg (ra w)).getLsbD (b - (imm w).toNat % 64) else ((s.tile t).reg (rd w)).getLsbD b)
      ∧ RegIs (s.tile t) (s'.tile t) (rd w) v
      ∧ (s'.tile t).pc = (s.tile t).pc + 1 ∧ OnlyRegs (s.tile t) (s'.tile t) ∧ SeqFrame t s s')
    ∧ (Runs s t 0x21 w → Answers (.ext t) s fun s' => ∃ v : Word,
        (∀ b, b < 64 → v.getLsbD b = if b < (imm w).toNat / 64 % 128 then ((s.tile t).reg (ra w)).getLsbD (b + (imm w).toNat % 64) else false)
      ∧ RegIs (s.tile t) (s'.tile t) (rd w) v
      ∧ (s'.tile t).pc = (s.tile t).pc + 1 ∧ OnlyRegs (s.tile t) (s'.tile t) ∧ SeqFrame t s s')

/-- Arithmetic, constants and field moves of the tile sequencer (R103, R104): results wrap, nothing else changes, and a constant of 64 bits is a MOVI followed by a MOVHI. -/
def Obligations.ArithmeticAndMoves : Prop := Spec.RegisterArithmetic ∧ Spec.ImmediateArithmetic ∧ Spec.Moves

/-- CMP, CMPI, PLOG, FCMP and FCMPI (R105, R106): a condition code beyond 9 is illegal; the predicate written, p0 kept at 1 (R73), and the frame. -/
def Obligations.Compares : Prop :=
  ∀ (s : State) (t : Fin 192) (w : Word),
    (10 ≤ rd w → w.toNat % 2 ^ 8 = 0x28 ∨ w.toNat % 2 ^ 8 = 0x29 → insLegal (s.tile t) w = false)
    ∧ (Runs s t 0x28 w → Answers (.cmp t) s fun s' => (∃ v, (v = true ↔ condition (rd w) ((s.tile t).reg (ra w)) ((s.tile t).reg (rb w)))
        ∧ PredIs (s.tile t) (s'.tile t) (xf w) v)
      ∧ (s'.tile t).pc = (s.tile t).pc + 1 ∧ OnlyPreds (s.tile t) (s'.tile t) ∧ SeqFrame t s s')
    ∧ (Runs s t 0x29 w → Answers (.cmpi t) s fun s' => (∃ v, (v = true ↔ condition (rd w) ((s.tile t).reg (ra w)) (simm w))
        ∧ PredIs (s.tile t) (s'.tile t) (xf w) v)
      ∧ (s'.tile t).pc = (s.tile t).pc + 1 ∧ OnlyPreds (s.tile t) (s'.tile t) ∧ SeqFrame t s s')
    ∧ (Runs s t 0x2A w → Answers (.plog t) s fun s' => (∃ v, (v = true ↔
          (rd w = 0 ∧ (s.tile t).pred (ra w) = true ∧ (s.tile t).pred (rb w) = true)
          ∨ (rd w = 1 ∧ ((s.tile t).pred (ra w) = true ∨ (s.tile t).pred (rb w) = true))
          ∨ (rd w = 2 ∧ (s.tile t).pred (ra w) ≠ (s.tile t).pred (rb w))
          ∨ (rd w = 3 ∧ (s.tile t).pred (ra w) = true ∧ (s.tile t).pred (rb w) = false))
        ∧ PredIs (s.tile t) (s'.tile t) (xf w) v)
      ∧ (s'.tile t).pc = (s.tile t).pc + 1 ∧ OnlyPreds (s.tile t) (s'.tile t) ∧ SeqFrame t s s')
    ∧ (Runs s t 0x2B w → Answers (.fcmp t) s fun s' =>
        PredIs (s.tile t) (s'.tile t) (xf w)
          ((fcond (rd w) (ofF32 (((s.tile t).reg (ra w)).toNat % 2 ^ 32)) (ofF32 (((s.tile t).reg (rb w)).toNat % 2 ^ 32))) = some true)
      ∧ (s'.tile t).pc = (s.tile t).pc + 1 ∧ OnlyPreds (s.tile t) (s'.tile t) ∧ SeqFrame t s s')
    ∧ (Runs s t 0x2C w → Answers (.fcmpi t) s fun s' =>
        PredIs (s.tile t) (s'.tile t) (xf w)
          ((fcond (rd w) (ofF32 (((s.tile t).reg (ra w)).toNat % 2 ^ 32)) (ofF32 (imm w).toNat)) = some true)
      ∧ (s'.tile t).pc = (s.tile t).pc + 1 ∧ OnlyPreds (s.tile t) (s'.tile t) ∧ SeqFrame t s s')

/-- BR, JR, CALL, LOOP and HALT (R103, R107): the PC, the register, and the frame. A quiesce of SEQ that waits for the halt may end
with HALT. -/
def Sys2Proof.Spec.Transfers : Prop :=
  ∀ (s : State) (t : Fin 192) (w : Word),
    (Runs s t 0x30 w → Answers (.br t) s fun s' => (∀ i, (s'.tile t).reg i = (s.tile t).reg i)
      ∧ (s'.tile t).pc = (s.tile t).pc + imm w ∧ OnlyRegs (s.tile t) (s'.tile t) ∧ SeqFrame t s s')
    ∧ (Runs s t 0x31 w → Answers (.jr t) s fun s' => (∀ i, (s'.tile t).reg i = (s.tile t).reg i)
      ∧ (s'.tile t).pc.toNat = ((s.tile t).reg (ra w)).toNat % 2 ^ 32 ∧ OnlyRegs (s.tile t) (s'.tile t) ∧ SeqFrame t s s')
    ∧ (Runs s t 0x32 w → Answers (.call t) s fun s' => RegIs (s.tile t) (s'.tile t) (rd w) (BitVec.ofNat 64 ((s.tile t).pc + 1).toNat)
      ∧ (s'.tile t).pc = (s.tile t).pc + imm w ∧ OnlyRegs (s.tile t) (s'.tile t) ∧ SeqFrame t s s')
    ∧ (Runs s t 0x33 w → Answers (.loop t) s fun s' => RegIs (s.tile t) (s'.tile t) (rd w) ((s.tile t).reg (rd w) - 1)
      ∧ (s'.tile t).pc = (if (s.tile t).reg (rd w) = 1 then (s.tile t).pc + 1 else (s.tile t).pc + imm w)
      ∧ OnlyRegs (s.tile t) (s'.tile t) ∧ SeqFrame t s s')
    ∧ (Runs s t 0x34 w → (s.page (seqPage t)).quiescing = false → Answers (.halt t) s fun s' =>
        (s'.tile t).seq = .halted ∧ (s'.tile t).pc = (s.tile t).pc + 1 ∧ (∀ i, (s'.tile t).reg i = (s.tile t).reg i)
      ∧ { s'.tile t with seq := .running, pc := (s.tile t).pc, haltDue := (s.tile t).haltDue, tileLine := (s.tile t).tileLine } = s.tile t
      ∧ SeqFrame t s s')

/-- LDC, STC and CONTROL_REPLY (R108): the access is made at s[RA] + IMM, the sequencer stalls for it, and the reply fills s[RD], or
leaves it and raises 0x016 where the access was refused.
Where the rules leave a choice it is the model's (log entry 1). -/
def Obligations.ControlAccess : Prop :=
  ∀ (s : State) (t : Fin 192) (w : Word),
    (Runs s t 0x38 w → Answers (.ldc t) s fun s' =>
      (∃ ok v, (s'.tile t).stall = .control (some (BitVec.ofNat 5 (rd w))) ok v
        ∧ (((s.tile t).reg (ra w) + simm w).toNat % 8 ≠ 0 → ok = false)
        ∧ (((s.tile t).reg (ra w) + simm w).toNat = pageAddr (seqPage t) 0x108 → s.ctxOf t = none →
            ok = true ∧ v = s.written (seqPage t) 0x108))
      ∧ (s'.tile t).pc = (s.tile t).pc ∧ (∀ i, (s'.tile t).reg i = (s.tile t).reg i) ∧ BytesSame (s.tile t) (s'.tile t) ∧ TileFrame t s s')
    ∧ (Runs s t 0x39 w → Answers (.stc t) s fun s' =>
      (((s.tile t).reg (ra w) + simm w).toNat % 8 ≠ 0 →
        (s'.tile t).stall = .control none false 0 ∧ (s'.tile t).pc = (s.tile t).pc ∧ TileFrame t s s')
      ∧ (((s.tile t).reg (ra w) + simm w).toNat = pageAddr (tilePage t 5) 0x110 → s.ctxOf t = none →
          (s'.tile t).stall = .control none true 0 ∧ (s'.tile t).pc = (s.tile t).pc
          ∧ (s'.raw (tilePage t 5) 0x110).toNat % 2 ^ 23 = ((s.tile t).reg (rb w)).toNat % 2 ^ 23 ∧ TileFrame t s s'))
    ∧ (∀ r v, Stalled s t (.control r true v) → Answers (.controlReply t) s fun s' => Ended (s.tile t) (s'.tile t)
      ∧ (∀ i, (s'.tile t).reg i = if r = some (BitVec.ofNat 5 i) ∧ i < 32 then v else (s.tile t).reg i)
      ∧ BytesSame (s.tile t) (s'.tile t) ∧ TileFrame t s s')
    ∧ (∀ r v, Stalled s t (.control r false v) → Answers (.controlReply t) s fun s' => Ended (s.tile t) (s'.tile t)
      ∧ (∀ i, (s'.tile t).reg i = (s.tile t).reg i) ∧ Reported (seqPage t) 2 0x016 s s'
      ∧ BytesSame (s.tile t) (s'.tile t) ∧ TileFrame t s s')

/-- UCLR, URD and SUMMARY_RESUME (R86, R109): each acts with nothing pending, and stalls otherwise. -/
def Sys2Proof.Spec.Summaries : Prop :=
  ∀ (s : State) (t : Fin 192) (w : Word),
    (Runs s t 0x40 w → ((s.tile t).sum (xf w)).pending = 0 → Answers (.uclr t) s fun s' =>
      Cleared (s.tile t) (s'.tile t) (xf w) (kindOf ((imm w).toNat % 4)) ∧ (s'.tile t).pc = (s.tile t).pc + 1 ∧ SeqFrame t s s')
    ∧ (Runs s t 0x41 w → ((s.tile t).sum (xf w)).pending = 0 → Answers (.urd t) s fun s' =>
      RegIs (s.tile t) (s'.tile t) (rd w) ((s.tile t).sum (xf w)).val ∧ (∀ i, (s'.tile t).sum i = (s.tile t).sum i)
      ∧ (s'.tile t).pc = (s.tile t).pc + 1 ∧ OnlyRegs (s.tile t) (s'.tile t) ∧ SeqFrame t s s')
    ∧ (Runs s t 0x40 w → ((s.tile t).sum (xf w)).pending ≠ 0 → Answers (.uclr t) s fun s' =>
      (s'.tile t).stall = .summary ∧ (s'.tile t).pc = (s.tile t).pc ∧ (∀ i, (s'.tile t).sum i = (s.tile t).sum i) ∧ SeqFrame t s s')
    ∧ (Runs s t 0x41 w → ((s.tile t).sum (xf w)).pending ≠ 0 → Answers (.urd t) s fun s' =>
      (s'.tile t).stall = .summary ∧ (s'.tile t).pc = (s.tile t).pc ∧ (∀ i, (s'.tile t).reg i = (s.tile t).reg i) ∧ SeqFrame t s s')
    ∧ (Stalled s t .summary → s.insAt t = w → w.toNat % 2 ^ 8 = 0x40 → ((s.tile t).sum (xf w)).pending = 0 →
      Answers (.summaryResume t) s fun s' => Ended (s.tile t) (s'.tile t)
      ∧ Cleared (s.tile t) (s'.tile t) (xf w) (kindOf ((imm w).toNat % 4)) ∧ TileFrame t s s')
    ∧ (Stalled s t .summary → s.insAt t = w → w.toNat % 2 ^ 8 = 0x41 → ((s.tile t).sum (xf w)).pending = 0 →
      Answers (.summaryResume t) s fun s' => Ended (s.tile t) (s'.tile t)
      ∧ RegIs (s.tile t) (s'.tile t) (rd w) ((s.tile t).sum (xf w)).val ∧ TileFrame t s s')

/-- TSET, TSIG, TRD, TWAIT and TWAIT_RESUME (R80, R82, R110): the counter each leaves, and the stall of a wait whose amount is not there. -/
def Sys2Proof.Spec.Tokens : Prop :=
  ∀ (s : State) (t : Fin 192) (w : Word),
    (Runs s t 0x48 w → Answers (.tset t) s fun s' => TokIs (s.tile t) (s'.tile t) (xf w) ((imm w).toNat % 2 ^ 16)
      ∧ (s'.tile t).pc = (s.tile t).pc + 1 ∧ SeqFrame t s s')
    ∧ (Runs s t 0x4A w → (s.tile t).tok (xf w) < 0xFFFF → Answers (.tsig t) s fun s' =>
      TokIs (s.tile t) (s'.tile t) (xf w) ((s.tile t).tok (xf w) + 1) ∧ (s'.tile t).pc = (s.tile t).pc + 1 ∧ SeqFrame t s s')
    ∧ (Runs s t 0x4A w → (s.tile t).tok (xf w) = 0xFFFF → Answers (.tsig t) s fun s' =>
      TokIs (s.tile t) (s'.tile t) (xf w) 0xFFFF ∧ (s'.tile t).pc = (s.tile t).pc + 1
      ∧ Reported (seqPage t) 2 0x010 s s' ∧ Raised (seqPage t) 6 s' ∧ TileFrame t s s')
    ∧ (Runs s t 0x4B w → Answers (.trd t) s fun s' =>
      RegIs (s.tile t) (s'.tile t) (rd w) (BitVec.ofNat 64 ((s.tile t).tok (xf w))) ∧ (∀ i, (s'.tile t).tok i = (s.tile t).tok i)
      ∧ (s'.tile t).pc = (s.tile t).pc + 1 ∧ OnlyRegs (s.tile t) (s'.tile t) ∧ SeqFrame t s s')
    ∧ (Runs s t 0x49 w → (imm w).toNat % 16 ≤ (s.tile t).tok (xf w) → Answers (.twait t) s fun s' =>
      TokIs (s.tile t) (s'.tile t) (xf w) ((s.tile t).tok (xf w) - (imm w).toNat % 16) ∧ (s'.tile t).pc = (s.tile t).pc + 1 ∧ SeqFrame t s s')
    ∧ (Runs s t 0x49 w → (s.tile t).tok (xf w) < (imm w).toNat % 16 → Answers (.twait t) s fun s' =>
      (s'.tile t).stall = .token ∧ (s'.tile t).pc = (s.tile t).pc ∧ (∀ i, (s'.tile t).tok i = (s.tile t).tok i) ∧ SeqFrame t s s')
    ∧ (Stalled s t .token → s.insAt t = w → w.toNat % 2 ^ 8 = 0x49 → (imm w).toNat % 16 ≤ (s.tile t).tok (xf w) →
      Answers (.twaitResume t) s fun s' => Ended (s.tile t) (s'.tile t)
      ∧ TokIs (s.tile t) (s'.tile t) (xf w) ((s.tile t).tok (xf w) - (imm w).toNat % 16) ∧ TileFrame t s s')

/-- Summary registers and token counters of the tile sequencer (R77 to R79, R109, R110).
Where the rules leave a choice it is the model's (log entry 1). -/
def Obligations.SummariesAndTokens : Prop := Spec.Summaries ∧ Spec.Tokens

/-- TARM, TDIS, TEND and TASK_PICK (R88, R89, R111): the slot that is armed or disarmed, and the pick. -/
def Sys2Proof.Spec.Tasks : Prop :=
  ∀ (s : State) (t : Fin 192) (w : Word),
    (Runs s t 0x50 w → ∀ v, (s.tile t).reg (ra w) = v → Answers (.tarm t) s fun s' =>
      (∀ i, i ≠ v.toNat % 2 ^ 6 → (s'.tile t).taskAt i = (s.tile t).taskAt i)
      ∧ (s'.tile t).taskAt (v.toNat % 2 ^ 6) = { armed := true, entry := (s.tile t).pc + imm w
                                                 cls := BitVec.ofNat 2 (v.toNat / 2 ^ 6), ka := BitVec.ofNat 5 (v.toNat / 2 ^ 8)
                                                 amtA := BitVec.ofNat 4 (v.toNat / 2 ^ 13), kb := BitVec.ofNat 5 (v.toNat / 2 ^ 17)
                                                 amtB := BitVec.ofNat 4 (v.toNat / 2 ^ 22) }
      ∧ (∀ i, (s'.tile t).tok i = (s.tile t).tok i) ∧ (∀ i, (s'.tile t).reg i = (s.tile t).reg i)
      ∧ (s'.tile t).pc = (s.tile t).pc + 1 ∧ SeqFrame t s s')
    ∧ (Runs s t 0x52 w → Answers (.tdis t) s fun s' =>
      (∀ i, (s'.tile t).taskAt i = if i = (imm w).toNat % 2 ^ 6 then { (s.tile t).taskAt i with armed := false } else (s.tile t).taskAt i)
      ∧ (∀ i, (s'.tile t).tok i = (s.tile t).tok i) ∧ (∀ i, (s'.tile t).reg i = (s.tile t).reg i)
      ∧ (s'.tile t).pc = (s.tile t).pc + 1 ∧ SeqFrame t s s')
    ∧ (Runs s t 0x51 w → Answers (.tend t) s fun s' => Picked t s s' ∧ BytesSame (s.tile t) (s'.tile t) ∧ TileFrame t s s')
    ∧ (Works s t → (s.tile t).seq = .waiting → (s.tile t).stopped = false →
      Answers (.taskPick t) s fun s' => Picked t s s' ∧ BytesSame (s.tile t) (s'.tile t) ∧ TileFrame t s s')

/-- ISSUE and SPILL_REFILL (R77, R86, R112): the queue with room, the spill ring, the stall where neither takes the descriptor, the
invalid engine, the retry of a stalled ISSUE, and the refill from the ring's oldest entry. -/
def Sys2Proof.Spec.IssueAndSpill : Prop :=
  ∀ (s : State) (t : Fin 192) (w : Word) (e : Eng) (d : Desc),
    d = { w0 := (s.tile t).reg (ra w), w1 := (s.tile t).reg (ra w + 1), w2 := (s.tile t).reg (ra w + 2), w3 := (s.tile t).reg (ra w + 3) } →
    (Runs s t 0x58 w → d.w0.toNat % 8 = engNum e → (s.tile t).ringCount e = 0 → ((s.tile t).queue e).length < 64 →
      Answers (.issue t) s fun s' => (s'.tile t).queue e = (s.tile t).queue e ++ [d]
      ∧ (∀ f, f ≠ e → (s'.tile t).queue f = (s.tile t).queue f) ∧ (∀ i, (s'.tile t).reg i = (s.tile t).reg i)
      ∧ Ended (s.tile t) (s'.tile t) ∧ BytesSame (s.tile t) (s'.tile t) ∧ TileFrame t s s')
    ∧ (Runs s t 0x58 w → d.w0.toNat % 8 = engNum e → ¬ ((s.tile t).ringCount e = 0 ∧ ((s.tile t).queue e).length < 64) →
      (s.tile t).ringCount e < (s.spillRing t e).size → Answers (.issue t) s fun s' =>
      (s'.tile t).ringCount e = (s.tile t).ringCount e + 1 ∧ (∀ f, (s'.tile t).queue f = (s.tile t).queue f)
      ∧ (s'.tile t).bytes false ((s.spillRing t e).base
          + 32 * ((Tab.get 0 (s.tile t).ringHead (engNum e) + (s.tile t).ringCount e) % (s.spillRing t e).size)) 32 = d.bytes
      ∧ BytesBut (s.tile t) (s'.tile t) false ((s.spillRing t e).base
          + 32 * ((Tab.get 0 (s.tile t).ringHead (engNum e) + (s.tile t).ringCount e) % (s.spillRing t e).size)) 32
      ∧ Ended (s.tile t) (s'.tile t) ∧ TileFrame t s s')
    ∧ (Runs s t 0x58 w → d.w0.toNat % 8 = engNum e → ¬ ((s.tile t).ringCount e = 0 ∧ ((s.tile t).queue e).length < 64) →
      (s.spillRing t e).size ≤ (s.tile t).ringCount e → Answers (.issue t) s fun s' =>
      (s'.tile t).stall = .queue ∧ (s'.tile t).pc = (s.tile t).pc ∧ (∀ f, (s'.tile t).queue f = (s.tile t).queue f) ∧ SeqFrame t s s')
    ∧ (Runs s t 0x58 w → 5 ≤ d.w0.toNat % 8 → Answers (.issue t) s fun s' =>
      (s'.tile t).seq = .halted ∧ (s'.tile t).pc = (s.tile t).pc ∧ Reported (seqPage t) 2 0x017 s s'
      ∧ (∀ f, (s'.tile t).queue f = (s.tile t).queue f) ∧ BytesSame (s.tile t) (s'.tile t) ∧ TileFrame t s s')
    ∧ (Stalled s t .queue → s.insAt t = w → w.toNat % 2 ^ 8 = 0x58 → ra w % 4 = 0 → d.w0.toNat % 8 = engNum e →
      (s.tile t).ringCount e = 0 → ((s.tile t).queue e).length < 64 →
      Answers (.issue t) s fun s' => (s'.tile t).queue e = (s.tile t).queue e ++ [d] ∧ Ended (s.tile t) (s'.tile t) ∧ TileFrame t s s')
    ∧ (Works s t → 0 < (s.tile t).ringCount e → ((s.tile t).queue e).length < 64 → 0 < (s.spillRing t e).size →
      Answers (.spillRefill t e) s fun s' =>
      (s'.tile t).queue e = (s.tile t).queue e ++ [Desc.ofBytes ((s.tile t).bytes false ((s.spillRing t e).base
          + 32 * (Tab.get 0 (s.tile t).ringHead (engNum e) % (s.spillRing t e).size)) 32)]
      ∧ (s'.tile t).ringCount e = (s.tile t).ringCount e - 1 ∧ (∀ f, f ≠ e → (s'.tile t).queue f = (s.tile t).queue f)
      ∧ (∀ i, (s'.tile t).reg i = (s.tile t).reg i) ∧ BytesSame (s.tile t) (s'.tile t) ∧ TileFrame t s s')

/-- The task table, ISSUE and the spill rings of the tile sequencer (R77, R86, R88, R89, R111, R112).
Where the rules leave a choice it is the model's (log entry 1). -/
def Obligations.TasksAndIssue : Prop := Spec.Tasks ∧ Spec.IssueAndSpill

/-- R92, R101, R102: what every instruction row of the sequencer does with a PC outside the program region and with an illegal instruction. -/
def Sys2Proof.Spec.FetchLimits : Prop :=
  ∀ c opc, (c, opc) ∈ seqRows → ∀ (s : State) (t : Fin 192),
    (Works s t → (s.tile t).seq = .running → (s.tile t).stopped = false → (s.tile t).stall = .none → s.progLen t ≤ (s.tile t).pc.toNat →
      Answers (c t) s fun s' => (s'.tile t).seq = .halted ∧ (s'.tile t).pc = (s.tile t).pc ∧ Reported (seqPage t) 2 0x013 s s'
      ∧ (∀ i, (s'.tile t).reg i = (s.tile t).reg i) ∧ BytesSame (s.tile t) (s'.tile t) ∧ TileFrame t s s')
    ∧ (Ready s t → insLegal (s.tile t) (s.insAt t) = false →
      Answers (c t) s fun s' => (s'.tile t).seq = .halted ∧ (s'.tile t).pc = (s.tile t).pc ∧ Reported (seqPage t) 2 0x015 s s'
      ∧ (∀ i, (s'.tile t).reg i = (s.tile t).reg i) ∧ BytesSame (s.tile t) (s'.tile t) ∧ TileFrame t s s')

/-- R101: an instruction runs only when its guard, the predicate PG exclusive-ORed with PN, is 1. One whose guard is 0 has no effect but that the PC goes on; PG = 0 with
PN = 0 is a guard of 1 and PG = 0 with PN = 1 a guard of 0 in every tile. -/
def Obligations.GuardZeroHasNoEffect : Prop :=
  (∀ c opc, (c, opc) ∈ seqRows → ∀ (s : State) (t : Fin 192) (w : Word), Ready s t → s.insAt t = w → insLegal (s.tile t) w = true → w.toNat % 2 ^ 8 = opc →
    ((s.tile t).pred (w.toNat / 2 ^ 8 % 2 ^ 3) ^^ w.getLsbD 11) = false → Answers (c t) s fun s' =>
      { s'.tile t with tileLine := (s.tile t).tileLine } = { s.tile t with pc := (s.tile t).pc + 1 } ∧ SeqFrame t s s')
    ∧ ∀ (s : State) (t : Fin 192) (w : Word), w.toNat / 2 ^ 8 % 2 ^ 3 = 0 → ((s.tile t).pred (w.toNat / 2 ^ 8 % 2 ^ 3) ^^ w.getLsbD 11) = !w.getLsbD 11

/-- R73: p0 always reads 1, and a write to it is ignored; s0 to s31 and p1 to p7 hold what is written to them, and hold 0 after reset. -/
def Obligations.RegistersAndPredicates : Prop :=
  ∀ (ti : Tile) (t : Nat),
    ti.pred 0 = true ∧ (∀ v, ∀ j, j < 8 → (ti.setPred 0 v).pred j = ti.pred j)
    ∧ (∀ i v, 0 < i → i < 8 → ∀ j, j < 8 → (ti.setPred i v).pred j = if j = i then v else ti.pred j)
    ∧ (∀ i v, i < 32 → ∀ j, j < 32 → (ti.setReg i v).reg j = if j = i then v else ti.reg j)
    ∧ (∀ i, (State.reset.tile t).reg i = 0) ∧ ∀ i, 0 < i → i < 8 → (State.reset.tile t).pred i = false

/-- R102, R103: what makes an instruction illegal. An OPC with no entry, an unused field or part of IMM that is not zero, a code without
a meaning; the words are written out from the encodings of R100 and R103. -/
def Sys2Proof.Spec.LegalWords : Prop :=
  (∀ (ti : Tile) (w : Word), w.toNat % 2 ^ 8 ∉ ([0x00, 0x01, 0x02, 0x03, 0x04, 0x05, 0x06, 0x07, 0x08, 0x09, 0x0A, 0x0B, 0x0C, 0x0D, 0x11,
      0x12, 0x13, 0x14, 0x15, 0x16, 0x17, 0x18, 0x19, 0x1A, 0x1B, 0x1C, 0x1D, 0x1E, 0x1F, 0x20, 0x21, 0x28, 0x29, 0x2A, 0x2B, 0x2C, 0x30,
      0x31, 0x32, 0x33, 0x34, 0x38, 0x39, 0x40, 0x41, 0x48, 0x49, 0x4A, 0x4B, 0x50, 0x51, 0x52, 0x58] : List Nat) → insLegal ti w = false)
  ∧ (∀ (ti : Tile) (w : Word), w.toNat % 2 ^ 8 = 0x01 → (insLegal ti w = true ↔ xf w = 0 ∧ imm w = 0))
  ∧ (∀ (ti : Tile) (w : Word), w.toNat % 2 ^ 8 = 0x17 → (insLegal ti w = true ↔ rb w = 0 ∧ xf w = 0 ∧ (imm w).toNat < 64))
  ∧ (∀ (ti : Tile) (w : Word), w.toNat % 2 ^ 8 = 0x20 →
      (insLegal ti w = true ↔ rb w = 0 ∧ xf w = 0 ∧ (imm w).toNat < 2 ^ 13 ∧ (imm w).toNat / 64 ≠ 0
        ∧ (imm w).toNat % 64 + (imm w).toNat / 64 ≤ 64))
  ∧ (∀ (ti : Tile) (w : Word), w.toNat % 2 ^ 8 = 0x28 → (insLegal ti w = true ↔ rd w ≤ 9 ∧ xf w < 8 ∧ imm w = 0))
  ∧ (∀ (ti : Tile) (w : Word), w.toNat % 2 ^ 8 = 0x49 →
      (insLegal ti w = true ↔ rd w = 0 ∧ ra w = 0 ∧ rb w = 0 ∧ 0 < (imm w).toNat ∧ (imm w).toNat < 16))
  ∧ (∀ (ti : Tile) (w : Word), w.toNat % 2 ^ 8 = 0x58 →
      (insLegal ti w = true ↔ rd w = 0 ∧ ra w % 4 = 0 ∧ rb w = 0 ∧ xf w = 0 ∧ imm w = 0))

/-- Where transfers of control go, which words the sequencer executes, and what it does with a PC or a word outside them: a target outside the program region is met when it is reached (R92, R102, R103, R107). -/
def Obligations.TransfersAndFetch : Prop := Spec.Transfers ∧ Spec.FetchLimits ∧ Spec.LegalWords

/-- RUN.START, RUN.HALT and the stall watchdog (R41, R93, R96). `a` is the Bureau, whose accesses act in the provider role.
Where the rules leave a choice it is the model's (log entry 11). -/
def Obligations.RunControl : Prop :=
  ∀ (s : State) (t : Fin 192) (a : Access), a.source = .bureau → Works s t →
    (s.admits (seqPage t) = true → s.startBad t = false → (s.tile t).seq = .idle → Answers (.runStart a t) s fun s' =>
      (s'.tile t).seq = .running ∧ (s'.tile t).stall = .none ∧ (s'.tile t).pc.toNat = s.fld (seqPage t) 0x108 0 32
      ∧ (∀ i, (s'.tile t).tok i = (s.tile t).tok i) ∧ (∀ i, (s'.tile t).reg i = (s.tile t).reg i) ∧ SeqFrame t s s')
    ∧ (s.admits (seqPage t) = true → s.startBad t = false → (s.tile t).seq = .halted → Answers (.runStart a t) s fun s' =>
      (s'.tile t).seq = .running ∧ (s'.tile t).pc = (s.tile t).pc ∧ SeqFrame t s s')
    ∧ (s.admits (seqPage t) = true → s.startBad t = true → Answers (.runStart a t) s fun s' =>
      s'.tile t = s.tile t ∧ Reported (seqPage t) 2 0x014 s s' ∧ TileFrame t s s')
    ∧ (s.admits (seqPage t) = false → Answers (.runStart a t) s fun s' =>
      s'.tile t = s.tile t ∧ (s'.page (seqPage t)).heldGo = true ∧ TileFrame t s s')
    ∧ ((s.tile t).seq = .running → (s.tile t).stall = .none → Answers (.runHalt a t) s fun s' =>
      (s'.tile t).seq = .halted ∧ (s'.tile t).pc = (s.tile t).pc ∧ (s'.page (seqPage t)).heldGo = false ∧ TileFrame t s s')
    ∧ ((s.tile t).seq = .running → (s.tile t).stall ≠ .none → Answers (.runHalt a t) s fun s' =>
      (s'.tile t).seq = .running ∧ (s'.tile t).haltDue = true ∧ (s'.page (seqPage t)).heldGo = false ∧ TileFrame t s s')
    ∧ ((s.tile t).stopped = false → ((s.tile t).seq = .waiting ∨ ((s.tile t).seq = .running ∧ (s.tile t).stall ≠ .none)) →
      s.fld (seqPage t) 0x120 0 6 ≠ 0 → Answers (.stallWatchdog t) s fun s' =>
      (s'.tile t).seq = .halted ∧ (s'.tile t).held = true ∧ (s'.tile t).pc = (s.tile t).pc ∧ Raised (seqPage t) 4 s'
      ∧ Reported (seqPage t) 2 0x011 (s.event (seqPage t) 4) s' ∧ (∀ f, (s'.tile t).queue f = (s.tile t).queue f)
      ∧ (s'.tile t).flights = (s.tile t).flights ∧ TileFrame t s s')

/-- The engine commands of a tile, each with its engine and its OP (R118, R121, R127, R128, R129). -/
def Sys2Proof.Spec.engineRows : List ((Fin 192 → Instr) × Eng × Nat) :=
  [(fun t => .load t .clean, .lde, 1), (fun t => .ldeCopy t .clean, .lde, 2), (fun t => .gather t .clean, .lde, 3),
   (fun t => .mma t .clean, .mxe, 1), (fun t => .drain t .clean, .mxe, 2),
   (fun t => .run t .clean, .vxe, 1), (fun t => .loadp t .clean, .vxe, 2), (fun t => .rawacc t .clean, .vxe, 3),
   (fun t => .store t .clean, .ste, 1), (fun t => .steCopy t .clean, .ste, 2),
   (fun t => .put t .clean, .xce, 1), (fun t => .get t, .xce, 2), (fun t => .red t .clean, .xce, 3), (fun t => .mcast t .clean, .xce, 4),
   (fun t => .send t .clean, .xce, 5), (fun t => .fence t, .xce, 6), (fun t => .inval t, .xce, 7)]

/-- The OPs that an engine defines. -/
def Sys2Proof.Spec.opsOf (e : Eng) : List Nat :=
  match e with | .lde => [1, 2, 3] | .mxe => [1, 2, 3] | .vxe => [1, 2, 3] | .ste => [1, 2] | .xce => [1, 2, 3, 4, 5, 6, 7]

/-- R79, R83, R84: when the head of a queue can start. Its waits hold, the engine admits work and is not held, it has room for another
descriptor in flight, every request of the earlier ones has been issued (but on the XCE), and a FEED descriptor of the LDE lies inside
the run-ahead window. Else no command of the engine does anything. -/
def Sys2Proof.Spec.DescriptorsStartInOrder : Prop :=
  (∀ (s : State) (t : Nat) (e : Eng) (d : Desc), s.startable t e = some d ↔
      ((s.tile t).queue e).head? = some d ∧ Works s t ∧ s.admits (engPage t e) = true ∧ s.enginesHeld t = false
      ∧ ((s.tile t).flights.filter fun f => decide (f.eng = e)).length < s.inflightMax t e
      ∧ (∀ f ∈ (s.tile t).flights, f.eng = e → f.unsent = 0 ∨ e = .xce)
      ∧ WaitsHold (s.tile t) (waitAK d) (waitA d) (waitBK d) (waitB d)
      ∧ (d.w0.getLsbD 8 = true → e = .lde → ((s.tile t).fl - (s.tile t).fm).toNat < max 1 (s.fld (engPage t .lde) 0x100 0 4)))
  ∧ ∀ c e op, (c, e, op) ∈ engineRows → ∀ (s : State) (t : Fin 192), s.startable t e = none → exec (c t) s = .next s

/-- R130, R131: a descriptor whose OP the engine does not define is refused with 0x041, or 0x040 where a common check fails too: it
leaves its queue with its waits taken, reports on the engine's page, and has no other effect. -/
def Sys2Proof.Spec.UndefinedOpcodesRefused : Prop :=
  ∀ c e op, (c, e, op) ∈ engineRows → ∀ (s : State) (t : Fin 192) (d : Desc), s.startable t e = some d → d.w0.toNat / 2 ^ 3 % 2 ^ 5 ∉ opsOf e →
    ∃ code, (code = 0x041 ∨ code = 0x040) ∧ Answers (c t) s fun s' =>
      Took t e d s s' (fun f => f.refused = true ∧ f.sev = 2 ∧ f.code = code ∧ f.writes = [] ∧ f.sums = [])
      ∧ Reported (engPage t e) 2 code s s' ∧ AccSame (s.tile t) (s'.tile t) ∧ EngFrame t s s' ∧ s'.mem = s.mem ∧ s'.fab = s.fab

/-- Descriptors start in order once their waits hold; an undefined opcode refuses its descriptor (R79 to R84, R114).
Where the rules leave a choice it is the model's (log entry 6). -/
def Obligations.DescriptorStarts : Prop := Spec.DescriptorsStartInOrder ∧ Spec.UndefinedOpcodesRefused

/-- LDE COPY and STE COPY (R118, R128): rows of one space, unless they meet the rows that the command itself writes, are in flight to
the other; nothing is written before completion.
Where the rules leave a choice it is the model's (log entry 6). -/
def Obligations.CopiesMoveRows : Prop :=
  ∀ (s : State) (t : Fin 192) (d : Desc) (x : LsF), x = lsOf d → Quiet (s.tile t) → d.w0.toNat / 2 ^ 3 % 2 ^ 5 = 2 →
    (s.startable t .lde = some d → lsBad false d x = none → x.bexp = false →
      (x.lsel = false → ∀ i j, i < x.rows → j < x.rows →
        x.saddr + i * x.sstride + x.rlen ≤ x.laddr + j * x.lstride ∨ x.laddr + j * x.lstride + x.rlen ≤ x.saddr + i * x.sstride) →
      Answers (.ldeCopy t .clean) s fun s' => Took t .lde d s s' (fun f => f.refused = false ∧ f.finished = true ∧ f.bytes = x.rows * x.rlen
          ∧ f.writes = (List.range x.rows).map fun i => rowWrite x.lsel x.laddr x.lstride i ((s.tile t).bytes false (x.saddr + i * x.sstride) x.rlen))
        ∧ AccSame (s.tile t) (s'.tile t) ∧ EngFrame t s s')
    ∧ (s.startable t .ste = some d → lsBad true d x = none →
      (x.ssel = false → ∀ i j, i < x.rows → j < x.rows →
        x.saddr + i * x.sstride + x.rlen ≤ x.laddr + j * x.lstride ∨ x.laddr + j * x.lstride + x.rlen ≤ x.saddr + i * x.sstride) →
      Answers (.steCopy t .clean) s fun s' => Took t .ste d s s' (fun f => f.refused = false ∧ f.finished = true ∧ f.bytes = x.rows * x.rlen
          ∧ f.writes = (List.range x.rows).map fun i => rowWrite false x.laddr x.lstride i ((s.tile t).bytes x.ssel (x.saddr + i * x.sstride) x.rlen))
        ∧ AccSame (s.tile t) (s'.tile t) ∧ EngFrame t s s')

/-- LOAD, GATHER and STORE over local memory (R97, R98, R118, R128): the bytes that memory's rows hold are in flight to the tile, and the
tile's rows wait to be made good in memory. The rows of a GATHER are those that its index list names. `gs` is the whole extent,
translated before any byte moves (R245). -/
def Sys2Proof.Spec.LoadsAndStores : Prop :=
  ∀ (s : State) (t : Fin 192) (d : Desc) (x : LsF) (c : Nat) (gs : List Seg), x = lsOf d → Quiet (s.tile t) → s.ctxOf t = some c →
    (∀ g ∈ gs, (s.localOf g).isSome) →
    (s.startable t .lde = some d → d.w0.toNat / 2 ^ 3 % 2 ^ 5 = 1 → lsBad false d x = none → x.bexp = false → x.hint ≠ 3 → s.mem.writes = [] →
      (s.lsReach (tileDie t) c false ((List.range x.rows).map fun i => (x.maddr + i * x.mstride) % 2 ^ 64) x.rlen).1 = .go gs →
      Answers (.load t .clean) s fun s' => Took t .lde d s s' (fun f => f.refused = false ∧ f.finished = true ∧ f.bytes = x.rows * x.rlen
          ∧ f.writes = (List.range x.rows).map fun i => rowWrite x.lsel x.laddr x.lstride i (((segData s gs).drop (i * x.rlen)).take x.rlen))
        ∧ AccSame (s.tile t) (s'.tile t) ∧ EngFrame t s s')
    ∧ (∀ idx : List Nat, s.startable t .lde = some d → d.w0.toNat / 2 ^ 3 % 2 ^ 5 = 3 → lsBad false d x = none → x.hint ≠ 3 → s.mem.writes = [] →
      (∀ i, i < x.rows → idx.getD i 0 = ofBytes ((s.tile t).bytes false (x.baddr + 4 * i) 4)) →
      (s.lsReach (tileDie t) c false ((List.range x.rows).map fun i => (x.maddr + idx.getD i 0 * x.mstride) % 2 ^ 64) x.rlen).1 = .go gs →
      Answers (.gather t .clean) s fun s' => Took t .lde d s s' (fun f => f.refused = false ∧ f.finished = true ∧ f.bytes = x.rows * x.rlen
          ∧ f.writes = (List.range x.rows).map fun i => rowWrite x.lsel x.laddr x.lstride i (((segData s gs).drop (i * x.rlen)).take x.rlen))
        ∧ AccSame (s.tile t) (s'.tile t) ∧ EngFrame t s s')
    ∧ (s.startable t .ste = some d → d.w0.toNat / 2 ^ 3 % 2 ^ 5 = 1 → lsBad true d x = none → s.fab.unsent = [] →
      (s.lsReach (tileDie t) c true ((List.range x.rows).map fun i => (x.maddr + i * x.mstride) % 2 ^ 64) x.rlen).1 = .go gs →
      Answers (.store t .clean) s fun s' => Took t .ste d s s' (fun f => f.refused = false ∧ f.finished = true ∧ f.writes = [])
        ∧ (∃ ws, s'.mem.writes = s.mem.writes ++ ws ∧ ws.map (fun w => w.addr) = gs.map (fun g => (s.localOf g).getD 0)
          ∧ ws.map (fun w => w.data.length) = gs.map (fun g => g.len) ∧ (∀ w ∈ ws, w.id = memId t (s.tile t).serial)
          ∧ ws.flatMap (fun w => w.data) = rowData (s.tile t) x.lsel x.laddr x.lstride x.rows x.rlen)
        ∧ AccSame (s.tile t) (s'.tile t) ∧ EngFrame t s s')

/-- LOAD and STORE over another tray member's memory (R281): one request waits for the context's tray flow, a GET of the range or PUTs of
at most 8,192 bytes, and the descriptor is not finished until they are answered. -/
def Sys2Proof.Spec.TrayLoadsAndStores : Prop :=
  ∀ (s : State) (t : Fin 192) (d : Desc) (x : LsF) (c m off : Nat) (g : Seg), x = lsOf d → Quiet (s.tile t) → s.ctxOf t = some c →
    s.trayOf g = some (m, off) → s.localOf g = none → g.len = x.rlen → x.rows = 1 → s.fab.unsent = [] → s.cached (s.trayFlow c m) = none →
    (s.startable t .lde = some d → d.w0.toNat / 2 ^ 3 % 2 ^ 5 = 1 → lsBad false d x = none → s.tlcOn (tileDie t) = false →
      (s.lsReach (tileDie t) c false [x.maddr] x.rlen).1 = .go [g] →
      Answers (.load t .clean) s fun s' => Took t .lde d s s' (fun f => f.refused = false ∧ f.left = 1 ∧ f.unsent = 1 ∧ f.writes = [])
        ∧ (∃ r, s'.fab.unsent = [{ req := r }] ∧ r.pop = 2 ∧ r.flow = s.trayFlow c m ∧ r.ctx = c ∧ r.owner = .tile t (s.tile t).serial
          ∧ r.w2.toNat = off % 2 ^ 48 ∧ 32 * (r.len + 1) = x.rlen)
        ∧ AccSame (s.tile t) (s'.tile t) ∧ EngFrame t s s')
    ∧ (s.startable t .ste = some d → d.w0.toNat / 2 ^ 3 % 2 ^ 5 = 1 → lsBad true d x = none → off % 8192 + x.rlen ≤ 8192 →
      (s.lsReach (tileDie t) c true [x.maddr] x.rlen).1 = .go [g] →
      Answers (.store t .clean) s fun s' => Took t .ste d s s' (fun f => f.refused = false ∧ f.left = 1 ∧ f.unsent = 1)
        ∧ (∃ r, s'.fab.unsent = [{ req := r }] ∧ r.pop = 1 ∧ r.flow = s.trayFlow c m ∧ r.ctx = c ∧ r.owner = .tile t (s.tile t).serial
          ∧ r.w2.toNat = off % 2 ^ 48 ∧ r.arg = (s.tile t).bytes x.lsel x.laddr x.rlen)
        ∧ AccSame (s.tile t) (s'.tile t) ∧ EngFrame t s s')

/-- LOAD and STORE on local and on tray memory (R119 to R128).
Where the rules leave a choice it is the model's (log entries 6 and 17). -/
def Obligations.LoadsStoresAndTray : Prop := Spec.LoadsAndStores ∧ Spec.TrayLoadsAndStores

/-- MMA, DRAIN and RAWACC (R121, R125, R127, R145, R168): every entry of an MMA's region becomes the accumulation of its products, with
the operands as fed from the tile, and no other entry changes; a DRAIN's rows and its maximum, and a RAWACC's raw entries, are in flight
to the register file and the accumulators stay.
Where the rules leave a choice it is the model's (log entries 6 and 10). -/
def Obligations.MatrixCommands : Prop :=
  ∀ (s : State) (t : Fin 192) (d : Desc), Quiet (s.tile t) →
    (∀ x : MmaF, s.startable t .mxe = some d → d.w0.toNat / 2 ^ 3 % 2 ^ 5 = 1 → x = (s.applyStaged (engPage t .mxe)).mmaFields t d →
      mmaBad d x = none →
      Answers (.mma t .clean) s fun s' => Took t .mxe d s s' (fun f => f.refused = false ∧ f.finished = true ∧ f.writes = [])
        ∧ (∀ i j, i < x.m → j < x.n → (s'.tile t).entry x.bank (x.moff + i) (x.noff + j)
            = (mmaEntry x (s.feed t x.a x.m x.l x.kscan).1 (s.feed t x.b x.n x.l x.kscan).1 (s.tile t) i j).1)
        ∧ (∀ k, (∀ i j, i < x.m → j < x.n → k ≠ x.bank * 16384 + (x.moff + i) * 128 + (x.noff + j)) →
            Tab.get {} (s'.tile t).acc k = Tab.get {} (s.tile t).acc k)
        ∧ EngFrame t s s')
    ∧ (∀ x : DrainF, x = drainOf d → s.startable t .mxe = some d → d.w0.toNat / 2 ^ 3 % 2 ^ 5 = 2 → drainBad (s.tile t) d x = none →
      Answers (.drain t .clean) s fun s' => Took t .mxe d s s' (fun f => f.refused = false ∧ f.finished = true
          ∧ f.writes = drainWrites x (s.tile t)
          ∧ f.sums = if x.uen = true then [{ u := x.usum, kind := .max
                                             val := BitVec.ofNat 64 (maxOf ((List.range x.m).flatMap fun i => (List.range x.n).map fun j =>
                                               ((s.tile t).entry x.bank (x.moff + i) (x.noff + j)).datum 0)) }] else [])
        ∧ AccSame (s.tile t) (s'.tile t) ∧ EngFrame t s s')
    ∧ (∀ rows, rows = d.w1.toNat / 2 ^ 22 % 2 ^ 7 + 1 → s.startable t .vxe = some d → d.w0.toNat / 2 ^ 3 % 2 ^ 5 = 3 →
      rawaccBad d ((s.raw (seqPage t) 0x110).getLsbD 4) = none →
      Answers (.rawacc t .clean) s fun s' => Took t .vxe d s s' (fun f => f.refused = false ∧ f.finished = true ∧ f.bytes = rows * 2048
          ∧ f.writes = (List.range rows).map fun r => rowWrite true (d.w1.toNat % 2 ^ 14 * 32) 2048 r
              ((List.range 128).flatMap fun j => toBytes 16 ((s.tile t).entry (d.w1.toNat / 2 ^ 14 % 2) (d.w1.toNat / 2 ^ 15 % 2 ^ 7 + r) j).bits))
        ∧ AccSame (s.tile t) (s'.tile t) ∧ EngFrame t s s')

/-- RUN and LOADP (R127, R151, R157): a RUN whose output rows meet no input row carries each lane row through the program and writes the
outputs that the program stores; a LOADP of legal instructions fills its slot at completion.
Where the rules leave a choice it is the model's (log entries 6 and 10). -/
def Obligations.VectorCommands : Prop :=
  ∀ (s : State) (t : Fin 192) (d : Desc), Quiet (s.tile t) → s.startable t .vxe = some d →
    (∀ (x : RunF) (p : List EIns) (key : Word) (lanes : Nat → List Lane), x = runOf d → p = (s.tile t).prog x.slot →
      key = (s.applyStaged (engPage t .vxe)).raw (engPage t .vxe) 0x100 → d.w0.toNat / 2 ^ 3 % 2 ^ 5 = 1 → runBad (s.tile t) d x = none →
      (∀ k j n m, k < 3 → j < 2 → n < x.rows → m < x.rows → usesIn p k = true → usesOut p j = true →
        x.ins.getD k 0 + n * laneRowBytes (x.ifs.getD k 0) + laneRowBytes (x.ifs.getD k 0) ≤ x.outs.getD j 0 + m * laneRowBytes (x.ofs.getD j 0)
        ∨ x.outs.getD j 0 + m * laneRowBytes (x.ofs.getD j 0) + laneRowBytes (x.ofs.getD j 0) ≤ x.ins.getD k 0 + n * laneRowBytes (x.ifs.getD k 0)) →
      (∀ n, lanes n = runRow p x key n ((List.range 3).map fun k => if usesIn p k then
        ofBytes ((s.tile t).bytes true (x.ins.getD k 0 + n * laneRowBytes (x.ifs.getD k 0)) (laneRowBytes (x.ifs.getD k 0))) else 0)) →
      Answers (.run t .clean) s fun s' => Took t .vxe d s s' (fun f => f.refused = false ∧ f.finished = true
          ∧ f.writes = (List.range x.rows).flatMap fun n =>
            (if usesOut p 0 then [rowWrite true (x.outs.getD 0 0) (laneRowBytes (x.ofs.getD 0 0)) n
              (packElems (x.ofs.getD 0 0) 256 ((lanes n).map fun l => l.out0.getD 0))] else [])
            ++ (if usesOut p 1 then [rowWrite true (x.outs.getD 1 0) (laneRowBytes (x.ofs.getD 1 0)) n
              (packElems (x.ofs.getD 1 0) 256 ((lanes n).map fun l => l.out1.getD 0))] else []))
        ∧ AccSame (s.tile t) (s'.tile t) ∧ EngFrame t s s')
    ∧ (∀ ws : List Word, d.w0.toNat / 2 ^ 3 % 2 ^ 5 = 2 → loadpBad d = none →
      ws = wordsOf (d.w1.toNat / 2 ^ 17 % 2 ^ 6) ((s.tile t).bytes true (d.w1.toNat % 2 ^ 14 * 32) (8 * (d.w1.toNat / 2 ^ 17 % 2 ^ 6))) →
      (∀ w ∈ ws, (einsOf w).legal = true) →
      Answers (.loadp t .clean) s fun s' => Took t .vxe d s s' (fun f => f.refused = false ∧ f.finished = true
          ∧ f.slots = [(d.w1.toNat / 2 ^ 14 % 2 ^ 3, ws)] ∧ f.writes = [])
        ∧ AccSame (s.tile t) (s'.tile t) ∧ EngFrame t s s')

/-- PUT, GET, RED, SEND, INVAL and MCAST (R282, R287, R292) with a remote address of form 01 of at most 8 KiB inside one 8 KiB block, their flows
valid and admitted but not cached: one request per flow waits for its SEQ, of the operation's POP and offset, and the descriptor waits
for its answer. -/
def Sys2Proof.Spec.RemoteOperations : Prop :=
  ∀ (s : State) (t : Fin 192) (d : Desc) (x : XceF) (c : Nat), x = xceOf d → Quiet (s.tile t) → s.ctxOf t = some c →
    s.startable t .xce = some d → xceBad d x = none → s.fab.unsent = [] → x.raddr.toNat / 2 ^ 62 = 1 → x.raddr.getLsbD 48 = false →
    x.raddr.toNat % 2 ^ 13 + x.len ≤ 8192 → x.flag = false →
    (∀ i op pop, (i, op, pop) ∈ ([(Instr.put t .clean, 1, 1), (Instr.get t, 2, 2), (Instr.red t .clean, 3, 4), (Instr.inval t, 7, 7)] : List (Instr × Nat × Nat)) →
      d.w0.toNat / 2 ^ 3 % 2 ^ 5 = op → s.cached x.flow = none →
      s.admitCode c [(x.flow, x.raddr.toNat / 2 ^ 49 % 2 ^ 13, 1)] = none →
      Answers i s fun s' => Took t .xce d s s' (fun f => f.refused = false ∧ f.left = 1 ∧ f.unsent = 1 ∧ f.writes = [])
        ∧ (∃ r, s'.fab.unsent = [{ req := r }] ∧ r.pop = pop ∧ r.flow = x.flow ∧ r.ctx = c ∧ r.owner = .tile t (s.tile t).serial
          ∧ r.w2.toNat % 2 ^ 48 = x.raddr.toNat % 2 ^ 48
          ∧ (op = 1 ∨ op = 3 → r.arg = (s.tile t).bytes false x.laddr x.len) ∧ (op = 2 → 32 * (r.len + 1) = x.len ∧ r.dest = .store t x.laddr)
          ∧ (op = 7 → r.arg = toBytes 8 x.len))
        ∧ EngFrame t s s')
    ∧ (∀ ms, ms = (List.range 4).filter (fun m => decide (x.mask / 2 ^ m % 2 = 1)) → d.w0.toNat / 2 ^ 3 % 2 ^ 5 = 4 →
      (∀ m ∈ ms, s.cached (x.flow / 4 * 4 + m) = none) →
      s.admitCode c (ms.map fun m => (x.flow / 4 * 4 + m, s.ownLc / 4 * 4 + m, ms.length)) = none →
      Answers (.mcast t .clean) s fun s' => Took t .xce d s s' (fun f => f.refused = false ∧ f.left = ms.length ∧ f.unsent = ms.length)
        ∧ s'.fab.unsent.map (fun u => u.req.flow) = ms.map (fun m => x.flow / 4 * 4 + m)
        ∧ (∀ u ∈ s'.fab.unsent, u.req.pop = 1 ∧ u.req.w2.toNat = x.raddr.toNat % 2 ^ 48 ∧ u.req.arg = (s.tile t).bytes false x.laddr x.len)
        ∧ EngFrame t s s')

/-- SEND (R129, R278, R282) to an inbox of form 01, and FENCE (R289): the fence captures ISSUED of its flow, or of all flows of the
context, and waits until COMPLETED has reached it. -/
def Sys2Proof.Spec.SendAndFence : Prop :=
  ∀ (s : State) (t : Fin 192) (d : Desc) (x : XceF) (c : Nat), x = xceOf d → Quiet (s.tile t) → s.ctxOf t = some c →
    s.startable t .xce = some d → xceBad d x = none →
    (d.w0.toNat / 2 ^ 3 % 2 ^ 5 = 5 → s.fab.unsent = [] → x.raddr.toNat / 2 ^ 62 = 1 → x.raddr.getLsbD 48 = true →
      x.raddr.toNat % 2 ^ 48 < 256 → x.len ≤ 8192 → x.flag = false → s.cached x.flow = none →
      s.admitCode c [(x.flow, x.raddr.toNat / 2 ^ 49 % 2 ^ 13, 1)] = none →
      Answers (.send t .clean) s fun s' => Took t .xce d s s' (fun f => f.refused = false ∧ f.left = 1 ∧ f.unsent = 1)
        ∧ (∃ r, s'.fab.unsent = [{ req := r }] ∧ r.pop = 5 ∧ r.flow = x.flow ∧ r.arg = (s.tile t).bytes false x.laddr x.len
          ∧ r.w2.toNat % 2 ^ 49 = 2 ^ 48 + x.raddr.toNat % 2 ^ 48)
        ∧ EngFrame t s s')
    ∧ (d.w0.toNat / 2 ^ 3 % 2 ^ 5 = 6 → x.allf = true →
      (∀ e ∈ s.tiles, ∀ f ∈ e.2.flights, f.waitFor = none ∧ f.flag = none) → (∀ e ∈ s.key.saved, ∀ f ∈ e.2.flights, f.waitFor = none ∧ f.flag = none) →
      Answers (.fence t) s fun s' => Took t .xce d s s' (fun f => f.refused = false ∧ f.left = 0 ∧ f.unsent = 0
          ∧ (f.finished = true ↔ ((Tab.get 0 s.fab.doneAll c).toNat + 2 ^ 32 - (Tab.get 0 s.fab.issuedAll c).toNat) % 2 ^ 32 < 2 ^ 31))
        ∧ EngFrame t s s')

/-- The remote operations of the XCE, SEND and FENCE (R281 to R290).
Where the rules leave a choice it is the model's (log entry 21). -/
def Obligations.RemoteCommands : Prop := Spec.RemoteOperations ∧ Spec.SendAndFence

/-- GROUP (R204, R281) whose table lies in another tray member's memory: the walk starts, and one GET for the table waits for the tray
flow; the accumulators stay until the units are computed.
Where the rules leave a choice it is the model's (log entry 18). -/
def Obligations.GroupStartsItsWalk : Prop :=
  ∀ (s : State) (t : Fin 192) (d : Desc) (c m off base : Nat) (g : Seg), Quiet (s.tile t) → s.ctxOf t = some c →
    s.startable t .mxe = some d → d.w0.toNat / 2 ^ 3 % 2 ^ 5 = 3 → groupBad d = none → s.admits (trsPage t) = true →
    ((s.applyStaged (engPage t .mxe)).applyStaged (trsPage t)).stageBad t = false →
    base = d.w1.toNat + 128 * (d.w2.toNat % 2 ^ 32) →
    (s.reach (tileDie t) (some c) base (128 * (d.w2.toNat / 2 ^ 32)) false).1 = .ok [g] → g.len = 128 * (d.w2.toNat / 2 ^ 32) →
    s.trayOf g = some (m, off) → g.len ≤ 2 ^ 21 → s.fab.unsent = [] → s.cached (s.trayFlow c m) = none →
    Answers (.group t .clean) s fun s' => Took t .mxe d s s' (fun f => f.refused = false ∧ f.phase = 1 ∧ f.left = 1 ∧ f.unsent = 1 ∧ f.writes = [])
      ∧ (∃ r, s'.fab.unsent = [{ req := r }] ∧ r.pop = 2 ∧ r.flow = s.trayFlow c m ∧ r.ctx = c ∧ r.owner = .tile t (s.tile t).serial
        ∧ r.w2.toNat = off % 2 ^ 48 ∧ 32 * (r.len + 1) = g.len)
      ∧ AccSame (s.tile t) (s'.tile t) ∧ EngFrame t s s'

/-- DESCRIPTOR_COMPLETE (R80, R81, R84, R85, R94): the oldest descriptor of an engine that has nothing outstanding leaves the engine. Its
local writes become visible in order, its memory write is made good, its counter is signalled and its record is written, with the time
held and what resends added (R277) in WAIT. A LOAD that
still gathers and a GROUP that is not computed are other cases of the command.
Where the rules leave a choice it is the model's (log entry 6). -/
def Obligations.DescriptorsComplete : Prop :=
  ∀ (s : State) (t : Fin 192) (e : Eng) (f : Flight) (heldNs : Nat), Works s t →
    ((s.tile t).flights.filter fun g => decide (g.eng = e)).head? = some f → (s.tile t).flights.find? (fun g => decide (g.id = f.id)) = some f →
    f.left = 0 → f.unsent = 0 → f.waitFor = none → f.flag = none → f.phase ≠ 1 →
    (e = .mxe → f.desc.w0.toNat / 2 ^ 3 % 2 ^ 5 = 3 → f.phase = 3 ∨ f.refused = true) → f.sums = [] →
    Answers (.descriptorComplete t e heldNs) s fun s' =>
      (∀ g, g ∈ (s'.tile t).flights ↔ g ∈ (s.tile t).flights ∧ g.id ≠ f.id)
      ∧ (∀ g, (s'.tile t).queue g = (s.tile t).queue g) ∧ (∀ i, (s'.tile t).reg i = (s.tile t).reg i)
      ∧ (f.desc.w0.getLsbD 9 = false → BytesSame (f.writes.foldl (fun ti w => ti.write w.rf w.addr w.data) (s.tile t)) (s'.tile t))
      ∧ (f.desc.w0.getLsbD 9 = true → (s.crecRing t e).size ≠ 0 → ∃ status, (f.refused = true → status = 2)
          ∧ (s'.tile t).bytes false ((s.crecRing t e).base + 16 * (Tab.get 0 (s.tile t).crecPos (engNum e) % (s.crecRing t e).size)) 16
            = crecBytes f status (waitBucket (heldNs + f.delay)))
      ∧ (∀ k, (s'.tile t).tok k = (s.tile t).tok k
          + (if f.desc.w0.getLsbD 10 = true ∧ k = f.desc.w0.toNat / 2 ^ 11 % 2 ^ 5 ∧ (s.tile t).tok k < 0xFFFF then 1 else 0))
      ∧ ((s.mem.writes.filter fun w => decide (w.id = memId t f.id)) = [] → MemSame s s')
      ∧ (∀ w, (s.mem.writes.filter fun w => decide (w.id = memId t f.id)) = [w] →
          ∀ a, s'.mem.byte a = if w.addr ≤ a ∧ a < w.addr + w.data.length then w.data.getD (a - w.addr) 0 else s.mem.byte a)
      ∧ OtherTiles t s s' ∧ s'.fab = s.fab ∧ s'.key = s.key ∧ s'.pkg = s.pkg ∧ s'.time = s.time

/-- The scrubs (R149, R247, R341): a clean read changes nothing. A corrected error is reported as a Note of severity 1, the bits as they
were; an uncorrectable one of the idle scrub turns bits of one word of the space that it read and is Step-fatal, and one of an
accumulator entry marks the entry.
Where the rules leave a choice, and where a command's condition does not hold, it is the model's (log entries 1 and 7). -/
def Obligations.Scrubs : Prop :=
  ∀ (s : State) (t : Fin 192), Works s t →
    (s.fld (engPage t .mxe) 0x408 0 1 = 1 →
      (Answers (.accScrub t .clean) s fun s' => s' = s)
      ∧ (∀ loc, Answers (.accScrub t (.corrected loc)) s fun s' => Reported (engPage t .mxe) 1 0x030 s s' ∧ Raised (engPage t .mxe) 5 s' ∧ TilesSame s s'
          ∧ MemSame s s')
      ∧ (∀ loc, loc < 32768 → Answers (.accScrub t (.uncorrectable loc)) s fun s' => (Tab.get {} (s'.tile t).acc loc).bad = true
          ∧ (∀ k, k ≠ loc → Tab.get {} (s'.tile t).acc k = Tab.get {} (s.tile t).acc k) ∧ Raised (engPage t .mxe) 8 s'
          ∧ BytesSame (s.tile t) (s'.tile t) ∧ OtherTiles t s s' ∧ MemSame s s'))
    ∧ (s.fld (tmonPage t) 0x100 0 1 = 1 →
      (∀ rf, Answers (.idleScrub t rf .clean) s fun s' => s' = s)
      ∧ (∀ rf n, Answers (.idleScrub t rf (.corrected n)) s fun s' => Reported (tmonPage t) 1 (if rf then 0x112 else 0x110) s s'
          ∧ Raised (tmonPage t) 4 s' ∧ TilesSame s s' ∧ MemSame s s')
      ∧ (∀ rf n, n < 65536 → Answers (.idleScrub t rf (.uncorrectable n)) s fun s' => Reported (tmonPage t) 3 (if rf then 0x113 else 0x111) s s'
          ∧ Raised (tmonPage t) 5 s' ∧ BytesBut (s.tile t) (s'.tile t) rf (8 * n) 8 ∧ OtherTiles t s s' ∧ MemSame s s'
          ∧ ∃ x, s'.bur.fatals = s.bur.fatals ++ [x] ∧ x.page = tmonPage t ∧ x.code = (if rf then 0x113 else 0x111) ∧ x.sev = 3 ∧ x.ctx = s.ctxOf t))

/-- The Footstool of tile t runs operation op, which has not come about yet, and nothing else of the tile has started. -/
def Sys2Proof.Spec.FtsRuns (s : State) (t op : Nat) (x : FtsF) : Prop :=
  Works s t ∧ (s.tile t).flights = [] ∧ (s.tile t).route = none ∧ (s.tile t).fts = some { done := false, refused := false, writes := [] }
    ∧ x = s.ftsFields t ∧ x.op = op

/-- The Footstool's operation has come about with its writes to tile store; nothing but tile t's Footstool and the page changes. -/
def Sys2Proof.Spec.FtsDone (s s' : State) (t : Nat) (ws : List LWrite) : Prop :=
  (s'.tile t).fts = some { done := true, refused := false, writes := ws } ∧ BytesSame (s.tile t) (s'.tile t)
    ∧ (∀ i, (s'.tile t).reg i = (s.tile t).reg i) ∧ (∀ i, (s'.tile t).tok i = (s.tile t).tok i) ∧ AccSame (s.tile t) (s'.tile t)
    ∧ (s'.tile t).seq = (s.tile t).seq ∧ (s'.tile t).flights = (s.tile t).flights ∧ TileFrame t s s'

/-- CLEAR, ACC, SELECT and EXPAND (R172, R173, R176, R180): the group scores and the list and mask that each is about to write, the selection it
keeps, and RESULT.
Where the rules leave a choice it is the model's (log entry 10). -/
def Obligations.FootstoolScores : Prop :=
  ∀ (s : State) (t : Fin 192) (x : FtsF), 0 < x.f → x.f ≤ 32768 → x.gs % 32 = 0 → x.list % 32 = 0 → x.mask % 32 = 0 →
    (FtsRuns s t 1 x → x.gs + 4 * x.f ≤ storeBytes → Answers (.clear t) s fun s' =>
      FtsDone s s' t [{ rf := false, addr := x.gs, data := (List.replicate x.f [(0x00 : Byte), 0x00, 0x80, 0xFF]).flatten }]
      ∧ (s'.tile t).sel.valid = false ∧ s'.fld (ftsPage t) 0x140 32 1 = 0)
    ∧ (FtsRuns s t 2 x → x.gs + 4 * x.f ≤ storeBytes → rfBad x = false → x.coff + x.cols ≤ x.f → Answers (.acc t .clean) s fun s' =>
      ∃ new : List Machine.Num, new.length = x.cols
      ∧ (∀ c, c < x.cols → new.getD c .nan = ((s.scoreRows t x x.rows).1.map fun r => r.getD c .nan).foldl (accOne x.abs)
          (ofF32 (ofBytes ((s.tile t).bytes false (x.gs + 4 * (x.coff + c)) 4))))
      ∧ FtsDone s s' t [{ rf := false, addr := x.gs + 4 * x.coff, data := f32Bytes new }])
    ∧ (∀ (g : Nat → Machine.Num) (mode cap : Nat), FtsRuns s t 3 x → x.gs + 4 * x.f ≤ storeBytes → x.mask + (x.f + 255) / 256 * 32 ≤ storeBytes →
      x.list + 4 * x.f ≤ storeBytes → (∀ n, g n = ofF32 (ofBytes ((s.tile t).bytes false (x.gs + 4 * n) 4))) → mode = s.slotMode t x.slot →
      cap = (if x.topk = 0 then x.f else min x.topk x.f) → Answers (.select t) s fun s' =>
      ∃ sel aud : List Nat, (s'.tile t).sel = { valid := true, list := sel ++ aud, s := sel.length, a := aud.length }
      ∧ (∀ n, n ∈ sel ↔ n < x.f ∧ (mode = 0
          ∨ (mode = 1 ∧ passes x (g n) = true
              ∧ ((List.range x.f).filter fun m => passes x (g m) && ((g n).lt (g m) || ((g m).eq (g n) && decide (m < n)))).length < cap)
          ∨ (mode = 2 ∧ (Machine.Num.fin false {}).lt (g n) = true)))
      ∧ (∀ n, n ∈ aud ↔ n < x.f ∧ n ∉ sel ∧ audited mode (s.auditShift t x.slot) x.phase n = true)
      ∧ s'.fld (ftsPage t) 0x140 0 16 = sel.length % 2 ^ 16 ∧ s'.fld (ftsPage t) 0x140 32 1 = 1
      ∧ FtsDone s s' t [{ rf := false, addr := x.list, data := listBytes (sel ++ aud) }, { rf := false, addr := x.mask, data := maskBytes x.f sel }])
    ∧ (FtsRuns s t 4 x → x.mask + (x.f + 7) / 8 ≤ storeBytes → x.list + 4 * x.f ≤ storeBytes → Answers (.expand t) s fun s' =>
      ∃ sel : List Nat, (s'.tile t).sel = { valid := true, list := sel, s := sel.length, a := 0 }
      ∧ (∀ n, n ∈ sel ↔ n < x.f ∧ (Tab.get 0 (s.tile t).store (x.mask + n / 8)).getLsbD (n % 8) = true)
      ∧ FtsDone s s' t [{ rf := false, addr := x.list, data := listBytes sel }])

/-- AUDIT, BEGIN, CLOSE and FTS_COMPLETE (R171, R175, R177): the counts of a slot, its mode, the fallback test, and the completion that makes
writes visible and signals.
Where the rules leave a choice it is the model's (log entry 10). -/
def Obligations.FootstoolSlots : Prop :=
  ∀ (s : State) (t : Fin 192) (x : FtsF) (o : Nat), o = 0x200 + 0x18 * x.slot →
    (FtsRuns s t 5 x → rfBad x = false → (s.tile t).sel.valid = true → x.coff + x.cols ≤ (s.tile t).sel.s + (s.tile t).sel.a →
      Answers (.audit t .clean) s fun s' => ∃ cols : List Nat,
      (∀ c, c ∈ cols ↔ c < x.cols ∧ audited (s.slotMode t x.slot) (s.auditShift t x.slot) x.phase ((s.tile t).sel.list.getD (x.coff + c) 0) = true)
      ∧ (s'.raw (ftsPage t) (o + 8) = s.raw (ftsPage t) (o + 8) + BitVec.ofNat 64 ((cols.map fun c =>
          ((s.scoreRows t x x.rows).1.filter fun r => !(r.getD c (.fin false {})).isZero).length).sum))
      ∧ (s'.raw (ftsPage t) (o + 16) = s.raw (ftsPage t) (o + 16) + BitVec.ofNat 64 (((cols.filter fun c => decide ((s.tile t).sel.s ≤ x.coff + c)).map
          fun c => ((s.scoreRows t x x.rows).1.filter fun r => !(r.getD c (.fin false {})).isZero).length).sum))
      ∧ FtsDone s s' t [])
    ∧ (FtsRuns s t 6 x → Answers (.begin t) s fun s' => s'.fld (ftsPage t) o 0 2 = s.fld (ftsPage t) o 2 2 ∧ s'.raw (ftsPage t) (o + 8) = 0
      ∧ s'.raw (ftsPage t) (o + 16) = 0 ∧ s'.fld (ftsPage t) o 8 16 = s.fld (ftsPage t) o 8 16 ∧ FtsDone s s' t [])
    ∧ (FtsRuns s t 7 x → s.fld (ftsPage t) o 0 2 = 1 →
      (s.raw (ftsPage t) 0x130).toNat * s.fld (ftsPage t) o 8 16 < (s.raw (ftsPage t) 0x138).toNat * 2 ^ 16 →
      Answers (.close t) s fun s' => s'.fld (ftsPage t) o 2 2 = 2 ∧ Raised (ftsPage t) 4 s' ∧ FtsDone s s' t [])
    ∧ (FtsRuns s t 7 x → ¬ (s.fld (ftsPage t) o 0 2 = 1 ∧
      (s.raw (ftsPage t) 0x130).toNat * s.fld (ftsPage t) o 8 16 < (s.raw (ftsPage t) 0x138).toNat * 2 ^ 16) →
      Answers (.close t) s fun s' => s'.fld (ftsPage t) o 2 2 = s.fld (ftsPage t) o 2 2 ∧ WordsSame s s' ∧ FtsDone s s' t [])
    ∧ (∀ r ws, Works s t → (s.tile t).fts = some { done := true, refused := r, writes := ws } → Answers (.ftsComplete t) s fun s' =>
      (s'.tile t).fts = none ∧ s'.fld (ftsPage t) 0x140 34 1 = (if r then 1 else 0)
      ∧ BytesSame (ws.foldl (fun ti w => ti.write w.rf w.addr w.data) (s.tile t)) (s'.tile t)
      ∧ (∀ k, (s'.tile t).tok k = (s.tile t).tok k
          + (if s.fld (ftsPage t) 0x100 8 1 = 1 ∧ k = s.fld (ftsPage t) 0x100 9 5 ∧ (s.tile t).tok k < 0xFFFF then 1 else 0))
      ∧ (∀ i, (s'.tile t).reg i = (s.tile t).reg i) ∧ TileFrame t s s')

/-- ROUTE, CLRCNT and ROUTE_COMPLETE (R185 to R188): the choice records in rank order, the counts of active choices, the zeroed counts, and the
completion. The operation's parameter words are those copied at GO.
Where the rules leave a choice it is the model's (log entry 15). -/
def Obligations.RouteUnit : Prop :=
  ∀ (s : State) (t : Fin 192) (o : RouteOp) (x : RouteF), Works s t → (s.tile t).route = some o → x = o.fields →
    (o.done = false → o.code = 0 → o.writes = [] → (s.tile t).flights = [] → (s.tile t).fts = none → o.cmd.toNat % 2 ^ 4 = 1 →
      x.kact ≤ x.kcand → x.kcand ≤ x.e →
      x.raddr + (x.rows - 1) * x.stride + x.e * (if x.bf16 then 2 else 4) ≤ rfBytes → x.out % 8 = 0 → x.out + 8 * x.kcand * x.rows ≤ storeBytes →
      x.cnt % 32 = 0 → x.cnt + 4 * x.e ≤ storeBytes → Answers (.route t .clean) s fun s' => ∃ o' : RouteOp, (s'.tile t).route = some o'
      ∧ o'.done = true ∧ o'.code = 0 ∧ o'.cmd = o.cmd
      ∧ o'.nans = ((s.gateRows t x x.rows).1.map fun g => (g.filter Machine.Num.isNan).length).sum
      ∧ (∃ cnts, o'.writes = { rf := false, addr := x.out
                               data := ((s.gateRows t x x.rows).1.map fun g =>
                                 ((ranked g x.kcand).mapIdx fun r e => choiceRec x.kact r e (g.getD e .nan)).flatten).flatten } :: cnts
          ∧ ∀ w ∈ cnts, w.rf = false ∧ ∃ e, e < x.e ∧ w.addr = x.cnt + 4 * e
              ∧ w.data = toBytes 4 (min (2 ^ 32 - 1) (ofBytes ((s.tile t).bytes false (x.cnt + 4 * e) 4)
                  + ((s.gateRows t x x.rows).1.map fun g => (((ranked g x.kcand).take x.kact).filter fun a => decide (a = e)).length).sum)))
      ∧ BytesSame (s.tile t) (s'.tile t) ∧ (∀ i, (s'.tile t).reg i = (s.tile t).reg i) ∧ TileFrame t s s')
    ∧ (o.done = false → o.cmd.toNat % 2 ^ 4 = 2 → x.cnt % 32 = 0 → x.cnt + 4 * x.e ≤ storeBytes → Answers (.clrcnt t) s fun s' =>
      (s'.tile t).route = some { o with done := true, writes := [{ rf := false, addr := x.cnt, data := List.replicate (4 * x.e) 0 }] }
      ∧ BytesSame (s.tile t) (s'.tile t) ∧ TileFrame t s s')
    ∧ (o.done = true → o.code = 0 → o.pend = false → Answers (.routeComplete t) s fun s' => (s'.tile t).route = none
      ∧ s'.fld (trsPage t) 0x120 0 1 = 0 ∧ BytesSame (o.writes.foldl (fun ti w => ti.write w.rf w.addr w.data) (s.tile t)) (s'.tile t)
      ∧ (∀ k, (s'.tile t).tok k = (s.tile t).tok k
          + (if o.cmd.getLsbD 9 = true ∧ k = o.cmd.toNat / 2 ^ 10 % 2 ^ 5 ∧ (s.tile t).tok k < 0xFFFF then 1 else 0))
      ∧ (∀ i, (s'.tile t).reg i = (s.tile t).reg i) ∧ TileFrame t s s')

/-- JOB_GO, SBD_JOB_START and SBD_JOB_COMPLETE (R190, R193, R199, R212): a start joins the queue's end, the oldest job runs, a descriptor that is
not aligned is refused with 0x080, one in tray memory is fetched first, and a finished job's outputs become visible.
Where the rules leave a choice it is the model's (log entry 19). -/
def Obligations.SideboardJobs : Prop :=
  ∀ (s : State), Awake s →
    (∀ (a : Access) (addr : Word) (ctx : Fin 256), a.source = .bureau → Answers (.jobGo a addr ctx) s fun s' =>
      s'.sbd.queue ++ s'.sbd.waiting = s.sbd.queue ++ s.sbd.waiting ++ [{ addr := addr.toNat, ctx := ctx }] ∧ s'.sbd.running = s.sbd.running
      ∧ (s.sbdAdmits = true → s.sbd.waiting = [] → s.sbd.queue.length < s.qMax → s'.sbd.waiting = [])
      ∧ TilesSame s s' ∧ MemSame s s' ∧ s'.fab = s.fab ∧ s'.key = s.key ∧ s'.upe = s.upe ∧ s'.cle = s.cle)
    ∧ (∀ (q : SbdJob) (rest : List SbdJob), s.sbd.running = none → s.sbdAdmits = true → s.sbd.queue = q :: rest → s.sbd.waiting = [] →
      q.ctx ∉ s.upe.halted →
      (q.addr % 32 ≠ 0 → Answers (.sbdJobStart .clean) s fun s' => s'.sbd.queue = rest
        ∧ (∃ j, s'.sbd.running = some j ∧ j.job = q ∧ j.code = 0x080 ∧ j.phase = 3) ∧ Reported (sbdPage 0) 2 0x080 s s' ∧ TilesSame s s' ∧ MemSame s s')
      ∧ (∀ (g : Seg) (m off : Nat), q.addr % 32 = 0 → (s.reach 0 (some q.ctx) q.addr 144 false).1 = .ok [g] → g.len = 144 →
        s.trayOf g = some (m, off) → s.fab.unsent = [] → s.cached (s.trayFlow q.ctx m) = none →
        Answers (.sbdJobStart .clean) s fun s' => s'.sbd.queue = rest ∧ (∃ j, s'.sbd.running = some j ∧ j.job = q ∧ j.code = 0 ∧ j.phase = 1 ∧ j.left = 1)
        ∧ (∃ r, s'.fab.unsent = [{ req := r }] ∧ r.pop = 2 ∧ r.flow = s.trayFlow q.ctx m ∧ r.ctx = q.ctx ∧ r.owner = .sbd ∧ r.len = 4
          ∧ r.w2.toNat = off % 2 ^ 48)
        ∧ TilesSame s s' ∧ MemSame s s'))
    ∧ (∀ (j : SbdRun) (busyNs : Nat), s.sbd.running = some j → j.phase = 3 → j.left = 0 → j.done = none → j.fatal = false →
      (j.code = 0 → (∀ w, (s.mem.writes.filter fun w => decide (w.id = sbdMem)) = [w] → Answers (.sbdJobComplete busyNs) s fun s' =>
        s'.sbd.running = none ∧ Raised (sbdPage 0) 4 s' ∧ TilesSame s s'
        ∧ ∀ a, s'.mem.byte a = if w.addr ≤ a ∧ a < w.addr + w.data.length then w.data.getD (a - w.addr) 0 else s.mem.byte a))
      ∧ (j.code ≠ 0 → Answers (.sbdJobComplete busyNs) s fun s' => s'.sbd.running = none ∧ Raised (sbdPage 0) 5 s' ∧ TilesSame s s' ∧ MemSame s s'
        ∧ ((s.commit j.job.ctx).voted = false → (s'.commit j.job.ctx).refused = (s.commit j.job.ctx).refused + 1)))

/-- The Bureau, which acts as the provider, writes a word of page n: the package works and the page's domain is on (R27, R28, R30). -/
def Sys2Proof.Spec.ByBureau (s : State) (a : Access) (n : Nat) : Prop :=
  Awake s ∧ a.source = .bureau ∧ (n < 1728 → s.pkg.powered.getLsbD (quadOf (n / 9)) = true)
/-- Every word of every page but the one at offset o of page n is as before. -/
def Sys2Proof.Spec.OtherWords (n o : Nat) (s s' : State) : Prop := ∀ m p, m ≠ n ∨ p / 8 ≠ o / 8 → s'.raw m p = s.raw m p
/-- A write of page n is rejected: the sticky bit and the event, with the offset of the first rejection (R39). -/
def Sys2Proof.Spec.Rejected (n o : Nat) (s s' : State) : Prop :=
  (s'.page n).writeRejected = true ∧ Raised n 1 s' ∧ ((s.page n).writeRejected = false → (s'.page n).rejectWord.toNat = o / 8)
/-- The bits of the word at offset o of page n that hold fields of a class (R38). -/
def Sys2Proof.Spec.ofClass (n o : Nat) (c : Acc) : Word := classMask n o fun x => decide (x = c)

/-- ENABLE_WRITE, QUIESCE, BLOCK_RESET, CNT_CLEAR, ERR_FIRST_CLEAR, ERR_COUNT_READ and P_MAX_READ (R36, R40, R41, R418, R437) by the provider: what
each changes of its page, and that a reset of a block that is not quiesced is rejected.
Where the rules leave a choice it is the model's (log entries 12 and 15). -/
def Obligations.PageControls : Prop :=
  ∀ (s : State) (a : Access) (n : Fin 1781), ByBureau s a n →
    (Answers (.enableWrite a n false) s fun s' => s'.enabled n = false ∧ { s'.page n with words := (s.page n).words } = s.page n
      ∧ OtherWords n 0x010 s s' ∧ OtherPages n s s' ∧ PageFrame s s')
    ∧ ((s.page n).heldGo = false → (s.page n).readyFlows = [] → s.fab.unsent = [] → s.fab.held = [] → Answers (.enableWrite a n true) s fun s' =>
      s'.admits n = true ∧ OtherPages n s s' ∧ OtherWords n 0x010 s s' ∧ MemSame s s' ∧ (blockOf n ≠ .seq → TilesSame s s')
      ∧ (blockOf n = .seq → s.key.switch = none → (s'.tile (n / 9)).stopped = false ∧ (s'.tile (n / 9)).pc = (s.tile (n / 9)).pc
        ∧ (s'.tile (n / 9)).seq = (s.tile (n / 9)).seq))
    ∧ (blockOf n ≠ .seq → (s.page n).quiesced = false → s.busy n = true → Answers (.quiesce a n) s fun s' =>
      s'.page n = { s.page n with quiesceBit := true, quiescing := true } ∧ s'.admits n = false ∧ OtherPages n s s' ∧ PageFrame s s')
    ∧ (blockOf n ≠ .seq → (s.page n).quiesced = false → s.busy n = false → Answers (.quiesce a n) s fun s' =>
      (s'.page n).quiesced = true ∧ (s'.page n).quiescing = false ∧ Raised n 3 s' ∧ s'.admits n = false ∧ PageFrame s s')
    ∧ (blockOf n = .seq → (s.page n).quiesced = false → Answers (.quiesce a n) s fun s' =>
      (s'.page n).quiesced = true ∧ Raised n 3 s' ∧ OtherTiles (n / 9) s s' ∧ (s'.tile (n / 9)).pc = (s.tile (n / 9)).pc
      ∧ (s'.tile (n / 9)).seq = (s.tile (n / 9)).seq ∧ ((s.tile (n / 9)).seq = .running ∨ (s.tile (n / 9)).seq = .waiting → (s'.tile (n / 9)).stopped = true)
      ∧ (∀ r, (s'.tile (n / 9)).reg r = (s.tile (n / 9)).reg r) ∧ MemSame s s')
    ∧ ((s.page n).quiesced = false → Answers (.blockReset a n) s fun s' => Rejected n 0x010 s s' ∧ WordsSame s s' ∧ (s'.page n).epoch = (s.page n).epoch
      ∧ PageFrame s s')
    ∧ ((s.page n).quiesced = true → Answers (.blockReset a n) s fun s' => (s'.page n).epoch = (s.page n).epoch + 1
      ∧ (blockOf n ≠ .rtr → blockOf n ≠ .msc → blockOf n ≠ .pwr → blockOf n ≠ .hen →
        (∀ o, o % 8 = 0 → s'.raw n o &&& (ofClass n o .rw ||| ofClass n o .rws ||| ofClass n o .rwl)
          = resetWord n o &&& (ofClass n o .rw ||| ofClass n o .rws ||| ofClass n o .rwl))
        ∧ (s'.page n).cause = 0 ∧ (s'.page n).quiesceBit = false ∧ (s'.page n).quiescing = false ∧ (s'.page n).quiesced = false
        ∧ s'.enabled n = false ∧ (s'.page n).pendMask = [] ∧ (s'.page n).err = (s.page n).err ∧ (s'.page n).errCount = (s.page n).errCount
        ∧ (s'.page n).counts = (s.page n).counts ∧ OtherPages n s s' ∧ MemSame s s' ∧ BaseSame s s' ∧ OtherTiles (n / 9) s s')
      ∧ (blockOf n = .mxe → s'.tile (n / 9) = { s.tile (n / 9) with chk0 := {}, chk1 := {} })
      ∧ (blockOf n = .vxe → s'.tile (n / 9) = { s.tile (n / 9) with slots := [] })
      ∧ (blockOf n = .fts → (s'.tile (n / 9)).sel = {})
      ∧ (blockOf n = .fts ∨ blockOf n = .trs → ∀ o, 0x100 ≤ o → o < 0xC00 → o % 8 = 0 → s'.raw n o = resetWord n o))
    ∧ (Answers (.cntClear a n) s fun s' =>
      (∀ v i, i < 128 → Tab.get 0 (s'.page n).counts (v * 128 + i)
        = if v = min 256 ((s.raw n 0x010).toNat / 2 ^ 8 % 2 ^ 9) then 0 else Tab.get 0 (s.page n).counts (v * 128 + i))
      ∧ { s'.page n with counts := (s.page n).counts } = s.page n ∧ OtherPages n s s' ∧ PageFrame s s')
    ∧ (Answers (.errFirstClear a n) s fun s' => (s'.page n).err.valid = false ∧ { s'.page n with err := (s.page n).err } = s.page n
      ∧ OtherPages n s s' ∧ PageFrame s s')
    ∧ (Answers (.errCountRead a n) s fun s' => (s'.page n).errCount = 0 ∧ { s'.page n with errCount := (s.page n).errCount } = s.page n
      ∧ OtherPages n s s' ∧ PageFrame s s')
    ∧ (Answers (.pMaxRead a) s fun s' => (s'.raw pwrPage 0x118).toNat / 2 ^ 16 % 2 ^ 12 = 0
      ∧ (∀ i, i < 16 ∨ 28 ≤ i → (s'.raw pwrPage 0x118).getLsbD i = (s.raw pwrPage 0x118).getLsbD i)
      ∧ OtherWords pwrPage 0x118 s s' ∧ OtherPages pwrPage s s' ∧ PageFrame s s')

/-- REGISTER_WRITE (R30, R38, R39, R108) on the pages whose words do nothing beyond holding their fields. Live fields take effect at once, a
locked one is rejected and a staged one held while the block is busy; a context's write of a page that is not its own changes no
word of any page: it is a Contained error of the host port, of a code that no rule names, or 0x016 on a tile's SEQ page.
Where the rules leave a choice it is the model's (log entries 5 and 15). -/
def Obligations.FieldWrites : Prop :=
  ∀ (s : State) (a : Access) (addr val : Word) (n o : Nat), n < 1781 → o % 8 = 0 → o < 0xC00 → o = 0x028 ∨ 0x100 ≤ o → addr.toNat = pageAddr n o →
    (blockOf n ∈ [.lde, .mxe, .vxe, .ste, .xce, .tmon, .thm, .tel] → ByBureau s a n →
      (s.busy n = false → Answers (.registerWrite a addr val) s fun s' =>
        s'.raw n o = ((s.raw n o &&& ~~~(ofClass n o .rw ||| ofClass n o .rwl ||| ofClass n o .rws))
          ||| (val &&& (ofClass n o .rw ||| ofClass n o .rwl ||| ofClass n o .rws))) &&& ~~~(val &&& ofClass n o .w1c)
        ∧ Tab.get 0 (s'.page n).pendMask (o / 8) &&& ofClass n o .rws = 0 ∧ (s'.page n).writeRejected = (s.page n).writeRejected
        ∧ OtherWords n o s s' ∧ OtherPages n s s' ∧ PageFrame s s')
      ∧ (s.busy n = true → Answers (.registerWrite a addr val) s fun s' =>
        s'.raw n o = ((s.raw n o &&& ~~~ofClass n o .rw) ||| (val &&& ofClass n o .rw)) &&& ~~~(val &&& ofClass n o .w1c)
        ∧ Tab.get 0 (s'.page n).pendMask (o / 8) &&& ofClass n o .rws = ofClass n o .rws
        ∧ Tab.get 0 (s'.page n).pend (o / 8) &&& ofClass n o .rws = val &&& ofClass n o .rws
        ∧ (ofClass n o .rwl ≠ 0 → Rejected n o s s') ∧ OtherWords n o s s' ∧ PageFrame s s'))
    ∧ (∀ c, s.roleOf a = some c → s.ownsPage c n = false →
      (∀ q : Fin 2, a.source = (if q = 0 then .host0 else .host1) → s.reaches a = true → Answers (.registerWrite a addr val) s fun s' =>
        WordsSame s s' ∧ PageFrame s s' ∧ ∃ code, code < 2 ^ 12 ∧ Reported (henPage q) 2 code s s'
          ∧ ((s.page (henPage q)).err.valid = false → (s'.page (henPage q)).err.contextValid = true ∧ (s'.page (henPage q)).err.context.toNat = c))
      ∧ ∀ t, a.source = .tile t → s.tileRuns t = true → Answers (.registerWrite a addr val) s fun s' =>
        Reported (seqPage t) 2 0x016 s s' ∧ WordsSame s s' ∧ PageFrame s s')

/-- RT_BASE, UPE_COMMIT, UPE_ROLLBACK and C_LOAD (R225, R227, R237) by the provider. A write of the base reads every ring of the stack; a commit adds
1 to C and returns the context's rings to job 0, but is rejected while a job of the context runs; a rollback keeps C, returns the rings to job 0 and
zeroes their READY words. -/
def Sys2Proof.Spec.RingTables : Prop :=
  ∀ (s : State) (a : Access) (st : Fin 4) (c : Fin 256), ByBureau s a (upePage st) →
    (∀ base : BitVec 52, s.busy (upePage st) = false →
      (base.toNat + 32768 ≤ hbmBytes → Answers (.rtBase a st base) s fun s' => (s'.raw (upePage st) 0x100).toNat % 2 ^ 52 = base.toNat
        ∧ (∀ c r, c < 256 → r < 8 → r % 4 = st → ∀ e, e = ringOfEntry (s.peek (base.toNat + 16 * (8 * c + r)) 16) →
          (s'.ring c r).base = e.base ∧ (s'.ring c r).jobs = e.jobs ∧ (s'.ring c r).en = e.en ∧ (s'.ring c r).bad = e.bad
          ∧ ((s.ring c r).base = e.base → (s.ring c r).jobs = e.jobs → (s.ring c r).en = e.en → (s.ring c r).bad = false → e.bad = false →
            s'.ring c r = s.ring c r))
        ∧ (∀ c r, r < 8 → r % 4 ≠ st → s'.ring c r = s.ring c r) ∧ TilesSame s s' ∧ MemSame s s')
      ∧ (hbmBytes < base.toNat + 32768 → Answers (.rtBase a st base) s fun s' => (s'.page (upePage st)).err.valid = true
        ∧ (∀ c r, c < 256 → r < 8 → r % 4 = st → s'.ring c r = {}) ∧ TilesSame s s' ∧ MemSame s s'))
    ∧ (s.upeBusyFor st c = false → Answers (.upeCommit a st c) s fun s' =>
      (∀ k, Tab.get 0 s'.upe.c k = if k = st * 256 + c then Tab.get 0 s.upe.c k + 1 else Tab.get 0 s.upe.c k)
      ∧ (∀ r, r < 8 → r % 4 = st → (s'.ring c r).pos = 0 ∧ (s'.ring c r).head = none) ∧ TilesSame s s' ∧ MemSame s s')
    ∧ (s.upeBusyFor st c = true → Answers (.upeCommit a st c) s fun s' => Rejected (upePage st) 0x118 s s' ∧ s'.upe = s.upe ∧ TilesSame s s' ∧ MemSame s s')
    ∧ (s.upeBusyFor st c = true → Answers (.upeRollback a st c) s fun s' => Rejected (upePage st) 0x118 s s' ∧ s'.upe = s.upe ∧ TilesSame s s' ∧ MemSame s s')
    ∧ (s.upeBusyFor st c = false → (∀ r, r < 8 → r % 4 = st → (s.ring c r).en = false ∨ (s.ring c r).bad = true) → Answers (.upeRollback a st c) s fun s' =>
      s'.upe.c = s.upe.c ∧ (∀ r, r < 8 → r % 4 = st → (s'.ring c r).pos = 0 ∧ (s'.ring c r).head = none) ∧ TilesSame s s' ∧ MemSame s s')
    ∧ (∀ (p : Nat) (g : Seg), s.upeBusyFor st c = false → (s.ring c st).en = true → (s.ring c st).bad = false → (s.ring c st).jobs = 1 →
      (s.ring c (st + 4)).en = false → (s.reach st (some c) ((s.ring c st).base.toNat + 64) 4 true).1 = .ok [g] → s.localOf g = some p → g.len = 4 →
      s.fab.unsent = [] → s.mem.writes = [] → Answers (.upeRollback a st c) s fun s' => s'.upe.c = s.upe.c ∧ (s'.ring c st).pos = 0
      ∧ (∀ x, s'.mem.byte x = if p ≤ x ∧ x < p + 4 then 0 else s.mem.byte x) ∧ TilesSame s s')
    ∧ (∀ v : Word, Answers (.cLoad a st c v) s fun s' => (∀ k, Tab.get 0 s'.upe.c k = if k = st * 256 + c then v else Tab.get 0 s.upe.c k)
      ∧ s'.upe.rings = s.upe.rings ∧ s'.upe.run = s.upe.run ∧ TilesSame s s' ∧ MemSame s s' ∧ s'.fab = s.fab ∧ s'.cle = s.cle ∧ s'.key = s.key ∧ s'.bur = s.bur)

/-- PT_BASE, CLE_COMMIT, CLE_ROLLBACK, ATTEMPT_WRITE and TLC_INVAL_ALL (R298, R299, R311) by the provider. -/
def Sys2Proof.Spec.PlanTables : Prop :=
  ∀ (s : State) (a : Access) (st : Fin 4) (c : Fin 256), ByBureau s a (clePage st) →
    (∀ base : BitVec 52, s.busy (clePage st) = false →
      (base.toNat + 32768 ≤ hbmBytes → Answers (.ptBase a st base) s fun s' => (s'.raw (clePage st) 0x100).toNat % 2 ^ 52 = base.toNat
        ∧ (∀ c q, c < 256 → q < 8 → q % 4 = st → ∀ ws, ws = wordsOf 16 (s.peek (base.toNat + 128 * c) 128) →
          (s'.cleQ c q).base.toNat = (ws.getD (2 + q) 0).toNat % 2 ^ 48 ∧ (s'.cleQ c q).steps.toNat = (ws.getD (2 + q) 0).toNat / 2 ^ 48
          ∧ (s'.cleQ c q).bad = planBad ws)
        ∧ (∀ c q, q < 8 → q % 4 ≠ st → s'.cleQ c q = s.cleQ c q) ∧ TilesSame s s' ∧ MemSame s s')
      ∧ (hbmBytes < base.toNat + 32768 → Answers (.ptBase a st base) s fun s' => (s'.page (clePage st)).err.valid = true
        ∧ (∀ c q, c < 256 → q < 8 → q % 4 = st → s'.cleQ c q = {}) ∧ TilesSame s s' ∧ MemSame s s'))
    ∧ (s.cleBusyFor st c = false → Answers (.cleCommit a st c) s fun s' => (∀ q, q < 8 → q % 4 = st → (s'.cleQ c q).pos = 0) ∧ s'.cle.runs = s.cle.runs
      ∧ s'.cle.attempt = s.cle.attempt ∧ TilesSame s s' ∧ MemSame s s')
    ∧ (s.cleBusyFor st c = true → Answers (.cleCommit a st c) s fun s' => Rejected (clePage st) 0x118 s s' ∧ s'.cle = s.cle ∧ TilesSame s s' ∧ MemSame s s')
    ∧ ((∀ q, q < 8 → q % 4 = st → (s.cleQ c q).bad = true ∨ (s.cleQ c q).steps = 0) → Answers (.cleRollback a st c) s fun s' =>
      (∀ q, q < 8 → q % 4 = st → (s'.cleQ c q).pos = 0) ∧ s'.cleBusyFor st c = false
      ∧ (∀ k, Tab.get 0 s'.cle.attempt k = if k = st * 256 + c then Tab.get 0 s.cle.attempt k + 1 else Tab.get 0 s.cle.attempt k) ∧ TilesSame s s' ∧ MemSame s s')
    ∧ (∀ v : Byte, Answers (.attemptWrite a st c v) s fun s' =>
      (∀ k, Tab.get 0 s'.cle.attempt k = if k = st * 256 + c then v else Tab.get 0 s.cle.attempt k) ∧ s'.cle.queues = s.cle.queues ∧ s'.cle.runs = s.cle.runs
      ∧ TilesSame s s' ∧ MemSame s s' ∧ s'.fab = s.fab ∧ s'.upe = s.upe ∧ s'.key = s.key ∧ s'.bur = s.bur)
    ∧ (Answers (.tlcInvalAll a st) s fun s' => (∀ e, e ∈ s'.mem.tlc ↔ e ∈ s.mem.tlc ∧ e.1 / 2 ^ 40 / 256 ≠ st)
      ∧ { s'.mem with tlc := s.mem.tlc } = s.mem ∧ (∀ n, s'.page n = s.page n) ∧ TilesSame s s' ∧ s'.fab = s.fab ∧ s'.cle = s.cle)

/-- The ring tables of the UPE and the plan tables of the CLE (R225 to R237, R298 to R311).
Where the rules leave a choice it is the model's (log entries 20 and 22). -/
def Obligations.Tables : Prop := Spec.RingTables ∧ Spec.PlanTables

/-- The words of the 256-byte descriptor whose first byte is local byte p. -/
def Sys2Proof.Spec.descAt (s : State) (p : Nat) : List Word := wordsOf 32 (s.mem.bytes p 256)
/-- Ring r of context c has gone on to its next job, and nothing else of it changed. -/
def Sys2Proof.Spec.NextJob (s s' : State) (c r : Nat) : Prop := s'.ring c r = { s.ring c r with pos := (s.ring c r).pos + 1, head := none }
/-- The range of n bytes at va is one piece of local memory, at physical address p, for a unit of stack st and context c. -/
def Sys2Proof.Spec.LocalAt (s : State) (st c va n : Nat) (write : Bool) (p : Nat) : Prop :=
  ∃ g, (s.reach st (some c) va n write).1 = .ok [g] ∧ s.localOf g = some p ∧ g.len = n ∧ s.segsHeld [g] = false

/-- UPE_JOB_HEAD, UPE_JOB_START and UPE_JOB_COMPLETE (R226, R229 to R233, R235) on jobs whose words and streams lie in local memory. A head is
refused for its PHASE, skipped for its interval, and else waits for its READY word; one that ends waits where the controller of its READY
or DONE word does not admit (R41, R256; log entry 15). A released one with a bad descriptor is refused, and one with
one input and one output computes it and keeps it until the job completes. A finished one has its output, READY = 0 and the DONE word written.
Where the rules leave a choice, and where a command's condition does not hold, it is the model's (log entries 1 and 20). -/
def Obligations.UpdateJobs : Prop :=
  ∀ (s : State) (st : Fin 4) (c : Fin 256) (r : Fin 8) (p q : Nat), Awake s → r.val % 4 = st.val → s.upeHeld st c = false → (s.ring c r).live = true →
    LocalAt s st c (s.ring c r).at 256 false p → LocalAt s st c ((s.ring c r).at + 64) 4 true q → s.fab.unsent = [] →
    ∀ (w : Nat → Word), (∀ i, w i = (descAt s p).getD i 0) →
    ((s.ring c r).head = none → s.mem.writes = [] →
      (s.headHeld st c r (wordsOf 4 (s.mem.bytes p 256)) = true → Answers (.upeJobHead st c r) s fun s' => s' = s)
      ∧ (s.endHeld st c ((s.ring c r).at + 64) (w 3).toNat = false → max 1 ((w 0).toNat / 2 ^ 32 % 2 ^ 16) ≤ (w 0).toNat / 2 ^ 48 → Answers (.upeJobHead st c r) s fun s' =>
        NextJob s s' c r ∧ Raised (upePage st) 4 s' ∧ (s'.page (upePage st)).err.valid = true ∧ TilesSame s s')
      ∧ (w 3 = 0 → (w 0).toNat / 2 ^ 48 < max 1 ((w 0).toNat / 2 ^ 32 % 2 ^ 16) →
        (s.stepOf c st).toNat % max 1 ((w 0).toNat / 2 ^ 32 % 2 ^ 16) ≠ (w 0).toNat / 2 ^ 48 → Answers (.upeJobHead st c r) s fun s' =>
        NextJob s s' c r ∧ (s'.page (upePage st)).err = (s.page (upePage st)).err ∧ TilesSame s s'
        ∧ ∀ a, s'.mem.byte a = if q ≤ a ∧ a < q + 4 then 0 else s.mem.byte a)
      ∧ ((w 0).toNat / 2 ^ 48 < max 1 ((w 0).toNat / 2 ^ 32 % 2 ^ 16) →
        (s.stepOf c st).toNat % max 1 ((w 0).toNat / 2 ^ 32 % 2 ^ 16) = (w 0).toNat / 2 ^ 48 → Answers (.upeJobHead st c r) s fun s' =>
        s'.ring c r = { s.ring c r with head := some ((w 0).toNat / 2 ^ 16 % 2 ^ 16), headAt := s.time } ∧ TilesSame s s' ∧ MemSame s s'))
    ∧ (∀ heldNs, s.upeRun st = none → (s.ring c r).head = some ((w 8).toNat % 2 ^ 32) → w 3 = 0 → s.mem.writes = [] →
      inTurn (Tab.get 0 s.upe.turn st / 32) (Tab.get 0 s.upe.turn st % 32) (s.released st) = some (ringKey c r) →
      (upeBadWords (descAt s p) = true → Answers (.upeJobStart st c r heldNs .clean) s fun s' =>
        s'.upeRun st = none ∧ NextJob s s' c r ∧ Raised (upePage st) 4 s' ∧ (s'.page (upePage st)).err.valid = true ∧ TilesSame s s'
        ∧ ∀ a, s'.mem.byte a = if q ≤ a ∧ a < q + 4 then 0 else s.mem.byte a)
      ∧ (∀ (plen pp pi po : Nat) (prog : List EIns) (x y : UStream), upeBadWords (descAt s p) = false → plen = (w 0).toNat % 2 ^ 6 → 0 < plen →
        LocalAt s st c (w 2).toNat (8 * plen) false pp → prog = (wordsOf plen (s.mem.bytes pp (8 * plen))).map einsOf →
        (prog.findIdx? fun i => !i.upeLegal) = none → progKinds prog false = [] → (w 0).getLsbD 7 = false → (w 0).toNat / 2 ^ 8 % 2 ^ 2 = 0 →
        upeStreams (descAt s p) (Tab.get 0 s.upe.c (st * 256 + c)).toNat prog = [x, y] → x.k < 6 → 6 ≤ y.k →
        (∀ z, z = x ∨ z = y → z.bad (max 1 ((w 0).toNat / 2 ^ 32 % 2 ^ 16)) ((w 0).toNat / 2 ^ 48) = false) →
        LocalAt s st c x.addr (x.bytes ((w 1).toNat % 2 ^ 32)) false pi → LocalAt s st c y.addr (y.bytes ((w 1).toNat % 2 ^ 32)) true po →
        (s.reach st (some c) (w 6).toNat 0 false).1 = .ok [] → Answers (.upeJobStart st c r heldNs .clean) s fun s' =>
        (∃ j, s'.upeRun st = some j ∧ j.ctx = c ∧ j.ring = r ∧ j.phase = 4 ∧ j.left = 0 ∧ j.code = 0 ∧ j.sum = none ∧ j.elems = (w 1).toNat % 2 ^ 32
          ∧ j.words = descAt s p)
        ∧ (∃ m, s'.mem.writes = [m] ∧ m.addr = po ∧ m.data = ((upeRows s.draws (descAt s p) prog [x, y] [s.mem.bytes pi (x.bytes ((w 1).toNat % 2 ^ 32))]
            [(w 6).toNat % 2 ^ 32, (w 6).toNat / 2 ^ 32, (w 7).toNat % 2 ^ 32, (w 7).toNat / 2 ^ 32] (s.stepOf c st) ((w 1).toNat % 2 ^ 32)
            (((w 1).toNat % 2 ^ 32 + 255) / 256)).out.getD (y.k - 6) []).take (y.bytes ((w 1).toNat % 2 ^ 32)))
        ∧ s'.ring c r = s.ring c r ∧ MemSame s s' ∧ TilesSame s s'))
    ∧ (∀ (j : UpeRun) (m : MWrite) (busyNs : Nat), s.upeRun st = some j → j.phase = 4 → j.left = 0 → j.sum = none → j.ctx = c.val → j.ring = r.val →
      s.mem.writes = [m] → m.id = upeMem st →
      s.endHeld st c ((s.ring c r).at + 64) (j.words.getD 3 0).toNat = false → LocalAt (s.flushWrites (some c) (upeMem st)) st c ((s.ring c r).at + 64) 4 true q →
      (j.words.getD 3 0 = 0 → Answers (.upeJobComplete st busyNs) s fun s' => s'.upeRun st = none ∧ NextJob s s' c r ∧ TilesSame s s' ∧ s'.mem.writes = []
        ∧ ∀ a, s'.mem.byte a = if q ≤ a ∧ a < q + 4 then 0 else if m.addr ≤ a ∧ a < m.addr + m.data.length then m.data.getD (a - m.addr) 0 else s.mem.byte a)
      ∧ (∀ d, (j.words.getD 3 0).toNat ≠ 0 → (j.words.getD 3 0).toNat % 8 = 0 → 
        LocalAt ((s.flushWrites (some c) (upeMem st)).storeAny st c (upePage st) ((s.ring c r).at + 64) 0 (toBytes 4 0)).2 st c (j.words.getD 3 0).toNat 8 true d →
        (∀ a, m.addr ≤ a → a < m.addr + m.data.length → ¬ (q ≤ a ∧ a < q + 4) ∧ ¬ (d ≤ a ∧ a < d + 8)) →
        Answers (.upeJobComplete st busyNs) s fun s' => s'.upeRun st = none ∧ NextJob s s' c r
        ∧ s'.mem.bytes d 8 = toBytes 8 (j.status + waitBucket j.heldNs * 2 ^ 2 + j.sev * 2 ^ 6 + j.code * 2 ^ 12)
        ∧ (∀ a, m.addr ≤ a → a < m.addr + m.data.length → s'.mem.byte a = m.data.getD (a - m.addr) 0)))

/-- A step of context c on queue q of a stack runs; nothing waits to be sent or written, and its digests are off. -/
def Sys2Proof.Spec.StepRuns (s : State) (st c q : Nat) (j : CleRun) : Prop :=
  Awake s ∧ s.cleRun st c q = some j ∧ j.phase = 0 ∧ j.gather = 0 ∧ s.fab.unsent = [] ∧ s.mem.writes = [] ∧ Tab.get 0 s.cle.dbase (st * 256 + c) = 0
/-- One COLL packet waits for its sequence number: flow, destination, count word, chunk and data, filled up to whole units (R301, R302). -/
def Sys2Proof.Spec.OneColl (s s' : State) (st c : Nat) (x : StepF) (flow tva cntva chunk : Nat) (d : List Byte) (cntOnly : Bool) : Prop :=
  ∃ r pad, s'.fab.unsent = [{ req := r }] ∧ r.pop = 10 ∧ r.flow = flow ∧ r.ctx = c ∧ r.w2 = BitVec.ofNat 64 (tva % 2 ^ 48 + x.rtype * 2 ^ 52)
    ∧ r.arg = collHead cntva x.tag x.slot chunk (s.cstep st c) (s.attemptOf c st) (crc32c d).toNat false cntOnly ++ d ++ pad
    ∧ pad.length < 32 ∧ (d.length + pad.length) % 32 = 0

/-- CLE_STEP_START and CLE_STEP_COMPLETE (R299, R300, R307, R308) on steps whose words lie in local memory: a step is refused for its PHASE, skipped
for its interval, or started with its words copied; one that has nothing left sets READY to 0, takes its actions and goes, a PERM after telling its
group.
Where the rules leave a choice it is the model's (log entry 22). -/
def Obligations.CollectiveStepEnds : Prop :=
  ∀ (s : State) (st : Fin 4) (c : Fin 256) (k : Fin 8) (p q : Nat), Awake s → k.val % 4 = st.val → s.cleHeld st c = false → (s.cleQ c k).live = true →
    LocalAt s st c ((s.cleQ c k).at + 16) 4 true q → s.fab.unsent = [] → s.mem.writes = [] →
    (∀ (heldNs : Nat) (x : StepF), LocalAt s st c (s.cleQ c k).at 128 false p → s.cleRun st c k = none →
      (s.cle.runs.filter fun j => decide (j.stack = st.val)).length < s.maxSteps st →
      x = stepFields (wordsOf 16 (s.mem.bytes p 128)) → x.done = 0 → x.release = 0 → x.notify = false → x.sbjob = 0 →
      (x.interval ≤ x.phase → Answers (.cleStepStart st c k heldNs) s fun s' => (s'.cleQ c k).pos = (s.cleQ c k).pos + 1 ∧ Raised (clePage st) 4 s'
        ∧ (s'.page (clePage st)).err.valid = true ∧ s'.cleRun st c k = none ∧ TilesSame s s'
        ∧ ∀ a, s'.mem.byte a = if q ≤ a ∧ a < q + 4 then 0 else s.mem.byte a)
      ∧ (x.phase < x.interval → (s.stepOf c st).toNat % x.interval ≠ x.phase → Answers (.cleStepStart st c k heldNs) s fun s' =>
        (s'.cleQ c k).pos = (s.cleQ c k).pos + 1 ∧ (s'.page (clePage st)).err = (s.page (clePage st)).err ∧ s'.cleRun st c k = none ∧ TilesSame s s'
        ∧ ∀ a, s'.mem.byte a = if q ≤ a ∧ a < q + 4 then 0 else s.mem.byte a)
      ∧ (∀ ri wi, x.phase < x.interval → (s.stepOf c st).toNat % x.interval = x.phase → x.nready = x.ready →
        inTurn (Tab.get 0 s.cle.turn st) 0 (s.cleReleased st) = some (ringKey c k) → stepBad (wordsOf 16 (s.mem.bytes p 128)) x = false →
        (s.reachAll st (some c) false x.reads).1 = .inr ri → (s.reachAll st (some c) true x.writes).1 = .inr wi →
        (x.writes.any fun v => s.vaHeld st c v.1 v.2 true) = false → (x.op = 1 → s.cleFlowOk c x.flow = true) → Answers (.cleStepStart st c k heldNs) s fun s' =>
        (∃ j, s'.cle.runs = s.cle.runs ++ [j] ∧ j.stack = st.val ∧ j.ctx = c.val ∧ j.q = k.val ∧ j.words = wordsOf 16 (s.mem.bytes p 128) ∧ j.begun = false
          ∧ j.phase = 0 ∧ j.code = 0)
        ∧ s'.cle.queues = s.cle.queues ∧ MemSame s s' ∧ TilesSame s s' ∧ s'.fab = s.fab))
    ∧ (∀ (j : CleRun) (busyNs : Nat), s.cleRun st.val c.val k.val = some j → j.begun = true → j.left = 0 → j.todo = [] → j.f.done = 0 → j.f.release = 0 →
      j.f.notify = false →
      (j.cntTo = [] → Answers (.cleStepComplete st c k busyNs) s fun s' => (s'.cleQ c k).pos = (s.cleQ c k).pos + 1 ∧ s'.cleRun st c k = none
        ∧ (s'.sbd.queue ++ s'.sbd.waiting = s.sbd.queue ++ s.sbd.waiting ++ if j.f.sbjob = 0 then [] else [{ addr := j.f.sbjob, ctx := c }])
        ∧ (∀ a, s'.mem.byte a = if q ≤ a ∧ a < q + 4 then 0 else s.mem.byte a) ∧ TilesSame s s')
      ∧ (∀ m own, j.cntTo = [m] → s.ownMember j.f = some own → Tab.get 0 s.cle.dbase (st * 256 + c) = 0 → s.cached (j.f.flow + m) = none →
        Answers (.cleStepComplete st c k busyNs) s fun s' =>
        OneColl s s' st c j.f (j.f.flow + m) (j.f.cnt + 4 * own) (j.f.cnt + 4 * own) 0 [] true
        ∧ s'.cleRun st c k = some { j with cntTo := [], left := 1 } ∧ s'.cleQ c k = s.cleQ c k ∧ MemSame s s' ∧ TilesSame s s'))

/-- XFER, XFER_CHUNK, CLE_ADD and ADD_CHUNK (R301 to R303) on local data: a chunk leaves as one COLL packet of converted data, at once or when its count
word has reached LNEED, and a chunk whose NIN contributions have arrived is merged, written and counted.
Where the rules leave a choice, and where a command's condition does not hold, it is the model's (log entries 1 and 22). -/
def Obligations.TransfersAndAdds : Prop :=
  ∀ (s : State) (st : Fin 4) (c : Fin 256) (k : Fin 8) (j : CleRun) (x : StepF), StepRuns s st c k j → x = j.f →
    (x.op = 1 → j.begun = false → x.lneed ≠ 0 → Answers (.xfer st c k .clean) s fun s' =>
      s'.cleRun st c k = some { j with begun := true, todo := List.range x.chunks } ∧ s'.fab = s.fab ∧ s'.mem = s.mem ∧ TilesSame s s')
    ∧ (∀ p, x.op = 1 → j.begun = false → x.lneed = 0 → x.chunks = 1 → x.zero = false → s.cached x.flow = none →
      LocalAt s st c x.src (x.chunkLen 0 * x.local) false p → Answers (.xfer st c k .clean) s fun s' =>
      OneColl s s' st c x x.flow x.dst x.cnt 0 (x.convert (s.mem.bytes p (x.chunkLen 0 * x.local))) false
      ∧ s'.cleRun st c k = some { j with begun := true, left := j.left + 1 } ∧ MemSame s s' ∧ TilesSame s s')
    ∧ (∀ n p p1, x.op = 1 → n ∈ j.todo → x.zero = false → s.cached x.flow = none → LocalAt s st c (x.ocnt + 4 * n) 4 false p1 →
      LocalAt s st c (x.src + n * x.perChunk * x.local) (x.chunkLen n * x.local) false p →
      (s.countOf st c (ofBytes (s.mem.bytes p1 4)) < x.lneed → Answers (.xferChunk st c k n .clean) s fun s' => s' = s)
      ∧ (x.lneed ≤ s.countOf st c (ofBytes (s.mem.bytes p1 4)) → Answers (.xferChunk st c k n .clean) s fun s' =>
        OneColl s s' st c x x.flow (x.dst + 8160 * n) (if x.cnt = 0 then 0 else x.cnt + 4 * n) n (x.convert (s.mem.bytes p (x.chunkLen n * x.local))) false
        ∧ s'.cleRun st c k = some { j with left := j.left + 1, todo := j.todo.filter fun i => decide (i ≠ n) } ∧ MemSame s s' ∧ TilesSame s s'))
    ∧ (x.op = 2 → j.begun = false → Answers (.cleAdd st c k) s fun s' =>
      s'.cleRun st c k = some { j with begun := true, todo := List.range x.chunks } ∧ s'.fab = s.fab ∧ s'.mem = s.mem ∧ TilesSame s s')
    ∧ (∀ n p1, x.op = 2 → n ∈ j.todo → x.rop = 0 → LocalAt s st c (x.cnt + 4 * n) 4 false p1 →
      (s.countOf st c (ofBytes (s.mem.bytes p1 4)) < x.nin → Answers (.addChunk st c k n true .clean) s fun s' => s' = s)
      ∧ (s.countOf st c (ofBytes (s.mem.bytes p1 4)) = x.nin → Answers (.addChunk st c k n true .clean) s fun s' =>
        s'.cleRun st c k = some { j with todo := j.todo.filter fun i => decide (i ≠ n) } ∧ MemSame s s' ∧ TilesSame s s' ∧ s'.fab = s.fab))
    ∧ (∀ n p1 pd po (ps : Nat → Nat) (out : List Byte), x.op = 2 → n ∈ j.todo → x.rop ≠ 0 → x.loc = false → LocalAt s st c (x.cnt + 4 * n) 4 false p1 →
      s.countOf st c (ofBytes (s.mem.bytes p1 4)) = x.nin →
      (∀ i, i < x.nin → LocalAt s st c (x.contrib + i * x.slotBytes + 8160 * n) (x.chunkLen n * x.wire) false (ps i)) →
      out = x.addChunk (x.chunkLen n) ((List.range x.nin).map fun i => (x.rtype - 4, x.wire, s.mem.bytes (ps i) (x.chunkLen n * x.wire))) →
      LocalAt s st c (x.dst + n * x.perChunk * x.outW) out.length true pd → LocalAt { s with mem := s.mem.put pd out } st c (x.ocnt + 4 * n) 4 true po →
      (pd + out.length ≤ po ∨ po + 4 ≤ pd) → Answers (.addChunk st c k n true .clean) s fun s' =>
      s'.mem.bytes pd out.length = out ∧ ofBytes (s'.mem.bytes po 4) = s.stampOf st c + 1
      ∧ (∀ a, ¬ (pd ≤ a ∧ a < pd + out.length) → ¬ (po ≤ a ∧ a < po + 4) → s'.mem.byte a = s.mem.byte a)
      ∧ s'.cleRun st c k = some { j with todo := j.todo.filter fun i => decide (i ≠ n) } ∧ TilesSame s s' ∧ s'.fab = s.fab)

/-- PERM and FETCH (R305, R306) with one record: a row goes to its place here, or to another member as a COLL packet, and the whole group is then to be
told; an expert's weights are asked for with one GET.
Where the rules leave a choice it is the model's (log entry 22). -/
def Obligations.PermutationsAndFetches : Prop :=
  ∀ (s : State) (st : Fin 4) (c : Fin 256) (k : Fin 8) (j : CleRun) (x : StepF) (pt pr : Nat) (h : Nat → Word), StepRuns s st c k j → x = j.f →
    j.begun = false → LocalAt s st c x.table 32 false pt → (∀ i, h i = (wordsOf 4 (s.mem.bytes pt 32)).getD i 0) →
    (∀ (n own ps : Nat) (rec : PermRec), x.op = 3 → x.rev = false → x.pass2 = false → x.stage = 0 → h 0 = 1 → n = (h 1).toNat % 2 ^ 32 → n % 32 = 0 →
      LocalAt s st c (x.table + 32) 32 false pr → rec = permRec (s.mem.bytes pr 32) → rec.inp = false → rec.list = false → rec.count = 1 → x.half rec = true →
      (s.reach st (some c) rec.laddr 0 false).1 = .ok [] → s.ownMember x = some own → (∀ m, m < x.count → s.cleFlowOk c (x.flow + m) = true) →
      LocalAt s st c (x.src + rec.srcrow * x.spitch) n false ps →
      (∀ pg, rec.dest = own → n ≤ 2 ^ 21 → LocalAt s st c (x.dst + rec.dstrow * x.dpitch) n true pg → Answers (.perm st c k .clean) s fun s' =>
        (∀ a, s'.mem.byte a = if pg ≤ a ∧ a < pg + n then s.mem.byte (ps + (a - pg)) else s.mem.byte a)
        ∧ s'.cleRun st c k = some { j with begun := true, cntTo := List.range x.count, got := [] } ∧ s'.fab = s.fab ∧ TilesSame s s')
      ∧ (rec.dest ≠ own → n ≤ 8160 → s.cleFlowOk c (x.flow + rec.dest) = true → s.cached (x.flow + rec.dest) = none →
        Answers (.perm st c k .clean) s fun s' => OneColl s s' st c x (x.flow + rec.dest) (x.dst + rec.dstrow * x.dpitch) 0 0 (s.mem.bytes ps n) false
        ∧ s'.cleRun st c k = some { j with begun := true, cntTo := List.range x.count, got := [], left := j.left + 1 } ∧ MemSame s s' ∧ TilesSame s s'))
    ∧ (∀ (list pl pd po : Nat) (rec : FetchRec), x.op = 4 → list = x.table + 32 + 32 * ((h 0).toNat % 2 ^ 32) → LocalAt s st c list 32 false pl →
      ofBytes (s.mem.bytes pl 4) = 1 → LocalAt s st c (list + 32) 32 false pr → rec = fetchRec (s.mem.bytes pr 32) → rec.bytes ≤ 2 ^ 21 →
      s.cleFlowOk c (x.flow + rec.owner) = true → (s.flowNow (x.flow + rec.owner)).peer = rec.coord → s.cached (x.flow + rec.owner) = none →
      LocalAt s st c (x.dst + rec.slot) rec.bytes true pd → LocalAt s st c x.ocnt 4 true po → Answers (.fetch st c k) s fun s' =>
      (∃ r, s'.fab.unsent = [{ req := r }] ∧ r.pop = 2 ∧ r.flow = x.flow + rec.owner ∧ r.ctx = c ∧ r.w2.toNat = rec.va ∧ 32 * (r.len + 1) = rec.bytes
        ∧ r.dest = .mem c (x.dst + rec.slot))
      ∧ s'.cleRun st c k = some { j with begun := true, got := [], left := j.left + 1 } ∧ MemSame s s' ∧ TilesSame s s')

/-- No port but q, no byte and no tile changes. -/
def Sys2Proof.Spec.PortFrame (q : Nat) (s s' : State) : Prop := (∀ p, p ≠ q → s'.port p = s.port p) ∧ TilesSame s s' ∧ MemSame s s'
/-- Request r takes its sequence number now (R272). -/
def Sys2Proof.Spec.reqSent (s : State) (e : Flow) (r : Req) : Req := { r with seq := e.next, resend := 0, parts := [], sentAt := s.time, firstAt := s.time, delayFrom := none, waiting := false }
/-- The requests that have taken a sequence number, with the one of r replaced. -/
def Sys2Proof.Spec.reqsWith (s : State) (r r' : Req) : List Req := s.fab.reqs.map fun x => if x.flow = r.flow ∧ x.seq = r.seq then r' else x
/-- The requests that have taken a sequence number, without the one of r. -/
def Sys2Proof.Spec.reqsBut (s : State) (r : Req) : List Req := s.fab.reqs.filter fun x => !(decide (x.flow = r.flow) && decide (x.seq = r.seq))

/-- PACKET_ARRIVAL and CREDIT_RETURN (R266 to R270) at a port that is up. A malformed packet and one at the hop limit are dropped with their
Notes, one for this position is delivered, another leaves on the chosen port with one hop more, waits, or is dropped where the escape
table gives no way; the buffer's credits go back at once except while it waits. -/
def Sys2Proof.Spec.PacketsAndCredits : Prop :=
  ∀ (s : State) (q : Fin 6) (p : Packet) (cr : Out), Awake s → cr = .credits q.val (pktVc p) (pktEcl p) (pktCredits p) →
    ((s.port q).isUp = true → malformed p = true → Answers (.packetArrival q p) s fun s' => s'.out = s.out ++ [cr]
      ∧ Reported (rtrPage (portDie q)) 0 0x0E3 s s' ∧ s'.fab.inbound = s.fab.inbound ∧ s'.fab.held = s.fab.held ∧ PortFrame q s s')
    ∧ ((s.port q).isUp = true → malformed p = false → max 33 (s.fld (rtrPage (portDie q)) 0x400 16 6) ≤ pktHops p → Answers (.packetArrival q p) s fun s' =>
      s'.out = s.out ++ [cr] ∧ Reported (rtrPage (portDie q)) 0 0x0E5 s s' ∧ s'.fab.inbound = s.fab.inbound ∧ s'.fab.held = s.fab.held ∧ PortFrame q s s')
    ∧ ((s.port q).isUp = true → malformed p = false → pktHops p < max 33 (s.fld (rtrPage (portDie q)) 0x400 16 6) →
      (pktDst p = s.here → Answers (.packetArrival q p) s fun s' => s'.out = s.out ++ [cr] ∧ s'.fab.held = s.fab.held
        ∧ s'.fab.inbound = s.fab.inbound ++ [{ port := some q, die := portDie q, pkt := p }] ∧ PortFrame q s s')
      ∧ (∀ o cls, s.hopOf p = .out o cls → Answers (.packetArrival q p) s fun s' => s'.fab.inbound = s.fab.inbound ∧ s'.fab.held = s.fab.held
        ∧ (∃ p', s'.out = s.out ++ [cr, .packet o p'] ∧ p'.body = p.body ∧ p'.w1 = p.w1 ∧ p'.w2 = p.w2 ∧ p'.w3 = p.w3 ∧ pktHops p' = pktHops p + 1)
        ∧ TilesSame s s' ∧ MemSame s s')
      ∧ (s.hopOf p = .wait → Answers (.packetArrival q p) s fun s' => s'.out = s.out ∧ s'.fab.held = s.fab.held ++ [(some q.val, p)]
        ∧ s'.fab.inbound = s.fab.inbound ∧ PortFrame q s s')
      ∧ (s.hopOf p = .drop → Answers (.packetArrival q p) s fun s' => s'.out = s.out ++ [cr] ∧ Reported (rtrPage (portDie q)) 0 0x0E4 s s'
        ∧ s'.fab.inbound = s.fab.inbound ∧ s'.fab.held = s.fab.held ∧ PortFrame q s s'))
    ∧ (∀ (vc : Fin 4) (cls : Fin 3) (n : Nat),
      (s.fab.held = [] → Answers (.creditReturn q vc cls n) s fun s' =>
        (∀ k, Tab.get 0 (s'.port q).used k = if k = vc * 3 + cls then Tab.get 0 (s.port q).used k - n else Tab.get 0 (s.port q).used k)
        ∧ s'.out = s.out ∧ PortFrame q s s')
      ∧ (∀ o c, s.fab.held = [(none, p)] →
        (s.modPort q fun x => { x with used := Tab.mod 0 x.used (vc * 3 + cls) (· - n) }).hopOf p = .out o c → Answers (.creditReturn q vc cls n) s fun s' =>
        s'.fab.held = [] ∧ (∃ p', s'.out = s.out ++ [.packet o p'] ∧ p'.body = p.body) ∧ TilesSame s s' ∧ MemSame s s'))

/-- UNCORRECTABLE_CODEWORD, REPLAY_REQUEST, LINK_LOSS_OF_LOCK, RETRAIN_TIMER, PORT_TRAINING_DONE, FEC_WINDOW, PORT_RETRAIN and PORT_EN_WRITE (R261, R271,
R279). -/
def Sys2Proof.Spec.Links : Prop :=
  ∀ (s : State) (q : Fin 6) (a : Access) (n : Nat), ByBureau s a n → n = rtrPage (portDie q) → s.fab.held = [] →
    ((s.port q).isUp = true →
      (Answers (.uncorrectableCodeword q) s fun s' => s'.out = s.out ++ [.replayAsked q.val] ∧ Reported n 1 0x0E1 s s' ∧ (s'.port q).state = (s.port q).state
        ∧ PortFrame q s s')
      ∧ (Answers (.replayRequest q true) s fun s' => s'.out = s.out ++ [.replayed q.val] ∧ s'.port q = { s.port q with replays := 0 } ∧ PortFrame q s s')
      ∧ ((s.port q).replays + 1 < max 1 (s.fld n 0x400 0 4) → Answers (.replayRequest q false) s fun s' => s'.out = s.out ++ [.replayed q.val]
        ∧ s'.port q = { s.port q with replays := (s.port q).replays + 1 } ∧ PortFrame q s s')
      ∧ (max 1 (s.fld n 0x400 0 4) ≤ (s.port q).replays + 1 → Answers (.replayRequest q false) s fun s' => (s'.port q).state = .down ∧ (s'.port q).downAt = s.time
        ∧ Raised n 4 s' ∧ PortFrame q s s')
      ∧ (Answers (.linkLossOfLock q) s fun s' => (s'.port q).state = .down ∧ (s'.port q).width = 0 ∧ (s'.port q).used = [] ∧ (s'.port q).downAt = s.time
        ∧ Raised n 4 s' ∧ (s'.page n).err.valid = true ∧ PortFrame q s s'))
    ∧ ((s.port q).state = .down → (s.port q).downAt + max 1 (s.fld n 0x400 8 8) * 1000000 ≤ s.time → Answers (.retrainTimer q) s fun s' =>
      s'.port q = { s.port q with state := .training } ∧ PortFrame q s s')
    ∧ (∀ lanes rtt, (s.port q).state = .training →
      (8 ≤ lanes → Answers (.portTrainingDone q lanes rtt) s fun s' =>
        (s'.port q).width = (if 24 ≤ lanes then 24 else if 16 ≤ lanes then 16 else 8) ∧ (s'.port q).state = (if 24 ≤ lanes then .up else .reduced)
        ∧ (s'.port q).rtt = rtt ∧ (s'.port q).used = [] ∧ Raised n 5 s' ∧ ((s'.port q).width ≠ (s.port q).last → Raised n 6 s') ∧ PortFrame q s s')
      ∧ (lanes < 8 → Answers (.portTrainingDone q lanes rtt) s fun s' => (s'.port q).state = .down ∧ (s'.page n).cause = (s.page n).cause ∧ PortFrame q s s'))
    ∧ (∀ m, (s.fld n 0x400 32 32 < m → Answers (.fecWindow q m) s fun s' => Raised n 7 s' ∧ Reported n 0 0x0E0 s s' ∧ (∀ p, s'.port p = s.port p))
      ∧ (m ≤ s.fld n 0x400 32 32 → Answers (.fecWindow q m) s fun s' => (s'.page n).cause = (s.page n).cause ∧ (s'.page n).err = (s.page n).err
        ∧ ∀ p, s'.port p = s.port p))
    ∧ ((s.port q).state ≠ .disabled → Answers (.portRetrain a q) s fun s' => (s'.port q).state = .training ∧ PortFrame q s s')
    ∧ (Answers (.portEnWrite a q false) s fun s' => (s'.port q).state = .disabled ∧ (s'.port q).width = 0 ∧ PortFrame q s s')
    ∧ ((s.port q).state = .disabled → Answers (.portEnWrite a q true) s fun s' => (s'.port q).state = .training ∧ PortFrame q s s')

/-- Packets, credits and links of the torus ports (R259 to R273).
Where the rules leave a choice it is the model's (log entry 17). -/
def Obligations.PortsAndLinks : Prop := Spec.PacketsAndCredits ∧ Spec.Links

/-- RESEND_TIMEOUT, FLOW_FILL, FAB_BUDGET_PERIOD, FLT_INVAL and INVAL_DONE (R22, R272 to R276, R330): a request without an answer is resent under its sequence
number, issued again after a quiesce, or given up as Step-fatal; a filled entry lets the flow's request take its sequence number; an invalidated entry
leaves the cache, and a valid one goes back to its table (log entry 17 for an invalid copy).
Where the rules leave a choice, and where a command's condition does not hold, it is the model's (log entries 1 and 17). -/
def Obligations.Flows : Prop :=
  ∀ (s : State) (f : BitVec 20) (e : Flow), Awake s →
    (∀ (r : Req), (s.fab.reqs.find? fun x => decide (x.flow = f.toNat ∧ x.seq = r.seq % 2 ^ 32)) = some r → s.cached f.toNat = some e →
      r.sentAt + e.timeoutNs ≤ s.time →
      (r.waiting = false → r.resend < e.resendMax → Answers (.resendTimeout f (BitVec.ofNat 32 r.seq)) s fun s' =>
        s'.fab.reqs = reqsWith s r { r with resend := r.resend + 1, parts := [], sentAt := s.time, delayFrom := some r.firstAt } ∧ TilesSame s s' ∧ MemSame s s' ∧ s'.fab.unsent = s.fab.unsent)
      ∧ (r.waiting = false → e.resendMax ≤ r.resend → Answers (.resendTimeout f (BitVec.ofNat 32 r.seq)) s fun s' =>
        ∃ x, x ∈ s'.bur.fatals ∧ x.page = r.page ∧ x.code = 0x093 ∧ x.sev = 3)
      ∧ (r.waiting = true → s.fab.unsent = [] → (∀ t i, r.owner ≠ .tile t i) → (e.next + 2 ^ 32 - e.low) % 2 ^ 32 < 64 → (s.keyOf e).isSome = true →
        Answers (.resendTimeout f (BitVec.ofNat 32 r.seq)) s fun s' => s'.fab.reqs = reqsBut s r ++ [reqSent s e r] ∧ s'.fab.unsent = [] ∧ TilesSame s s' ∧ MemSame s s'))
    ∧ (f.toNat ∈ s.fab.missing → s.mem.writes = [] → e = flowOfWords (wordsOf 8 (s.peek (s.flowAddr f.toNat) 64)) →
      ((s.dieFlows (f.toNat % 4)).length < 16384 → s.fab.unsent = [] → Answers (.flowFill f .clean) s fun s' => s'.cached f.toNat = some e
        ∧ (∀ g, g ≠ f.toNat → s'.cached g = s.cached g) ∧ f.toNat ∉ s'.fab.missing ∧ TilesSame s s' ∧ MemSame s s')
      ∧ (∀ r : Req, (s.dieFlows (f.toNat % 4)).length < 16384 → s.fab.unsent = [{ req := r }] → r.flow = f.toNat → (∀ t i, r.owner ≠ .tile t i) →
        (e.next + 2 ^ 32 - e.low) % 2 ^ 32 < 64 → (s.keyOf e).isSome = true → Answers (.flowFill f .clean) s fun s' => s'.fab.unsent = []
        ∧ s'.fab.reqs = s.fab.reqs ++ [reqSent s e r] ∧ (∃ e', s'.cached f.toNat = some e' ∧ e'.next = (e.next + 1) % 2 ^ 32 ∧ e'.issued = (e.issued + 1) % 2 ^ 32
          ∧ e'.completed = e.completed ∧ e'.w0 = e.w0) ∧ TilesSame s s' ∧ MemSame s s')
      ∧ (∀ a, Answers (.flowFill f (.uncorrectable a)) s fun s' => f.toNat ∈ s'.fab.missing ∧ s'.fab.cache = s.fab.cache
        ∧ ∃ x, x ∈ s'.bur.fatals ∧ x.page = fltPage (f.toNat % 4) ∧ x.code = 0x0F0 ∧ x.sev = 3))
    ∧ (Answers .fabBudgetPeriod s fun s' => s' = { s with fab := { s.fab with spent := [] } })
    ∧ (∀ (a : Access) (c : Fin 256) (byCtx : Bool), ByBureau s a (fltPage 0) →
      (s.fab.invalid = none → Answers (.fltInval a f c byCtx) s fun s' => s'.fab = { s.fab with invalid := some (if byCtx then none else some f.toNat, c.val) }
        ∧ TilesSame s s' ∧ s'.mem = s.mem)
      ∧ (s.fab.invalid ≠ none → Answers (.fltInval a f c byCtx) s fun s' => Rejected (fltPage 0) 0x108 s s' ∧ s'.fab = s.fab ∧ TilesSame s s' ∧ s'.mem = s.mem))
    ∧ (∀ x, s.fab.invalid = some x → (∃ y, y ∈ s.namedFlows x ∧ y.2.pinned = true) → Answers .invalDone s fun s' => s' = s)
    ∧ (∀ x b, s.fab.invalid = some x → s.namedFlows x = [(f.toNat, e)] → e.pinned = false → s.cached f.toNat = some e → b = s.flowAddr f.toNat →
      Answers .invalDone s fun s' => s'.fab.invalid = none ∧ s'.cached f.toNat = none ∧ (∀ g, g ≠ f.toNat → s'.cached g = s.cached g)
      ∧ Raised (fltPage 0) 4 s' ∧ (e.valid = true → s'.mem.bytes (b + 8) 32 = bytesOf [e.w1, e.w2, e.w3, e.w4] ∧ s'.mem.bytes (b + 48) 8 = bytesOf [e.w6])
      ∧ (e.valid = false → s'.mem = s.mem)
      ∧ (∀ m, ¬ (b + 8 ≤ m ∧ m < b + 40) → ¬ (b + 48 ≤ m ∧ m < b + 56) → s'.mem.byte m = s.mem.byte m) ∧ TilesSame s s')

/-- One packet waits, a request of a POP whose flow entry is cached, and it passes the checks of R273 as new. -/
def Sys2Proof.Spec.Arrived (s : State) (pop : Nat) (x : Inbound) (e : Flow) (o : Opened) : Prop :=
  Awake s ∧ s.fab.inbound = [x] ∧ pktPop x.pkt = pop ∧ s.cached (pktFlow x.pkt) = some e ∧ s.mem.writes = []
    ∧ (({ s with fab := { s.fab with inbound := [] } } : State).checkReq x e).1 = .fresh o
/-- Memory is f but for the request's slot of the reply area, which holds its SEQ, a KIND and a reason (R293). -/
def Sys2Proof.Spec.Recorded (x : Inbound) (e : Flow) (kind reason : Nat) (f : Nat → Byte) (s' : State) : Prop :=
  ∀ a, s'.mem.byte a = if slotAddr e (pktSeq x.pkt) ≤ a ∧ a < slotAddr e (pktSeq x.pkt) + 8 then
    (toBytes 8 (pktSeq x.pkt + kind * 2 ^ 32 + reason * 2 ^ 34)).getD (a - slotAddr e (pktSeq x.pkt)) 0 else f a
/-- Memory with bytes d laid over it at address a. -/
def Sys2Proof.Spec.laid (s : State) (a : Nat) (d : List Byte) : Nat → Byte := fun b => if a ≤ b ∧ b < a + d.length then d.getD (b - a) 0 else s.mem.byte b
/-- The request is recorded as applied and acknowledged; refused and so answered. -/
def Sys2Proof.Spec.Acked (x : Inbound) (e : Flow) (o : Opened) (f : Nat → Byte) (s' : State) : Prop := Recorded x e 1 0 f s' ∧ ∃ s2 : State, s' = s2.ack x e o.owner
def Sys2Proof.Spec.Nacked (x : Inbound) (e : Flow) (o : Opened) (reason : Nat) (s s' : State) : Prop :=
  Recorded x e 2 reason s.mem.byte s' ∧ ∃ s2 : State, s' = s2.nack x e o.owner reason
/-- Every block of a list of pages admits. -/
def Sys2Proof.Spec.AllAdmit (s : State) (ps : List Nat) : Prop := ∀ n, n ∈ ps → s.admits n = true

/-- POP_PUT, POP_MIRROR and POP_GET at the target (R273, R284, R286, R293, R294): a write is applied at the translated address, recorded and acknowledged; a
read sends its data; a range that does not translate is refused, and a block that quiesces turns the request away until it is ready.
Where the rules leave a choice it is the model's (log entry 17). -/
def Obligations.RequestsServed : Prop :=
  ∀ (s : State) (x : Inbound) (e : Flow) (o : Opened) (a : Nat) (na : Bool), o.space = false →
    (∀ r, r ∈ [(Instr.popPut, 1), (Instr.popMirror, 11)] → Arrived s r.2 x e o →
      ((s.targetSegs x.die e o.va o.data.length true).1 = some [(a, o.data.length, na)] → AllAdmit s (reqPages x [(a, o.data.length, na)]) →
        Answers r.1 s fun s' => Acked x e o (laid s a o.data) s' ∧ TilesSame s s')
      ∧ ((s.targetSegs x.die e o.va o.data.length true).1 = none → Answers r.1 s fun s' => Nacked x e o 2 s s' ∧ TilesSame s s')
      ∧ (∀ n, (s.targetSegs x.die e o.va o.data.length true).1 = some [(a, o.data.length, na)] →
        ((reqPages x [(a, o.data.length, na)]).find? fun n => !s.admits n) = some n → Answers r.1 s fun s' => Nacked x e o 1 s s'
        ∧ pktFlow x.pkt ∈ (s'.page n).readyFlows ∧ TilesSame s s'))
    ∧ (Arrived s 2 x e o →
      ((s.targetSegs x.die e o.va (32 * (o.len + 1)) false).1 = some [(a, 32 * (o.len + 1), na)] → AllAdmit s (reqPages x [(a, 32 * (o.len + 1), na)]) →
        Answers (.popGet .clean) s fun s' => Recorded x e 3 0 s.mem.byte s' ∧ TilesSame s s'
        ∧ ∃ s2 : State, s' = s2.dataParts x e o.owner (s.mem.bytes a (32 * (o.len + 1))))
      ∧ ((s.targetSegs x.die e o.va (32 * (o.len + 1)) false).1 = none → Answers (.popGet .clean) s fun s' => Nacked x e o 2 s s' ∧ TilesSame s s'))
    ∧ (Awake s → s.fab.inbound = [x] → pktPop x.pkt = 2 → s.cached (pktFlow x.pkt) = some e → s.mem.writes = [] →
      (({ s with fab := { s.fab with inbound := [] } } : State).checkReq x e).1 = .again o →
      (s.targetSegs x.die e o.va (32 * (o.len + 1)) false).1 = some [(a, 32 * (o.len + 1), na)] → Answers (.popGet .clean) s fun s' =>
      MemSame s s' ∧ TilesSame s s' ∧ ∃ s2 : State, s' = s2.dataParts x e o.owner (s.mem.bytes a (32 * (o.len + 1))))

/-- POP_RED and COMBINE_DRAIN (R285, R297): a reduction is applied by the home's atomic unit and acknowledged; a floating one marked COMB waits,
and those that wait for one place are summed exactly, rounded once and applied together.
Where the rules leave a choice it is the model's (log entry 17). -/
def Obligations.Reductions : Prop :=
  ∀ (s : State) (x : Inbound) (e : Flow) (o : Opened) (a rop rtype n : Nat) (na : Bool), rop = o.w2.toNat / 2 ^ 49 % 2 ^ 3 → rtype = o.w2.toNat / 2 ^ 52 % 2 ^ 3 →
    n = o.data.length →
    (Arrived s 4 x e o → o.space = false → redOk rop rtype = true → o.va % redWidth rtype = 0 → (s.targetSegs x.die e o.va n true).1 = some [(a, n, na)] →
      AllAdmit s (reqPages x [(a, n, na)]) →
      (¬ (rop = 2 ∧ o.w2.getLsbD 56 = true) → Answers (.popRed .clean) s fun s' =>
        Acked x e o (laid s a (redBytes rop rtype (s.mem.bytes a n) o.data)) s' ∧ s'.fab.combine = s.fab.combine ∧ TilesSame s s')
      ∧ (rop = 2 → o.w2.getLsbD 56 = true → Answers (.popRed .clean) s fun s' => MemSame s s' ∧ TilesSame s s' ∧ s'.fab.inbound = []
        ∧ ∃ y, s'.fab.combine = s.fab.combine ++ [y] ∧ y.pkt = x.pkt ∧ y.plain = o.data ∧ y.pa = a ∧ y.ctx = e.ctx ∧ y.w2 = o.w2))
    ∧ (Arrived s 4 x e o → o.space = true ∨ redOk rop rtype = false ∨ o.va % redWidth rtype ≠ 0 → Answers (.popRed .clean) s fun s' =>
      Nacked x e o 2 s s' ∧ TilesSame s s')
    ∧ (∀ (c : Combined) (ds : List Combined) (t m : Nat) (w : List Byte), Awake s → s.fab.combine = c :: ds → t = c.w2.toNat / 2 ^ 52 % 2 ^ 3 → m = c.plain.length →
      (∀ y, y ∈ ds → y.ctx = c.ctx ∧ y.pa = c.pa ∧ y.plain.length = m ∧ y.w2.toNat / 2 ^ 49 % 2 ^ 8 = c.w2.toNat / 2 ^ 49 % 2 ^ 8) →
      (s.targetSegs c.die (s.flowNow c.flow) (c.w2.toNat % 2 ^ 48) m true).1 = some [(a, m, na)] →
      w = redBytes 2 t (s.mem.bytes a m) ((combineSum t ((c :: ds).map fun y => y.plain)).take m) →
      (∀ y, y ∈ c :: ds → slotAddr (s.flowNow y.flow) (pktSeq y.pkt) + 8 ≤ a ∨ a + w.length ≤ slotAddr (s.flowNow y.flow) (pktSeq y.pkt)) →
      Answers .combineDrain s fun s' => s'.fab.combine = [] ∧ s'.mem.bytes a w.length = w ∧ TilesSame s s'
      ∧ ∀ b, ¬ (a ≤ b ∧ b < a + w.length) →
        (∀ y, y ∈ c :: ds → b < slotAddr (s.flowNow y.flow) (pktSeq y.pkt) ∨ slotAddr (s.flowNow y.flow) (pktSeq y.pkt) + 8 ≤ b) → s'.mem.byte b = s.mem.byte b)

/-- POP_SEND, POP_FLAG, POP_INVAL and POP_COLL (R278, R284, R290, R292, R302): a record enters the tile's inbox ring and moves its HEAD, or is
refused where it does not fit; a flag adds to its UINT32; an invalidation drops the context's lines of the range; a COLL packet of this step and attempt is
written, a stale one dropped, an early one turned away.
Where the rules leave a choice it is the model's (log entries 17 and 22). -/
def Obligations.Deliveries : Prop :=
  ∀ (s : State) (x : Inbound) (e : Flow) (o : Opened) (a : Nat) (na : Bool),
    (∀ (t base size head tail : Nat), Arrived s 5 x e o → o.space = true → t = o.va → t < 192 → s.ctxOf t = some e.ctx →
      AllAdmit s [rtrPage x.die, fltPage (pktFlow x.pkt % 4), engPage t .xce] → size = s.fld (engPage t .xce) 0x100 16 13 * 1024 →
      base = s.fld (engPage t .xce) 0x100 0 13 * 1024 → 0 < size → head = s.fld (engPage t .xce) 0x108 0 23 % size → tail = s.fld (engPage t .xce) 0x110 0 23 % size →
      head + 32 + o.data.length ≤ size →
      ((head + size - tail) % size + 64 + o.data.length ≤ size → Answers .popSend s fun s' => Acked x e o s.mem.byte s'
        ∧ (s'.tile t).bytes false (base + head) (32 + o.data.length) = inboxHead o.owner (pktFlow x.pkt) (pktSeq x.pkt) (o.data.length / 32) false ++ o.data
        ∧ BytesBut (s.tile t) (s'.tile t) false (base + head) (32 + o.data.length)
        ∧ s'.fld (engPage t .xce) 0x108 0 23 = (head + 32 + o.data.length) % size
        ∧ (∀ k, (s'.tile t).tok k = (s.tile t).tok k
          + if s.fld (engPage t .xce) 0x100 34 1 = 1 ∧ k = s.fld (engPage t .xce) 0x100 29 5 ∧ (s.tile t).tok k < 0xFFFF then 1 else 0) ∧ OtherTiles t s s')
      ∧ (size < (head + size - tail) % size + 64 + o.data.length → Answers .popSend s fun s' => Nacked x e o 2 s s' ∧ Raised (engPage t .xce) 6 s' ∧ TilesSame s s'))
    ∧ (∀ w, w = ofBytes (o.data.take 8) → Arrived s 6 x e o → w / 2 ^ 48 % 2 = 0 → w % 2 ^ 48 % 32 = 0 → o.data.length = 12 →
      (s.targetSegs x.die e (w % 2 ^ 48) 4 true).1 = some [(a, 4, na)] → AllAdmit s (reqPages x [(a, 4, na)]) → Answers .popFlag s fun s' =>
      Acked x e o (laid s a (toBytes 4 ((ofBytes (s.mem.bytes a 4) + ofBytes (o.data.drop 8)) % 2 ^ 32))) s' ∧ TilesSame s s')
    ∧ (∀ (g : Seg), Arrived s 7 x e o → o.space = false → (s.translate x.die (some e.ctx) o.va (ofBytes (o.data.take 8)) false).1 = some [g] →
      AllAdmit s [rtrPage x.die, fltPage (pktFlow x.pkt % 4)] → Answers .popInval s fun s' => Acked x e o s.mem.byte s' ∧ TilesSame s s'
      ∧ ∀ l, l ∈ s'.mem.tlc ↔ l ∈ s.mem.tlc ∧ ¬ (l.1 / 2 ^ 40 % 256 = e.ctx ∧ g.pa / 256 ≤ l.1 % 2 ^ 40 ∧ l.1 % 2 ^ 40 * 256 < g.pa + g.len))
    ∧ (∀ (w : Nat → Nat) (st d : Nat), (∀ i, w i = ofBytes ((o.data.drop (8 * i)).take 8)) → Arrived s 10 x e o → o.space = false → w 0 = 0 → 32 < o.data.length →
      (s.targetSegs x.die e o.va (o.data.length - 32) true).1 = some [(a, o.data.length - 32, na)] → st = homeOf a / 4 →
      AllAdmit s (reqPages x [(a, o.data.length - 32, na)] ++ [clePage st]) → Tab.get 0 s.cle.dbase (st * 256 + e.ctx) = 0 →
      d = (w 2 % 2 ^ 16 + 2 ^ 16 - s.cstep st e.ctx) % 2 ^ 16 →
      (d = 0 → w 2 / 2 ^ 16 % 256 = s.attemptOf e.ctx st → Answers .popColl s fun s' => Acked x e o (laid s a (o.data.drop 32)) s' ∧ TilesSame s s')
      ∧ ((d = 0 ∧ w 2 / 2 ^ 16 % 256 ≠ s.attemptOf e.ctx st) ∨ 2 ^ 15 ≤ d → Answers .popColl s fun s' => Acked x e o s.mem.byte s' ∧ Raised (clePage st) 6 s'
        ∧ TilesSame s s')
      ∧ (d = 1 → Answers .popColl s fun s' => Nacked x e o 1 s s' ∧ TilesSame s s')
      ∧ (2 ≤ d → d < 2 ^ 15 → Answers .popColl s fun s' => Nacked x e o 2 s s' ∧ (s'.page (clePage st)).err.valid = true ∧ TilesSame s s'))

/-- Nothing waits for a count, in a tile or in a save area (R289). -/
def Sys2Proof.Spec.NoFences (s : State) : Prop :=
  (∀ e, e ∈ s.tiles → ∀ f, f ∈ e.2.flights → f.waitFor = none ∧ f.flag = none) ∧ ∀ e, e ∈ s.key.saved → ∀ f, f ∈ e.2.flights → f.waitFor = none ∧ f.flag = none
/-- One answer waits that opens as o and matches request r, on a cached flow; no request waits for a sequence number. -/
def Sys2Proof.Spec.Reply (s : State) (pop : Nat) (x : Inbound) (e : Flow) (o : Opened) (r : Req) : Prop :=
  Awake s ∧ s.fab.inbound = [x] ∧ pktPop x.pkt = pop ∧ s.cached (pktFlow x.pkt) = some e ∧ s.openAnswer e x.pkt = some o ∧ s.matching x.pkt = some r
    ∧ s.fab.unsent = [] ∧ r.mgmt = false ∧ NoFences s
/-- A flight once its request r has its final answer: an XCE descriptor keeps the longest delay that a resend added to a packet (R277). -/
def Sys2Proof.Spec.delayedBy (s : State) (r : Req) (g : Flight) : Flight :=
  match r.delayFrom with
  | none => g
  | some since => if blockOf r.page = .xce then { g with delay := max g.delay (s.time - since) } else g
/-- Request r of flight id of tile t, for the context resident there, has its final answer: it leaves the list, the context's and the flow's completed
counts go up, and the flight has one less to wait for. -/
def Sys2Proof.Spec.Settled (s s' : State) (r : Req) (e : Flow) (t id : Nat) (f : Flight → Flight) : Prop :=
  s'.fab.reqs = reqsBut s r ∧ Tab.get 0 s'.fab.doneAll r.ctx = Tab.get 0 s.fab.doneAll r.ctx + 1 ∧ (s'.flowNow r.flow).completed = (e.completed + 1) % 2 ^ 32
    ∧ (s'.tile t).flights = ((s.tile t).flights.map fun g => if g.id = id then f { delayedBy s r g with left := g.left - 1 } else g)
    ∧ (s'.tile t).store = (s.tile t).store ∧ (s'.tile t).rf = (s.tile t).rf ∧ OtherTiles t s s' ∧ MemSame s s'

/-- POP_ACK, POP_DATA, POP_NACK and POP_READY at the source (R272, R273, R286, R288): a request is acknowledged; the last part of a GET hands its data to
the descriptor; a NACK resends, waits for READY or refuses by its reason; READY issues what waits again; a stale answer changes no request.
Where the rules leave a choice it is the model's (log entry 17). -/
def Obligations.AnswersTaken : Prop :=
  ∀ (s : State) (x : Inbound) (e : Flow) (o : Opened) (r : Req) (t id : Nat), r.owner = .tile t id → s.ctxOf t = some r.ctx →
    (Reply s 8 x e o r → r.pop ≠ 2 → ofBytes (o.data.take 8) = 0 →
      (r.resend = 0 → r.dest = .none → Answers .popAck s fun s' => Settled s s' r e t id fun g => g)
      ∧ (r.resend ≠ 0 → Answers .popAck s fun s' => s'.fab.reqs = reqsBut s r ∧ Reported r.page 1 0x091 s s' ∧ MemSame s s'))
    ∧ (∀ rf addr, Reply s 3 x e o r → r.pop = 2 → r.resend = 0 → r.dest = (if rf then Dest.rf t addr else Dest.store t addr) → r.len < 256 → pktPart x.pkt = 0 →
      r.parts = [] → o.data ≠ [] → Answers .popData s fun s' =>
      Settled s s' r e t id fun g => { g with writes := g.writes ++ [{ rf := rf, addr := addr, data := o.data }] })
    ∧ (Reply s 3 x e o r → r.pop = 2 → 256 ≤ r.len → r.parts = [] → o.data ≠ [] → pktPart x.pkt < (32 * (r.len + 1) + 8191) / 8192 → Answers .popData s fun s' =>
      s'.fab.reqs = (s.fab.reqs.map fun q => if q.flow = r.flow ∧ q.seq = r.seq then { q with parts := Tab.set [] [] (pktPart x.pkt) o.data } else q)
      ∧ TilesSame s s' ∧ MemSame s s')
    ∧ (∀ reason, reason = (o.data.getD 0 0).toNat → Reply s 9 x e o r →
      (reason = 0 → r.resend < e.resendMax → Answers .popNack s fun s' =>
        s'.fab.reqs = reqsWith s r { r with resend := r.resend + 1, parts := [], sentAt := s.time, delayFrom := some (r.delayFrom.getD s.time) } ∧ TilesSame s s' ∧ MemSame s s')
      ∧ (reason = 1 → Answers .popNack s fun s' =>
        s'.fab.reqs = (s.fab.reqs.map fun q => if q.flow = r.flow ∧ q.seq = r.seq then { q with waiting := true, sentAt := s.time } else q)
        ∧ TilesSame s s' ∧ MemSame s s')
      ∧ (2 ≤ reason → reason ≤ 4 → Answers .popNack s fun s' =>
        Settled s s' r e t id (fun g => { (g.meet ⟨2, if reason = 2 then 0x092 else if reason = 3 then 0x096 else 0x095⟩) with refused := true })
        ∧ Reported r.page 2 (if reason = 2 then 0x092 else if reason = 3 then 0x096 else 0x095) s s'))
    ∧ (Awake s → s.fab.inbound = [x] → pktPop x.pkt = 14 → s.cached (pktFlow x.pkt) = some e → s.fab.unsent = [] → pktCrc x.pkt = pktSentCrc x.pkt →
      (∃ k, s.keyOf e = some k ∧ (openAs k x.pkt e.peer e.gen).isSome = true) → ∀ y : Req, (∀ u i, y.owner ≠ .tile u i) →
      (s.fab.reqs.filter fun z => decide (z.flow = pktFlow x.pkt) && z.waiting) = [y] → (e.next + 2 ^ 32 - e.low) % 2 ^ 32 < 64 →
      Answers .popReady s fun s' => s'.fab.reqs = reqsBut s y ++ [reqSent s e y] ∧ TilesSame s s' ∧ MemSame s s')
    ∧ (∀ i : Instr × Nat, i ∈ [(.popData, 3), (.popAck, 8), (.popNack, 9)] → Awake s → s.fab.inbound = [x] → pktPop x.pkt = i.2 →
      s.cached (pktFlow x.pkt) = some e → s.openAnswer e x.pkt = some o → s.matching x.pkt = none → (i.2 = 8 → ofBytes (o.data.take 8) = 0) →
      Answers i.1 s fun s' => s'.fab.reqs = s.fab.reqs ∧ s'.fab.unsent = s.fab.unsent ∧ TilesSame s s' ∧ MemSame s s')

/-- No package originates here, and nothing but rounds happens at a boundary: no commit record, no re-plan. -/
def Sys2Proof.Spec.PlainRounds (s : State) : Prop := Awake s ∧ s.isMaster = false ∧ s.isBackup = false ∧ s.bur.commits = [] ∧ s.sync.replanDue = false
/-- The boundary that would fall one period after the last. -/
def Sys2Proof.Spec.periodEnd (s : State) : Nat := s.sync.last + s.periodNs

/-- STEP_SYNC_EDGE, POP_SYNC and RESYNC (R321 to R323): an edge or a sync cell becomes the beat, an early or second edge and an old cell are discarded,
and an accepted cell goes on with its depth one higher.
Where the rules leave a choice, and where a command's condition does not hold, it is the model's (log entries 1 and 24). -/
def Obligations.Beats : Prop :=
  ∀ (s : State), Awake s →
    (s.syncSrc % 2 = 0 → Answers .stepSyncEdge s fun s' => s' = s)
    ∧ (s.syncSrc % 2 = 1 → s.sync.resync = false → s.time < s.sync.last + s.periodNs / 2 ∨ s.sync.beat.isSome = true → Answers .stepSyncEdge s fun s' =>
      s'.sync = s.sync ∧ WordsSame s s' ∧ TilesSame s s' ∧ s'.mem = s.mem ∧ s'.fab = s.fab)
    ∧ (s.syncSrc % 2 = 1 → s.sync.resync = true ∨ s.sync.last + s.periodNs / 2 ≤ s.time ∧ s.sync.beat = none → Answers .stepSyncEdge s fun s' =>
      ∃ b, s' = { s with sync := { s.sync with beat := some b } } ∧ b.time = s.time ∧ b.src = 1 ∧ b.round = none)
    ∧ (∀ (a : Access), a.source = .bureau → Answers (.resync a) s fun s' => s'.sync = { s.sync with resync := true, consec := 0, lostOnce := false }
      ∧ TilesSame s s' ∧ s'.mem = s.mem ∧ s'.fab = s.fab ∧ s'.key = s.key ∧ s'.bur = s.bur)
    ∧ (∀ (x : Inbound) (e : Flow), s.fab.inbound = [x] → pktPop x.pkt = 12 → s.cached (pktFlow x.pkt) = some e →
      (s.openSync x e = none → Answers .popSync s fun s' => s'.sync = s.sync ∧ s'.out = s.out ∧ TilesSame s s' ∧ MemSame s s')
      ∧ (∀ (o : Opened) (q round depth : Nat), x.port = some q → s.openSync x e = some o → 2 ≤ s.syncSrc → (s.fld burPage 0x300 10 6).testBit q = true →
        round = ofBytes (o.data.take 8) → depth = (o.data.getD 8 0).toNat →
        (s.sync.resync = false → round ≤ s.sync.count.toNat → Answers .popSync s fun s' => s'.sync = s.sync ∧ s'.out = s.out ∧ TilesSame s s' ∧ MemSame s s')
        ∧ (s.sync.resync = true ∨ s.sync.count.toNat + 1 < round ∨ (round = s.sync.count.toNat + 1 ∧ s.sync.beat = none) → s.isMaster = false → s.isBackup = false →
          (s.fld burPage 0x300 4 6 = 0 → Answers .popSync s fun s' => s'.out = s.out ∧ s'.sync.count = s.sync.count
            ∧ (∃ b, s'.sync.beat = some b ∧ b.time = s.time ∧ b.src = 2 ∧ b.round = some (BitVec.ofNat 64 round)) ∧ TilesSame s s' ∧ MemSame s s')
          ∧ (∀ (k : Nat) (e' : Flow), k < 6 → s.fld burPage 0x300 4 6 = 2 ^ k → s.cached (s.syncFlow k) = some e' → e'.valid = true →
            s.syncFlow k ∉ s.fab.worn → (s.keyOf e').isSome = true → (s.port k).isUp = true → 0 < (s.port k).freeCredits 3 0 → Answers .popSync s fun s' =>
            (∃ b, s'.sync.beat = some b ∧ b.time = s.time ∧ b.src = 2 ∧ b.round = some (BitVec.ofNat 64 round))
            ∧ (∃ p, s'.out = s.out ++ [.packet k p] ∧ p.w1.toNat % 2 ^ 20 = s.syncFlow k % 2 ^ 20) ∧ TilesSame s s' ∧ MemSame s s'))))

/-- ROUND_BOUNDARY (R319, R320, R323, R339, R38): without a source a boundary falls every period; with one it falls at its beat, at the window's
early edge for an early beat and at its late edge for a missing one, with the fault's error and event. Staged words and keys take effect there.
Where the rules leave a choice, and where a command's condition does not hold, it is the model's (log entries 1 and 24). -/
def Obligations.RoundBoundaries : Prop :=
  ∀ (s : State) (sl : List Int), PlainRounds s →
    (s.placed = none → Answers (.roundBoundary sl) s fun s' => s' = s)
    ∧ (s.syncSrc = 0 → s.sync.beat = none → periodEnd s ≤ s.time → Answers (.roundBoundary sl) s fun s' =>
      s'.sync.last = periodEnd s ∧ s'.sync.count = s.sync.count + 1 ∧ s'.sync.fault = 0 ∧ s'.sync.lastSrc = 0 ∧ s'.sync.consec = s.sync.consec
      ∧ TilesSame s s' ∧ MemSame s s')
    ∧ (∀ b : Beat, s.syncSrc ≠ 0 → s.sync.resync = false → s.sync.beat = some b → b.round = none → b.src < 4 → periodEnd s ≤ b.time + 64000 →
      b.time ≤ periodEnd s + 64000 → Answers (.roundBoundary sl) s fun s' =>
      s'.sync.last = b.time ∧ s'.sync.count = s.sync.count + 1 ∧ s'.sync.fault = 0 ∧ s'.sync.lastSrc.toNat = b.src ∧ s'.sync.beat = none
      ∧ (b.src ≠ 0 → s'.sync.consec = 0) ∧ TilesSame s s' ∧ MemSame s s')
    ∧ (∀ b : Beat, s.syncSrc ≠ 0 → s.sync.resync = false → s.sync.beat = some b → b.round = none → b.time + 64000 < periodEnd s → periodEnd s ≤ s.time + 64000 →
      Answers (.roundBoundary sl) s fun s' => s'.sync.last = periodEnd s - 64000 ∧ s'.sync.count = s.sync.count + 1 ∧ s'.sync.fault = 2 ∧ Raised burPage 16 s'
      ∧ (s'.page burPage).err.valid = true ∧ TilesSame s s' ∧ MemSame s s')
    ∧ (s.syncSrc ≠ 0 → s.sync.beat = none → periodEnd s + 64000 ≤ s.time → Answers (.roundBoundary sl) s fun s' =>
      s'.sync.last = periodEnd s + 64000 ∧ s'.sync.count = s.sync.count + 1 ∧ s'.sync.fault = 1 ∧ Raised burPage 16 s' ∧ (s'.page burPage).err.valid = true
      ∧ s'.sync.consec.toNat = min 255 (s.sync.consec.toNat + 1)
      ∧ (max 1 (s.fld burPage 0x300 16 4) ≤ s.sync.consec.toNat + 1 → s.sync.lostOnce = false → max 1 (s.fld burPage 0x300 16 4) ≤ 255 →
        Raised burPage 17 s' ∧ ∃ x, x ∈ s'.bur.fatals ∧ x.page = burPage ∧ x.code = 0x123 ∧ x.sev = 3) ∧ TilesSame s s' ∧ MemSame s s')
    ∧ (∀ b, s.placed = some b → Answers (.roundBoundary sl) s fun s' =>
      (∀ n k, 1728 ≤ n → n < 1781 → s'.raw n (8 * k) = s.written n (8 * k) ∧ (s'.page n).pendMask = [] ∧ ((s.page n).pendMask ≠ [] → Raised n 2 s'))
      ∧ (∀ c k, (some c, k) ∈ s.key.arriving → (∀ k', (some c, k') ∈ s.key.arriving → k' = k) → Tab.get none s'.key.keys c = some k)
      ∧ s'.key.arriving = [] ∧ TilesSame s s' ∧ MemSame s s')

/-- REPLAN_TIMER, REPLAN and SLACK_SAMPLE (R373, R374, R378): a re-plan is scheduled after 24 hours or by a write and is carried out at the next
boundary; a reading below the alarm raises its quad's offset at once.
Where the rules leave a choice, and where a command's condition does not hold, it is the model's (log entries 1 and 24). -/
def Obligations.Replanning : Prop :=
  ∀ (s : State), Awake s →
    (s.pkg.ageLastH + 24 ≤ hoursOf s.time → Answers .replanTimer s fun s' => s' = { s with sync := { s.sync with replanDue := true } })
    ∧ (hoursOf s.time < s.pkg.ageLastH + 24 → Answers .replanTimer s fun s' => s' = s)
    ∧ (∀ (a : Access), a.source = .bureau → Answers (.replan a) s fun s' => s'.sync = { s.sync with replanDue := true } ∧ TilesSame s s' ∧ s'.mem = s.mem
      ∧ s'.fab = s.fab ∧ s'.pkg = s.pkg)
    ∧ (∀ (sl : List Int) (b : Placed), s.isMaster = false → s.isBackup = false → s.bur.commits = [] → s.placed = some b → s.sync.replanDue = true →
      Answers (.roundBoundary sl) s fun s' => s'.sync.replanDue = false ∧ Raised agePage 4 s' ∧ s'.pkg.ageLastH = hoursOf s.time ∧ TilesSame s s' ∧ MemSame s s')
    ∧ (∀ (t : Fin 192) (ps alarm : Int), s.tileRuns t = true → -32768 ≤ ps → ps < 32768 → alarm = min (s.fld agePage 0x100 16 8 : Int) (s.fld agePage 0x100 0 8) →
      (alarm ≤ ps → Answers (.slackSample t ps) s fun s' => s'.slackNow t = ps ∧ s'.slackMin t = min ps (s.slackMin t) ∧ s'.pkg = s.pkg
        ∧ (s'.page (tmonPage t)).cause = (s.page (tmonPage t)).cause ∧ TilesSame s s' ∧ MemSame s s')
      ∧ (ps < alarm → Answers (.slackSample t ps) s fun s' => s'.slackNow t = ps ∧ s'.slackMin t = min ps (s.slackMin t) ∧ Raised (tmonPage t) 7 s'
        ∧ Reported (tmonPage t) 0 0x115 s s' ∧ s'.offsetOf (quadOf t) = (if s.offsetOf (quadOf t) < 24 then s.offsetOf (quadOf t) + 1 else s.offsetOf (quadOf t))
        ∧ (∀ q, q ≠ quadOf t → s'.offsetOf q = s.offsetOf q) ∧ TilesSame s s' ∧ MemSame s s'))

/-- The next generation of a context's rollbacks (R353). -/
def Sys2Proof.Spec.genOf (s : State) (c : Nat) (g : GList) : Nat := match (s.commit c).nextGen with | some n => n.toNat | none => g.gen0
/-- One management cell waits for its sequence number, on a flow and about a context (256: none). -/
def Sys2Proof.Spec.OneCell (s' : State) (c flow : Nat) (x : Cell) : Prop := s'.fab.unsent = [{ req := mgmtReq c flow x.bytes }]
/-- The flow that carries a context's cells to its coordinator is not cached and nothing waits, so that a cell stays where it can be seen. -/
def Sys2Proof.Spec.CanTell (s : State) (c : Nat) : Prop := s.fab.unsent = [] ∧ (s.coordinates c = false → s.cached (s.commit c).cr.cflow.toNat = none)
/-- This Bureau has one more cell for itself, about context c, and nothing waits to be sent. -/
def Sys2Proof.Spec.OwnCell (s s' : State) (c : Nat) (x : Cell) : Prop := s'.fab.unsent = [] ∧ s'.bur.own = s.bur.own ++ [(c, x.bytes)]
/-- The coordinator of context c is told x: by one cell on CFLOW, or within this Bureau where it is the coordinator itself (log entry 23). -/
def Sys2Proof.Spec.Told (s s' : State) (c : Nat) (x : Cell) : Prop :=
  if s.coordinates c = true then OwnCell s s' c x else OneCell s' c (s.commit c).cr.cflow.toNat x ∧ s'.bur.own = s.bur.own
/-- Member y of context c's group is told x: by one cell on its flow, or within this Bureau where y is this package (log entry 23). -/
def Sys2Proof.Spec.MemberTold (s s' : State) (c : Nat) (y : Nat × Nat) (x : Cell) : Prop :=
  if y.1 = s.ownLc then OwnCell s s' c x else OneCell s' c y.2 x ∧ s'.bur.own = s.bur.own
/-- The package has fail-stopped. -/
def Sys2Proof.Spec.FailStopped (s' : State) : Prop := s'.pkg.stopped = true ∧ s'.bur.settee = 5 ∧ ∀ q, q < 6 → (s'.port q).state = .disabled

/-- FATAL_REPORT, BUREAU_WATCHDOG, VOTE_SEND, VOTE_TIMEOUT, QUERY_TIMER, ROLLBACK_QUIESCE_DONE and MIRROR_COPY (R341, R344 to R346, R350, R351, R353, R355,
R358, R366): what the Bureau does of its own accord, and the one cell that it sends.
Where the rules leave a choice, and where a command's condition does not hold, it is the model's (log entries 1 and 23). -/
def Obligations.BureauActs : Prop :=
  ∀ (s : State) (c : Fin 256), Awake s →
    (∀ f rest, s.bur.fatals = f :: rest → 4 ≤ f.sev → Answers .fatalReport s FailStopped)
    ∧ (∀ f rest, s.bur.fatals = f :: rest → f.sev = 3 → f.ctx = some c.val → f.code ∉ offenceCodes → (s.commit c).cr.en = true → (s.commit c).phase = 0 →
      (s.commit c).voted = false → (s.commit c).held = false → s.bur.levels = [] → CanTell s c → Answers .fatalReport s fun s' =>
      s'.bur.fatals = rest ∧ s'.bur.levels = [[c.val]] ∧ (s'.commit c).sf = (s.commit c).sf.or (some f.code) ∧ Told s s' c (s.ctxCell c 0x03 f.code)
      ∧ s'.pkg = s.pkg ∧ TilesSame s s' ∧ MemSame s s')
    ∧ (Answers .bureauWatchdog s fun s' => FailStopped s' ∧ (s'.page burPage).err.valid = true)
    ∧ (∀ (p : Nat) (na : Bool) (v : Nat) (code : Option Nat), s.voteReady c = true → CanTell s c → s.mem.writes = [] →
      (s.translateLocal 3 (some c) (s.commit c).cr.verdict.toNat 8 false).1 = some [(p, 8, na)] → s.homeOff [p] = none → v = ofBytes (s.mem.bytes p 8) →
      code = (match (s.commit c).firstCode with | some k => some k | none => if v = 0 then none else some 0) → Answers (.voteSend c) s fun s' =>
      (s'.commit c).voted = true ∧ (s'.commit c).queryAt = s.time ∧ Told s s' c
        (s.ctxCell c 0x02 (match code with | some k => 1 + k * 2 ^ 16 | none => 0)) ∧ s'.bur.fatals = s.bur.fatals ∧ TilesSame s s' ∧ MemSame s s')
    ∧ (∀ t st a g, (s.commit c).firstVote = some (t, st, a) → t + max 1 (s.fld burPage 0x350 0 16) * 1000000 ≤ s.time → s.coordinates c = true →
      (s.commit c).open st a = true → (s.commit c).held = false → s.groupOf c = some g → Answers (.voteTimeout c) s fun s' =>
      (s'.commit c).decided = some (false, BitVec.ofNat 16 (genOf s c g), st, a) ∧ (s'.commit c).firstVote = none ∧ (s'.page burPage).err.valid = true)
    ∧ ((s.commit c).voted = true → (s.commit c).commitDue = false → (s.commit c).phase = 0 →
      (s.commit c).queryAt + max 1 (s.fld burPage 0x350 0 16) * 1000000 ≤ s.time → CanTell s c → Answers (.queryTimer c) s fun s' =>
      s'.commit c = { s.commit c with queryAt := s.time } ∧ Told s s' c (s.ctxCell c 0x0C 0) ∧ TilesSame s s' ∧ MemSame s s')
    ∧ ((s.commit c).phase = 2 → (s.commit c).held = false → s.rolledDown c = true →
      ((s.commit c).lost = false → CanTell s c → Answers (.rollbackQuiesceDone c) s fun s' => s'.commit c = { s.commit c with phase := 4 }
        ∧ Told s s' c (s.ctxCell c 0x05 0) ∧ TilesSame s s' ∧ MemSame s s')
      ∧ ((s.commit c).lost = true → Answers (.rollbackQuiesceDone c) s fun s' => (s'.commit c).phase = 6 ∧ (s'.page burPage).err.valid = true))
    ∧ (∀ (k : Nat) (m : MirrorEntry) (w : Word), (s.commit c).cr.en = true → (s.commit c).held = false → k < (s.commit c).cr.nmirror → (s.commit c).phase = 0 →
      Tab.get 0 s.upe.mirrorLeft (c * 65536 + k) = 0 → (c.val, k) ∉ s.upe.mirrorDone → k ∉ (s.commit c).resend → s.mirrorEntry c k = some m →
      w = ((s.mirrorJob c m).getD []).getD 0 0 →
      ((s.ring c m.ring).pos ≤ m.job → Answers (.mirrorCopy c k .clean) s fun s' => s' = s)
      ∧ (m.job < (s.ring c m.ring).pos → (s.stepOf c).toNat % max 1 (w.toNat / 2 ^ 32 % 2 ^ 16) ≠ w.toNat / 2 ^ 48 → Answers (.mirrorCopy c k .clean) s fun s' =>
        s' = { s with upe := { s.upe with mirrorDone := s.upe.mirrorDone ++ [(c.val, k)] } })
      ∧ (∀ a b d, m.job < (s.ring c m.ring).pos → (s.stepOf c).toNat % max 1 (w.toNat / 2 ^ 32 % 2 ^ 16) = w.toNat / 2 ^ 48 →
        s.bankOf c m (1 - committedBank m.spar m.n (s.cOf c)) = some (a, b) → m.pages = 1 → b % 8192 ≤ 4096 → (s.loadVirt (m.ring % 4) c a 4096 0).1 = some d →
        d.length = 4096 → s.fab.unsent = [] → s.cached (s.commit c).cr.mflow.toNat = none → Answers (.mirrorCopy c k .clean) s fun s' =>
        (∃ r, s'.fab.unsent = [{ req := r }] ∧ r.pop = 11 ∧ r.flow = (s.commit c).cr.mflow.toNat ∧ r.ctx = c ∧ r.w2.toNat = b % 2 ^ 48 ∧ r.arg = d)
        ∧ Tab.get 0 s'.upe.mirrorLeft (c * 65536 + k) = 1 ∧ (c.val, k) ∉ s'.upe.mirrorDone ∧ TilesSame s s' ∧ MemSame s s'))

/-- One packet waits that is a new management cell m of a kind, from the owner that o names. -/
def Sys2Proof.Spec.CellArrived (s : State) (kind : Nat) (x : Inbound) (e : Flow) (o : Opened) (m : Cell) : Prop :=
  Arrived s 13 x e o ∧ (s.openReq x.pkt e).isSome = true ∧ m = cellOf o.data ∧ m.kind = kind ∧ kind ∈ cellKinds
/-- The state once the cell has been recorded and acknowledged. -/
def Sys2Proof.Spec.afterCell (s : State) (x : Inbound) (e : Flow) (o : Opened) : State :=
  (({ s with fab := { s.fab with inbound := [] } } : State).checkReq x e).2.acceptReq x e o.owner
/-- This Bureau has no cell of a kind for itself. -/
def Sys2Proof.Spec.NoOwn (s : State) (kind : Nat) : Prop := ∀ d, d ∈ s.bur.own → (cellOf d.2).kind ≠ kind
/-- The next cell of a kind to be served is m, about context c, from coordinate who; s1 is the state once it has been taken: a packet that has been
recorded and acknowledged, or the first of the cells that this Bureau has for itself. -/
def Sys2Proof.Spec.CellComes (s : State) (kind : Nat) (m : Cell) (c who : Nat) (s1 : State) : Prop :=
  (NoOwn s kind ∧ s.ctxOfGroup m.group = some c ∧ ∃ x e o, CellArrived s kind x e o m ∧ who = o.owner ∧ s1 = afterCell s x e o)
  ∨ (Awake s ∧ ∃ d rest, s.bur.own = (c, d) :: rest ∧ m = cellOf d ∧ m.kind = kind ∧ who = s.ownLc ∧ s1 = { s with bur := { s.bur with own := rest } })
/-- Serving a cell that has been taken changes no memory and no tile. -/
def Sys2Proof.Spec.CellFrame (s1 s' : State) : Prop := MemSame s1 s' ∧ TilesSame s1 s'
/-- The cell's own record is all that changes of memory, and no tile changes. -/
def Sys2Proof.Spec.OnlyRecord (x : Inbound) (e : Flow) (s s' : State) : Prop := Recorded x e 1 0 s.mem.byte s' ∧ TilesSame s s'

/-- VOTE, ABORT, DLOG, DECIDE, QUERY, QUIESCED and RESET (R352 to R354, R358): the coordinator counts votes and decides once; its twin keeps the
decision; a member commits at the next boundary, or halts, resets its flows and is rolled back at the boundary that RESET names.
Where the rules leave a choice it is the model's (log entry 23). -/
def Obligations.Decisions : Prop :=
  ∀ (s s1 : State) (m : Cell) (c who : Nat) (g : GList),
    (∀ kind x e o, CellArrived s kind x e o m → OnlyRecord x e s (afterCell s x e o) ∧ (afterCell s x e o).bur = s.bur)
    ∧ (s1.groupOf c = some g → s.coordinates c = true → (s.commit c).held = false → (s.commit c).open m.step m.attempt = true →
      (CellComes s 0x02 m c who s1 → m.arg % 2 = 1 → Answers .vote s fun s' =>
        (s'.commit c).decided = some (false, BitVec.ofNat 16 (genOf s c g), m.step, m.attempt) ∧ (s'.commit c).nextGen = some (BitVec.ofNat 16 (genOf s c g + 1)))
      ∧ (CellComes s 0x02 m c who s1 → m.arg % 2 = 0 → (∀ y, y ∈ s1.memberList g → y.1 = who ∨ (y.1, m.step, m.attempt) ∈ (s.commit c).votes) →
        Answers .vote s fun s' => (s'.commit c).decided = some (true, 0, m.step, m.attempt))
      ∧ (CellComes s 0x02 m c who s1 → m.arg % 2 = 0 → (∃ y, y ∈ s1.memberList g ∧ y.1 ≠ who ∧ (y.1, m.step, m.attempt) ∉ (s.commit c).votes) →
        Answers .vote s fun s' => (s'.commit c).decided = (s.commit c).decided ∧ (who, m.step, m.attempt) ∈ (s'.commit c).votes
          ∧ (∀ v, v ∈ (s.commit c).votes → v ∈ (s'.commit c).votes) ∧ s'.fab.unsent = s.fab.unsent ∧ CellFrame s1 s')
      ∧ (CellComes s 0x03 m c who s1 → Answers .abort s fun s' =>
        (s'.commit c).decided = some (false, BitVec.ofNat 16 (genOf s c g), m.step, m.attempt)))
    ∧ (CellComes s 0x11 m c who s1 →
      (m.arg % 4 = 1 → Answers .dlog s fun s' => s'.commit c = { s.commit c with decided := some (true, 0, m.step, m.attempt) } ∧ CellFrame s1 s')
      ∧ (m.arg % 4 ≠ 1 → Answers .dlog s fun s' => s'.commit c = { s.commit c with
          decided := some (false, BitVec.ofNat 16 (m.arg / 2 ^ 16), m.step, m.attempt), nextGen := some (BitVec.ofNat 16 (m.arg / 2 ^ 16 + 1)) } ∧ CellFrame s1 s'))
    ∧ (CellComes s 0x04 m c who s1 → s.present c m = true → (s.commit c).phase = 0 →
      (m.arg % 4 = 1 → (s.commit c).voted = true → Answers .decide s fun s' => s'.commit c = { s.commit c with commitDue := true } ∧ CellFrame s1 s')
      ∧ (m.arg % 4 = 2 → (s.commit c).commitDue = false → (s.commit c).resend = [] → s.bur.damaged = [] → s.fab.unsent = [] → Answers .decide s fun s' =>
        (s'.commit c).phase = 2 ∧ (s'.commit c).gen = BitVec.ofNat 16 (m.arg / 2 ^ 16) ∧ c ∈ s'.upe.halted
        ∧ (∀ t, t < 192 → s.ctxOf t = some c → (s'.tile t).seq ≠ .running ∧ (s'.tile t).seq ≠ .waiting ∧ ∀ i, (s'.tile t).reg i = (s.tile t).reg i)
        ∧ (∀ t, s.ctxOf t ≠ some c → s'.tile t = s.tile t) ∧ (∀ r, r ∈ s'.fab.reqs → r.mgmt = true ∨ r.ctx ≠ c) ∧ ∀ j, j ∈ s'.cle.runs → j.ctx ≠ c))
    ∧ (∀ ok gen y, CellComes s 0x0C m c who s1 → (s.commit c).decided = some (ok, gen, m.step, m.attempt) → s1.groupOf c = some g →
      (s1.memberList g).find? (fun z => decide (z.1 = who)) = some y → s.fab.unsent = [] → (y.1 ≠ s.ownLc → s.cached y.2 = none) → Answers .query s fun s' =>
      MemberTold s1 s' c y { s.ctxCell c 0x04 (if ok then 1 else 2 + gen.toNat * 2 ^ 16) with step := m.step, attempt := m.attempt }
      ∧ s'.commit c = s.commit c ∧ CellFrame s1 s')
    ∧ (∀ gen, CellComes s 0x05 m c who s1 → (s.commit c).decided = some (false, gen, m.step, m.attempt) → s.coordinates c = true → Answers .quiesced s fun s' =>
      who ∈ (s'.commit c).quiescers ∧ (∀ q, q ∈ (s.commit c).quiescers → q ∈ (s'.commit c).quiescers)
      ∧ (s1.groupOf c = some g → (s.commit c).dead = none →
        (∀ y, y ∈ s1.memberList g → y.1 = who ∨ y.1 ∈ (s.commit c).quiescers) → (s'.commit c).resetSent = true))
    ∧ (CellComes s 0x06 m c who s1 → (s.commit c).phase = 4 → s.bur.streaming = none → m.arg < 2 ^ 32 → s.sync.count.toNat + 2 ^ 33 < 2 ^ 64 → Answers .reset s fun s' =>
      (∃ r, s'.commit c = { s.commit c with phase := 5, resetAt := some r } ∧ r.toNat % 2 ^ 32 = m.arg ∧ s.sync.count.toNat < r.toNat
        ∧ r.toNat ≤ s.sync.count.toNat + 2 ^ 32) ∧ CellFrame s1 s')

/-- HEARTBEAT_TIMER, HEARTBEAT_MISS, PROBE_TIMEOUT, STANDBY_COPY_DONE, HEARTBEAT, DYING, TAKEOVER_REQ, PROBE, PROBE_ACK, GRANT, MGMT_FENCE, HANDOVER, ASSIGN and
MGMT_READY (R362 to R366): heartbeats, the probe of a suspect, the grant of a takeover, and the hand-over to a standby pair.
Where the rules leave a choice, and where a command's condition does not hold, it is the model's (log entries 1 and 23). -/
def Obligations.Takeovers : Prop :=
  ∀ (s : State), Awake s →
    (∀ tw, tw = s.fld burPage 0x348 12 20 → tw ≠ 0 → s.bur.hbAt + max 20 (s.fld burPage 0x348 0 8) * 1000 ≤ s.time → s.fab.unsent = [] → s.cached tw = none →
      Answers .heartbeatTimer s fun s' => OneCell s' 256 tw { kind := 0x01, group := 0, attempt := 0, step := 0, arg := 0 }
      ∧ s'.bur = { s.bur with hbAt := s.time, missed := if s.bur.beatSeen then 0 else s.bur.missed + 1, beatSeen := false } ∧ TilesSame s s' ∧ MemSame s s')
    ∧ (s.bur.missed < max 1 (s.fld burPage 0x348 8 4) → Answers .heartbeatMiss s fun s' => s' = s)
    ∧ (∀ c, max 1 (s.fld burPage 0x348 8 4) ≤ s.bur.missed → s.bur.twinLost = false → s.bur.settee = 0 → s.groupCtxs = [c] → (s.commit c).held = false →
      (s.commit c).cr.coordLc.toNat ≠ twinOf s.ownLc → CanTell s c → Answers .heartbeatMiss s fun s' => s'.bur.twinLost = true
      ∧ Told s s' c (s.ctxCell c 0x07 (twinOf s.ownLc)) ∧ TilesSame s s' ∧ MemSame s s')
    ∧ (∀ (c : Fin 256) sus ask t (y : State) g, (s.commit c).probing = some (sus, ask, t) →
      (y = match (s.commit c).askedBy with | some x => s.acceptReq x (s.flowNow (pktFlow x.pkt)) ask | none => s) →
      t + max 50 (s.fld burPage 0x350 16 16) * 1000 ≤ s.time → y.groupOf c = some g → Answers (.probeTimeout c) s fun s' =>
      (s'.commit c).probing = none ∧ (s'.commit c).dead = some (sus, ask) ∧ (BitVec.ofNat 13 sus, BitVec.ofNat 13 ask) ∈ s'.bur.remapDue
      ∧ (s'.commit c).decided = some (false, BitVec.ofNat 16 (genOf s c g), (s.stepOf c).toNat % 2 ^ 32, s.attemptOf c))
    ∧ (∀ lc c step att, s.bur.assigned = some (lc, c, step, att) → c < 256 → (s.commit c).cr.nmirror = 0 → Answers .standbyCopyDone s fun s' =>
      s'.bur.assigned = none ∧ s'.bur.settee = 0 ∧ (∀ i, i < 4 → s'.fld (rtrPage i) 0x118 0 13 = lc.toNat ∧ s'.attemptOf c i = att % 256
        ∧ (Tab.get 0 s'.upe.c (i * 256 + c)).toNat % 2 ^ 32 = (step + 2 ^ 32 - 1) % 2 ^ 32) ∧ (s'.commit c).phase = 4)
    ∧ (∀ (x : Inbound) (e : Flow) (o : Opened) (m : Cell),
      (CellArrived s 0x01 x e o m → o.owner = twinOf s.ownLc → Answers .heartbeat s fun s' => OnlyRecord x e s s'
        ∧ s'.bur = { s.bur with beatSeen := true, missed := 0, twinLost := false, settee := if s.bur.settee = 1 then 0 else s.bur.settee })
      ∧ (CellArrived s 0x0D x e o m → o.owner = twinOf s.ownLc → s.bur.settee = 0 → Answers .dying s fun s' => s'.bur.twinLost = true)
      ∧ (CellArrived s 0x0B x e o m →
        (o.tsel = true → Answers .mgmtFence s fun s' => s'.pkg = s.pkg ∧ s'.bur = s.bur ∧ OnlyRecord x e s s')
        ∧ (o.tsel = false → Answers .mgmtFence s fun s' => FailStopped s' ∧ (s'.page burPage).err.valid = true))
      ∧ ∀ c, s.ctxOfGroup m.group = some c → NoOwn s 0x07 →
        (∀ g y, CellArrived s 0x07 x e o m → s.groupOf c = some g → (s.memberList g).find? (fun z => decide (z.1 = m.arg % 2 ^ 13)) = some y → s.coordinates c = true →
          (s.commit c).probing = none → s.fab.unsent = [] → (y.1 ≠ s.ownLc → s.cached y.2 = none) → Answers .takeoverReq s fun s' =>
          s'.commit c = { s.commit c with probing := some (y.1, o.owner, s.time), askedBy := some x } ∧ MemberTold s s' c y (s.ctxCell c 0x08 0) ∧ TilesSame s s' ∧ MemSame s s')
        ∧ (CellArrived s 0x07 x e o m → s.coordinates c = false → Answers .takeoverReq s fun s' => Nacked x e o 2 s s' ∧ s'.commit c = s.commit c ∧ TilesSame s s'))
    ∧ (∀ (m : Cell) (c : Nat) (d : List Byte) (rest : List (Nat × List Byte)) g y, s.bur.own = (c, d) :: rest → m = cellOf d → m.kind = 0x07 → s.groupOf c = some g →
      (s.memberList g).find? (fun z => decide (z.1 = m.arg % 2 ^ 13)) = some y → (s.commit c).probing = none → s.fab.unsent = [] → (y.1 ≠ s.ownLc → s.cached y.2 = none) →
      Answers .takeoverReq s fun s' => s'.commit c = { s.commit c with probing := some (y.1, s.ownLc, s.time), askedBy := none }
      ∧ MemberTold { s with bur := { s.bur with own := rest } } s' c y (s.ctxCell c 0x08 0) ∧ TilesSame s s' ∧ MemSame s s')
    ∧ ∀ (s1 : State) (m : Cell) (c who : Nat),
        (CellComes s 0x08 m c who s1 → CanTell s c → Answers .probe s fun s' => Told s1 s' c (s.ctxCell c 0x09 0) ∧ CellFrame s1 s')
        ∧ (∀ ask t y, CellComes s 0x09 m c who s1 → (s.commit c).probing = some (who, ask, t) → (s.commit c).askedBy = some y → Answers .probeAck s fun s' =>
          s'.commit c = { s.commit c with probing := none, askedBy := none } ∧ TilesSame s s' ∧ ∃ s2, s' = State.refuseReq s2 y (s2.flowNow (pktFlow y.pkt)) ask)
        ∧ (∀ ask t, CellComes s 0x09 m c who s1 → (s.commit c).probing = some (who, ask, t) → (s.commit c).askedBy = none → Answers .probeAck s fun s' =>
          s'.commit c = { s.commit c with probing := none } ∧ (s'.page burPage).err.valid = true ∧ TilesSame s s')
        ∧ (CellComes s 0x0A m c who s1 → s.bur.levels = [] → Answers .grant s fun s' =>
          s'.takenLc = some (m.arg % 2 ^ 13) ∧ s'.bur.settee = 2 ∧ s'.bur.heldLc.toNat = m.arg % 2 ^ 13 ∧ (s'.page burPage).err.valid = true
          ∧ (s.takenLc ≠ some (m.arg % 2 ^ 13) → Raised burPage 22 s' ∧ (BitVec.ofNat 13 m.arg, BitVec.ofNat 13 s.ownLc) ∈ s'.bur.remapDue))
        ∧ (CellComes s 0x0E m c who s1 → s.bur.settee = 2 → Answers .handover s fun s' => s'.bur.settee = 3
          ∧ s'.bur.streaming = some (BitVec.ofNat 13 m.arg, BitVec.ofNat 13 (m.arg / 2 ^ 13)))
        ∧ (CellComes s 0x0F m c who s1 → s.bur.settee = 4 → Answers .assign s fun s' =>
          s'.bur = { s1.bur with assigned := some (BitVec.ofNat 13 m.arg, c, m.step, m.attempt) } ∧ CellFrame s1 s')
        ∧ (∀ d sv i g p q, CellComes s 0x10 m c who s1 → (s.commit c).dead = some (d, sv) → (s.commit c).standby = some i → s1.groupOf c = some g →
          (s1.standbyList g)[i]? = some (p, q) → m.arg % 2 ^ 13 = d ∨ m.arg % 2 ^ 13 = sv → Answers .mgmtReady s fun s' =>
          m.arg % 2 ^ 13 ∈ (s'.commit c).readies
          ∧ (BitVec.ofNat 13 m.arg, BitVec.ofNat 13 (if m.arg % 2 ^ 13 = d then p.1 else q.1)) ∈ s'.bur.remapDue)

/-- CT_BASE, SETTEE_RETRY, QUARANTINE, PKG_QUIESCE, PKG_READY and WARM_RESET (R348, R365, R367 to R369) by the provider.
Where the rules leave a choice, and where a command's condition does not hold, it is the model's (log entries 1 and 23, 25). -/
def Obligations.PackageControls : Prop :=
  ∀ (s : State) (a : Access), ByBureau s a burPage →
    (∀ base : BitVec 52, s.busy burPage = false → Answers (.ctBase a base) s fun s' => (s'.raw burPage 0x340).toNat % 2 ^ 52 = base.toNat
      ∧ (∀ c, c < 256 → (s'.commit c).cr = s'.readRecord c ∧ ((s'.readRecord c).bad = true → (s'.commit c).held = true ∧ c ∈ s'.upe.halted)) ∧ MemSame s s')
    ∧ ((∀ e, e ∈ s.bur.commits → (s.commit e.1).noStandby = false) → Answers (.setteeRetry a) s fun s' => s' = s)
    ∧ (∀ c g i p q d sv, s.bur.commits.map Prod.fst = [c] → (s.commit c).noStandby = true → s.groupOf c = some g → (s.commit c).resetSent = false →
      (s.commit c).dead = some (d, sv) → (s.commit c).standby = none → (∀ m, m ∈ s.memberList g → m.1 = d ∨ m.1 ∈ (s.commit c).quiescers) →
      ((List.range g.sb).find? fun j => !(s.commit c).spent.contains j) = some i → (s.standbyList g)[i]? = some (p, q) → Answers (.setteeRetry a) s fun s' =>
      (s'.commit c).standby = some i ∧ i ∈ (s'.commit c).spent ∧ (s'.commit c).noStandby = false ∧ MemSame s s')
    ∧ (Answers (.quarantine a) s fun s' => FailStopped s' ∧ s'.bur.quarantined = true ∧ Raised burPage 24 s' ∧ (s'.page burPage).err.valid = true)
    ∧ (Answers (.pkgQuiesce a) s fun s' =>
      (∀ n, n < 1781 → (s'.page n).quiesceBit = true ∧ (s'.page n).savedEnable = some (s.enabled n) ∧ s'.admits n = false
        ∧ (blockOf n ≠ .seq → s.busy n = false → (s'.page n).quiesced = true)
        ∧ (blockOf n = .seq → (s'.page n).quiesced = true))
      ∧ (∀ t, (s'.tile t).pc = (s.tile t).pc ∧ (s'.tile t).seq = (s.tile t).seq ∧ ∀ r, (s'.tile t).reg r = (s.tile t).reg r) ∧ MemSame s s')
    ∧ ((∀ n, n < 1781 → (s.page n).heldGo = false ∧ (s.page n).readyFlows = []) → s.fab.unsent = [] → s.fab.held = [] → Answers (.pkgReady a) s fun s' =>
      (∀ n, n < 1781 → (s'.page n).quiesced = false ∧ (s'.page n).quiescing = false ∧ (s'.page n).quiesceBit = false ∧ (s'.page n).savedEnable = none
        ∧ s'.enabled n = ((s.page n).savedEnable).getD (s.enabled n))
      ∧ (∀ t, (s'.tile t).pc = (s.tile t).pc ∧ (s'.tile t).seq = (s.tile t).seq ∧ ∀ r, (s'.tile t).reg r = (s.tile t).reg r) ∧ MemSame s s')
    ∧ (s.pkgQuiesced = false → Answers (.warmReset a) s fun s' => Rejected burPage 0x370 s s' ∧ PageFrame s s')
    ∧ (s.pkgQuiesced = true → Answers (.warmReset a) s fun s' => s'.pkg.stage = 1 ∧ s'.upe.c = s.upe.c ∧ s'.cle.attempt = s.cle.attempt
      ∧ s'.bur.quarantined = s.bur.quarantined ∧ s'.tiles = [] ∧ s'.key.owner = [] ∧ s'.key.keys = [] ∧ s'.time = s.time ∧ s'.pkg.powered = s.pkg.powered
      ∧ (∀ st, st < 4 → s'.raw (rtrPage st) 0x110 = s.raw (rtrPage st) 0x110 ∧ s'.raw (rtrPage st) 0x118 = s.raw (rtrPage st) 0x118)
      ∧ (∀ n, n < 1781 → (s'.page n).epoch = (s.page n).epoch + 1 ∧ (s'.page n).cause = 0 ∧ (s'.page n).err = (s.page n).err) ∧ (s.fab.cache = [] → MemSame s s'))

/-- No line of die st that p picks is present, or is dirty. -/
def Sys2Proof.Spec.NoLines (s' : State) (st : Nat) (p : Line → Bool) : Prop := ∀ l, lineDie l = st → ¬ ((s'.mem.line l).there = true ∧ p (s'.mem.line l) = true)

/-- XLAT_GO, XLAT_DONE, FLUSH, MSC_INVAL_ALL, FLUSH_DONE, HALF_OFF and HALF_EMPTY (R244, R252): what becomes of the lines and of the state bits; no byte of
memory changes its value by any of them.
Where the rules leave a choice, and where a command's condition does not hold, it is the model's (log entries 1 and 8). -/
def Obligations.CacheMaintenance : Prop :=
  ∀ (s : State) (a : Access) (st : Fin 4), ByBureau s a (mscPage st) →
    (∀ (c : Fin 256) (all : Bool) (b n : BitVec 27),
      (s.mem.xlatBusy = false → Answers (.xlatGo a c all b n) s fun s' => s'.mem = { s.mem with xlatBusy := true } ∧ TilesSame s s'
        ∧ (s'.raw (mscPage 0) 0x118).toNat % 2 ^ 8 = c ∧ (s'.raw (mscPage 0) 0x118).getLsbD 8 = all)
      ∧ (s.mem.xlatBusy = true → Answers (.xlatGo a c all b n) s fun s' => Rejected (mscPage 0) 0x118 s s' ∧ s'.mem = s.mem ∧ TilesSame s s'))
    ∧ (s.mem.xlatBusy = true → (∀ c, c < 256 → s.accessing c = false) → Answers .xlatDone s fun s' => s'.mem = { s.mem with xlatBusy := false }
      ∧ Raised (mscPage 0) 6 s' ∧ TilesSame s s' ∧ s'.fab = s.fab)
    ∧ ((s.raw (mscPage 0) 0x118).getLsbD 8 = false → s.accessing ((s.raw (mscPage 0) 0x118).toNat % 2 ^ 8) = true → Answers .xlatDone s fun s' => s' = s)
    ∧ (Answers (.flush a st) s fun s' => s'.mem.flushing.getLsbD st = true ∧ NoLines s' st Line.dirty
      ∧ (∀ l, (s'.mem.line l).there = (s.mem.line l).there) ∧ MemSame s s' ∧ TilesSame s s')
    ∧ (Answers (.mscInvalAll a st) s fun s' => s'.mem.flushing.getLsbD st = true ∧ NoLines s' st (fun _ => true)
      ∧ (∀ l, lineDie l ≠ st → s'.mem.line l = s.mem.line l) ∧ MemSame s s' ∧ TilesSame s s')
    ∧ (s.mem.flushing.getLsbD st = true → Answers (.flushDone st) s fun s' => s'.mem.flushing.getLsbD st = false ∧ Raised (mscPage st) 4 s' ∧ MemSame s s'
      ∧ TilesSame s s')
    ∧ (s.mem.flushing.getLsbD st = false → Answers (.flushDone st) s fun s' => s' = s)
    ∧ (∀ h : BitVec 2, s.mem.flushing.getLsbD st = false → (∀ i, i < 2 → s.pkg.powered.getLsbD (64 + 2 * st + i) = true) →
      (∀ i, i < 2 → s.mem.off st i = (s.raw (mscPage st) 0x108).getLsbD (2 + i)) → Answers (.halfOff a st h) s fun s' =>
      (∀ i, i < 2 → s'.mem.off st i = h.getLsbD i ∧ (s.mem.off st i = false → h.getLsbD i = true → NoLines s' st fun x => decide (x.upper = decide (i = 1))))
      ∧ (∀ l, lineDie l ≠ st → s'.mem.line l = s.mem.line l) ∧ MemSame s s' ∧ TilesSame s s')
    ∧ (∀ h : Fin 2, s.mem.off st h = true → (∀ e, e ∈ s.mem.lines → ¬ (e.2.there = true ∧ lineDie e.1 = st ∧ e.2.upper = decide (h.val = 1))) →
      s.mem.halfEmpty.getLsbD (2 * st + h) = false → Answers (.halfEmpty st h) s fun s' => s'.mem.halfEmpty.getLsbD (2 * st + h) = true
      ∧ Raised (mscPage st) 5 s' ∧ { s'.mem with halfEmpty := s.mem.halfEmpty } = s.mem ∧ TilesSame s s')

/-- THERM_SAMPLE, PATROL_SCRUB, DIE_THERMAL_SAMPLE, POWER_CAP_TICK and RAIL_SAMPLE (R248, R253, R255, R411, R412, R425): the throttle and cap
steps move by at most one; a stack or die at its critical temperature trips and stops the package, as does a lost rail. -/
def Sys2Proof.Spec.HeatAndPower : Prop :=
  ∀ (s : State), Awake s →
    (∀ h : Fin 16, s.stackOn h = true → ∀ pg, pg = hmcPage h → ∀ k, k = s.fld pg 0x108 8 3 →
      (∀ t, t < 256 → t < s.tCrit h → Answers (.thermSample h (some t)) s fun s' => s'.fld pg 0x108 0 8 = t ∧ s'.fld pg 0x108 11 1 = 1
        ∧ s'.fld pg 0x108 8 3 = (if k < 4 ∧ s.tThrottle h + 3 * k ≤ t then k + 1 else if 0 < k ∧ t + s.tHyst h < s.tThrottle h + 3 * (k - 1) then k - 1 else k)
        ∧ (s'.fld pg 0x108 8 3 ≠ k → Raised pg 4 s') ∧ s'.pkg = s.pkg ∧ Tab.get 0 s'.mem.badTemp h = 0 ∧ TilesSame s s' ∧ MemSame s s')
      ∧ (∀ t, t < 256 → s.tCrit h ≤ t → Answers (.thermSample h (some t)) s fun s' => FailStopped s' ∧ s'.pkg.thermtrip = true ∧ Raised thmPage 5 s'
        ∧ Raised pg 7 s' ∧ (s'.page pg).err.valid = true)
      ∧ (Tab.get 0 s.mem.badTemp h + 1 ≠ 3 → Answers (.thermSample h none) s fun s' => s'.fld pg 0x108 11 1 = 0 ∧ s'.fld pg 0x108 8 3 = k
        ∧ (s'.page pg).cause = (s.page pg).cause ∧ TilesSame s s' ∧ MemSame s s')
      ∧ (Tab.get 0 s.mem.badTemp h + 1 = 3 → Answers (.thermSample h none) s fun s' => s'.fld pg 0x108 11 1 = 0 ∧ s'.fld pg 0x108 8 3 = 4 ∧ Raised pg 8 s'
        ∧ (s'.page pg).err.valid = true ∧ TilesSame s s' ∧ MemSame s s')
      ∧ (s.fld pg 0x110 0 8 ≠ 0 → (Answers (.patrolScrub h .clean) s fun s' => s' = s) ∧ ∀ x, homeOf x = h →
        (Answers (.patrolScrub h (.corrected x)) s fun s' => Reported pg 1 0x0C0 s s' ∧ Raised pg 5 s' ∧ TilesSame s s' ∧ MemSame s s')
        ∧ (Answers (.patrolScrub h (.uncorrectable x)) s fun s' => Reported pg 3 0x0C5 s s' ∧ Raised pg 6 s' ∧ TilesSame s s' ∧ MemSame s s'
          ∧ ∃ f, s'.bur.fatals = s.bur.fatals ++ [f] ∧ f.code = 0x0C5 ∧ f.sev = 3 ∧ f.loc = BitVec.ofNat 64 (1 + x / 32 * 32))))
    ∧ (∀ (d : Fin 4) (t k : Nat), k = s.dieStep d →
      (t < s.dieCrit → Answers (.dieThermalSample d t) s fun s' => s'.fld thmPage 0x108 (8 * d) 8 = min 255 t
        ∧ s'.dieStep d = (if s.dieThrottle ≤ t ∧ k < 7 then k + 1 else if t + s.dieHyst < s.dieThrottle ∧ 0 < k then k - 1 else k)
        ∧ (∀ e, e < 4 → e ≠ d → s'.dieStep e = s.dieStep e) ∧ (s'.dieStep d ≠ k → Raised thmPage 4 s') ∧ s'.pkg = s.pkg ∧ TilesSame s s' ∧ MemSame s s')
      ∧ (s.dieCrit ≤ t → Answers (.dieThermalSample d t) s fun s' => FailStopped s' ∧ s'.pkg.thermtrip = true ∧ (s'.page thmPage).err.valid = true))
    ∧ (∀ w k, k = s.capStep → Answers (.powerCapTick w) s fun s' => s'.fld pwrPage 0x118 0 12 = min 4095 w
      ∧ s'.fld pwrPage 0x118 16 12 = max (s.fld pwrPage 0x118 16 12) (min 4095 w)
      ∧ s'.capStep = (if s.limitW < w ∧ k < 7 then k + 1 else if w + 50 < s.limitW ∧ 0 < k then k - 1 else k) ∧ (s'.capStep ≠ k → Raised pwrPage 4 s')
      ∧ (k = 7 → s.limitW < w → 99 ≤ s.pkg.capHot → s.pkg.capOnce = false → (s'.page pwrPage).err.valid = true) ∧ TilesSame s s' ∧ MemSame s s')
    ∧ (∀ r, Answers (.railSample r .inRange) s fun s' => s' = s)
    ∧ (∀ r l, l = RailLevel.below ∨ l = RailLevel.above → r ≠ .vddBase → r ≠ .vddIo → Answers (.railSample r l) s fun s' => FailStopped s'
      ∧ (s'.page pwrPage).err.valid = true)
    ∧ (∀ r, r = Rail.vddBase ∨ r = Rail.vddIo → Answers (.railSample r .below) s fun s' => s'.pkg.porst = true ∧ s'.tiles = [] ∧ s'.mem.hbm = [] ∧ s'.fab = {}
      ∧ s'.host.flash = s.host.flash ∧ s'.pkg.thermtrip = s.pkg.thermtrip)

/-- REFCLK_LOSS (R409): a Package-fatal error of code 0x183, and the package fail-stops. -/
def Obligations.ReferenceClockLossStops : Prop :=
  ∀ (s : State), Awake s → Answers .refclkLoss s fun s' => Reported pwrPage 4 0x183 s s' ∧ FailStopped s'

/-- RAIL_SAMPLE of a rail beyond its absolute maximum, about which the manual says nothing more than that the package is not to be used so (R425). -/
def Sys2Proof.Spec.AbsoluteMaximumStops : Prop := ∀ (s : State) (r : Rail), exec (.railSample r .aboveAbsMax) s = .fault (.beyondAbsoluteMaximum r)

/-- Temperatures, power and rails (R248, R253, R255, R411, R412, R425).
Where the rules leave a choice, and where a command's condition does not hold, it is the model's (log entries 1 and 8, 13). -/
def Obligations.HeatAndRails : Prop := Spec.HeatAndPower ∧ Spec.AbsoluteMaximumStops

/-- QUAD_ON, HBM_ON, MSC_ON and DOMAIN_SWITCH_DONE (R405 to R407): the domains whose bits change and whose conditions hold begin to switch, off at once; one
that has finished is blank, and usable if it was switched on.
Where the rules leave a choice it is the model's (log entry 25). -/
def Obligations.PowerDomains : Prop :=
  ∀ (s : State) (a : Access), ByBureau s a pwrPage →
    (∀ (c : Instr) (ds : List Nat) (want : Nat → Bool),
      (∃ b, c = .quadOn a b ∧ ds = List.range 48 ∧ ∀ d, want d = b.getLsbD d) ∨ (∃ b, c = .hbmOn a b ∧ ds = (List.range 16).map (48 + ·) ∧ ∀ d, want d = b.getLsbD (d - 48))
        ∨ (∃ b, c = .mscOn a b ∧ ds = (List.range 8).map (64 + ·) ∧ ∀ d, want d = b.getLsbD (d - 64)) →
      (s.pkg.switching = [] → Answers c s fun s' =>
        (∀ d, d ∈ ds → want d ≠ s.onBit d → (if want d then s.mayOn d else s.mayOff d) = true →
          s'.onBit d = want d ∧ (d, want d) ∈ s'.pkg.switching ∧ s'.pkg.powered.getLsbD d = (want d && s.pkg.powered.getLsbD d))
        ∧ (∀ d, d ∈ ds → want d ≠ s.onBit d → (if want d then s.mayOn d else s.mayOff d) = false → s'.onBit d = s.onBit d ∧ (s'.page pwrPage).writeRejected = true)
        ∧ (∀ d, d < 72 → d ∉ ds ∨ want d = s.onBit d → s'.onBit d = s.onBit d ∧ s'.pkg.powered.getLsbD d = s.pkg.powered.getLsbD d)
        ∧ TilesSame s s' ∧ MemSame s s')
      ∧ (s.pkg.switching ≠ [] → Answers c s fun s' => (s'.page pwrPage).writeRejected = true ∧ (∀ d, s'.onBit d = s.onBit d) ∧ s'.pkg = s.pkg ∧ TilesSame s s'
        ∧ MemSame s s'))
    ∧ (∀ (d : Fin 72) (on : Bool), s.pkg.switching = [(d.val, on)] → Answers (.domainSwitchDone d) s fun s' => s'.pkg.switching = []
      ∧ s'.pkg.powered.getLsbD d = (on || s.pkg.powered.getLsbD d) ∧ (∀ e, e ≠ d.val → s'.pkg.powered.getLsbD e = s.pkg.powered.getLsbD e)
      ∧ (d.val < 48 → (∀ t, t ∈ quadTiles d → s'.tile t = {}) ∧ (∀ t, t ∉ quadTiles d → s'.tile t = s.tile t) ∧ MemSame s s')
      ∧ (48 ≤ d.val → TilesSame s s' ∧ ∀ x, s'.mem.byte x = if d.val < 64 ∧ homeOf x = d.val - 48 then 0 else s.mem.byte x))

/-- A context descriptor that R326 accepts: VALID, its reserved bits 0, TFLOW a multiple of 4, the level-1 table and the save area wholly in local HBM. -/
def Sys2Proof.Spec.GoodDesc (d : CtxDesc) : Prop :=
  d.w0.getLsbD 0 = true ∧ d.w0.toNat / 2 ^ 2 % 2 ^ 19 = 0 ∧ d.w0.toNat / 2 ^ 52 = 0 ∧ d.w1.toNat / 2 ^ 48 = 0 ∧ d.w3.toNat / 2 ^ 20 % 2 ^ 12 = 0
    ∧ d.w4.toNat / 2 ^ 4 = 0 ∧ d.w6 = 0 ∧ d.w7 = 0 ∧ d.w3.toNat % 4 = 0 ∧ d.w0.toNat / 2 ^ 21 % 2 ^ 31 * 2 ^ 21 + 2 ^ 21 ≤ hbmBytes
    ∧ d.w2.toNat % 2 ^ 21 = 0 ∧ d.w2.toNat + ((List.range 48).filter fun q => d.w1.getLsbD q).length * 2 ^ 25 ≤ hbmBytes

/-- The descriptor of context c as memory holds it, at 64 bytes a context from the base that KEY names. -/
def Sys2Proof.Spec.descIn (s : State) (c : Nat) : CtxDesc :=
  let w (i : Nat) : Word := BitVec.ofNat 64 (ofBytes (s.mem.bytes ((s.raw (keyPage 0) 0x100).toNat % 2 ^ 52 + 64 * c + 8 * i) 8))
  { w0 := w 0, w1 := w 1, w2 := w 2, w3 := w 3, w4 := w 4, w5 := w 5, w6 := w 6, w7 := w 7 }

/-- A switch of quad q has begun: the sequencers of its tiles that run or wait are stopped, and nothing else of them changes. -/
def Sys2Proof.Spec.SwitchBegun (q : Nat) (s s' : State) : Prop :=
  s'.key.refused = false ∧ s'.key.owner = s.key.owner ∧ MemSame s s'
    ∧ (∀ t, t ∈ quadTiles q → s'.tile t = { s.tile t with stopped := (s.tile t).stopped || decide ((s.tile t).seq = .running ∨ (s.tile t).seq = .waiting) })
    ∧ ∀ t, t ∉ quadTiles q → s'.tile t = s.tile t

/-- A switch was refused with a code: nothing but SWITCH and the KEY page changes. -/
def Sys2Proof.Spec.SwitchRefused (code : Nat) (s s' : State) : Prop :=
  s'.key = { s.key with refused := true } ∧ Reported (keyPage 0) 2 code s s' ∧ TilesSame s s' ∧ MemSame s s'

/-- SWITCH_RESTORE, SWITCH_CLEAR, SWITCH_VACATE and SWITCH_DONE (R95, R326 to R329) by the provider. One under way rejects another; an unpowered or unlisted
quad and a bad descriptor are refused; else the quad's sequencers stop. Once the started work has drained, the resident context is saved and the tiles hold the
arriving context's saved state, or are clear. -/
def Sys2Proof.Spec.ContextSwitches : Prop :=
  ∀ (s : State) (a : Access), ByBureau s a (keyPage 0) →
    (∀ (i : Instr) (q : Fin 64) (c : Fin 256) (mode : Nat), (i = .switchRestore a q c ∧ mode = 0) ∨ (i = .switchClear a q c ∧ mode = 1)
        ∨ (i = .switchVacate a q ∧ c = 0 ∧ mode = 2) →
      (∀ w, s.key.switch = some w → Answers i s fun s' => Rejected (keyPage 0) 0x108 s s' ∧ s'.key = s.key ∧ TilesSame s s' ∧ MemSame s s')
      ∧ (s.key.switch = none → 48 ≤ q.val ∨ s.pkg.powered.getLsbD q = false → Answers i s fun s' => SwitchRefused 0x101 s s')
      ∧ (s.key.switch = none → q.val < 48 → s.pkg.powered.getLsbD q = true →
        (mode = 2 → Answers i s fun s' => s'.key.switch = some { quad := q, ctx := 0, mode := 2 } ∧ s'.key.descs = s.key.descs ∧ SwitchBegun q s s')
        ∧ (mode < 2 → (s.raw (keyPage 0) 0x100).toNat % 2 ^ 52 + 256 * 64 ≤ hbmBytes → GoodDesc (descIn s c) → (descIn s c).w1.getLsbD q = true →
          Answers i s fun s' => s'.key.switch = some { quad := q, ctx := c, mode := mode } ∧ (∀ d, s'.desc d = if d = c.val then descIn s c else s.desc d)
            ∧ SwitchBegun q s s')
        ∧ (mode < 2 → hbmBytes < (s.raw (keyPage 0) 0x100).toNat % 2 ^ 52 + 256 * 64 ∨ ¬ GoodDesc (descIn s c) ∨ (descIn s c).w1.getLsbD q = false →
          Answers i s fun s' => SwitchRefused 0x100 s s')))
    ∧ (∀ e, s.key.switch = none → Answers (.switchDone e) s fun s' => s' = s)
    ∧ ∀ (w : Switch), s.key.switch = some w → w.quad < 48 →
      (∀ e t, t ∈ quadTiles w.quad → (s.tile t).drainedFor = false → Answers (.switchDone e) s fun s' => s' = s)
      ∧ ((∀ t, t ∈ quadTiles w.quad → (s.tile t).drainedFor = true) →
        (∀ e old, (e = .clean ∨ ∃ x, e = .corrected x) → old = Tab.get none s.key.owner w.quad → Answers (.switchDone e) s fun s' =>
          s'.key.switch = none ∧ Tab.get none s'.key.owner w.quad = (if w.mode = 2 then none else some w.ctx) ∧ Raised (keyPage 0) 4 s'
          ∧ (∀ q, q ≠ w.quad → Tab.get none s'.key.owner q = Tab.get none s.key.owner q) ∧ MemSame s s'
          ∧ (∀ t, t ∉ quadTiles w.quad → s'.tile t = s.tile t)
          ∧ (∀ t, t ∈ quadTiles w.quad → (∀ o, old = some o → w.mode ≠ 0 ∨ o ≠ w.ctx → Tab.get {} s'.key.saved (o * 192 + t) = s.tile t)
            ∧ (w.mode = 2 → s'.tile t = {})
            ∧ (w.mode = 1 → (∀ r, (s'.tile t).reg r = 0) ∧ (s'.tile t).seq = .idle ∧ (s'.tile t).flights = []
              ∧ ((∀ h, h ∈ s.key.inbox → h.ctx ≠ w.ctx ∨ h.tile ≠ t) → s'.tile t = {}))
            ∧ (∀ k, k = (if old = some w.ctx then s.tile t else Tab.get {} s.key.saved (w.ctx * 192 + t)) → w.mode = 0 →
              (∀ r, (s'.tile t).reg r = k.reg r) ∧ (s'.tile t).pc = k.pc ∧ (s'.tile t).seq = k.seq ∧ (s'.tile t).flights = k.flights ∧ (s'.tile t).acc = k.acc
              ∧ (s'.tile t).stopped = ((s.page (seqPage t)).quiesceBit && decide (k.seq = .running ∨ k.seq = .waiting))
              ∧ ((∀ h, h ∈ s.key.inbox → h.ctx ≠ w.ctx ∨ h.tile ≠ t) → s'.tile t = { k with stopped := (s'.tile t).stopped }))))
        ∧ (∀ x, Answers (.switchDone (.uncorrectable x)) s fun s' => s'.key.switch = none ∧ Tab.get none s'.key.owner w.quad = none
          ∧ (∀ t, t ∈ quadTiles w.quad → s'.tile t = {}) ∧ (∀ t, t ∉ quadTiles w.quad → s'.tile t = s.tile t) ∧ Reported (keyPage 0) 3 0x106 s s'
          ∧ (∃ f, s'.bur.fatals = s.bur.fatals ++ [f] ∧ f.code = 0x106 ∧ f.sev = 3) ∧ Raised (keyPage 0) 4 s' ∧ MemSame s s'))

/-- RELOAD, ERASE, ATT_SESSION_EXPIRY and COARSE_RECORD (R326, R329, R333, R339): the descriptor copied or kept, the key zeroized at once, sessions past 60 s
removed, and the 32 bytes of a coarse record; where its address cannot be written, a Note 0x105, and SEQ counts on. -/
def Sys2Proof.Spec.DescriptorsAndKeys : Prop :=
  ∀ (s : State) (a : Access), ByBureau s a (keyPage 0) →
    (∀ (c : Fin 256),
      (∀ w, s.key.switch = some w → w.ctx = c.val → w.mode < 2 → Answers (.reload a c) s fun s' => Rejected (keyPage 0) 0x110 s s' ∧ s'.key = s.key
        ∧ TilesSame s s' ∧ MemSame s s')
      ∧ ((∀ w, s.key.switch = some w → w.ctx ≠ c.val ∨ 2 ≤ w.mode) →
        ((s.raw (keyPage 0) 0x100).toNat % 2 ^ 52 + 256 * 64 ≤ hbmBytes → GoodDesc (descIn s c) → Answers (.reload a c) s fun s' =>
          (∀ d, s'.desc d = if d = c.val then descIn s c else s.desc d) ∧ { s'.key with descs := s.key.descs } = s.key ∧ TilesSame s s' ∧ MemSame s s')
        ∧ (hbmBytes < (s.raw (keyPage 0) 0x100).toNat % 2 ^ 52 + 256 * 64 ∨ ¬ GoodDesc (descIn s c) → Answers (.reload a c) s fun s' =>
          s'.key = s.key ∧ Reported (keyPage 0) 2 0x100 s s' ∧ TilesSame s s' ∧ MemSame s s'))
      ∧ (Answers (.erase a c false) s fun s' => (∀ d, Tab.get none s'.key.keys d = if d = c.val then none else Tab.get none s.key.keys d)
        ∧ { s'.key with keys := s.key.keys } = s.key ∧ OtherWords (keyPage 0) 0x118 s s' ∧ OtherPages (keyPage 0) s s' ∧ TilesSame s s' ∧ MemSame s s')
      ∧ (Answers (.erase a c true) s fun s' => s'.key = { s.key with mgmt := none } ∧ OtherWords (keyPage 0) 0x118 s s' ∧ OtherPages (keyPage 0) s s'
        ∧ TilesSame s s' ∧ MemSame s s'))
    ∧ (∀ n, Answers (.attSessionExpiry n) s fun s' => (∀ x, x ∈ s'.key.sessions ↔ x ∈ s.key.sessions ∧ ¬ (x.nonce = n ∧ x.opened + 60000000000 < s.time))
      ∧ { s with key := { s.key with sessions := s'.key.sessions } } = s')
    ∧ (∀ pw te ut, (s.key.descs.map Prod.fst).filter (fun c => decide ((s.desc c).w0.getLsbD 0 = true ∧ (s.desc c).w5 ≠ 0)) = [] →
      Answers (.coarseRecord pw te ut) s fun s' => s' = s)
    ∧ (∀ pw te ut c, (s.key.descs.map Prod.fst).filter (fun c => decide ((s.desc c).w0.getLsbD 0 = true ∧ (s.desc c).w5 ≠ 0)) = [c] → s.fab.unsent = [] → s.mem.writes = [] →
      (∀ p, LocalAt s 3 c (s.desc c).w5.toNat 32 true p → Answers (.coarseRecord pw te ut) s fun s' =>
        ofBytes (s'.mem.bytes p 8) = (Tab.get 0 s.key.coarse c).toNat + s.time / 100000000 % 2 ^ 32 * 2 ^ 32
        ∧ ofBytes (s'.mem.bytes (p + 8) 8) = min 0xFFFF (pw / 25) + min 255 (te / 2) * 2 ^ 16 + min 16 ut * 2 ^ 24
        ∧ ofBytes (s'.mem.bytes (p + 16) 16) = 0 ∧ (∀ x, x < p ∨ p + 32 ≤ x → s'.mem.byte x = s.mem.byte x)
        ∧ Tab.get 0 s'.key.coarse c = Tab.get 0 s.key.coarse c + 1 ∧ TilesSame s s')
      ∧ (∀ n, (s.reach 3 (some c) (s.desc c).w5.toNat 32 true).1 = .refused n → Answers (.coarseRecord pw te ut) s fun s' =>
        Tab.get 0 s'.key.coarse c = Tab.get 0 s.key.coarse c + 1 ∧ Reported (keyPage 0) 0 0x105 s s' ∧ TilesSame s s' ∧ MemSame s s'))

/-- The switching of contexts, their descriptors, coarse records and keys (R95, R326 to R340).
Where the rules leave a choice, and where a command's condition does not hold, it is the model's (log entries 1 and 16). -/
def Obligations.ContextsAndKeys : Prop := Spec.ContextSwitches ∧ Spec.DescriptorsAndKeys

/-! ## Host commands and event channels (R334 to R339, R381 to R393) -/

/-- Message m is a whole request of the given OP from session i, in order but for what R387 asks of its SEQ (R381, R383): the port's link is up, bring-up
is complete, the session stands, the address lies in its prefix, the tag is right and BOOT_ID is the present one. -/
def Sys2Proof.Spec.AskedBy (s : State) (op : Nat) (i : Fin 64) (m : Umlon) : Prop :=
  s.hears m.port = true ∧ s.pkg.stage = 7 ∧ s.pkg.stopped = false ∧ s.pkg.bootId ≠ 0 ∧ m.h0.toNat = 1 + op * 2 ^ 16 + m.h0.toNat / 2 ^ 32 * 2 ^ 32
    ∧ m.h1.toNat = i + 2 ^ 32 + m.data.length * 2 ^ 48 ∧ m.h2 = s.pkg.bootId ∧ m.h3 = 0 ∧ (s.session i).valid = true
    ∧ m.addr.toNat / 2 ^ (128 - (s.session i).plen) = (s.session i).pfx.toNat / 2 ^ (128 - (s.session i).plen)
    ∧ m.tag = umTag (s.session i).key m.h0 m.h1 m.h2 m.h3 m.data
/-- Its SEQ is the next one, and nothing waits. -/
def Sys2Proof.Spec.InTurn (s : State) (i : Nat) (m : Umlon) : Prop :=
  (s.session i).waiting = [] ∧ ((s.session i).begun = true → (s.session i).next.toNat = m.h0.toNat / 2 ^ 32)
/-- The answer to m: datagrams to its address that carry the status and, cut into parts, the data, each with its tag (R381, R385). -/
def Sys2Proof.Spec.AnswerSent (s s' : State) (who : Option (Fin 64)) (m : Umlon) (status : Nat) (data : List Byte) : Prop :=
  ∃ pre rs, s'.out = s.out ++ pre ++ rs.map (fun r => Out.umlon m.port (BitVec.ofNat 16 (s.raw (henPage m.port) 0x120).toNat) m.addr r)
    ∧ rs.flatMap Umlon.data = data ∧ rs ≠ [] ∧ ∀ k r, rs[k]? = some r →
      r.data.length ≤ max 1024 (min 8192 ((s.raw (henPage m.port) 0x120).toNat / 2 ^ 16 % 2 ^ 14))
      ∧ r.h0.toNat = 1 + (1 + (if k + 1 < rs.length then 2 else 0)) * 2 ^ 8 + m.h0.toNat / 2 ^ 16 % 2 ^ 8 * 2 ^ 16 + status * 2 ^ 24 + m.h0.toNat / 2 ^ 32 * 2 ^ 32
      ∧ r.h1.toNat = (match who with | none => 0xFFFF | some i => i.val) + k * 2 ^ 16 + rs.length * 2 ^ 32 + r.data.length * 2 ^ 48
      ∧ r.h2 = s.pkg.bootId ∧ r.h3 = 0
      ∧ r.tag = match who with | none => 0 | some i => umTag (s.session i).key r.h0 r.h1 r.h2 r.h3 r.data
/-- Nothing but the host side and counters changes. -/
def Sys2Proof.Spec.HostFrame (s s' : State) : Prop :=
  TilesSame s s' ∧ MemSame s s' ∧ WordsSame s s' ∧ s'.fab = s.fab ∧ s'.sbd = s.sbd ∧ s'.upe = s.upe ∧ s'.cle = s.cle ∧ s'.bur = s.bur
    ∧ s'.sync = s.sync ∧ s'.pkg = s.pkg ∧ s'.time = s.time
/-- The rows of R384 with their OPs. -/
def Sys2Proof.Spec.umRows : List ((Umlon → Instr) × Nat) :=
  [(.identify, 0x01), (.status, 0x02), (.regRead, 0x10), (.regWrite, 0x11), (.evtBind, 0x20), (.evtAck, 0x21), (.attReport, 0x30), (.keyBlob, 0x31),
   (.imagePart, 0x40), (.imageCommit, 0x41), (.qpCreate, 0x50), (.qpDestroy, 0x52), (.mrReg, 0x53), (.mrDereg, 0x54)]
/-- Bytes [lo, lo + n) of a payload, as a number. -/
def Sys2Proof.Spec.part (d : List Byte) (lo n : Nat) : Nat := ofBytes ((d.drop lo).take n)

/-- The rows of R384: what is dropped, held, answered from the record, STALE or NOT_PERMITTED, by R381, R383, R384, R387 and R389.
Where the rules leave a choice, and where a command's condition does not hold, it is the model's (log entries 1 and 26). -/
def Obligations.UmlonOrder : Prop :=
  ∀ (s : State) (m : Umlon) (f : Umlon → Instr) (op : Nat) (i : Fin 64), (f, op) ∈ umRows →
    (s.hears m.port = false → Answers (f m) s fun s' => s' = s)
    ∧ (s.hears m.port = true → m.h0.toNat / 2 ^ 16 % 2 ^ 8 = op → m.h0.toNat % 2 ^ 8 = 1 → m.h1.toNat / 2 ^ 48 = m.data.length → m.h1.toNat % 2 ^ 16 = i →
      m.tag ≠ umTag (s.session i).key m.h0 m.h1 m.h2 m.h3 m.data → Answers (f m) s fun s' =>
        s'.out = s.out ∧ Raised (henPage m.port) 7 s' ∧ s'.host.sessions = s.host.sessions ∧ HostFrame s s' ∧ s'.key = s.key)
    ∧ (s.hears m.port = true → m.h0.toNat / 2 ^ 16 % 2 ^ 8 = op → 2 < op → s.pkg.stage ≠ 7 → Answers (f m) s fun s' =>
        s'.out = s.out ∧ s'.host.sessions = s.host.sessions ∧ HostFrame s s' ∧ s'.key = s.key)
    ∧ (s.hears m.port = true → s.pkg.stage = 7 → s.pkg.stopped = false → m.h0.toNat = 1 + op * 2 ^ 16 + m.h0.toNat / 2 ^ 32 * 2 ^ 32 →
      m.h1.toNat = 0xFFFF + 2 ^ 32 + m.data.length * 2 ^ 48 → m.h3 = 0 → m.tag = 0 → (m.h2 ≠ 0 ∧ m.h2 = s.pkg.bootId) ∨ (m.h2 = 0 ∧ op ≤ 2) → (op ≤ 2 → m.data = []) →
      Answers (f m) s fun s' => (∃ r, AnswerSent s s' none m (if op ≤ 2 then 0 else 3) r ∧ (r = [] ↔ 2 < op)) ∧ s'.host = s.host ∧ HostFrame s s' ∧ s'.key = s.key)
    ∧ (AskedBy { s with pkg := { s.pkg with bootId := m.h2 } } op i m → s.pkg.bootId ≠ m.h2 → Answers (f m) s fun s' =>
        AnswerSent s s' (some i) m 6 [] ∧ s'.host = s.host ∧ HostFrame s s' ∧ s'.key = s.key)
    ∧ (AskedBy s op i m → (s.session i).begun = true → ∀ (ahead behind : Nat),
      ((s.session i).next.toNat + ahead) % 2 ^ 32 = m.h0.toNat / 2 ^ 32 → (m.h0.toNat / 2 ^ 32 + behind) % 2 ^ 32 = (s.session i).next.toNat →
      (0 < ahead → ahead ≤ 64 → (s.session i).waiting = [] → Answers (f m) s fun s' =>
        s'.out = s.out ∧ s'.session i = { s.session i with waiting := [(s.time, m)] } ∧ HostFrame s s' ∧ s'.key = s.key)
      ∧ (64 < ahead → 64 < behind → ahead < 2 ^ 32 → behind < 2 ^ 32 → Answers (f m) s fun s' =>
        s'.out = s.out ∧ s'.host = s.host ∧ HostFrame s s' ∧ s'.key = s.key)
      ∧ (0 < behind → behind ≤ 64 →
        (m.h0.toNat / 2 ^ 32 ∈ (s.session i).lost → Answers (f m) s fun s' =>
          AnswerSent s s' (some i) m 5 [] ∧ s'.host = s.host ∧ HostFrame s s' ∧ s'.key = s.key)
        ∧ (∀ rs, m.h0.toNat / 2 ^ 32 ∉ (s.session i).lost → (s.session i).replies = [(m.h0.toNat / 2 ^ 32, rs)] → Answers (f m) s fun s' =>
          s'.out = s.out ++ rs.map (fun r => Out.umlon m.port (BitVec.ofNat 16 (s.raw (henPage m.port) 0x120).toNat) m.addr r)
          ∧ s'.host = s.host ∧ HostFrame s s' ∧ s'.key = s.key)))
    ∧ (AskedBy s op i m → InTurn s i m → (op = 0x40 ∨ op = 0x41) → (s.session i).prov = false → Answers (f m) s fun s' =>
        AnswerSent s s' (some i) m 3 [] ∧ s'.host.image = s.host.image ∧ s'.host.flash = s.host.flash ∧ HostFrame s s' ∧ s'.key = s.key)

/-- IDENTIFY, STATUS, REG_READ, REG_WRITE, EVT_BIND, EVT_ACK, ATT_REPORT, KEY_BLOB, IMAGE_PART and IMAGE_COMMIT in their turn (R334 to R339, R372, R384, R386,
R388, R391, R393, R404), and an OP that is no command (R384). -/
def Sys2Proof.Spec.UmlonCommands : Prop :=
  ∀ (s : State) (m : Umlon) (i : Fin 64) (x : Session) (d : List Byte), InTurn s i m → x = s.session i → d = m.data →
    (AskedBy s 0x01 i m → d = [] → Answers (.identify m) s fun s' => (∃ sg, sg.length = 7856 ∧ AnswerSent s s' (some i) m 0 (asciiBytes "GVID" ++ toBytes 2 1
        ++ toBytes 2 0x4192 ++ toBytes 16 Config.serial.toNat ++ toBytes 32 Config.attPk.toNat ++ [Config.signer] ++ toBytes 7 0 ++ sg))
      ∧ HostFrame s s' ∧ s'.key = s.key)
    ∧ (AskedBy s 0x02 i m → d = [] → Answers (.status m) s fun s' => (∃ r, AnswerSent s s' (some i) m 0 r ∧ r.length = 32 ∧ part r 0 1 = 7
        ∧ part r 1 1 = 1 + s.bur.settee.toNat % 8 * 2 + (s.raw tstPage 0x100).toNat / 2 ^ 2 % 2 ^ 2 * 2 ^ 4 + (if s.bur.quarantined then 2 ^ 6 else 0)
          + (if s.pkgQuiesced then 2 ^ 7 else 0)
        ∧ part r 2 2 = (s.raw (rtrPage 0) 0x118).toNat % 2 ^ 13 ∧ part r 4 2 = (s.raw (rtrPage 0) 0x110).toNat % 2 ^ 13 ∧ part r 6 2 = min 3 s.bur.levels.length
        ∧ part r 8 8 = s.pkg.bootId.toNat ∧ part r 16 16 = 0) ∧ HostFrame s s' ∧ s'.key = s.key)
    ∧ (AskedBy s 0x10 i m → ∀ n o, n < 1781 → o % 8 = 0 → 0x100 ≤ o → o < 0x400 → blockOf n ∈ [.lde, .mxe, .vxe, .ste, .xce, .tmon, .thm, .tel] →
      (n < 1728 → s.pkg.powered.getLsbD (quadOf (n / 9)) = true) → d = toBytes 8 (pageAddr n o) ++ toBytes 8 0 → x.prov = true →
      Answers (.regRead m) s fun s' => (∃ v : Word, AnswerSent s s' (some i) m 0 (toBytes 8 v.toNat ++ toBytes 8 0) ∧ v &&& ofClass n o .rw = s.raw n o &&& ofClass n o .rw)
        ∧ HostFrame s s' ∧ s'.key = s.key)
    ∧ (AskedBy s 0x11 i m → s.awake = true → ∀ n o v t, n < 1781 → o % 8 = 0 → 0x100 ≤ o → o < 0x400 → blockOf n ∈ [.lde, .mxe, .vxe, .ste, .xce, .tmon, .thm, .tel] →
      (n < 1728 → s.pkg.powered.getLsbD (quadOf (n / 9)) = true) → v < 2 ^ 64 → d = toBytes 8 (pageAddr n o) ++ toBytes 8 v → x.prov = true →
      exec (.registerWrite { source := .host0, role := none } (BitVec.ofNat 64 (pageAddr n o)) (BitVec.ofNat 64 v)) s = .next t →
      Answers (.regWrite m) s fun s' => AnswerSent s s' (some i) m 0 (toBytes 16 0) ∧ WordsSame t s' ∧ TilesSame t s' ∧ MemSame t s' ∧ s'.key = s.key)
    ∧ (AskedBy s 0x20 i m → d.length = 32 → ∀ c, c = part d 0 2 → c < 1781 ∨ 2048 ≤ c ∧ c < 4096 ∧ c % 8 < 4 → part d 3 1 ≤ 2 → part d 4 2 ≤ 64 → part d 10 6 = 0 →
      (part d 2 1 = 1 → x.prov = true ∨ c / 8 = 256 + x.ctx → Answers (.evtBind m) s fun s' => AnswerSent s s' (some i) m 0 []
        ∧ s'.chan c = { s.chan c with bound := true, sess := i, portSel := d.getD 3 0, coalN := max 1 (part d 4 2), coalUs := part d 6 2, addr := (s'.chan c).addr
                                      udp := BitVec.ofNat 16 (part d 8 2), stalled := false, unacked := if (s.chan c).stalled then [] else (s.chan c).unacked }
        ∧ (s'.chan c).addr.toNat = ofBytesBE ((d.drop 16).take 16) ∧ (∀ e, e ≠ c → s'.chan e = s.chan e) ∧ HostFrame s s' ∧ s'.key = s.key)
      ∧ (part d 2 1 = 0 → x.prov = true ∨ c / 8 = 256 + x.ctx → Answers (.evtBind m) s fun s' => AnswerSent s s' (some i) m 0 []
        ∧ (s'.chan c).bound = false ∧ (∀ e, e ≠ c → s'.chan e = s.chan e) ∧ HostFrame s s' ∧ s'.key = s.key)
      ∧ (part d 2 1 ≤ 1 → x.prov = false → c / 8 ≠ 256 + x.ctx → Answers (.evtBind m) s fun s' => AnswerSent s s' (some i) m 3 []
        ∧ s'.host.chans = s.host.chans ∧ HostFrame s s' ∧ s'.key = s.key))
    ∧ (AskedBy s 0x21 i m → d.length = 6 → ∀ c, c = part d 0 2 → c < 4096 → x.prov = true ∨ 256 + x.ctx = c / 8 ∧ c % 8 < 4 → Answers (.evtAck m) s fun s' =>
      AnswerSent s s' (some i) m 0 [] ∧ (∀ e, e ∈ (s'.chan c).unacked ↔ e ∈ (s.chan c).unacked ∧ e.1 ≠ part d 2 4)
      ∧ { s'.chan c with unacked := [] } = { s.chan c with unacked := [] } ∧ (∀ e, e ≠ c → s'.chan e = s.chan e) ∧ HostFrame s s' ∧ s'.key = s.key)
    ∧ (AskedBy s 0x30 i m → ∀ (nonce : BitVec 256) c t, d = toBytesBE 32 nonce.toNat ++ toBytes 2 c ++ toBytes 1 t ++ toBytes 5 0 → c < 256 → t ≤ 1 →
      (x.prov = true ∨ t = 0 ∧ x.ctx = c → s.key.sessions.length < 8 → (s.raw (keyPage 0) 0x100).toNat % 2 ^ 52 + 256 * 64 ≤ hbmBytes → GoodDesc (descIn s c) →
        Answers (.attReport m) s fun s' => ∃ k rep, s'.key = { s.key with sessions := s.key.sessions ++ [k] } ∧ k.nonce = nonce ∧ k.ctx = c ∧ k.target = t
          ∧ k.opened = s.time ∧ k.report = rep ∧ AnswerSent s s' (some i) m 0 rep ∧ rep.length = 18480 ∧ rep.take 8 = asciiBytes "GVAR" ++ toBytes 2 1 ++ toBytes 2 0x4192
          ∧ (rep.drop 24).take 36 = d.take 35 ++ [0] ∧ part rep 128 4 = Config.fwFloor % 2 ^ 32
          ∧ (rep.drop 176).take 32 = sha256 (s.desc c).bytes ∧ HostFrame s s')
      ∧ (x.prov = true → 8 ≤ s.key.sessions.length → Answers (.attReport m) s fun s' => AnswerSent s s' (some i) m 1 [] ∧ Reported (keyPage 0) 2 0x102 s s'
        ∧ s'.key = s.key ∧ TilesSame s s' ∧ MemSame s s'))
    ∧ (AskedBy s 0x31 i m → ∀ (nonce : BitVec 256) ct wr, d = asciiBytes "GVKB" ++ toBytes 2 1 ++ toBytes 2 0 ++ toBytesBE 32 nonce.toNat ++ ct ++ wr →
      ct.length = 1088 → wr.length = 40 →
      (∀ k key, s.key.sessions = [k] → k.nonce = nonce → x.prov = true ∨ k.ctx = x.ctx → s.time ≤ k.opened + 60000000000 →
        kwUnwrap (hkdf32 (toBytesBE 32 nonce.toNat) (toBytesBE 32 (Config.kemSecret k.draw ct).toNat) (sha256 (k.report.take 1392))) wr = some key →
        Answers (.keyBlob m) s fun s' => AnswerSent s s' (some i) m 0 [] ∧ HostFrame s s' ∧ s'.key = { s.key with
          sessions := [], arriving := s.key.arriving ++ [(if k.target = 1 then none else some k.ctx, BitVec.ofNat 256 (ofBytesBE key))] })
      ∧ ((∀ k, k ∈ s.key.sessions → k.nonce ≠ nonce) → Answers (.keyBlob m) s fun s' => AnswerSent s s' (some i) m 1 [] ∧ Reported (keyPage 0) 2 0x103 s s'
        ∧ Raised (keyPage 0) 6 s' ∧ s'.key = s.key ∧ TilesSame s s' ∧ MemSame s s'))
    ∧ (AskedBy s 0x40 i m → x.prov = true → Answers (.imagePart m) s fun s' => AnswerSent s s' (some i) m 0 [] ∧ s'.host.image = s.host.image ++ d
      ∧ s'.host.flash = s.host.flash ∧ HostFrame s s' ∧ s'.key = s.key)
    ∧ (AskedBy s 0x41 i m → x.prov = true →
      (d = [0] → patchOk s.host.image = false → Answers (.imageCommit m) s fun s' => AnswerSent s s' (some i) m 1 [] ∧ s'.host.flash = s.host.flash
        ∧ s'.host.image = [] ∧ Reported (keyPage 0) 2 0x104 s s' ∧ Raised (keyPage 0) 7 s' ∧ TilesSame s s' ∧ MemSame s s')
      ∧ (d = [0] → patchOk s.host.image = true → part s.host.image 17 1 % 2 = 1 → s.host.image.length ≤ 0x100000 → Answers (.imageCommit m) s fun s' =>
        AnswerSent s s' (some i) m 0 [] ∧ s'.flashRead 0x100000 s.host.image.length = s.host.image ∧ s'.host.image = [] ∧ HostFrame s s' ∧ s'.key = s.key
        ∧ ∀ a, (a < 0x100000 ∨ 0x200000 ≤ a → s'.flashAt a = s.flashAt a) ∧ (0x100000 + s.host.image.length ≤ a → a < 0x200000 → s'.flashAt a = 0xFF))
      ∧ (d = [0] → patchOk s.host.image = true → part s.host.image 17 1 % 2 = 0 → ∀ b, b = s.patchEnd 256 0x100000 →
        (b + s.host.image.length ≤ 0x200000 → Answers (.imageCommit m) s fun s' => AnswerSent s s' (some i) m 0 [] ∧ s'.flashRead b s.host.image.length = s.host.image
          ∧ s'.host.image = [] ∧ HostFrame s s' ∧ s'.key = s.key ∧ ∀ a, a < b ∨ b + s.host.image.length ≤ a → s'.flashAt a = s.flashAt a)
        ∧ (0x200000 < b + s.host.image.length → Answers (.imageCommit m) s fun s' => AnswerSent s s' (some i) m 4 [] ∧ s'.host.flash = s.host.flash ∧ HostFrame s s'))
      ∧ (d = [1] → s.host.image.length ≤ 0x4000000 → packCode s.host.image = none → ∀ b, b = (if s.pkg.packSlot then 0x1000000 else 0x5000000) →
        Answers (.imageCommit m) s fun s' => AnswerSent s s' (some i) m 0 [] ∧ s'.flashRead b s.host.image.length = s.host.image ∧ s'.host.image = []
        ∧ HostFrame s s' ∧ s'.key = s.key ∧ ∀ a, a < b ∨ b + s.host.image.length ≤ a → s'.flashAt a = s.flashAt a)
      ∧ (d = [1] → ∀ code, s.host.image.length ≤ 0x4000000 → packCode s.host.image = some code → Answers (.imageCommit m) s fun s' =>
        AnswerSent s s' (some i) m 1 [] ∧ s'.host.flash = s.host.flash ∧ s'.host.image = [] ∧ Raised tstPage 6 s' ∧ TilesSame s s' ∧ MemSame s s'))
    ∧ (∀ op, AskedBy s op i m → op < 256 → (∀ f, (f, op) ∉ umRows) → Answers (.unknownOp m) s fun s' => AnswerSent s s' (some i) m (if op = 0x80 then 3 else 2) []
      ∧ s'.host.chans = s.host.chans ∧ s'.host.flash = s.host.flash ∧ HostFrame s s' ∧ s'.key = s.key)

/-- Channel h sends on port q: PORTSEL's choice, and the link is up (R391). -/
def Sys2Proof.Spec.SendsOn (s : State) (h : Chan) (q : Fin 2) : Prop :=
  s.hears q = true ∧ ((h.portSel = 1 ∧ q = 1) ∨ (h.portSel ≠ 1 ∧ q = 0) ∨ (h.portSel = 2 ∧ q = 1 ∧ s.hears 0 = false))

/-- EVENT and EVENT_RESEND (R392, R393): a bound channel whose queue is due sends it in one message and keeps that until it is acknowledged; an unacknowledged
one is sent again unchanged, and after its last resend the channel is STALLED. -/
def Sys2Proof.Spec.EventChannels : Prop :=
  ∀ (s : State) (c : Fin 4096) (h : Chan), Awake s → s.pkg.stage = 7 → h = s.chan c →
    (h.bound = false ∨ h.stalled = true → (Answers (.event c) s fun s' => s' = s) ∧ Answers (.eventResend c) s fun s' => s' = s)
    ∧ (4 ≤ h.unacked.length → Answers (.event c) s fun s' => s' = s)
    ∧ (s.hears 0 = false → s.hears 1 = false → (Answers (.event c) s fun s' => s' = s) ∧ Answers (.eventResend c) s fun s' => s' = s)
    ∧ ∀ q, h.bound = true → h.stalled = false → SendsOn s h q →
      (∀ room n, room = (max 1024 (min 8192 ((s.raw (henPage q) 0x120).toNat / 2 ^ 16 % 2 ^ 14)) - 16) / 40 → n = h.queue.length → h.unacked.length < 4 →
        (∀ r, r ∈ h.queue → r.body.length = 4) →
        (0 < n → n ≤ room → n ≤ h.coalN → (n = h.coalN ∨ n = room ∨ (∃ r, h.queue.head? = some r ∧ r.at' + h.coalUs * 1000 ≤ s.time)
            ∨ ∃ r, h.queue.getLast? = some r ∧ r.fatal = true) → Answers (.event c) s fun s' =>
          ∃ m, s'.out = s.out ++ [.umlon q h.udp h.addr m] ∧ m.h0.toNat = 1 + 0x80 * 2 ^ 16 + h.msgSeq.toNat * 2 ^ 32
            ∧ (h.sess < 2 ^ 16 → m.h1.toNat = h.sess + 2 ^ 32 + (16 + 40 * n) * 2 ^ 48) ∧ m.h2 = s.pkg.bootId ∧ m.h3 = 0
            ∧ m.data = toBytes 2 c ++ toBytes 2 n ++ toBytes 4 h.dropped.toNat ++ toBytes 4 h.msgSeq.toNat ++ toBytes 4 0
                ++ h.queue.flatMap (fun r => toBytes 8 (r.type.toNat + r.seqno.toNat * 2 ^ 8) ++ bytesOf r.body)
            ∧ m.tag = umTag (s.session h.sess).key m.h0 m.h1 m.h2 m.h3 m.data
            ∧ s'.chan c = { h with queue := [], dropped := 0, msgSeq := h.msgSeq + 1, unacked := h.unacked ++ [(h.msgSeq.toNat, 0, s.time, m)] }
            ∧ (∀ e, e ≠ c.val → s'.chan e = s.chan e) ∧ s'.host.sessions = s.host.sessions ∧ HostFrame s s')
        ∧ (n < h.coalN → n < room → (∀ r, r ∈ h.queue → r.fatal = false ∧ s.time < r.at' + h.coalUs * 1000) → Answers (.event c) s fun s' => s' = s))
      ∧ ∀ k tries sent m, h.unacked = [(k, tries, sent, m)] → ∀ ack again, ack = max 1 ((s.raw telPage 0x100).toNat % 2 ^ 16) * 1000 →
        again = (s.raw telPage 0x100).toNat / 2 ^ 16 % 2 ^ 4 →
        (s.time < sent + ack → Answers (.eventResend c) s fun s' => s' = s)
        ∧ (sent + ack ≤ s.time → tries < again → Answers (.eventResend c) s fun s' => s'.out = s.out ++ [.umlon q h.udp h.addr m]
          ∧ s'.chan c = { h with unacked := [(k, tries + 1, s.time, m)] } ∧ (∀ e, e ≠ c.val → s'.chan e = s.chan e) ∧ HostFrame s s')
        ∧ (sent + ack ≤ s.time → again ≤ tries → Answers (.eventResend c) s fun s' => s'.out = s.out ∧ (s'.chan c).stalled = true ∧ Reported telPage 2 0x161 s s'
          ∧ Raised telPage 4 s' ∧ TilesSame s s' ∧ MemSame s s')

/-- SEQ_GAP_TIMEOUT, ACL_RELOAD and HRT_RELOAD (R382, R387, R391, R397): a missing SEQ is lost 10 ms after the held request, which then runs as it would have in its
turn; the access list and the host region table are read whole, and a session whose entry changed ends, with its channels. -/
def Sys2Proof.Spec.SessionsAndTables : Prop :=
  ∀ (s : State), Awake s → s.pkg.stage = 7 →
    (∀ (i : Fin 64) (x : Session) (f : Umlon → Instr) (op k at' : Nat) (m : Umlon), x = s.session i → (f, op) ∈ umRows → AskedBy s op i m → x.begun = true →
      x.waiting = [(at', m)] → (x.next.toNat + k) % 2 ^ 32 = m.h0.toNat / 2 ^ 32 → 0 < k → k ≤ 64 →
      (s.time < at' + 10000000 → Answers (.seqGapTimeout i) s fun s' => s' = s)
      ∧ ∀ t, at' + 10000000 ≤ s.time → exec (f m) { s with host := { s.host with sessions := Tab.set {} s.host.sessions i { x with
            next := x.next + BitVec.ofNat 32 k, waiting := [], lost := x.lost ++ (List.range k).map fun j => (x.next + BitVec.ofNat 32 j).toNat } } } = .next t →
        Answers (.seqGapTimeout i) s fun s' => WordsSame t s' ∧ TilesSame t s' ∧ MemSame t s' ∧ s'.key = t.key ∧ s'.host.flash = t.host.flash
          ∧ (op ≠ 0x10 → s'.out = t.out))
    ∧ ∀ (a : Access), ByBureau s a (henPage 0) →
      (Tab.wf {} s.host.chans = true → Answers (.aclReload a) s fun s' =>
        (∀ (i : Fin 64) (e : List Byte) w2, e = s.mem.bytes ((s.raw (henPage 0) 0x128).toNat % 2 ^ 52 + 64 * i) 64 → w2 = part e 16 8 →
          ∀ good : Prop, (good ↔ w2 / 2 ^ 18 = 0 ∧ part e 24 8 = 0 ∧ w2 % 2 ^ 8 ≤ 128 ∧ (w2 / 2 ^ 9 % 2 = 1 ∨
            ((s.raw (keyPage 0) 0x100).toNat % 2 ^ 52 + 256 * 64 ≤ hbmBytes ∧ GoodDesc (descIn s (w2 / 2 ^ 10 % 2 ^ 8))))) →
          ((s'.session i).valid = true ↔ w2 / 2 ^ 8 % 2 = 1 ∧ good)
          ∧ (w2 / 2 ^ 8 % 2 = 1 → ¬ good → (s'.page (henPage 0)).err.valid = true)
          ∧ ((s'.session i).valid = true → (s'.session i).prov = decide (w2 / 2 ^ 9 % 2 = 1) ∧ (s'.session i).ctx = w2 / 2 ^ 10 % 2 ^ 8
            ∧ (s'.session i).plen = w2 % 2 ^ 8 ∧ (s'.session i).pfx.toNat = part e 0 16 ∧ (s'.session i).key.toNat = ofBytesBE ((e.drop 32).take 32))
          ∧ (s'.session i ≠ s.session i → (s'.session i).waiting = [] ∧ (s'.session i).replies = [] ∧ (s'.session i).begun = false
            ∧ ∀ c, (s.chan c).sess = i → (s'.chan c).bound = false))
        ∧ TilesSame s s' ∧ MemSame s s' ∧ s'.key = s.key)
      ∧ Answers (.hrtReload a) s fun s' =>
        (∀ (i : Fin 4096) (e : List Byte) w0, e = s.mem.bytes ((s.raw (henPage 0) 0x130).toNat % 2 ^ 52 + 32 * i) 32 → w0 = part e 0 8 →
          (w0 % 2 = 1 → w0 / 2 ^ 43 = 0 → part e 8 8 < 2 ^ 23 → part e 24 8 < 2 ^ 32 → Tab.get {} s'.host.hrt i =
            { valid := true, wr := decide (w0 / 2 % 2 = 1), ctx := w0 / 2 ^ 2 % 2 ^ 8, qpn := w0 / 2 ^ 10 % 2 ^ 10, base := w0 / 2 ^ 20 % 2 ^ 23
              len := part e 8 8, hva := BitVec.ofNat 64 (part e 16 8), rkey := BitVec.ofNat 32 (part e 24 4) })
          ∧ (w0 % 2 = 0 → (Tab.get {} s'.host.hrt i).valid = false)
          ∧ (w0 % 2 = 1 → w0 / 2 ^ 43 ≠ 0 ∨ 2 ^ 23 ≤ part e 8 8 ∨ 2 ^ 32 ≤ part e 24 8 → (Tab.get {} s'.host.hrt i).valid = false ∧ (s'.page (henPage 0)).err.valid = true))
        ∧ s'.host.sessions = s.host.sessions ∧ TilesSame s s' ∧ MemSame s s' ∧ s'.key = s.key

/-- Event channels, sequence gaps, the access list and the host region table (R382, R387, R390 to R393, R397).
Where the rules leave a choice, and where a command's condition does not hold, it is the model's (log entries 1 and 26). -/
def Obligations.HostChannels : Prop := Spec.EventChannels ∧ Spec.SessionsAndTables

/-! ## Queue pairs and RoCEv2 (R380, R394 to R397) -/

/-- QP_CREATE, QP_DESTROY, MR_REG and MR_DEREG in their turn (R394, R395, R397), by the payload layouts that log entry 26 names. -/
def Sys2Proof.Spec.QueuePairs : Prop :=
  ∀ (s : State) (m : Umlon) (i : Fin 64) (x : Session) (d : List Byte), InTurn s i m → x = s.session i → d = m.data →
    (AskedBy s 0x50 i m → d.length = 56 → part d 0 2 < 256 → part d 2 1 ≤ 1 → part d 3 1 = 0 → part d 4 4 ∈ [1024, 2048, 4096] → part d 24 4 < 2 ^ 24 →
      part d 28 4 < 2 ^ 24 → part d 32 1 ≤ 7 → part d 33 1 ≤ 7 → 8 ≤ part d 34 1 → part d 34 1 ≤ 20 → part d 35 1 = 0 → part d 36 4 % 32 = 0 → 0 < part d 36 4 →
      part d 36 4 ≤ 8192 → part d 52 4 = 0 → x.prov = true ∨ part d 0 2 = x.ctx →
      (∀ n, n < 1024 → (s.qp n).there = false → (∀ k, k < n → (s.qp k).there = true) → Answers (.qpCreate m) s fun s' =>
        (∃ psn : BitVec 24, AnswerSent s s' (some i) m 0 (toBytes 4 n ++ toBytes 4 psn.toNat) ∧ (s'.qp n).psn = psn)
        ∧ { s'.qp n with psn := 0, gid := 0, rqpn := 0, rpsn := 0 } = { there := true, ctx := part d 0 2, port := part d 2 1, mtu := part d 4 4, retries := part d 32 1
                                                                        rnr := part d 33 1, timeout := part d 34 1, entSize := part d 36 4
                                                                        ringVa := BitVec.ofNat 64 (part d 40 8), entries := part d 48 4 }
        ∧ (s'.qp n).rqpn.toNat = part d 24 4 ∧ (s'.qp n).rpsn.toNat = part d 28 4 ∧ (s'.qp n).gid.toNat = ofBytesBE ((d.drop 8).take 16)
        ∧ (∀ k, k ≠ n → s'.qp k = s.qp k) ∧ HostFrame s s' ∧ s'.key = s.key)
      ∧ ((∀ k, k < 1024 → (s.qp k).there = true) → Answers (.qpCreate m) s fun s' => AnswerSent s s' (some i) m 4 [] ∧ s'.host.qps = s.host.qps ∧ HostFrame s s'
        ∧ s'.key = s.key))
    ∧ (AskedBy s 0x52 i m → d.length = 4 → ∀ n, n = part d 0 4 →
      ((s.qp n).there = true → (s.qp n).ops = [] → x.prov = true ∨ (s.qp n).ctx = x.ctx → Answers (.qpDestroy m) s fun s' => AnswerSent s s' (some i) m 0 []
        ∧ s'.qp n = {} ∧ (∀ k, k ≠ n → s'.qp k = s.qp k) ∧ (∀ y, y ∈ s'.host.inbound ↔ y ∈ s.host.inbound ∧ y.qpn ≠ n) ∧ HostFrame s s' ∧ s'.key = s.key)
      ∧ ((s.qp n).there = false → Answers (.qpDestroy m) s fun s' => AnswerSent s s' (some i) m 1 [] ∧ s'.host.qps = s.host.qps ∧ HostFrame s s' ∧ s'.key = s.key))
    ∧ (AskedBy s 0x53 i m → d.length = 24 → ∀ c r va n, c = part d 0 2 → c < 256 → r = part d 2 1 → 0 < r → r ≤ 3 → part d 3 5 = 0 → va = part d 8 8 → n = part d 16 8 →
      0 < n → x.prov = true ∨ c = x.ctx → ∀ w, w = decide (r / 2 = 1) →
      (∀ gs k, (s.translate 2 (some c) va n w).1 = some gs → (∀ g, g ∈ gs → g.kind ≤ 1) → k < 4096 → (Tab.get {} s.host.mrs k).there = false →
        (∀ j, j < k → (Tab.get {} s.host.mrs j).there = true) → Answers (.mrReg m) s fun s' => ∃ key : BitVec 32, AnswerSent s s' (some i) m 0 (toBytes 4 key.toNat)
          ∧ key.toNat % 4096 = k ∧ Tab.get {} s'.host.mrs k = { there := true, rkey := key, ctx := c, va := va, len := n, rd := decide (r % 2 = 1), wr := w }
          ∧ (∀ j, j ≠ k → Tab.get {} s'.host.mrs j = Tab.get {} s.host.mrs j) ∧ HostFrame s s' ∧ s'.key = s.key)
      ∧ ((s.translate 2 (some c) va n w).1 = none ∨ (∃ gs, (s.translate 2 (some c) va n w).1 = some gs ∧ ∃ g, g ∈ gs ∧ 1 < g.kind) →
        Answers (.mrReg m) s fun s' => AnswerSent s s' (some i) m 1 [] ∧ s'.host.mrs = s.host.mrs ∧ HostFrame s s' ∧ s'.key = s.key))
    ∧ (AskedBy s 0x54 i m → ∀ key : BitVec 32, d = toBytes 4 key.toNat →
      (∀ k r, s.host.mrs = [(k, r)] → r.there = true → r.rkey = key → x.prov = true ∨ r.ctx = x.ctx → Answers (.mrDereg m) s fun s' =>
        AnswerSent s s' (some i) m 0 [] ∧ s'.host.mrs = [] ∧ HostFrame s s' ∧ s'.key = s.key)
      ∧ ((∀ e, e ∈ s.host.mrs → e.2.there = true → e.2.rkey ≠ key) → Answers (.mrDereg m) s fun s' => AnswerSent s s' (some i) m 1 [] ∧ s'.host.mrs = s.host.mrs
        ∧ HostFrame s s' ∧ s'.key = s.key))

/-- Every Umlon command in its turn (R334 to R339, R372, R384 to R388, R391 to R395).
Where the rules leave a choice it is the model's (log entry 26). -/
def Obligations.HostCommands : Prop := Spec.UmlonCommands ∧ Spec.QueuePairs

/-- A request on QP n is received: bring-up is complete, the link of its port is up, and the QP is ready. -/
def Sys2Proof.Spec.QpReady (s : State) (n : Nat) : Prop :=
  Awake s ∧ s.pkg.stage = 7 ∧ (s.qp n).port < 2 ∧ (s.qp n).there = true ∧ (s.qp n).error = false ∧ s.linkState (s.qp n).port = 2
/-- QP n answers an inbound request with o and stays as it is. -/
def Sys2Proof.Spec.QpSays (s s' : State) (n : Nat) (o : Out) : Prop :=
  s'.out = s.out ++ [o] ∧ (s'.qp n).error = false ∧ s'.host.inbound = [] ∧ (∀ k, k ≠ n → s'.qp k = s.qp k) ∧ TilesSame s s' ∧ s'.key = s.key
/-- QP n answers with a NAK and enters ERROR. -/
def Sys2Proof.Spec.QpFails (s s' : State) (n syndrome : Nat) : Prop :=
  s'.out = s.out ++ [.rdmaNak n syndrome] ∧ (s'.qp n).error = true ∧ (s'.qp n).ops = [] ∧ s'.host.inbound = [] ∧ Raised (henPage (s.qp n).port) 6 s' ∧ MemSame s s'
/-- The range is one piece of local memory at p, for accesses that no answer is awaited from. -/
def Sys2Proof.Spec.LocalV (s : State) (st c va n : Nat) (write : Bool) (p : Nat) : Prop := ∃ f, (s.translateLocal st (some c) va n write).1 = some [(p, n, f)]
/-- A registration of the QP's context covers the range with the right. -/
def Sys2Proof.Spec.Registered (s : State) (n : Nat) (rkey : BitVec 32) (va len : Nat) (write : Bool) : Prop :=
  ∃ e, e ∈ s.host.mrs ∧ e.2.there = true ∧ e.2.rkey = rkey ∧ e.2.ctx = (s.qp n).ctx ∧ e.2.va ≤ va ∧ va + len ≤ e.2.va + e.2.len
    ∧ (if write then e.2.wr else e.2.rd) = true

/-- A packet of QP n that bears the mark ecn brings about no CNP: it is not marked, or a CNP left less than 50 µs ago. -/
def Sys2Proof.Spec.NoCnp (s : State) (n : Nat) (ecn : Bool) : Prop := ecn = false ∨ ∃ t, (s.qp n).cnpAt = some t ∧ s.time < t + 50000

/-- No memory that an inbound operation of QP n may name is held by a controller that does not admit. -/
def Sys2Proof.Spec.Unheld (s : State) (n : Nat) : Prop := (∀ k va m w, s.rdmaHeld n k va m w = false) ∧ ∀ m, s.sendHeld n m = false

/-- RDMA_WRITE, RDMA_READ, RDMA_SEND and UNSUPPORTED_RDMA_OPCODE (R389, R394, R396) on local memory. The syndromes are those of the IBTA, which the manual names
only (log entry 27). A SEND whose receive ring lies in a controller that does not admit waits (R41; log entry 15). -/
def Sys2Proof.Spec.InboundRdma : Prop :=
  ∀ (s : State) (qpn : BitVec 24) (n die c : Nat) (q : Qp) (ecn : Bool), n = qpn.toNat → q = s.qp n → die = 2 + q.port → c = q.ctx →
    (∀ i, (∃ k va d, i = .rdmaWrite qpn k va d ecn) ∨ (∃ k va l, i = .rdmaRead qpn k va l ecn) ∨ (∃ d, i = .rdmaSend qpn d ecn) ∨ i = .unsupportedRdmaOpcode qpn ecn →
      s.pkg.stage ≠ 7 ∨ q.there = false ∨ q.error = true ∨ s.linkState q.port ≠ 2 → Answers i s fun s' => s' = s)
    ∧ (QpReady s n → NoCnp s n ecn → s.host.inbound = [] →
      (Answers (.unsupportedRdmaOpcode qpn ecn) s fun s' => QpFails s s' n 0x61)
      ∧ (∀ rkey va, ∀ data : List Byte, s.fab.unsent = [] → s.mem.writes = [] →
        (∀ p, data.length ≤ 2 ^ 30 → Registered s n rkey va.toNat data.length true → LocalAt s die c va.toNat data.length true p →
          Answers (.rdmaWrite qpn rkey va data ecn) s fun s' => QpSays s s' n (.rdmaAck n) ∧ s'.qp n = q ∧ s'.mem.bytes p data.length = data
            ∧ ∀ a, a < p ∨ p + data.length ≤ a → s'.mem.byte a = s.mem.byte a)
        ∧ (data.length ≤ 2 ^ 30 → ¬ Registered s n rkey va.toNat data.length true ∨ (∃ e, (s.reach die (some c) va.toNat data.length true).1 = .refused e) →
          Answers (.rdmaWrite qpn rkey va data ecn) s fun s' => QpFails s s' n 0x62)
        ∧ (2 ^ 30 < data.length → Answers (.rdmaWrite qpn rkey va data ecn) s fun s' => QpFails s s' n 0x61))
      ∧ (∀ rkey va len, s.fab.unsent = [] →
        (∀ p, len ≤ 2 ^ 30 → Registered s n rkey va.toNat len false → LocalAt s die c va.toNat len false p → Answers (.rdmaRead qpn rkey va len ecn) s fun s' =>
          QpSays s s' n (.rdmaData n (s.mem.bytes p len)) ∧ s'.qp n = q ∧ MemSame s s')
        ∧ (len ≤ 2 ^ 30 → ¬ Registered s n rkey va.toNat len false ∨ (∃ e, (s.reach die (some c) va.toNat len false).1 = .refused e) →
          Answers (.rdmaRead qpn rkey va len ecn) s fun s' => QpFails s s' n 0x62)
        ∧ (2 ^ 30 < len → Answers (.rdmaRead qpn rkey va len ecn) s fun s' => QpFails s s' n 0x61))
      ∧ ∀ data : List Byte,
        (q.entSize < data.length → Answers (.rdmaSend qpn data ecn) s fun s' => QpFails s s' n 0x61)
        ∧ (s.sendHeld n data.length = true → Answers (.rdmaSend qpn data ecn) s fun s' => s' = s)
        ∧ ∀ pc used, data.length ≤ q.entSize → s.sendHeld n data.length = false → LocalV s die c (q.ringVa.toNat + q.entries * q.entSize) 8 false pc → used = q.head - ofBytes (s.mem.bytes pc 8) →
          (q.entries ≤ used → Answers (.rdmaSend qpn data ecn) s fun s' => QpSays s s' n (.rdmaNak n 0x20) ∧ s'.qp n = q ∧ MemSame s s')
          ∧ (∀ pe, used < q.entries → LocalV s die c (q.ringVa.toNat + q.head % q.entries * q.entSize) data.length true pe → Answers (.rdmaSend qpn data ecn) s fun s' =>
            QpSays s s' n (.rdmaAck n) ∧ s'.qp n = { q with head := q.head + 1 } ∧ s'.mem.bytes pe data.length = data
            ∧ (∀ a, a < pe ∨ pe + data.length ≤ a → s'.mem.byte a = s.mem.byte a)
            ∧ ∀ h h', h = s.chan (2048 + 8 * c + 1) → h' = s'.chan (2048 + 8 * c + 1) → h.bound = true → h.stalled = false → h.queue.length < 64 →
              ∃ r, h'.queue = h.queue ++ [r] ∧ r.type = 2 ∧ r.seqno = h.recSeq ∧ r.body = [BitVec.ofNat 64 (n + data.length * 2 ^ 32), BitVec.ofNat 64 (q.head % q.entries), 0, 0]))

/-- What an RDMA operation of the device looks like as it leaves. -/
def Sys2Proof.Spec.outOf (n : Nat) (o : RdmaOp) : Out := if o.read then .rdmaRead n o.rkey o.va o.len else .rdmaWrite n o.rkey o.va o.data
/-- The flight that an operation serves, in a resident tile, becomes g of what it was. -/
def Sys2Proof.Spec.FlightBecomes (s s' : State) (o : RdmaOp) (g : Flight → Flight) : Prop :=
  OtherTiles o.t s s' ∧ s'.tile o.t = { s.tile o.t with flights := (s.tile o.t).flights.map fun f => if f.id = o.flight then g f else f }
/-- QP n has failed with the one operation o outstanding: refused with 0x022, which is reported on the page of its engine. -/
def Sys2Proof.Spec.OpRefused (s s' : State) (n : Nat) (o : RdmaOp) : Prop :=
  (s'.qp n).error = true ∧ (s'.qp n).ops = [] ∧ Raised (henPage (s.qp n).port) 6 s' ∧ Reported (engPage o.t (if o.read then .lde else .ste)) 2 0x022 s s' ∧ s'.out = s.out
    ∧ OtherTiles o.t s s' ∧ (∀ f', f' ∈ (s'.tile o.t).flights → f'.id = o.flight → f'.refused = true) ∧ MemSame s s'
/-- QP n tries again: operation o leaves once more. -/
def Sys2Proof.Spec.SentAgain (s s' : State) (n : Nat) (o : RdmaOp) (q' : Qp) : Prop :=
  s'.out = s.out ++ [outOf n o] ∧ s'.qp n = { q' with timer := s.time } ∧ TilesSame s s' ∧ MemSame s s'

/-- READ_RESPONSE, WRITE_ACK, RDMA_NAK, QP_RETRY_TIMEOUT and CNP (R394, R397) for a QP with one operation outstanding, for a tile whose context is resident, and the CNP that an
ECN-marked packet of any kind brings about, once per 50 µs. The rate
after a CNP is computed when it is asked for (log entry 27).
Where the rules leave a choice, and where a command's condition does not hold, it is the model's (log entries 1 and 27). -/
def Obligations.DeviceRdma : Prop :=
  ∀ (s : State) (qpn : BitVec 24) (n : Nat) (q : Qp) (o : RdmaOp), n = qpn.toNat → q = s.qp n → QpReady s n →
    ((s.raw (henPage q.port) 0x010).getLsbD 3 = false ∨ (s.raw (henPage q.port) 0x400).getLsbD 10 = true → Answers (.cnp qpn) s fun s' => s'.qp n = { q with rate := min 50000 (q.rate + (s.time - q.rateAt) / 55000 * 1000) / 2, rateAt := s.time }
      ∧ (∀ k, k ≠ n → s'.qp k = s.qp k) ∧ s'.out = s.out ∧ HostFrame s s' ∧ s'.key = s.key)
    ∧ ((s.raw (henPage q.port) 0x010).getLsbD 3 = true → (s.raw (henPage q.port) 0x400).getLsbD 10 = false → Answers (.cnp qpn) s fun s' => s'.host = s.host
      ∧ s'.out = s.out ∧ HostFrame s s' ∧ s'.key = s.key)
    ∧ (∀ i i', (∃ k va d, i = .rdmaWrite qpn k va d true ∧ i' = .rdmaWrite qpn k va d false) ∨ (∃ k va l, i = .rdmaRead qpn k va l true ∧ i' = .rdmaRead qpn k va l false)
        ∨ (∃ d, i = .rdmaSend qpn d true ∧ i' = .rdmaSend qpn d false) ∨ (∃ d, i = .readResponse qpn d true ∧ i' = .readResponse qpn d false)
        ∨ (i = .writeAck qpn true ∧ i' = .writeAck qpn false) ∨ (∃ y, i = .rdmaNak qpn y true ∧ i' = .rdmaNak qpn y false)
        ∨ (i = .unsupportedRdmaOpcode qpn true ∧ i' = .unsupportedRdmaOpcode qpn false) →
      (∀ t, q.cnpAt = some t → t + 50000 ≤ s.time) → ∃ s1, s1.out = s.out ++ [.cnp n] ∧ s1.qp n = { q with cnpAt := some s.time } ∧ (∀ k, k ≠ n → s1.qp k = s.qp k)
        ∧ HostFrame s s1 ∧ s1.key = s.key ∧ (Unheld s n → Unheld s1 n → exec i s = exec i' s1))
    ∧ (∀ ecn, NoCnp s n ecn → q.ops = [o] → o.flight < 2 ^ 64 → o.sent = true → o.t < 192 → s.ctxOf o.t = some q.ctx →
      (∀ data pos, o.read = true → o.dest = .buf pos → data.length = o.len → Answers (.readResponse qpn data ecn) s fun s' =>
        s'.qp n = { q with ops := [], tries := 0, rnrs := 0, timer := s.time } ∧ s'.out = s.out ∧ MemSame s s'
        ∧ FlightBecomes s s' o fun f => { f with left := f.left - 1, got := putBytes f.got pos data })
      ∧ (∀ data, o.read = false ∨ data.length ≠ o.len → Answers (.readResponse qpn data ecn) s fun s' => s'.host = s.host ∧ s'.out = s.out ∧ HostFrame s s' ∧ s'.key = s.key)
      ∧ (o.read = false → Answers (.writeAck qpn ecn) s fun s' => s'.qp n = { q with ops := [], tries := 0, rnrs := 0, timer := s.time } ∧ s'.out = s.out ∧ MemSame s s'
        ∧ FlightBecomes s s' o fun f => { f with left := f.left - 1 })
      ∧ (o.read = true → Answers (.writeAck qpn ecn) s fun s' => s'.host = s.host ∧ s'.out = s.out ∧ HostFrame s s' ∧ s'.key = s.key)
      ∧ (∀ y : Byte, y.toNat / 32 = 1 →
        (q.rnrs < q.rnr → Answers (.rdmaNak qpn y ecn) s fun s' => SentAgain s s' n o { q with rnrs := q.rnrs + 1 })
        ∧ (q.rnr ≤ q.rnrs → Answers (.rdmaNak qpn y ecn) s fun s' => OpRefused s s' n o))
      ∧ (q.tries < q.retries → Answers (.rdmaNak qpn 0x60 ecn) s fun s' => SentAgain s s' n o { q with tries := q.tries + 1 })
      ∧ (∀ y : Byte, y.toNat / 32 ≠ 1 → y ≠ 0x60 ∨ q.retries ≤ q.tries → Answers (.rdmaNak qpn y ecn) s fun s' => OpRefused s s' n o
        ∧ ∀ h h', h = s.chan (2048 + 8 * q.ctx + 2) → h' = s'.chan (2048 + 8 * q.ctx + 2) → h.bound = true → h.stalled = false → h.queue.length < 64 →
          ∃ r, h'.queue = h.queue ++ [r] ∧ r.type = 3 ∧ r.body = [BitVec.ofNat 64 (n + y.toNat * 2 ^ 24), 0, 0, 0])
      ∧ (s.time < q.timer + 4096 * 2 ^ q.timeout → Answers (.qpRetryTimeout qpn) s fun s' => s' = s)
      ∧ (q.timer + 4096 * 2 ^ q.timeout ≤ s.time → q.tries < q.retries → Answers (.qpRetryTimeout qpn) s fun s' => SentAgain s s' n o { q with tries := q.tries + 1 })
      ∧ (q.timer + 4096 * 2 ^ q.timeout ≤ s.time → q.retries ≤ q.tries → Answers (.qpRetryTimeout qpn) s fun s' => OpRefused s s' n o))

/-- NEIGHBOR_SOLICITATION and ECHO_REQUEST, HOST_LINK_UP and HOST_LINK_DOWN (R380, R389, R398): a port whose link is up answers for its own address, and nothing else. -/
def Sys2Proof.Spec.HostPorts : Prop :=
  ∀ (s : State) (q : Fin 2), s.pkg.porst = false → s.pkg.powerOn = true → s.pkg.frozen = false → 1 ≤ s.pkg.stage.toNat →
    ∀ own : Nat, own = (s.raw (henPage q) 0x110).toNat + (s.raw (henPage q) 0x118).toNat * 2 ^ 64 →
    (∀ (t src : BitVec 128) (d : List Byte), s.linkState q = 2 →
      (t.toNat = own → (Answers (.neighborSolicitation q t src) s fun s' =>
          s'.out = s.out ++ [.neighbor q t (if src = 0 then 0xFF020000000000000000000000000001 else src)] ∧ s'.host = s.host ∧ HostFrame s s' ∧ s'.key = s.key)
        ∧ Answers (.echoRequest q t src d) s fun s' => s'.out = s.out ++ [.echo q t src d] ∧ s'.host = s.host ∧ HostFrame s s' ∧ s'.key = s.key)
      ∧ (t.toNat ≠ own → t.toNat / 2 ^ 112 ≠ 0xFE80 → (Answers (.neighborSolicitation q t src) s fun s' => s'.out = s.out ∧ s'.host = s.host ∧ HostFrame s s' ∧ s'.key = s.key)
        ∧ Answers (.echoRequest q t src d) s fun s' => s'.out = s.out ∧ s'.host = s.host ∧ HostFrame s s' ∧ s'.key = s.key))
    ∧ (∀ t src d, s.linkState q ≠ 2 → (Answers (.neighborSolicitation q t src) s fun s' => s' = s) ∧ Answers (.echoRequest q t src d) s fun s' => s' = s)
    ∧ (s.linkState q = 0 → Answers (.hostLinkDown q) s fun s' => s' = s)
    ∧ (s.linkState q ≠ 0 → Answers (.hostLinkDown q) s fun s' => s'.linkState q = 0 ∧ (∀ p, p ≠ q.val → s'.linkState p = s.linkState p) ∧ Raised (henPage q) 4 s'
      ∧ Reported (henPage q) 0 0x162 s s' ∧ HostFrame s s' ∧ s'.key = s.key ∧ s'.out = s.out)
    ∧ (s.linkState q ≠ 2 → (s.raw (henPage q) 0x100).getLsbD 2 = true → Answers (.hostLinkUp q) s fun s' => s'.linkState q = 2
      ∧ (∀ p, p ≠ q.val → s'.linkState p = s.linkState p) ∧ Raised (henPage q) 5 s' ∧ HostFrame s s' ∧ s'.key = s.key ∧ s'.out = s.out)
    ∧ (s.linkState q = 2 ∨ (s.raw (henPage q) 0x100).getLsbD 2 = false → Answers (.hostLinkUp q) s fun s' => s' = s)

/-- What a host port answers for itself and what it does with inbound RoCEv2 requests (R380, R394, R396).
Where the rules leave a choice, and where a command's condition does not hold, it is the model's (log entries 1 and 27). -/
def Obligations.HostTraffic : Prop := Spec.HostPorts ∧ Spec.InboundRdma

/-! ## Pins, bring-up, the Workbench and the debug port (R369 to R372, R377, R400 to R404, R413 to R416, R431 to R434) -/

/-- Bring-up stops in FAILED with a cause (R400). -/
def Sys2Proof.Spec.BootFailed (code : Nat) (s s' : State) : Prop :=
  s'.pkg.stage = 0xF0 ∧ s'.pkg.bootCode = BitVec.ofNat 12 code ∧ s'.pkg.powered = 0 ∧ s'.pkg.switching = [] ∧ Raised burPage 5 s' ∧ (s'.page burPage).err.valid = true
    ∧ s'.pkg.stopped = s.pkg.stopped ∧ s'.host.flash = s.host.flash ∧ TilesSame s s' ∧ MemSame s s'

/-- PORST_N_ASSERT, PORST_N_RELEASE, POWER_REMOVED, STRAP_SAMPLE and BRINGUP_STAGE (R400 to R404, R408, R431, R432).
Where the rules leave a choice, and where a command's condition does not hold, it is the model's (log entries 1 and 3, 25). -/
def Obligations.PowerUp : Prop :=
  ∀ (s : State),
    (∀ i on trip, i = .porstNAssert ∧ on = s.pkg.powerOn ∧ trip = s.pkg.thermtrip ∨ i = .powerRemoved ∧ on = false ∧ trip = false → Answers i s fun s' =>
      s'.pkg = { powerOn := on, thermtrip := trip, freezeLow := s.pkg.freezeLow } ∧ s'.time = 0 ∧ s'.pages = [] ∧ s'.tiles = [] ∧ s'.mem = {} ∧ s'.fab = {} ∧ s'.sbd = {}
      ∧ s'.upe = {} ∧ s'.cle = {} ∧ s'.key = {} ∧ s'.bur = {} ∧ s'.sync = {} ∧ s'.host.flash = s.host.flash ∧ s'.host.sessions = [] ∧ s'.host.qps = [] ∧ s'.out = s.out
      ∧ s'.pending = s.pending)
    ∧ (∀ straps, s.pkg.porst = true → Answers (.porstNRelease straps) s fun s' => s' = { s with time := 0, pkg := { s.pkg with
        porst := false, powerOn := true, stage := 1, straps := straps, strapped := false, freezeOk := !s.pkg.freezeLow } })
    ∧ (∀ straps, s.pkg.porst = false → Answers (.porstNRelease straps) s fun s' => s' = s)
    ∧ (Awake s → 1 ≤ s.pkg.stage.toNat → s.pkg.stage.toNat < 7 → s.pkg.strapped = false →
      (Answers (.strapSample s.pkg.straps) s fun s' => s' = { s with pkg := { s.pkg with strapped := true } })
      ∧ ∀ straps, straps ≠ s.pkg.straps → Answers (.strapSample straps) s (BootFailed 0x172 s))
    ∧ (∀ straps, s.pkg.strapped = true ∨ 7 ≤ s.pkg.stage.toNat → Answers (.strapSample straps) s fun s' => s' = s)
    ∧ (∀ i, s.pkg.stage = 0 ∨ 7 ≤ s.pkg.stage.toNat ∨ s.pkg.testing = true → Answers (.bringupStage i) s fun s' => s' = s)
    ∧ (∀ i, Awake s → s.pkg.testing = false → i.ok = false → 1 ≤ s.pkg.stage.toNat → s.pkg.stage.toNat < 7 → Answers (.bringupStage i) s (BootFailed 0x171 s))
    ∧ ∀ i, Awake s → s.pkg.testing = false → i.ok = true →
      (s.pkg.stage = 1 → Answers (.bringupStage i) s fun s' => s'.pkg = { s.pkg with stage := 2, bootId := i.bootId }
        ∧ (Tab.wf {} s.host.sessions = true → ∀ k, (s'.session k).waiting = [] ∧ (s'.session k).replies = [] ∧ (s'.session k).begun = false
          ∧ (s'.session k).key = (s.session k).key ∧ (s'.session k).valid = (s.session k).valid) ∧ s'.pages = s.pages ∧ s'.mem = s.mem ∧ s'.tiles = s.tiles)
      ∧ (s.pkg.stage = 2 → i.sfdpOk = false → Answers (.bringupStage i) s (BootFailed 0x173 s))
      ∧ (s.pkg.stage = 2 → i.sfdpOk = true → s.pkg.warm = false → cfgGood (s.flashRead 0 256) = false → cfgGood (s.flashRead 0x8000 256) = false →
        Answers (.bringupStage i) s (BootFailed 0x174 s))
      ∧ (∀ d second, s.pkg.stage = 2 → i.sfdpOk = true → s.pkg.warm = false → cfgGood d = true → d = s.flashRead (if second then 0x8000 else 0) 256 →
        (second = true → cfgGood (s.flashRead 0 256) = false) → ∀ mac ip, mac = ofBytesBE ((d.drop 8).take 6) → ip = ofBytesBE ((d.drop 16).take 16) →
        Answers (.bringupStage i) s fun s' => s'.pkg.stage = 3 ∧ s'.pkg.cfgCopy = second ∧ (second = true → (s'.page burPage).err.valid = true)
          ∧ (s'.raw (henPage 0) 0x108).toNat = mac ∧ (s'.raw (henPage 1) 0x108).toNat = (mac + 1) % 2 ^ 48
          ∧ (s'.raw (henPage 0) 0x110).toNat = ip % 2 ^ 64 ∧ (s'.raw (henPage 0) 0x118).toNat = ip / 2 ^ 64
          ∧ (s'.raw (henPage 1) 0x110).toNat + (s'.raw (henPage 1) 0x118).toNat * 2 ^ 64 = (if ip % 2 = 0 then ip + 1 else ip - 1)
          ∧ (s'.raw (henPage 0) 0x120).toNat % 2 ^ 16 = (if part d 32 2 = 0 then 50210 else part d 32 2)
          ∧ s'.host.flash = s.host.flash ∧ TilesSame s s' ∧ MemSame s s')
      ∧ (s.pkg.stage = 2 → i.sfdpOk = true → s.pkg.warm = true → Answers (.bringupStage i) s fun s' => s'.pkg.stage = 6 ∧ s'.host.flash = s.host.flash ∧ TilesSame s s'
        ∧ MemSame s s')
      ∧ (s.pkg.stage = 3 → Answers (.bringupStage i) s fun s' => s'.pkg.stage = 4 ∧ s'.pkg.powered = BitVec.allOnes 72
        ∧ (s'.pkg.testing = true ↔ ∃ slot d, s.packIn slot = some d ∧ packCode d = none) ∧ TilesSame s s' ∧ MemSame s s')
      ∧ (s.pkg.stage = 4 → Answers (.bringupStage i) s fun s' => s' = { s with pkg := { s.pkg with stage := 5 } })
      ∧ (s.pkg.stage = 5 → Answers (.bringupStage i) s fun s' => s'.pkg.stage = 6 ∧ TilesSame s s' ∧ MemSame s s')
      ∧ (s.pkg.stage = 6 → Answers (.bringupStage i) s fun s' => s'.pkg.stage = 7 ∧ s'.pkg.warm = false ∧ Raised burPage 4 s' ∧ TilesSame s s'
        ∧ (∀ q, q < 6 → (s'.port q).state = if (s.port q).state = .down then .training else (s.port q).state)
        ∧ (s.pkg.warm = true → s'.fab.escape = s.fab.escape ∧ MemSame s s' ∧ ∀ st, st < 4 → s'.raw (rtrPage st) 0x118 = s.raw (rtrPage st) 0x118)
        ∧ (s.pkg.warm = false → ∀ p x b, p = s.pkg.straps.toNat → x = p % 2 ^ 5 → b = (s.raw (rtrPage 0) 0x120).toNat % 2 ^ 52 →
          (∀ st, st < 4 → (s'.raw (rtrPage st) 0x110).toNat = p ∧ (s'.raw (rtrPage st) 0x118).toNat % 2 ^ 13 = coordOf x (p / 2 ^ 5 % 2 ^ 4) (p / 2 ^ 9))
          ∧ (∀ k, k < 8192 → s'.mem.byte (b + k) = Tab.get 0 s'.fab.escape k) ∧ (∀ a, a < b ∨ b + 8192 ≤ a → s'.mem.byte a = s.mem.byte a)
          ∧ ∀ k, k < 8192 → k / 256 ≠ x → (Tab.get 0 s'.fab.escape k).toNat % 2 ^ 3 = if (k / 256 + 32 - x) % 32 ≤ 16 then 1 else 0))

/-- PACK_DONE, TST_RUN and TST_ABORT (R371, R372, R377): a run ends with its marks, the failed quads off and every tile clear; a run begins only in a quiesced package
with no resident context. What an aborted run had not tested is a free value.
Where the rules leave a choice, and where a command's condition does not hold, it is the model's (log entries 1 and 25). -/
def Obligations.WorkbenchRuns : Prop :=
  ∀ (s : State), Awake s →
    (∀ r, s.pkg.testing = false → Answers (.packDone r) s fun s' => s' = s)
    ∧ (∀ r, s.pkg.testing = true → ∀ bad, bad = decide (r.quadFail ≠ 0 ∨ r.quadUntested ≠ 0 ∨ r.hbmFail ≠ 0 ∨ r.mscFail ≠ 0 ∨ r.portFail ≠ 0) →
      Answers (.packDone r) s fun s' => s'.pkg.testing = false ∧ (s'.raw tstPage 0x110).toNat = r.quadFail.toNat ∧ (s'.raw tstPage 0x118).toNat = r.quadUntested.toNat
        ∧ (s'.raw tstPage 0x120).toNat = r.hbmFail.toNat + r.hbmRepaired.toNat * 2 ^ 16 + r.mscFail.toNat * 2 ^ 32 + r.portFail.toNat * 2 ^ 40
        ∧ (s'.raw tstPage 0x128).toNat = r.elapsedMs.toNat + r.itemsRun.toNat * 2 ^ 32
        ∧ (s'.raw tstPage 0x100).toNat / 2 ^ 2 % 2 ^ 2 = (if bad then 3 else 2) ∧ Raised tstPage 4 s' ∧ (bad = true → Raised tstPage 5 s' ∧ (s'.page tstPage).err.valid = true)
        ∧ (∀ t, t < 192 → s'.tile t = {})
        ∧ (∀ d, d < 48 → s'.pkg.powered.getLsbD d = (s.pkg.powered.getLsbD d && !r.quadFail.getLsbD d) ∧ (r.quadFail.getLsbD d = true → s'.onBit d = false))
        ∧ (r.hbmFail = 0 → MemSame s s'))
    ∧ ∀ (a : Access), ByBureau s a tstPage →
      ((s.pkgQuiesced = false ∨ s.pkg.testing = true ∨ ∃ q, q < 48 ∧ Tab.get none s.key.owner q ≠ none) → Answers (.tstRun a) s fun s' => Rejected tstPage 0x100 s s'
        ∧ s'.pkg = s.pkg ∧ PageFrame s s')
      ∧ (s.pkgQuiesced = true → s.pkg.testing = false → (∀ q, q < 48 → Tab.get none s.key.owner q = none) →
        (s.packIn false = none → s.packIn true = none → Answers (.tstRun a) s fun s' => s'.pkg = s.pkg ∧ PageFrame s s')
        ∧ ∀ slot d, s.packIn slot = some d → packCode d = none → s.packIn (!slot) = none → Answers (.tstRun a) s fun s' =>
          s'.pkg = { s.pkg with testing := true, packSlot := slot, packHash := BitVec.ofNat 256 (ofBytesBE (sha256 d)) }
          ∧ (s'.raw tstPage 0x100).toNat / 2 ^ 2 % 2 ^ 2 = 1 ∧ (s'.raw tstPage 0x108).toNat % 2 ^ 32 = part d 8 4 ∧ TilesSame s s' ∧ MemSame s s')
      ∧ (s.pkg.testing = false → Answers (.tstAbort a) s fun s' => s'.pkg = s.pkg ∧ PageFrame s s')
      ∧ (s.pkg.testing = true → Answers (.tstAbort a) s fun s' => s'.pkg.testing = false ∧ Raised tstPage 4 s' ∧ (∀ t, t < 192 → s'.tile t = {})
        ∧ (s'.raw tstPage 0x100).toNat / 2 ^ 2 % 2 ^ 2 = (if s'.raw tstPage 0x118 = 0 then 2 else 3))

/-- Nothing changes but the debug port's registers and what is shifted out. -/
def Sys2Proof.Spec.TapFrame (s s' : State) : Prop :=
  TilesSame s s' ∧ s'.mem = s.mem ∧ (∀ n, { s'.page n with counts := (s.page n).counts } = s.page n) ∧ s'.fab = s.fab ∧ s'.sbd = s.sbd ∧ s'.upe = s.upe ∧ s'.cle = s.cle
    ∧ s'.key = s.key ∧ s'.bur = s.bur ∧ s'.sync = s.sync ∧ s'.host = s.host ∧ s'.time = s.time
    ∧ { s'.pkg with ir := s.pkg.ir, lctAddr := s.pkg.lctAddr, blanked := s.pkg.blanked, tapReset := s.pkg.tapReset } = s.pkg

/-- The debug port: EXTEST, SAMPLE_PRELOAD, IDCODE, BYPASS, LCT_ADDR, LCT_READ, LCT_STATUS and TRST_N_ASSERT (R415, R416, R434); and FREEZE_N_ASSERT and
FREEZE_N_RELEASE (R413, R414, R432), after which alone, or in a stop, a word is readable.
Where the rules leave a choice it is the model's (log entries 3 and 28). -/
def Obligations.DebugAndFreeze : Prop :=
  ∀ (s : State),
    (∀ i out, out = s.out → i ∈ [Instr.extest, .samplePreload] → Answers i s fun s' => s'.out = out ∧ TapFrame s s')
    ∧ (Answers .trstNAssert s fun s' => s'.pkg.tapReset = true ∧ s'.pkg.ir = 1 ∧ s'.out = s.out ∧ TapFrame s s')
    ∧ (∀ v, s.pkg.powerOn = true → Answers (.lctAddr v) s fun s' => s'.pkg.lctAddr = v ∧ s'.out = s.out ∧ TapFrame s s')
    ∧ (s.pkg.powerOn = true → s.pkg.porst = false →
      (Answers .idcode s fun s' => s'.out = s.out ++ [.tdo 0x14192CA3 32] ∧ TapFrame s s')
      ∧ (Answers .bypass s fun s' => s'.out = s.out ++ [.tdo 0 1] ∧ TapFrame s s')
      ∧ (Answers .lctStatus s fun s' => TapFrame s s' ∧ ∃ v, s'.out = s.out ++ [.tdo v 32] ∧ v < 2 ^ 12 ∧ v % 2 = (if s.pkg.frozen then 1 else 0)
        ∧ v / 2 % 2 = (if (if s.pkg.frozen || s.pkg.stopped then s.pkg.armed else (s.raw lctPage 0x100).getLsbD 0) then 1 else 0)
        ∧ v / 2 ^ 2 % 2 = (if s.pkg.blanked then 1 else 0) ∧ v / 2 ^ 3 % 2 ^ 8 = s.pkg.stage.toNat ∧ v / 2 ^ 11 = if s.pkg.stopped then 1 else 0)
      ∧ (∀ (space a t : Nat) (w : Option Nat), s.pkg.lctAddr.toNat = space * 2 ^ 60 + t * 2 ^ 52 + a → a < 2 ^ 52 → t < 2 ^ 8 → a % 8 = 0 →
        ((s.pkg.frozen = false ∧ s.pkg.stopped = false ∨ s.pkg.armed = false ∧ 1 ≤ space ∨ 5 ≤ space) ∧ w = none)
        ∨ (∃ n o, space = 0 ∧ t = 0 ∧ n < 1781 ∧ o < 0x1000 ∧ a = pageAddr n o ∧ (s.pkg.frozen = true ∨ s.pkg.stopped = true) ∧
          ∀ plain, plain = (decide (o ∈ [0, 0x18, 0x30, 0x38]) || decide (blockOf n ∈ [.bur, .pwr, .thm, .tst, .age, .lct])) →
            w = if s.pkg.armed = false ∧ plain = false then none
              else if n < 1728 ∧ s.pkg.powered.getLsbD (quadOf (n / 9)) = false then some 0 else some (s.regWord none n o).toNat)
        ∨ ((s.pkg.frozen = true ∨ s.pkg.stopped = true) ∧ s.pkg.armed = true ∧
          (space = 1 ∧ t < 192 ∧ a < storeBytes ∧ w = some (if s.pkg.powered.getLsbD (quadOf t) then ofBytes (getBytes (s.tile t).store a 8) else 0)
          ∨ space = 2 ∧ t < 192 ∧ a < rfBytes ∧ w = some (if s.pkg.powered.getLsbD (quadOf t) then ofBytes (getBytes (s.tile t).rf a 8) else 0)
          ∨ space = 4 ∧ t = 0 ∧ a < hbmBytes ∧ s.stackOn (homeOf a) = true ∧ (∀ i, (s.session i).valid = false) ∧ w = some (ofBytes (s.mem.bytes a 8))
          ∨ space = 4 ∧ t = 0 ∧ a < hbmBytes ∧ s.stackOn (homeOf a) = false ∧ (∀ i, (s.session i).valid = false) ∧ w = some 0)) →
        Answers .lctRead s fun s' => s'.out = s.out ++ [.tdo (w.getD 0) 64] ∧ s'.pkg.lctAddr = s.pkg.lctAddr + 8 ∧ s'.pkg.blanked = w.isNone ∧ TapFrame s s'))
    ∧ (∀ i ∈ [Instr.idcode, .bypass, .lctStatus, .lctRead], s.pkg.porst = true → Answers i s fun s' => s'.out = s.out ∧ TapFrame s s')
    ∧ (s.pkg.porst = false → s.pkg.powerOn = true → s.pkg.freezeOk = true → s.pkg.frozen = false → Answers .freezeNAssert s fun s' =>
      s'.pkg = { s.pkg with frozen := true, freezeLow := true, freezeAt := s.time, armed := s.pkg.armed || (s.raw lctPage 0x100).getLsbD 0 }
      ∧ TapFrame { s with pkg := s'.pkg } s' ∧ s'.out = s.out)
    ∧ (s.pkg.porst = true ∨ s.pkg.powerOn = false ∨ s.pkg.freezeOk = false ∨ s.pkg.frozen = true → Answers .freezeNAssert s fun s' =>
      s' = { s with pkg := { s.pkg with freezeLow := true } })
    ∧ (s.pkg.frozen = true → s.pkg.stopped = false → Answers .freezeNRelease s fun s' => s'.pkg.frozen = false ∧ s'.pkg.freezeLow = false ∧ FailStopped s' ∧ Reported lctPage 4 0x1A0 s s')
    ∧ (s.pkg.frozen = false → Answers .freezeNRelease s fun s' => s' = { s with pkg := { s.pkg with freezeLow := false, freezeOk := s.pkg.freezeOk || !s.pkg.porst } })

/-! ## The block as a whole -/

/-- A step takes the command at the front of the queue and runs it with the queue's rest. On an empty queue package time passes, 1 ns a step (the model's choice, log
entry 2), unless the package is held in reset, unpowered or frozen. -/
def Obligations.StepRunsTheFront : Prop :=
  (∀ (s : State) (c : Instr) (rest : List Instr), s.pending = c :: rest → step s = exec c { s with pending := rest })
    ∧ ∀ (s : State), s.pending = [] →
      (s.pkg.porst = false → s.pkg.powerOn = true → s.pkg.frozen = false → step s = .next { s with time := s.time + 1 })
      ∧ (s.pkg.porst = true ∨ s.pkg.powerOn = false ∨ s.pkg.frozen = true → step s = .next s)

/-- The state after reset: PORST_N is asserted, bring-up stands in RESET (R400), every domain is off (R406), every page word holds its reset value with nothing staged
and no error (R36, R38), SETTEE is SOLO (R363), memory lists nothing in its canonical form, and no command waits.
The values of registers and memory that no rule gives are the model's choice (log entries 3 and 4). -/
def Obligations.ResetState : Prop :=
  State.reset.pkg.porst = true ∧ State.reset.pkg.stage = 0 ∧ State.reset.pkg.powered = 0 ∧ State.reset.time = 0 ∧ State.reset.pending = [] ∧ State.reset.out = []
    ∧ (∀ n o, State.reset.raw n o = resetWord n o ∧ (State.reset.page n).err.valid = false ∧ (State.reset.page n).cause = 0 ∧ Tab.get 0 (State.reset.page n).pendMask (o / 8) = 0)
    ∧ State.reset.raw telPage 0x100 = 1000 + 8 * 2 ^ 16 ∧ State.reset.raw (henPage 0) 0x120 = 50210 + 8192 * 2 ^ 16
    ∧ (∀ t, (State.reset.tile t).seq = .idle ∧ (∀ i, (State.reset.tile t).reg i = 0) ∧ (∀ k, (State.reset.tile t).tok k = 0) ∧ (State.reset.tile t).pred 0 = true
      ∧ Quiet (State.reset.tile t) ∧ ∀ e, (State.reset.tile t).queue e = [])
    ∧ State.reset.mem.wf = true ∧ (∀ a, State.reset.mem.byte a = 0) ∧ State.reset.bur.settee = 1
    ∧ ∀ c, State.reset.chan c = {} ∧ State.reset.session c = {} ∧ State.reset.qp c = {} ∧ State.reset.desc c = {}

/-- Errors, events and their records (R36, R37, R343, R344, R390, R392, R393) as the shared operations make them: what ERR_FIRST captures or ERR_COUNT counts, what
reaches the Bureau, and what an event channel queues, drops or displaces.
Where the rules leave a choice it is the model's (log entry 5). -/
def Obligations.ErrorsAndEvents : Prop :=
  ∀ (s : State) (n : Nat), n < 1781 →
    (∀ sev code ctx loc, sev ≤ 4 → code < 2 ^ 12 → (∀ c, ctx = some c → c < 256) → ∀ s', s' = s.raise n sev code ctx loc →
      Reported n sev code s s' ∧ PageFrame s { s' with bur := s.bur }
      ∧ (∀ m, m ≠ n → { s'.page m with counts := (s.page m).counts } = s.page m)
      ∧ ((s.page n).err.valid = true → (s.page n).err.severity.toNat < sev → (s'.page n).err.preempted = true)
      ∧ ((s.page n).err.valid = false → (s'.page n).err = { severity := BitVec.ofNat 3 sev, valid := true, code := BitVec.ofNat 12 code
                                                            context := BitVec.ofNat 8 (ctx.getD 0), contextValid := ctx.isSome, preempted := false
                                                            time := BitVec.ofNat 32 (s.time / 1000) })
      ∧ (3 ≤ sev → s'.bur = { s.bur with fatals := s.bur.fatals ++ [{ page := n, code := code, sev := sev, ctx := ctx, loc := loc }] }) ∧ (sev < 3 → s'.bur = s.bur)
      ∧ ((s.page n).err.valid = false → (s.raw n 0x028).getLsbD 0 = false → ∀ c, ctx = some c → ∀ h h', h = s.chan (2048 + 8 * c) → h' = s'.chan (2048 + 8 * c) →
        code ≠ 0x158 → code ≠ 0x159 → h.bound = true → h.stalled = false → h.queue.length < 64 →
        ∃ r, h'.queue = h.queue ++ [r] ∧ r.type = 0 ∧ r.seqno = h.recSeq ∧ r.body.length = 4 ∧ r.body.getD 3 0 = 0))
    ∧ (∀ b, b < 48 → ∀ s' h h', s' = s.event n b → h = s.chan n → h' = s'.chan n → (∀ i, (s'.page n).cause.getLsbD i = ((s.page n).cause.getLsbD i || decide (i = b)))
      ∧ PageFrame s s' ∧ WordsSame s s' ∧ ((s.raw n 0x028).getLsbD b = true → h' = h)
      ∧ ((s.raw n 0x028).getLsbD b = false → h.bound = true → h.stalled = false → h.queue.length < 64 → ∃ r, h'.queue = h.queue ++ [r] ∧ r.type = 1 ∧ r.fatal = false
        ∧ r.seqno = h.recSeq ∧ r.body.drop 1 = [BitVec.ofNat 64 s.time, BitVec.ofNat 64 (2 ^ b), 0]))
    ∧ ∀ (c : Nat) (type : BitVec 4) (sev : Nat) (body : List Word) (s' : State) (h h' : Chan), s' = s.queueRec c type sev body → h = s.chan c → h' = s'.chan c →
      (h.bound = false ∨ h.stalled = true → h' = { h with dropped := h.dropped + 1 })
      ∧ (h.bound = true → h.stalled = false → h.queue.length < 64 → ∃ r, h' = { h with queue := h.queue ++ [r], recSeq := h.recSeq + 1 } ∧ r.type = type ∧ r.body = body
        ∧ r.seqno = h.recSeq ∧ (r.fatal = true ↔ 3 ≤ sev))
      ∧ (h.bound = true → h.stalled = false → 64 ≤ h.queue.length → sev < 3 ∨ (∀ r, r ∈ h.queue → sev ≤ r.sev) → h' = { h with dropped := h.dropped + 1 })
      ∧ (∀ pre x post, h.bound = true → h.stalled = false → 64 ≤ h.queue.length → 3 ≤ sev → h.queue = pre ++ x :: post → x.sev < sev → (∀ r, r ∈ pre → sev ≤ r.sev) →
        ∃ r, h' = { h with queue := pre ++ post ++ [r], recSeq := h.recSeq + 1, dropped := h.dropped + 1 } ∧ r.body = body ∧ r.fatal = true)

/-- The package has been frozen since it was s0: nothing has changed but what FREEZE_N, the debug port and the queue hold. -/
def Sys2Proof.Spec.FrozenSince (s0 s : State) : Prop :=
  s.pkg.frozen = true ∧ TapFrame { s0 with pkg := { s0.pkg with freezeLow := s.pkg.freezeLow } } s

/-- A frozen package holds every value (R413), at every step but those that release FREEZE_N, assert or release PORST_N or remove power, and it holds for a frozen
package at the start. -/
def Obligations.FrozenPackageHoldsEverything : Prop :=
  (∀ s : State, s.pkg.frozen = true → FrozenSince s s)
    ∧ ∀ (s0 s s' : State), FrozenSince s0 s →
      (∀ c, s.pending.head? = some c → c ≠ .freezeNRelease ∧ c ≠ .porstNAssert ∧ (∀ x, c ≠ .porstNRelease x) ∧ c ≠ .powerRemoved) →
      step s = .next s' → FrozenSince s0 s'

/-- The package has been stopped since it was s0: its tiles, memory, engines, keys, fabric and page words stand, but for P_MAX, which a
read restarts (R418). -/
def Sys2Proof.Spec.StoppedSince (s0 s : State) : Prop :=
  s.pkg.stopped = true ∧ TilesSame s0 s ∧ s.mem = s0.mem ∧ (∀ n o, n ≠ pwrPage ∨ o / 8 ≠ 0x118 / 8 → s.raw n o = s0.raw n o) ∧ s.fab = s0.fab ∧ s.sbd = s0.sbd ∧ s.upe = s0.upe ∧ s.cle = s0.cle ∧ s.key = s0.key
    ∧ s.sync = s0.sync ∧ s.host.flash = s0.host.flash ∧ s.bur.commits = s0.bur.commits ∧ s.bur.settee = s0.bur.settee ∧ s.pkg.powered = s0.pkg.powered

/-- A fail-stopped package stays stopped and holds its state (R346, R389, R416) at every step but those that assert PORST_N, remove power or take a base rail away. -/
def Obligations.StoppedPackageStaysStopped : Prop :=
  (∀ s : State, s.pkg.stopped = true → StoppedSince s s)
    ∧ ∀ (s0 s s' : State), StoppedSince s0 s →
      (∀ c, s.pending.head? = some c → c ≠ .porstNAssert ∧ c ≠ .powerRemoved ∧ c ≠ .railSample .vddBase .below ∧ c ≠ .railSample .vddIo .below) →
      step s = .next s' → StoppedSince s0 s'
end

