-- ==== Sys2Proof/Laws/State.lean ====
section
/-! SUPPORT. What each update of the state sets, and that it leaves every other field: true by rfl, for simp. -/

namespace Sys2Proof.Machine

variable (s : State)

@[simp] theorem State.modPage_time (n : Nat) (f : Page → Page) : (s.modPage n f).time = s.time := rfl
@[simp] theorem State.modPage_draws (n : Nat) (f : Page → Page) : (s.modPage n f).draws = s.draws := rfl
@[simp] theorem State.modPage_pkg (n : Nat) (f : Page → Page) : (s.modPage n f).pkg = s.pkg := rfl
@[simp] theorem State.modPage_pages (n : Nat) (f : Page → Page) : (s.modPage n f).pages = Tab.mod {} s.pages n f := rfl
@[simp] theorem State.modPage_tiles (n : Nat) (f : Page → Page) : (s.modPage n f).tiles = s.tiles := rfl
@[simp] theorem State.modPage_mem (n : Nat) (f : Page → Page) : (s.modPage n f).mem = s.mem := rfl
@[simp] theorem State.modPage_fab (n : Nat) (f : Page → Page) : (s.modPage n f).fab = s.fab := rfl
@[simp] theorem State.modPage_sbd (n : Nat) (f : Page → Page) : (s.modPage n f).sbd = s.sbd := rfl
@[simp] theorem State.modPage_upe (n : Nat) (f : Page → Page) : (s.modPage n f).upe = s.upe := rfl
@[simp] theorem State.modPage_cle (n : Nat) (f : Page → Page) : (s.modPage n f).cle = s.cle := rfl
@[simp] theorem State.modPage_key (n : Nat) (f : Page → Page) : (s.modPage n f).key = s.key := rfl
@[simp] theorem State.modPage_bur (n : Nat) (f : Page → Page) : (s.modPage n f).bur = s.bur := rfl
@[simp] theorem State.modPage_sync (n : Nat) (f : Page → Page) : (s.modPage n f).sync = s.sync := rfl
@[simp] theorem State.modPage_host (n : Nat) (f : Page → Page) : (s.modPage n f).host = s.host := rfl
@[simp] theorem State.modPage_out (n : Nat) (f : Page → Page) : (s.modPage n f).out = s.out := rfl
@[simp] theorem State.modPage_pending (n : Nat) (f : Page → Page) : (s.modPage n f).pending = s.pending := rfl

@[simp] theorem State.modTile_time (t : Nat) (f : Tile → Tile) : (s.modTile t f).time = s.time := rfl
@[simp] theorem State.modTile_draws (t : Nat) (f : Tile → Tile) : (s.modTile t f).draws = s.draws := rfl
@[simp] theorem State.modTile_pkg (t : Nat) (f : Tile → Tile) : (s.modTile t f).pkg = s.pkg := rfl
@[simp] theorem State.modTile_pages (t : Nat) (f : Tile → Tile) : (s.modTile t f).pages = s.pages := rfl
@[simp] theorem State.modTile_tiles (t : Nat) (f : Tile → Tile) : (s.modTile t f).tiles = Tab.mod {} s.tiles t f := rfl
@[simp] theorem State.modTile_mem (t : Nat) (f : Tile → Tile) : (s.modTile t f).mem = s.mem := rfl
@[simp] theorem State.modTile_fab (t : Nat) (f : Tile → Tile) : (s.modTile t f).fab = s.fab := rfl
@[simp] theorem State.modTile_sbd (t : Nat) (f : Tile → Tile) : (s.modTile t f).sbd = s.sbd := rfl
@[simp] theorem State.modTile_upe (t : Nat) (f : Tile → Tile) : (s.modTile t f).upe = s.upe := rfl
@[simp] theorem State.modTile_cle (t : Nat) (f : Tile → Tile) : (s.modTile t f).cle = s.cle := rfl
@[simp] theorem State.modTile_key (t : Nat) (f : Tile → Tile) : (s.modTile t f).key = s.key := rfl
@[simp] theorem State.modTile_bur (t : Nat) (f : Tile → Tile) : (s.modTile t f).bur = s.bur := rfl
@[simp] theorem State.modTile_sync (t : Nat) (f : Tile → Tile) : (s.modTile t f).sync = s.sync := rfl
@[simp] theorem State.modTile_host (t : Nat) (f : Tile → Tile) : (s.modTile t f).host = s.host := rfl
@[simp] theorem State.modTile_out (t : Nat) (f : Tile → Tile) : (s.modTile t f).out = s.out := rfl
@[simp] theorem State.modTile_pending (t : Nat) (f : Tile → Tile) : (s.modTile t f).pending = s.pending := rfl

@[simp] theorem State.modPort_time (p : Nat) (f : Port → Port) : (s.modPort p f).time = s.time := rfl
@[simp] theorem State.modPort_draws (p : Nat) (f : Port → Port) : (s.modPort p f).draws = s.draws := rfl
@[simp] theorem State.modPort_pkg (p : Nat) (f : Port → Port) : (s.modPort p f).pkg = s.pkg := rfl
@[simp] theorem State.modPort_pages (p : Nat) (f : Port → Port) : (s.modPort p f).pages = s.pages := rfl
@[simp] theorem State.modPort_tiles (p : Nat) (f : Port → Port) : (s.modPort p f).tiles = s.tiles := rfl
@[simp] theorem State.modPort_mem (p : Nat) (f : Port → Port) : (s.modPort p f).mem = s.mem := rfl
@[simp] theorem State.modPort_fab (p : Nat) (f : Port → Port) : (s.modPort p f).fab = { s.fab with ports := Tab.mod {} s.fab.ports p f } := rfl
@[simp] theorem State.modPort_sbd (p : Nat) (f : Port → Port) : (s.modPort p f).sbd = s.sbd := rfl
@[simp] theorem State.modPort_upe (p : Nat) (f : Port → Port) : (s.modPort p f).upe = s.upe := rfl
@[simp] theorem State.modPort_cle (p : Nat) (f : Port → Port) : (s.modPort p f).cle = s.cle := rfl
@[simp] theorem State.modPort_key (p : Nat) (f : Port → Port) : (s.modPort p f).key = s.key := rfl
@[simp] theorem State.modPort_bur (p : Nat) (f : Port → Port) : (s.modPort p f).bur = s.bur := rfl
@[simp] theorem State.modPort_sync (p : Nat) (f : Port → Port) : (s.modPort p f).sync = s.sync := rfl
@[simp] theorem State.modPort_host (p : Nat) (f : Port → Port) : (s.modPort p f).host = s.host := rfl
@[simp] theorem State.modPort_out (p : Nat) (f : Port → Port) : (s.modPort p f).out = s.out := rfl
@[simp] theorem State.modPort_pending (p : Nat) (f : Port → Port) : (s.modPort p f).pending = s.pending := rfl

@[simp] theorem State.modChan_time (c : Nat) (f : Chan → Chan) : (s.modChan c f).time = s.time := rfl
@[simp] theorem State.modChan_draws (c : Nat) (f : Chan → Chan) : (s.modChan c f).draws = s.draws := rfl
@[simp] theorem State.modChan_pkg (c : Nat) (f : Chan → Chan) : (s.modChan c f).pkg = s.pkg := rfl
@[simp] theorem State.modChan_pages (c : Nat) (f : Chan → Chan) : (s.modChan c f).pages = s.pages := rfl
@[simp] theorem State.modChan_tiles (c : Nat) (f : Chan → Chan) : (s.modChan c f).tiles = s.tiles := rfl
@[simp] theorem State.modChan_mem (c : Nat) (f : Chan → Chan) : (s.modChan c f).mem = s.mem := rfl
@[simp] theorem State.modChan_fab (c : Nat) (f : Chan → Chan) : (s.modChan c f).fab = s.fab := rfl
@[simp] theorem State.modChan_sbd (c : Nat) (f : Chan → Chan) : (s.modChan c f).sbd = s.sbd := rfl
@[simp] theorem State.modChan_upe (c : Nat) (f : Chan → Chan) : (s.modChan c f).upe = s.upe := rfl
@[simp] theorem State.modChan_cle (c : Nat) (f : Chan → Chan) : (s.modChan c f).cle = s.cle := rfl
@[simp] theorem State.modChan_key (c : Nat) (f : Chan → Chan) : (s.modChan c f).key = s.key := rfl
@[simp] theorem State.modChan_bur (c : Nat) (f : Chan → Chan) : (s.modChan c f).bur = s.bur := rfl
@[simp] theorem State.modChan_sync (c : Nat) (f : Chan → Chan) : (s.modChan c f).sync = s.sync := rfl
@[simp] theorem State.modChan_host (c : Nat) (f : Chan → Chan) : (s.modChan c f).host = { s.host with chans := Tab.mod {} s.host.chans c f } := rfl
@[simp] theorem State.modChan_out (c : Nat) (f : Chan → Chan) : (s.modChan c f).out = s.out := rfl
@[simp] theorem State.modChan_pending (c : Nat) (f : Chan → Chan) : (s.modChan c f).pending = s.pending := rfl

@[simp] theorem State.modSession_time (i : Nat) (f : Session → Session) : (s.modSession i f).time = s.time := rfl
@[simp] theorem State.modSession_draws (i : Nat) (f : Session → Session) : (s.modSession i f).draws = s.draws := rfl
@[simp] theorem State.modSession_pkg (i : Nat) (f : Session → Session) : (s.modSession i f).pkg = s.pkg := rfl
@[simp] theorem State.modSession_pages (i : Nat) (f : Session → Session) : (s.modSession i f).pages = s.pages := rfl
@[simp] theorem State.modSession_tiles (i : Nat) (f : Session → Session) : (s.modSession i f).tiles = s.tiles := rfl
@[simp] theorem State.modSession_mem (i : Nat) (f : Session → Session) : (s.modSession i f).mem = s.mem := rfl
@[simp] theorem State.modSession_fab (i : Nat) (f : Session → Session) : (s.modSession i f).fab = s.fab := rfl
@[simp] theorem State.modSession_sbd (i : Nat) (f : Session → Session) : (s.modSession i f).sbd = s.sbd := rfl
@[simp] theorem State.modSession_upe (i : Nat) (f : Session → Session) : (s.modSession i f).upe = s.upe := rfl
@[simp] theorem State.modSession_cle (i : Nat) (f : Session → Session) : (s.modSession i f).cle = s.cle := rfl
@[simp] theorem State.modSession_key (i : Nat) (f : Session → Session) : (s.modSession i f).key = s.key := rfl
@[simp] theorem State.modSession_bur (i : Nat) (f : Session → Session) : (s.modSession i f).bur = s.bur := rfl
@[simp] theorem State.modSession_sync (i : Nat) (f : Session → Session) : (s.modSession i f).sync = s.sync := rfl
@[simp] theorem State.modSession_host (i : Nat) (f : Session → Session) : (s.modSession i f).host = { s.host with sessions := Tab.mod {} s.host.sessions i f } := rfl
@[simp] theorem State.modSession_out (i : Nat) (f : Session → Session) : (s.modSession i f).out = s.out := rfl
@[simp] theorem State.modSession_pending (i : Nat) (f : Session → Session) : (s.modSession i f).pending = s.pending := rfl

@[simp] theorem State.modCommit_time (c : Nat) (f : Commit → Commit) : (s.modCommit c f).time = s.time := rfl
@[simp] theorem State.modCommit_draws (c : Nat) (f : Commit → Commit) : (s.modCommit c f).draws = s.draws := rfl
@[simp] theorem State.modCommit_pkg (c : Nat) (f : Commit → Commit) : (s.modCommit c f).pkg = s.pkg := rfl
@[simp] theorem State.modCommit_pages (c : Nat) (f : Commit → Commit) : (s.modCommit c f).pages = s.pages := rfl
@[simp] theorem State.modCommit_tiles (c : Nat) (f : Commit → Commit) : (s.modCommit c f).tiles = s.tiles := rfl
@[simp] theorem State.modCommit_mem (c : Nat) (f : Commit → Commit) : (s.modCommit c f).mem = s.mem := rfl
@[simp] theorem State.modCommit_fab (c : Nat) (f : Commit → Commit) : (s.modCommit c f).fab = s.fab := rfl
@[simp] theorem State.modCommit_sbd (c : Nat) (f : Commit → Commit) : (s.modCommit c f).sbd = s.sbd := rfl
@[simp] theorem State.modCommit_upe (c : Nat) (f : Commit → Commit) : (s.modCommit c f).upe = s.upe := rfl
@[simp] theorem State.modCommit_cle (c : Nat) (f : Commit → Commit) : (s.modCommit c f).cle = s.cle := rfl
@[simp] theorem State.modCommit_key (c : Nat) (f : Commit → Commit) : (s.modCommit c f).key = s.key := rfl
@[simp] theorem State.modCommit_bur (c : Nat) (f : Commit → Commit) : (s.modCommit c f).bur = { s.bur with commits := Tab.mod {} s.bur.commits c f } := rfl
@[simp] theorem State.modCommit_sync (c : Nat) (f : Commit → Commit) : (s.modCommit c f).sync = s.sync := rfl
@[simp] theorem State.modCommit_host (c : Nat) (f : Commit → Commit) : (s.modCommit c f).host = s.host := rfl
@[simp] theorem State.modCommit_out (c : Nat) (f : Commit → Commit) : (s.modCommit c f).out = s.out := rfl
@[simp] theorem State.modCommit_pending (c : Nat) (f : Commit → Commit) : (s.modCommit c f).pending = s.pending := rfl

@[simp] theorem State.modMem_time (f : Mem → Mem) : (s.modMem f).time = s.time := rfl
@[simp] theorem State.modMem_draws (f : Mem → Mem) : (s.modMem f).draws = s.draws := rfl
@[simp] theorem State.modMem_pkg (f : Mem → Mem) : (s.modMem f).pkg = s.pkg := rfl
@[simp] theorem State.modMem_pages (f : Mem → Mem) : (s.modMem f).pages = s.pages := rfl
@[simp] theorem State.modMem_tiles (f : Mem → Mem) : (s.modMem f).tiles = s.tiles := rfl
@[simp] theorem State.modMem_mem (f : Mem → Mem) : (s.modMem f).mem = f s.mem := rfl
@[simp] theorem State.modMem_fab (f : Mem → Mem) : (s.modMem f).fab = s.fab := rfl
@[simp] theorem State.modMem_sbd (f : Mem → Mem) : (s.modMem f).sbd = s.sbd := rfl
@[simp] theorem State.modMem_upe (f : Mem → Mem) : (s.modMem f).upe = s.upe := rfl
@[simp] theorem State.modMem_cle (f : Mem → Mem) : (s.modMem f).cle = s.cle := rfl
@[simp] theorem State.modMem_key (f : Mem → Mem) : (s.modMem f).key = s.key := rfl
@[simp] theorem State.modMem_bur (f : Mem → Mem) : (s.modMem f).bur = s.bur := rfl
@[simp] theorem State.modMem_sync (f : Mem → Mem) : (s.modMem f).sync = s.sync := rfl
@[simp] theorem State.modMem_host (f : Mem → Mem) : (s.modMem f).host = s.host := rfl
@[simp] theorem State.modMem_out (f : Mem → Mem) : (s.modMem f).out = s.out := rfl
@[simp] theorem State.modMem_pending (f : Mem → Mem) : (s.modMem f).pending = s.pending := rfl

@[simp] theorem State.modFab_time (f : Fabric → Fabric) : (s.modFab f).time = s.time := rfl
@[simp] theorem State.modFab_draws (f : Fabric → Fabric) : (s.modFab f).draws = s.draws := rfl
@[simp] theorem State.modFab_pkg (f : Fabric → Fabric) : (s.modFab f).pkg = s.pkg := rfl
@[simp] theorem State.modFab_pages (f : Fabric → Fabric) : (s.modFab f).pages = s.pages := rfl
@[simp] theorem State.modFab_tiles (f : Fabric → Fabric) : (s.modFab f).tiles = s.tiles := rfl
@[simp] theorem State.modFab_mem (f : Fabric → Fabric) : (s.modFab f).mem = s.mem := rfl
@[simp] theorem State.modFab_fab (f : Fabric → Fabric) : (s.modFab f).fab = f s.fab := rfl
@[simp] theorem State.modFab_sbd (f : Fabric → Fabric) : (s.modFab f).sbd = s.sbd := rfl
@[simp] theorem State.modFab_upe (f : Fabric → Fabric) : (s.modFab f).upe = s.upe := rfl
@[simp] theorem State.modFab_cle (f : Fabric → Fabric) : (s.modFab f).cle = s.cle := rfl
@[simp] theorem State.modFab_key (f : Fabric → Fabric) : (s.modFab f).key = s.key := rfl
@[simp] theorem State.modFab_bur (f : Fabric → Fabric) : (s.modFab f).bur = s.bur := rfl
@[simp] theorem State.modFab_sync (f : Fabric → Fabric) : (s.modFab f).sync = s.sync := rfl
@[simp] theorem State.modFab_host (f : Fabric → Fabric) : (s.modFab f).host = s.host := rfl
@[simp] theorem State.modFab_out (f : Fabric → Fabric) : (s.modFab f).out = s.out := rfl
@[simp] theorem State.modFab_pending (f : Fabric → Fabric) : (s.modFab f).pending = s.pending := rfl

@[simp] theorem State.modBur_time (f : Bureau → Bureau) : (s.modBur f).time = s.time := rfl
@[simp] theorem State.modBur_draws (f : Bureau → Bureau) : (s.modBur f).draws = s.draws := rfl
@[simp] theorem State.modBur_pkg (f : Bureau → Bureau) : (s.modBur f).pkg = s.pkg := rfl
@[simp] theorem State.modBur_pages (f : Bureau → Bureau) : (s.modBur f).pages = s.pages := rfl
@[simp] theorem State.modBur_tiles (f : Bureau → Bureau) : (s.modBur f).tiles = s.tiles := rfl
@[simp] theorem State.modBur_mem (f : Bureau → Bureau) : (s.modBur f).mem = s.mem := rfl
@[simp] theorem State.modBur_fab (f : Bureau → Bureau) : (s.modBur f).fab = s.fab := rfl
@[simp] theorem State.modBur_sbd (f : Bureau → Bureau) : (s.modBur f).sbd = s.sbd := rfl
@[simp] theorem State.modBur_upe (f : Bureau → Bureau) : (s.modBur f).upe = s.upe := rfl
@[simp] theorem State.modBur_cle (f : Bureau → Bureau) : (s.modBur f).cle = s.cle := rfl
@[simp] theorem State.modBur_key (f : Bureau → Bureau) : (s.modBur f).key = s.key := rfl
@[simp] theorem State.modBur_bur (f : Bureau → Bureau) : (s.modBur f).bur = f s.bur := rfl
@[simp] theorem State.modBur_sync (f : Bureau → Bureau) : (s.modBur f).sync = s.sync := rfl
@[simp] theorem State.modBur_host (f : Bureau → Bureau) : (s.modBur f).host = s.host := rfl
@[simp] theorem State.modBur_out (f : Bureau → Bureau) : (s.modBur f).out = s.out := rfl
@[simp] theorem State.modBur_pending (f : Bureau → Bureau) : (s.modBur f).pending = s.pending := rfl

@[simp] theorem State.modPkg_time (f : Pkg → Pkg) : (s.modPkg f).time = s.time := rfl
@[simp] theorem State.modPkg_draws (f : Pkg → Pkg) : (s.modPkg f).draws = s.draws := rfl
@[simp] theorem State.modPkg_pkg (f : Pkg → Pkg) : (s.modPkg f).pkg = f s.pkg := rfl
@[simp] theorem State.modPkg_pages (f : Pkg → Pkg) : (s.modPkg f).pages = s.pages := rfl
@[simp] theorem State.modPkg_tiles (f : Pkg → Pkg) : (s.modPkg f).tiles = s.tiles := rfl
@[simp] theorem State.modPkg_mem (f : Pkg → Pkg) : (s.modPkg f).mem = s.mem := rfl
@[simp] theorem State.modPkg_fab (f : Pkg → Pkg) : (s.modPkg f).fab = s.fab := rfl
@[simp] theorem State.modPkg_sbd (f : Pkg → Pkg) : (s.modPkg f).sbd = s.sbd := rfl
@[simp] theorem State.modPkg_upe (f : Pkg → Pkg) : (s.modPkg f).upe = s.upe := rfl
@[simp] theorem State.modPkg_cle (f : Pkg → Pkg) : (s.modPkg f).cle = s.cle := rfl
@[simp] theorem State.modPkg_key (f : Pkg → Pkg) : (s.modPkg f).key = s.key := rfl
@[simp] theorem State.modPkg_bur (f : Pkg → Pkg) : (s.modPkg f).bur = s.bur := rfl
@[simp] theorem State.modPkg_sync (f : Pkg → Pkg) : (s.modPkg f).sync = s.sync := rfl
@[simp] theorem State.modPkg_host (f : Pkg → Pkg) : (s.modPkg f).host = s.host := rfl
@[simp] theorem State.modPkg_out (f : Pkg → Pkg) : (s.modPkg f).out = s.out := rfl
@[simp] theorem State.modPkg_pending (f : Pkg → Pkg) : (s.modPkg f).pending = s.pending := rfl

@[simp] theorem State.modHost_time (f : HostSide → HostSide) : (s.modHost f).time = s.time := rfl
@[simp] theorem State.modHost_draws (f : HostSide → HostSide) : (s.modHost f).draws = s.draws := rfl
@[simp] theorem State.modHost_pkg (f : HostSide → HostSide) : (s.modHost f).pkg = s.pkg := rfl
@[simp] theorem State.modHost_pages (f : HostSide → HostSide) : (s.modHost f).pages = s.pages := rfl
@[simp] theorem State.modHost_tiles (f : HostSide → HostSide) : (s.modHost f).tiles = s.tiles := rfl
@[simp] theorem State.modHost_mem (f : HostSide → HostSide) : (s.modHost f).mem = s.mem := rfl
@[simp] theorem State.modHost_fab (f : HostSide → HostSide) : (s.modHost f).fab = s.fab := rfl
@[simp] theorem State.modHost_sbd (f : HostSide → HostSide) : (s.modHost f).sbd = s.sbd := rfl
@[simp] theorem State.modHost_upe (f : HostSide → HostSide) : (s.modHost f).upe = s.upe := rfl
@[simp] theorem State.modHost_cle (f : HostSide → HostSide) : (s.modHost f).cle = s.cle := rfl
@[simp] theorem State.modHost_key (f : HostSide → HostSide) : (s.modHost f).key = s.key := rfl
@[simp] theorem State.modHost_bur (f : HostSide → HostSide) : (s.modHost f).bur = s.bur := rfl
@[simp] theorem State.modHost_sync (f : HostSide → HostSide) : (s.modHost f).sync = s.sync := rfl
@[simp] theorem State.modHost_host (f : HostSide → HostSide) : (s.modHost f).host = f s.host := rfl
@[simp] theorem State.modHost_out (f : HostSide → HostSide) : (s.modHost f).out = s.out := rfl
@[simp] theorem State.modHost_pending (f : HostSide → HostSide) : (s.modHost f).pending = s.pending := rfl

@[simp] theorem State.modKey_time (f : Keys → Keys) : (s.modKey f).time = s.time := rfl
@[simp] theorem State.modKey_draws (f : Keys → Keys) : (s.modKey f).draws = s.draws := rfl
@[simp] theorem State.modKey_pkg (f : Keys → Keys) : (s.modKey f).pkg = s.pkg := rfl
@[simp] theorem State.modKey_pages (f : Keys → Keys) : (s.modKey f).pages = s.pages := rfl
@[simp] theorem State.modKey_tiles (f : Keys → Keys) : (s.modKey f).tiles = s.tiles := rfl
@[simp] theorem State.modKey_mem (f : Keys → Keys) : (s.modKey f).mem = s.mem := rfl
@[simp] theorem State.modKey_fab (f : Keys → Keys) : (s.modKey f).fab = s.fab := rfl
@[simp] theorem State.modKey_sbd (f : Keys → Keys) : (s.modKey f).sbd = s.sbd := rfl
@[simp] theorem State.modKey_upe (f : Keys → Keys) : (s.modKey f).upe = s.upe := rfl
@[simp] theorem State.modKey_cle (f : Keys → Keys) : (s.modKey f).cle = s.cle := rfl
@[simp] theorem State.modKey_key (f : Keys → Keys) : (s.modKey f).key = f s.key := rfl
@[simp] theorem State.modKey_bur (f : Keys → Keys) : (s.modKey f).bur = s.bur := rfl
@[simp] theorem State.modKey_sync (f : Keys → Keys) : (s.modKey f).sync = s.sync := rfl
@[simp] theorem State.modKey_host (f : Keys → Keys) : (s.modKey f).host = s.host := rfl
@[simp] theorem State.modKey_out (f : Keys → Keys) : (s.modKey f).out = s.out := rfl
@[simp] theorem State.modKey_pending (f : Keys → Keys) : (s.modKey f).pending = s.pending := rfl

@[simp] theorem State.modCle_time (f : Cle → Cle) : (s.modCle f).time = s.time := rfl
@[simp] theorem State.modCle_draws (f : Cle → Cle) : (s.modCle f).draws = s.draws := rfl
@[simp] theorem State.modCle_pkg (f : Cle → Cle) : (s.modCle f).pkg = s.pkg := rfl
@[simp] theorem State.modCle_pages (f : Cle → Cle) : (s.modCle f).pages = s.pages := rfl
@[simp] theorem State.modCle_tiles (f : Cle → Cle) : (s.modCle f).tiles = s.tiles := rfl
@[simp] theorem State.modCle_mem (f : Cle → Cle) : (s.modCle f).mem = s.mem := rfl
@[simp] theorem State.modCle_fab (f : Cle → Cle) : (s.modCle f).fab = s.fab := rfl
@[simp] theorem State.modCle_sbd (f : Cle → Cle) : (s.modCle f).sbd = s.sbd := rfl
@[simp] theorem State.modCle_upe (f : Cle → Cle) : (s.modCle f).upe = s.upe := rfl
@[simp] theorem State.modCle_cle (f : Cle → Cle) : (s.modCle f).cle = f s.cle := rfl
@[simp] theorem State.modCle_key (f : Cle → Cle) : (s.modCle f).key = s.key := rfl
@[simp] theorem State.modCle_bur (f : Cle → Cle) : (s.modCle f).bur = s.bur := rfl
@[simp] theorem State.modCle_sync (f : Cle → Cle) : (s.modCle f).sync = s.sync := rfl
@[simp] theorem State.modCle_host (f : Cle → Cle) : (s.modCle f).host = s.host := rfl
@[simp] theorem State.modCle_out (f : Cle → Cle) : (s.modCle f).out = s.out := rfl
@[simp] theorem State.modCle_pending (f : Cle → Cle) : (s.modCle f).pending = s.pending := rfl

@[simp] theorem State.modUpe_time (f : Upe → Upe) : (s.modUpe f).time = s.time := rfl
@[simp] theorem State.modUpe_draws (f : Upe → Upe) : (s.modUpe f).draws = s.draws := rfl
@[simp] theorem State.modUpe_pkg (f : Upe → Upe) : (s.modUpe f).pkg = s.pkg := rfl
@[simp] theorem State.modUpe_pages (f : Upe → Upe) : (s.modUpe f).pages = s.pages := rfl
@[simp] theorem State.modUpe_tiles (f : Upe → Upe) : (s.modUpe f).tiles = s.tiles := rfl
@[simp] theorem State.modUpe_mem (f : Upe → Upe) : (s.modUpe f).mem = s.mem := rfl
@[simp] theorem State.modUpe_fab (f : Upe → Upe) : (s.modUpe f).fab = s.fab := rfl
@[simp] theorem State.modUpe_sbd (f : Upe → Upe) : (s.modUpe f).sbd = s.sbd := rfl
@[simp] theorem State.modUpe_upe (f : Upe → Upe) : (s.modUpe f).upe = f s.upe := rfl
@[simp] theorem State.modUpe_cle (f : Upe → Upe) : (s.modUpe f).cle = s.cle := rfl
@[simp] theorem State.modUpe_key (f : Upe → Upe) : (s.modUpe f).key = s.key := rfl
@[simp] theorem State.modUpe_bur (f : Upe → Upe) : (s.modUpe f).bur = s.bur := rfl
@[simp] theorem State.modUpe_sync (f : Upe → Upe) : (s.modUpe f).sync = s.sync := rfl
@[simp] theorem State.modUpe_host (f : Upe → Upe) : (s.modUpe f).host = s.host := rfl
@[simp] theorem State.modUpe_out (f : Upe → Upe) : (s.modUpe f).out = s.out := rfl
@[simp] theorem State.modUpe_pending (f : Upe → Upe) : (s.modUpe f).pending = s.pending := rfl

@[simp] theorem State.modSync_time (f : Sync → Sync) : (s.modSync f).time = s.time := rfl
@[simp] theorem State.modSync_draws (f : Sync → Sync) : (s.modSync f).draws = s.draws := rfl
@[simp] theorem State.modSync_pkg (f : Sync → Sync) : (s.modSync f).pkg = s.pkg := rfl
@[simp] theorem State.modSync_pages (f : Sync → Sync) : (s.modSync f).pages = s.pages := rfl
@[simp] theorem State.modSync_tiles (f : Sync → Sync) : (s.modSync f).tiles = s.tiles := rfl
@[simp] theorem State.modSync_mem (f : Sync → Sync) : (s.modSync f).mem = s.mem := rfl
@[simp] theorem State.modSync_fab (f : Sync → Sync) : (s.modSync f).fab = s.fab := rfl
@[simp] theorem State.modSync_sbd (f : Sync → Sync) : (s.modSync f).sbd = s.sbd := rfl
@[simp] theorem State.modSync_upe (f : Sync → Sync) : (s.modSync f).upe = s.upe := rfl
@[simp] theorem State.modSync_cle (f : Sync → Sync) : (s.modSync f).cle = s.cle := rfl
@[simp] theorem State.modSync_key (f : Sync → Sync) : (s.modSync f).key = s.key := rfl
@[simp] theorem State.modSync_bur (f : Sync → Sync) : (s.modSync f).bur = s.bur := rfl
@[simp] theorem State.modSync_sync (f : Sync → Sync) : (s.modSync f).sync = f s.sync := rfl
@[simp] theorem State.modSync_host (f : Sync → Sync) : (s.modSync f).host = s.host := rfl
@[simp] theorem State.modSync_out (f : Sync → Sync) : (s.modSync f).out = s.out := rfl
@[simp] theorem State.modSync_pending (f : Sync → Sync) : (s.modSync f).pending = s.pending := rfl

@[simp] theorem State.send_time (o : Out) : (s.send o).time = s.time := rfl
@[simp] theorem State.send_draws (o : Out) : (s.send o).draws = s.draws := rfl
@[simp] theorem State.send_pkg (o : Out) : (s.send o).pkg = s.pkg := rfl
@[simp] theorem State.send_pages (o : Out) : (s.send o).pages = s.pages := rfl
@[simp] theorem State.send_tiles (o : Out) : (s.send o).tiles = s.tiles := rfl
@[simp] theorem State.send_mem (o : Out) : (s.send o).mem = s.mem := rfl
@[simp] theorem State.send_fab (o : Out) : (s.send o).fab = s.fab := rfl
@[simp] theorem State.send_sbd (o : Out) : (s.send o).sbd = s.sbd := rfl
@[simp] theorem State.send_upe (o : Out) : (s.send o).upe = s.upe := rfl
@[simp] theorem State.send_cle (o : Out) : (s.send o).cle = s.cle := rfl
@[simp] theorem State.send_key (o : Out) : (s.send o).key = s.key := rfl
@[simp] theorem State.send_bur (o : Out) : (s.send o).bur = s.bur := rfl
@[simp] theorem State.send_sync (o : Out) : (s.send o).sync = s.sync := rfl
@[simp] theorem State.send_host (o : Out) : (s.send o).host = s.host := rfl
@[simp] theorem State.send_out (o : Out) : (s.send o).out = s.out ++ [o] := rfl
@[simp] theorem State.send_pending (o : Out) : (s.send o).pending = s.pending := rfl

@[simp] theorem State.draw_time : s.draw.2.time = s.time := rfl
@[simp] theorem State.draw_draws : s.draw.2.draws = s.draws + 1 := rfl
@[simp] theorem State.draw_pkg : s.draw.2.pkg = s.pkg := rfl
@[simp] theorem State.draw_pages : s.draw.2.pages = s.pages := rfl
@[simp] theorem State.draw_tiles : s.draw.2.tiles = s.tiles := rfl
@[simp] theorem State.draw_mem : s.draw.2.mem = s.mem := rfl
@[simp] theorem State.draw_fab : s.draw.2.fab = s.fab := rfl
@[simp] theorem State.draw_sbd : s.draw.2.sbd = s.sbd := rfl
@[simp] theorem State.draw_upe : s.draw.2.upe = s.upe := rfl
@[simp] theorem State.draw_cle : s.draw.2.cle = s.cle := rfl
@[simp] theorem State.draw_key : s.draw.2.key = s.key := rfl
@[simp] theorem State.draw_bur : s.draw.2.bur = s.bur := rfl
@[simp] theorem State.draw_sync : s.draw.2.sync = s.sync := rfl
@[simp] theorem State.draw_host : s.draw.2.host = s.host := rfl
@[simp] theorem State.draw_out : s.draw.2.out = s.out := rfl
@[simp] theorem State.draw_pending : s.draw.2.pending = s.pending := rfl
@[simp] theorem State.draw_fst : s.draw.1 = s.draws := rfl

@[simp] theorem State.setRaw_time (n o : Nat) (w : Word) : (s.setRaw n o w).time = s.time := rfl
@[simp] theorem State.setRaw_draws (n o : Nat) (w : Word) : (s.setRaw n o w).draws = s.draws := rfl
@[simp] theorem State.setRaw_pkg (n o : Nat) (w : Word) : (s.setRaw n o w).pkg = s.pkg := rfl
@[simp] theorem State.setRaw_tiles (n o : Nat) (w : Word) : (s.setRaw n o w).tiles = s.tiles := rfl
@[simp] theorem State.setRaw_mem (n o : Nat) (w : Word) : (s.setRaw n o w).mem = s.mem := rfl
@[simp] theorem State.setRaw_fab (n o : Nat) (w : Word) : (s.setRaw n o w).fab = s.fab := rfl
@[simp] theorem State.setRaw_sbd (n o : Nat) (w : Word) : (s.setRaw n o w).sbd = s.sbd := rfl
@[simp] theorem State.setRaw_upe (n o : Nat) (w : Word) : (s.setRaw n o w).upe = s.upe := rfl
@[simp] theorem State.setRaw_cle (n o : Nat) (w : Word) : (s.setRaw n o w).cle = s.cle := rfl
@[simp] theorem State.setRaw_key (n o : Nat) (w : Word) : (s.setRaw n o w).key = s.key := rfl
@[simp] theorem State.setRaw_bur (n o : Nat) (w : Word) : (s.setRaw n o w).bur = s.bur := rfl
@[simp] theorem State.setRaw_sync (n o : Nat) (w : Word) : (s.setRaw n o w).sync = s.sync := rfl
@[simp] theorem State.setRaw_host (n o : Nat) (w : Word) : (s.setRaw n o w).host = s.host := rfl
@[simp] theorem State.setRaw_out (n o : Nat) (w : Word) : (s.setRaw n o w).out = s.out := rfl
@[simp] theorem State.setRaw_pending (n o : Nat) (w : Word) : (s.setRaw n o w).pending = s.pending := rfl
@[simp] theorem State.setFld_time (n o lo w v : Nat) : (s.setFld n o lo w v).time = s.time := rfl
@[simp] theorem State.setFld_draws (n o lo w v : Nat) : (s.setFld n o lo w v).draws = s.draws := rfl
@[simp] theorem State.setFld_pkg (n o lo w v : Nat) : (s.setFld n o lo w v).pkg = s.pkg := rfl
@[simp] theorem State.setFld_tiles (n o lo w v : Nat) : (s.setFld n o lo w v).tiles = s.tiles := rfl
@[simp] theorem State.setFld_mem (n o lo w v : Nat) : (s.setFld n o lo w v).mem = s.mem := rfl
@[simp] theorem State.setFld_fab (n o lo w v : Nat) : (s.setFld n o lo w v).fab = s.fab := rfl
@[simp] theorem State.setFld_sbd (n o lo w v : Nat) : (s.setFld n o lo w v).sbd = s.sbd := rfl
@[simp] theorem State.setFld_upe (n o lo w v : Nat) : (s.setFld n o lo w v).upe = s.upe := rfl
@[simp] theorem State.setFld_cle (n o lo w v : Nat) : (s.setFld n o lo w v).cle = s.cle := rfl
@[simp] theorem State.setFld_key (n o lo w v : Nat) : (s.setFld n o lo w v).key = s.key := rfl
@[simp] theorem State.setFld_bur (n o lo w v : Nat) : (s.setFld n o lo w v).bur = s.bur := rfl
@[simp] theorem State.setFld_sync (n o lo w v : Nat) : (s.setFld n o lo w v).sync = s.sync := rfl
@[simp] theorem State.setFld_host (n o lo w v : Nat) : (s.setFld n o lo w v).host = s.host := rfl
@[simp] theorem State.setFld_out (n o lo w v : Nat) : (s.setFld n o lo w v).out = s.out := rfl
@[simp] theorem State.setFld_pending (n o lo w v : Nat) : (s.setFld n o lo w v).pending = s.pending := rfl

end Sys2Proof.Machine
end

