-- ==== Sys2Proof/Laws/Tab.lean ====
section
/-! SUPPORT. Sparse tables: a read after a write, and the canonical form that every table operation keeps. -/

namespace Sys2Proof.Tab

variable {α : Type}

/-- Every key of a table is above `lo`, where there is a `lo`. -/
def above (lo : Option Nat) (k : Nat) : Bool := match lo with | none => true | some l => decide (l < k)

@[simp] theorem get_nil (d : α) (k : Nat) : get d [] k = d := rfl

theorem get_insert (d : α) (m : Tab α) (k j : Nat) (v : α) : get d (insert m k v) j = if j = k then v else get d m j := by
  induction m with
  | nil =>
    by_cases h : j = k
    · subst h; simp [insert, get]
    · simp [insert, get, h, Ne.symm h]
  | cons e m ih =>
    obtain ⟨i, w⟩ := e
    unfold insert
    split
    · by_cases h : j = k
      · subst h; simp [get]
      · simp [get, h, Ne.symm h]
    · split
      · rename_i he
        by_cases h : j = k
        · simp [get, h]
        · have : i ≠ j := fun e => h (e ▸ he)
          simp [get, h, this, Ne.symm h]
      · by_cases hi : i = j
        · subst hi
          have : i ≠ k := by assumption
          simp [get, this]
        · simp [get, hi, ih]

theorem get_erase (d : α) (m : Tab α) (k j : Nat) : get d (erase m k) j = if j = k then d else get d m j := by
  induction m with
  | nil => simp [erase]
  | cons e m ih =>
    obtain ⟨i, v⟩ := e
    unfold erase
    split
    · rename_i hik
      rw [ih]
      by_cases hj : j = k
      · simp [hj]
      · have : i ≠ j := fun e => hj (e ▸ hik)
        simp [get, hj, this]
    · rename_i hik
      by_cases hj : i = j
      · subst hj; simp [get, hik]
      · simp [get, hj, ih]

/-- A read after a write: the key written gives the value, every other key reads as before. -/
theorem get_set [DecidableEq α] (d : α) (m : Tab α) (k j : Nat) (v : α) : get d (set d m k v) j = if j = k then v else get d m j := by
  unfold set
  split
  · rename_i hv; subst hv; exact get_erase _ m k j
  · exact get_insert d m k j v

@[simp] theorem get_set_same [DecidableEq α] (d : α) (m : Tab α) (k : Nat) (v : α) : get d (set d m k v) k = v := by simp [get_set]
@[simp] theorem get_set_other [DecidableEq α] (d : α) (m : Tab α) (k j : Nat) (v : α) (h : j ≠ k) : get d (set d m k v) j = get d m j := by
  simp [get_set, h]

section wf
variable [DecidableEq α]

theorem wfFrom_cons (d : α) (lo : Option Nat) (k : Nat) (v : α) (m : Tab α) :
    wfFrom d lo ((k, v) :: m) = true ↔ above lo k = true ∧ v ≠ d ∧ wfFrom d (some k) m = true := by
  cases lo <;> simp [wfFrom, above, and_assoc]

/-- A lower bound may fall. -/
theorem wfFrom_weaken (d : α) {m : Tab α} {lo lo' : Option Nat} (h : wfFrom d lo m = true)
    (hl : ∀ k, above lo k = true → above lo' k = true) : wfFrom d lo' m = true := by
  cases m with
  | nil => rfl
  | cons e m => obtain ⟨k, v⟩ := e; rw [wfFrom_cons] at *; exact ⟨hl _ h.1, h.2⟩

theorem above_trans {lo : Option Nat} {j k : Nat} (h : above lo j = true) (hk : above (some j) k = true) : above lo k = true := by
  cases lo with
  | none => rfl
  | some l => simp [above] at *; omega

theorem wfFrom_erase (d : α) (m : Tab α) (k : Nat) : ∀ lo, wfFrom d lo m = true → wfFrom d lo (erase m k) = true := by
  induction m with
  | nil => intro lo _; rfl
  | cons e m ih =>
    obtain ⟨j, v⟩ := e
    intro lo h
    rw [wfFrom_cons] at h
    unfold erase
    split
    · exact wfFrom_weaken d (ih _ h.2.2) fun i hi => above_trans h.1 hi
    · exact (wfFrom_cons ..).2 ⟨h.1, h.2.1, ih _ h.2.2⟩

theorem wfFrom_insert (d : α) (m : Tab α) (k : Nat) (v : α) (hv : v ≠ d) :
    ∀ lo, above lo k = true → wfFrom d lo m = true → wfFrom d lo (insert m k v) = true := by
  induction m with
  | nil => intro lo hk _; exact (wfFrom_cons ..).2 ⟨hk, hv, rfl⟩
  | cons e m ih =>
    obtain ⟨j, w⟩ := e
    intro lo hk h
    rw [wfFrom_cons] at h
    unfold insert
    split
    · rename_i hlt
      exact (wfFrom_cons ..).2 ⟨hk, hv, (wfFrom_cons ..).2 ⟨by simpa [above] using hlt, h.2.1, h.2.2⟩⟩
    · split
      · rename_i _ he; subst he
        exact (wfFrom_cons ..).2 ⟨hk, hv, h.2.2⟩
      · rename_i hlt hne
        exact (wfFrom_cons ..).2 ⟨h.1, h.2.1, ih _ (by simp [above]; omega) h.2.2⟩

/-- Writing keeps the canonical form. -/
theorem wf_set (d : α) (m : Tab α) (k : Nat) (v : α) (h : wf d m = true) : wf d (set d m k v) = true := by
  unfold set wf
  split
  · exact wfFrom_erase d m k none h
  · exact wfFrom_insert d m k v (by assumption) none rfl h

/-- Dropping entries keeps the canonical form. -/
theorem wfFrom_filter (d : α) (p : Nat × α → Bool) (m : Tab α) : ∀ lo, wfFrom d lo m = true → wfFrom d lo (m.filter p) = true := by
  induction m with
  | nil => intro _ _; rfl
  | cons e m ih =>
    obtain ⟨k, v⟩ := e
    intro lo h
    rw [wfFrom_cons] at h
    rw [List.filter_cons]
    split
    · exact (wfFrom_cons ..).2 ⟨h.1, h.2.1, ih _ h.2.2⟩
    · exact wfFrom_weaken d (ih _ h.2.2) fun i hi => above_trans h.1 hi

theorem wf_filter (d : α) (p : Nat × α → Bool) (m : Tab α) (h : wf d m = true) : wf d (m.filter p) = true := wfFrom_filter d p m none h

omit [DecidableEq α] in
/-- What a key reads as after entries have been dropped by key. -/
theorem get_filter (d : α) (p : Nat → Bool) (m : Tab α) (k : Nat) :
    get d (m.filter fun e => p e.1) k = if p k then get d m k else d := by
  induction m with
  | nil => simp
  | cons e m ih =>
    obtain ⟨j, v⟩ := e
    rw [List.filter_cons]
    by_cases hj : j = k
    · subst hj
      cases hp : p j <;> simp [get, hp, ih]
    · cases hp : p j <;> simp [get, hj, ih]

end wf

end Sys2Proof.Tab
end

