-- ==== Sys2Proof/Laws/Pages.lean ====
section
/-! SUPPORT. The control pages: reading what has been written, and all that counting, an event, a record, an error report and a
rejected write can change (R36, R37, R39, R343, R392). -/

namespace Sys2Proof.Machine

@[simp] theorem Tab.get_mod_same {α : Type} [DecidableEq α] (d : α) (m : Tab α) (k : Nat) (f : α → α) :
    Tab.get d (Tab.mod d m k f) k = f (Tab.get d m k) := by simp [Tab.mod]
@[simp] theorem Tab.get_mod_other {α : Type} [DecidableEq α] (d : α) (m : Tab α) (k j : Nat) (f : α → α) (h : j ≠ k) :
    Tab.get d (Tab.mod d m k f) j = Tab.get d m j := by simp [Tab.mod, h]

variable (s : State)

@[simp] theorem page_modPage_same (n : Nat) (f : Page → Page) : (s.modPage n f).page n = f (s.page n) := by simp [State.page]
@[simp] theorem page_modPage_other (n m : Nat) (f : Page → Page) (h : m ≠ n) : (s.modPage n f).page m = s.page m := by
  simp [State.page, h]
@[simp] theorem tile_modTile_same (n : Nat) (f : Tile → Tile) : (s.modTile n f).tile n = f (s.tile n) := by simp [State.tile]
@[simp] theorem tile_modTile_other (n m : Nat) (f : Tile → Tile) (h : m ≠ n) : (s.modTile n f).tile m = s.tile m := by
  simp [State.tile, h]
@[simp] theorem port_modPort_same (n : Nat) (f : Port → Port) : (s.modPort n f).port n = f (s.port n) := by simp [State.port]
@[simp] theorem port_modPort_other (n m : Nat) (f : Port → Port) (h : m ≠ n) : (s.modPort n f).port m = s.port m := by
  simp [State.port, h]
@[simp] theorem chan_modChan_same (n : Nat) (f : Chan → Chan) : (s.modChan n f).chan n = f (s.chan n) := by simp [State.chan]
@[simp] theorem chan_modChan_other (n m : Nat) (f : Chan → Chan) (h : m ≠ n) : (s.modChan n f).chan m = s.chan m := by
  simp [State.chan, h]
@[simp] theorem session_modSession_same (n : Nat) (f : Session → Session) : (s.modSession n f).session n = f (s.session n) := by simp [State.session]
@[simp] theorem session_modSession_other (n m : Nat) (f : Session → Session) (h : m ≠ n) : (s.modSession n f).session m = s.session m := by
  simp [State.session, h]
@[simp] theorem commit_modCommit_same (n : Nat) (f : Commit → Commit) : (s.modCommit n f).commit n = f (s.commit n) := by simp [State.commit]
@[simp] theorem commit_modCommit_other (n m : Nat) (f : Commit → Commit) (h : m ≠ n) : (s.modCommit n f).commit m = s.commit m := by
  simp [State.commit, h]

/-- A page field that an update of a page keeps. -/
theorem modPage_keeps {β : Type} (g : Page → β) (n m : Nat) (f : Page → Page) (h : ∀ p, g (f p) = g p) : g ((s.modPage n f).page m) = g (s.page m) := by
  by_cases hm : m = n
  · subst hm; simp [h]
  · simp [hm]

@[simp] theorem page_modChan (c m : Nat) (f : Chan → Chan) : (s.modChan c f).page m = s.page m := rfl
@[simp] theorem page_modBur (m : Nat) (f : Bureau → Bureau) : (s.modBur f).page m = s.page m := rfl
@[simp] theorem page_modTile (t m : Nat) (f : Tile → Tile) : (s.modTile t f).page m = s.page m := rfl
@[simp] theorem tile_modPage (n t : Nat) (f : Page → Page) : (s.modPage n f).tile t = s.tile t := rfl

/-! ### count -/

@[simp] theorem count_time (n i : Nat) (c : Option Nat) (k : Nat) : (s.count n i c k).time = s.time := by unfold State.count; split <;> rfl
@[simp] theorem count_draws (n i : Nat) (c : Option Nat) (k : Nat) : (s.count n i c k).draws = s.draws := by unfold State.count; split <;> rfl
@[simp] theorem count_pkg (n i : Nat) (c : Option Nat) (k : Nat) : (s.count n i c k).pkg = s.pkg := by unfold State.count; split <;> rfl
@[simp] theorem count_tiles (n i : Nat) (c : Option Nat) (k : Nat) : (s.count n i c k).tiles = s.tiles := by unfold State.count; split <;> rfl
@[simp] theorem count_mem (n i : Nat) (c : Option Nat) (k : Nat) : (s.count n i c k).mem = s.mem := by unfold State.count; split <;> rfl
@[simp] theorem count_fab (n i : Nat) (c : Option Nat) (k : Nat) : (s.count n i c k).fab = s.fab := by unfold State.count; split <;> rfl
@[simp] theorem count_sbd (n i : Nat) (c : Option Nat) (k : Nat) : (s.count n i c k).sbd = s.sbd := by unfold State.count; split <;> rfl
@[simp] theorem count_upe (n i : Nat) (c : Option Nat) (k : Nat) : (s.count n i c k).upe = s.upe := by unfold State.count; split <;> rfl
@[simp] theorem count_cle (n i : Nat) (c : Option Nat) (k : Nat) : (s.count n i c k).cle = s.cle := by unfold State.count; split <;> rfl
@[simp] theorem count_key (n i : Nat) (c : Option Nat) (k : Nat) : (s.count n i c k).key = s.key := by unfold State.count; split <;> rfl
@[simp] theorem count_bur (n i : Nat) (c : Option Nat) (k : Nat) : (s.count n i c k).bur = s.bur := by unfold State.count; split <;> rfl
@[simp] theorem count_sync (n i : Nat) (c : Option Nat) (k : Nat) : (s.count n i c k).sync = s.sync := by unfold State.count; split <;> rfl
@[simp] theorem count_host (n i : Nat) (c : Option Nat) (k : Nat) : (s.count n i c k).host = s.host := by unfold State.count; split <;> rfl
@[simp] theorem count_out (n i : Nat) (c : Option Nat) (k : Nat) : (s.count n i c k).out = s.out := by unfold State.count; split <;> rfl
@[simp] theorem count_pending (n i : Nat) (c : Option Nat) (k : Nat) : (s.count n i c k).pending = s.pending := by unfold State.count; split <;> rfl
@[simp] theorem tile_count (n i : Nat) (c : Option Nat) (k : Nat) (t : Nat) : (s.count n i c k).tile t = s.tile t := by simp [State.tile]
@[simp] theorem page_count_words (n i : Nat) (c : Option Nat) (k : Nat) (m : Nat) : ((s.count n i c k).page m).words = (s.page m).words := by
  unfold State.count; split <;> [rfl; exact modPage_keeps s Page.words _ m _ fun _ => rfl]
@[simp] theorem page_count_pend (n i : Nat) (c : Option Nat) (k : Nat) (m : Nat) : ((s.count n i c k).page m).pend = (s.page m).pend := by
  unfold State.count; split <;> [rfl; exact modPage_keeps s Page.pend _ m _ fun _ => rfl]
@[simp] theorem page_count_pendMask (n i : Nat) (c : Option Nat) (k : Nat) (m : Nat) : ((s.count n i c k).page m).pendMask = (s.page m).pendMask := by
  unfold State.count; split <;> [rfl; exact modPage_keeps s Page.pendMask _ m _ fun _ => rfl]
@[simp] theorem page_count_quiesceBit (n i : Nat) (c : Option Nat) (k : Nat) (m : Nat) : ((s.count n i c k).page m).quiesceBit = (s.page m).quiesceBit := by
  unfold State.count; split <;> [rfl; exact modPage_keeps s Page.quiesceBit _ m _ fun _ => rfl]
@[simp] theorem page_count_quiescing (n i : Nat) (c : Option Nat) (k : Nat) (m : Nat) : ((s.count n i c k).page m).quiescing = (s.page m).quiescing := by
  unfold State.count; split <;> [rfl; exact modPage_keeps s Page.quiescing _ m _ fun _ => rfl]
@[simp] theorem page_count_quiesced (n i : Nat) (c : Option Nat) (k : Nat) (m : Nat) : ((s.count n i c k).page m).quiesced = (s.page m).quiesced := by
  unfold State.count; split <;> [rfl; exact modPage_keeps s Page.quiesced _ m _ fun _ => rfl]
@[simp] theorem page_count_writeRejected (n i : Nat) (c : Option Nat) (k : Nat) (m : Nat) : ((s.count n i c k).page m).writeRejected = (s.page m).writeRejected := by
  unfold State.count; split <;> [rfl; exact modPage_keeps s Page.writeRejected _ m _ fun _ => rfl]
@[simp] theorem page_count_rejectWord (n i : Nat) (c : Option Nat) (k : Nat) (m : Nat) : ((s.count n i c k).page m).rejectWord = (s.page m).rejectWord := by
  unfold State.count; split <;> [rfl; exact modPage_keeps s Page.rejectWord _ m _ fun _ => rfl]
@[simp] theorem page_count_epoch (n i : Nat) (c : Option Nat) (k : Nat) (m : Nat) : ((s.count n i c k).page m).epoch = (s.page m).epoch := by
  unfold State.count; split <;> [rfl; exact modPage_keeps s Page.epoch _ m _ fun _ => rfl]
@[simp] theorem page_count_cause (n i : Nat) (c : Option Nat) (k : Nat) (m : Nat) : ((s.count n i c k).page m).cause = (s.page m).cause := by
  unfold State.count; split <;> [rfl; exact modPage_keeps s Page.cause _ m _ fun _ => rfl]
@[simp] theorem page_count_err (n i : Nat) (c : Option Nat) (k : Nat) (m : Nat) : ((s.count n i c k).page m).err = (s.page m).err := by
  unfold State.count; split <;> [rfl; exact modPage_keeps s Page.err _ m _ fun _ => rfl]
@[simp] theorem page_count_errCount (n i : Nat) (c : Option Nat) (k : Nat) (m : Nat) : ((s.count n i c k).page m).errCount = (s.page m).errCount := by
  unfold State.count; split <;> [rfl; exact modPage_keeps s Page.errCount _ m _ fun _ => rfl]
@[simp] theorem page_count_heldGo (n i : Nat) (c : Option Nat) (k : Nat) (m : Nat) : ((s.count n i c k).page m).heldGo = (s.page m).heldGo := by
  unfold State.count; split <;> [rfl; exact modPage_keeps s Page.heldGo _ m _ fun _ => rfl]
@[simp] theorem page_count_heldBad (n i : Nat) (c : Option Nat) (k : Nat) (m : Nat) : ((s.count n i c k).page m).heldBad = (s.page m).heldBad := by
  unfold State.count; split <;> [rfl; exact modPage_keeps s Page.heldBad _ m _ fun _ => rfl]
@[simp] theorem page_count_savedEnable (n i : Nat) (c : Option Nat) (k : Nat) (m : Nat) : ((s.count n i c k).page m).savedEnable = (s.page m).savedEnable := by
  unfold State.count; split <;> [rfl; exact modPage_keeps s Page.savedEnable _ m _ fun _ => rfl]
@[simp] theorem page_count_readyFlows (n i : Nat) (c : Option Nat) (k : Nat) (m : Nat) : ((s.count n i c k).page m).readyFlows = (s.page m).readyFlows := by
  unfold State.count; split <;> [rfl; exact modPage_keeps s Page.readyFlows _ m _ fun _ => rfl]
@[simp] theorem raw_count (n i : Nat) (c : Option Nat) (k : Nat) (m o' : Nat) : (s.count n i c k).raw m o' = s.raw m o' := by simp [State.raw]
@[simp] theorem fld_count (n i : Nat) (c : Option Nat) (k : Nat) (m o' lo w : Nat) : (s.count n i c k).fld m o' lo w = s.fld m o' lo w := by
  simp [State.fld, State.inForce, State.expertEn]
@[simp] theorem written_count (n i : Nat) (c : Option Nat) (k : Nat) (m o' : Nat) : (s.count n i c k).written m o' = s.written m o' := by simp [State.written]
@[simp] theorem admits_count (n i : Nat) (c : Option Nat) (k : Nat) (m : Nat) : (s.count n i c k).admits m = s.admits m := by simp [State.admits, State.enabled]

/-! ### queueRec -/

@[simp] theorem queueRec_time (c : Nat) (ty : BitVec 4) (sev : Nat) (b : List Word) : (s.queueRec c ty sev b).time = s.time := by
  unfold State.queueRec; dsimp only; split <;> [simp; (split <;> [rfl; (split <;> [simp; (split <;> [(split <;> simp); simp])])])]
@[simp] theorem queueRec_draws (c : Nat) (ty : BitVec 4) (sev : Nat) (b : List Word) : (s.queueRec c ty sev b).draws = s.draws := by
  unfold State.queueRec; dsimp only; split <;> [simp; (split <;> [rfl; (split <;> [simp; (split <;> [(split <;> simp); simp])])])]
@[simp] theorem queueRec_pkg (c : Nat) (ty : BitVec 4) (sev : Nat) (b : List Word) : (s.queueRec c ty sev b).pkg = s.pkg := by
  unfold State.queueRec; dsimp only; split <;> [simp; (split <;> [rfl; (split <;> [simp; (split <;> [(split <;> simp); simp])])])]
@[simp] theorem queueRec_tiles (c : Nat) (ty : BitVec 4) (sev : Nat) (b : List Word) : (s.queueRec c ty sev b).tiles = s.tiles := by
  unfold State.queueRec; dsimp only; split <;> [simp; (split <;> [rfl; (split <;> [simp; (split <;> [(split <;> simp); simp])])])]
@[simp] theorem queueRec_mem (c : Nat) (ty : BitVec 4) (sev : Nat) (b : List Word) : (s.queueRec c ty sev b).mem = s.mem := by
  unfold State.queueRec; dsimp only; split <;> [simp; (split <;> [rfl; (split <;> [simp; (split <;> [(split <;> simp); simp])])])]
@[simp] theorem queueRec_fab (c : Nat) (ty : BitVec 4) (sev : Nat) (b : List Word) : (s.queueRec c ty sev b).fab = s.fab := by
  unfold State.queueRec; dsimp only; split <;> [simp; (split <;> [rfl; (split <;> [simp; (split <;> [(split <;> simp); simp])])])]
@[simp] theorem queueRec_sbd (c : Nat) (ty : BitVec 4) (sev : Nat) (b : List Word) : (s.queueRec c ty sev b).sbd = s.sbd := by
  unfold State.queueRec; dsimp only; split <;> [simp; (split <;> [rfl; (split <;> [simp; (split <;> [(split <;> simp); simp])])])]
@[simp] theorem queueRec_upe (c : Nat) (ty : BitVec 4) (sev : Nat) (b : List Word) : (s.queueRec c ty sev b).upe = s.upe := by
  unfold State.queueRec; dsimp only; split <;> [simp; (split <;> [rfl; (split <;> [simp; (split <;> [(split <;> simp); simp])])])]
@[simp] theorem queueRec_cle (c : Nat) (ty : BitVec 4) (sev : Nat) (b : List Word) : (s.queueRec c ty sev b).cle = s.cle := by
  unfold State.queueRec; dsimp only; split <;> [simp; (split <;> [rfl; (split <;> [simp; (split <;> [(split <;> simp); simp])])])]
@[simp] theorem queueRec_key (c : Nat) (ty : BitVec 4) (sev : Nat) (b : List Word) : (s.queueRec c ty sev b).key = s.key := by
  unfold State.queueRec; dsimp only; split <;> [simp; (split <;> [rfl; (split <;> [simp; (split <;> [(split <;> simp); simp])])])]
@[simp] theorem queueRec_bur (c : Nat) (ty : BitVec 4) (sev : Nat) (b : List Word) : (s.queueRec c ty sev b).bur = s.bur := by
  unfold State.queueRec; dsimp only; split <;> [simp; (split <;> [rfl; (split <;> [simp; (split <;> [(split <;> simp); simp])])])]
@[simp] theorem queueRec_sync (c : Nat) (ty : BitVec 4) (sev : Nat) (b : List Word) : (s.queueRec c ty sev b).sync = s.sync := by
  unfold State.queueRec; dsimp only; split <;> [simp; (split <;> [rfl; (split <;> [simp; (split <;> [(split <;> simp); simp])])])]
@[simp] theorem queueRec_out (c : Nat) (ty : BitVec 4) (sev : Nat) (b : List Word) : (s.queueRec c ty sev b).out = s.out := by
  unfold State.queueRec; dsimp only; split <;> [simp; (split <;> [rfl; (split <;> [simp; (split <;> [(split <;> simp); simp])])])]
@[simp] theorem queueRec_pending (c : Nat) (ty : BitVec 4) (sev : Nat) (b : List Word) : (s.queueRec c ty sev b).pending = s.pending := by
  unfold State.queueRec; dsimp only; split <;> [simp; (split <;> [rfl; (split <;> [simp; (split <;> [(split <;> simp); simp])])])]
@[simp] theorem tile_queueRec (c : Nat) (ty : BitVec 4) (sev : Nat) (b : List Word) (t : Nat) : (s.queueRec c ty sev b).tile t = s.tile t := by simp [State.tile]
@[simp] theorem page_queueRec_words (c : Nat) (ty : BitVec 4) (sev : Nat) (b : List Word) (m : Nat) : ((s.queueRec c ty sev b).page m).words = (s.page m).words := by
  unfold State.queueRec; dsimp only; split <;> [simp; (split <;> [rfl; (split <;> [simp; (split <;> [(split <;> simp); simp])])])]
@[simp] theorem page_queueRec_pend (c : Nat) (ty : BitVec 4) (sev : Nat) (b : List Word) (m : Nat) : ((s.queueRec c ty sev b).page m).pend = (s.page m).pend := by
  unfold State.queueRec; dsimp only; split <;> [simp; (split <;> [rfl; (split <;> [simp; (split <;> [(split <;> simp); simp])])])]
@[simp] theorem page_queueRec_pendMask (c : Nat) (ty : BitVec 4) (sev : Nat) (b : List Word) (m : Nat) : ((s.queueRec c ty sev b).page m).pendMask = (s.page m).pendMask := by
  unfold State.queueRec; dsimp only; split <;> [simp; (split <;> [rfl; (split <;> [simp; (split <;> [(split <;> simp); simp])])])]
@[simp] theorem page_queueRec_quiesceBit (c : Nat) (ty : BitVec 4) (sev : Nat) (b : List Word) (m : Nat) : ((s.queueRec c ty sev b).page m).quiesceBit = (s.page m).quiesceBit := by
  unfold State.queueRec; dsimp only; split <;> [simp; (split <;> [rfl; (split <;> [simp; (split <;> [(split <;> simp); simp])])])]
@[simp] theorem page_queueRec_quiescing (c : Nat) (ty : BitVec 4) (sev : Nat) (b : List Word) (m : Nat) : ((s.queueRec c ty sev b).page m).quiescing = (s.page m).quiescing := by
  unfold State.queueRec; dsimp only; split <;> [simp; (split <;> [rfl; (split <;> [simp; (split <;> [(split <;> simp); simp])])])]
@[simp] theorem page_queueRec_quiesced (c : Nat) (ty : BitVec 4) (sev : Nat) (b : List Word) (m : Nat) : ((s.queueRec c ty sev b).page m).quiesced = (s.page m).quiesced := by
  unfold State.queueRec; dsimp only; split <;> [simp; (split <;> [rfl; (split <;> [simp; (split <;> [(split <;> simp); simp])])])]
@[simp] theorem page_queueRec_writeRejected (c : Nat) (ty : BitVec 4) (sev : Nat) (b : List Word) (m : Nat) : ((s.queueRec c ty sev b).page m).writeRejected = (s.page m).writeRejected := by
  unfold State.queueRec; dsimp only; split <;> [simp; (split <;> [rfl; (split <;> [simp; (split <;> [(split <;> simp); simp])])])]
@[simp] theorem page_queueRec_rejectWord (c : Nat) (ty : BitVec 4) (sev : Nat) (b : List Word) (m : Nat) : ((s.queueRec c ty sev b).page m).rejectWord = (s.page m).rejectWord := by
  unfold State.queueRec; dsimp only; split <;> [simp; (split <;> [rfl; (split <;> [simp; (split <;> [(split <;> simp); simp])])])]
@[simp] theorem page_queueRec_epoch (c : Nat) (ty : BitVec 4) (sev : Nat) (b : List Word) (m : Nat) : ((s.queueRec c ty sev b).page m).epoch = (s.page m).epoch := by
  unfold State.queueRec; dsimp only; split <;> [simp; (split <;> [rfl; (split <;> [simp; (split <;> [(split <;> simp); simp])])])]
@[simp] theorem page_queueRec_cause (c : Nat) (ty : BitVec 4) (sev : Nat) (b : List Word) (m : Nat) : ((s.queueRec c ty sev b).page m).cause = (s.page m).cause := by
  unfold State.queueRec; dsimp only; split <;> [simp; (split <;> [rfl; (split <;> [simp; (split <;> [(split <;> simp); simp])])])]
@[simp] theorem page_queueRec_err (c : Nat) (ty : BitVec 4) (sev : Nat) (b : List Word) (m : Nat) : ((s.queueRec c ty sev b).page m).err = (s.page m).err := by
  unfold State.queueRec; dsimp only; split <;> [simp; (split <;> [rfl; (split <;> [simp; (split <;> [(split <;> simp); simp])])])]
@[simp] theorem page_queueRec_errCount (c : Nat) (ty : BitVec 4) (sev : Nat) (b : List Word) (m : Nat) : ((s.queueRec c ty sev b).page m).errCount = (s.page m).errCount := by
  unfold State.queueRec; dsimp only; split <;> [simp; (split <;> [rfl; (split <;> [simp; (split <;> [(split <;> simp); simp])])])]
@[simp] theorem page_queueRec_heldGo (c : Nat) (ty : BitVec 4) (sev : Nat) (b : List Word) (m : Nat) : ((s.queueRec c ty sev b).page m).heldGo = (s.page m).heldGo := by
  unfold State.queueRec; dsimp only; split <;> [simp; (split <;> [rfl; (split <;> [simp; (split <;> [(split <;> simp); simp])])])]
@[simp] theorem page_queueRec_heldBad (c : Nat) (ty : BitVec 4) (sev : Nat) (b : List Word) (m : Nat) : ((s.queueRec c ty sev b).page m).heldBad = (s.page m).heldBad := by
  unfold State.queueRec; dsimp only; split <;> [simp; (split <;> [rfl; (split <;> [simp; (split <;> [(split <;> simp); simp])])])]
@[simp] theorem page_queueRec_savedEnable (c : Nat) (ty : BitVec 4) (sev : Nat) (b : List Word) (m : Nat) : ((s.queueRec c ty sev b).page m).savedEnable = (s.page m).savedEnable := by
  unfold State.queueRec; dsimp only; split <;> [simp; (split <;> [rfl; (split <;> [simp; (split <;> [(split <;> simp); simp])])])]
@[simp] theorem page_queueRec_readyFlows (c : Nat) (ty : BitVec 4) (sev : Nat) (b : List Word) (m : Nat) : ((s.queueRec c ty sev b).page m).readyFlows = (s.page m).readyFlows := by
  unfold State.queueRec; dsimp only; split <;> [simp; (split <;> [rfl; (split <;> [simp; (split <;> [(split <;> simp); simp])])])]
@[simp] theorem raw_queueRec (c : Nat) (ty : BitVec 4) (sev : Nat) (b : List Word) (m o' : Nat) : (s.queueRec c ty sev b).raw m o' = s.raw m o' := by simp [State.raw]
@[simp] theorem fld_queueRec (c : Nat) (ty : BitVec 4) (sev : Nat) (b : List Word) (m o' lo w : Nat) : (s.queueRec c ty sev b).fld m o' lo w = s.fld m o' lo w := by
  simp [State.fld, State.inForce, State.expertEn]
@[simp] theorem written_queueRec (c : Nat) (ty : BitVec 4) (sev : Nat) (b : List Word) (m o' : Nat) : (s.queueRec c ty sev b).written m o' = s.written m o' := by simp [State.written]
@[simp] theorem admits_queueRec (c : Nat) (ty : BitVec 4) (sev : Nat) (b : List Word) (m : Nat) : (s.queueRec c ty sev b).admits m = s.admits m := by simp [State.admits, State.enabled]

/-! ### event -/

@[simp] theorem event_time (n b : Nat) : (s.event n b).time = s.time := by unfold State.event; dsimp only; split <;> simp
@[simp] theorem event_draws (n b : Nat) : (s.event n b).draws = s.draws := by unfold State.event; dsimp only; split <;> simp
@[simp] theorem event_pkg (n b : Nat) : (s.event n b).pkg = s.pkg := by unfold State.event; dsimp only; split <;> simp
@[simp] theorem event_tiles (n b : Nat) : (s.event n b).tiles = s.tiles := by unfold State.event; dsimp only; split <;> simp
@[simp] theorem event_mem (n b : Nat) : (s.event n b).mem = s.mem := by unfold State.event; dsimp only; split <;> simp
@[simp] theorem event_fab (n b : Nat) : (s.event n b).fab = s.fab := by unfold State.event; dsimp only; split <;> simp
@[simp] theorem event_sbd (n b : Nat) : (s.event n b).sbd = s.sbd := by unfold State.event; dsimp only; split <;> simp
@[simp] theorem event_upe (n b : Nat) : (s.event n b).upe = s.upe := by unfold State.event; dsimp only; split <;> simp
@[simp] theorem event_cle (n b : Nat) : (s.event n b).cle = s.cle := by unfold State.event; dsimp only; split <;> simp
@[simp] theorem event_key (n b : Nat) : (s.event n b).key = s.key := by unfold State.event; dsimp only; split <;> simp
@[simp] theorem event_bur (n b : Nat) : (s.event n b).bur = s.bur := by unfold State.event; dsimp only; split <;> simp
@[simp] theorem event_sync (n b : Nat) : (s.event n b).sync = s.sync := by unfold State.event; dsimp only; split <;> simp
@[simp] theorem event_out (n b : Nat) : (s.event n b).out = s.out := by unfold State.event; dsimp only; split <;> simp
@[simp] theorem event_pending (n b : Nat) : (s.event n b).pending = s.pending := by unfold State.event; dsimp only; split <;> simp
@[simp] theorem tile_event (n b : Nat) (t : Nat) : (s.event n b).tile t = s.tile t := by simp [State.tile]
@[simp] theorem page_event_words (n b : Nat) (m : Nat) : ((s.event n b).page m).words = (s.page m).words := by
  have h : ∀ f : Page → Page, (∀ p, (f p).words = p.words) → ((s.modPage n f).page m).words = (s.page m).words := fun f => modPage_keeps s Page.words n m f
  unfold State.event; dsimp only; split <;> simp [h]
@[simp] theorem page_event_pend (n b : Nat) (m : Nat) : ((s.event n b).page m).pend = (s.page m).pend := by
  have h : ∀ f : Page → Page, (∀ p, (f p).pend = p.pend) → ((s.modPage n f).page m).pend = (s.page m).pend := fun f => modPage_keeps s Page.pend n m f
  unfold State.event; dsimp only; split <;> simp [h]
@[simp] theorem page_event_pendMask (n b : Nat) (m : Nat) : ((s.event n b).page m).pendMask = (s.page m).pendMask := by
  have h : ∀ f : Page → Page, (∀ p, (f p).pendMask = p.pendMask) → ((s.modPage n f).page m).pendMask = (s.page m).pendMask := fun f => modPage_keeps s Page.pendMask n m f
  unfold State.event; dsimp only; split <;> simp [h]
@[simp] theorem page_event_quiesceBit (n b : Nat) (m : Nat) : ((s.event n b).page m).quiesceBit = (s.page m).quiesceBit := by
  have h : ∀ f : Page → Page, (∀ p, (f p).quiesceBit = p.quiesceBit) → ((s.modPage n f).page m).quiesceBit = (s.page m).quiesceBit := fun f => modPage_keeps s Page.quiesceBit n m f
  unfold State.event; dsimp only; split <;> simp [h]
@[simp] theorem page_event_quiescing (n b : Nat) (m : Nat) : ((s.event n b).page m).quiescing = (s.page m).quiescing := by
  have h : ∀ f : Page → Page, (∀ p, (f p).quiescing = p.quiescing) → ((s.modPage n f).page m).quiescing = (s.page m).quiescing := fun f => modPage_keeps s Page.quiescing n m f
  unfold State.event; dsimp only; split <;> simp [h]
@[simp] theorem page_event_quiesced (n b : Nat) (m : Nat) : ((s.event n b).page m).quiesced = (s.page m).quiesced := by
  have h : ∀ f : Page → Page, (∀ p, (f p).quiesced = p.quiesced) → ((s.modPage n f).page m).quiesced = (s.page m).quiesced := fun f => modPage_keeps s Page.quiesced n m f
  unfold State.event; dsimp only; split <;> simp [h]
@[simp] theorem page_event_writeRejected (n b : Nat) (m : Nat) : ((s.event n b).page m).writeRejected = (s.page m).writeRejected := by
  have h : ∀ f : Page → Page, (∀ p, (f p).writeRejected = p.writeRejected) → ((s.modPage n f).page m).writeRejected = (s.page m).writeRejected := fun f => modPage_keeps s Page.writeRejected n m f
  unfold State.event; dsimp only; split <;> simp [h]
@[simp] theorem page_event_rejectWord (n b : Nat) (m : Nat) : ((s.event n b).page m).rejectWord = (s.page m).rejectWord := by
  have h : ∀ f : Page → Page, (∀ p, (f p).rejectWord = p.rejectWord) → ((s.modPage n f).page m).rejectWord = (s.page m).rejectWord := fun f => modPage_keeps s Page.rejectWord n m f
  unfold State.event; dsimp only; split <;> simp [h]
@[simp] theorem page_event_epoch (n b : Nat) (m : Nat) : ((s.event n b).page m).epoch = (s.page m).epoch := by
  have h : ∀ f : Page → Page, (∀ p, (f p).epoch = p.epoch) → ((s.modPage n f).page m).epoch = (s.page m).epoch := fun f => modPage_keeps s Page.epoch n m f
  unfold State.event; dsimp only; split <;> simp [h]
@[simp] theorem page_event_err (n b : Nat) (m : Nat) : ((s.event n b).page m).err = (s.page m).err := by
  have h : ∀ f : Page → Page, (∀ p, (f p).err = p.err) → ((s.modPage n f).page m).err = (s.page m).err := fun f => modPage_keeps s Page.err n m f
  unfold State.event; dsimp only; split <;> simp [h]
@[simp] theorem page_event_errCount (n b : Nat) (m : Nat) : ((s.event n b).page m).errCount = (s.page m).errCount := by
  have h : ∀ f : Page → Page, (∀ p, (f p).errCount = p.errCount) → ((s.modPage n f).page m).errCount = (s.page m).errCount := fun f => modPage_keeps s Page.errCount n m f
  unfold State.event; dsimp only; split <;> simp [h]
@[simp] theorem page_event_heldGo (n b : Nat) (m : Nat) : ((s.event n b).page m).heldGo = (s.page m).heldGo := by
  have h : ∀ f : Page → Page, (∀ p, (f p).heldGo = p.heldGo) → ((s.modPage n f).page m).heldGo = (s.page m).heldGo := fun f => modPage_keeps s Page.heldGo n m f
  unfold State.event; dsimp only; split <;> simp [h]
@[simp] theorem page_event_heldBad (n b : Nat) (m : Nat) : ((s.event n b).page m).heldBad = (s.page m).heldBad := by
  have h : ∀ f : Page → Page, (∀ p, (f p).heldBad = p.heldBad) → ((s.modPage n f).page m).heldBad = (s.page m).heldBad := fun f => modPage_keeps s Page.heldBad n m f
  unfold State.event; dsimp only; split <;> simp [h]
@[simp] theorem page_event_savedEnable (n b : Nat) (m : Nat) : ((s.event n b).page m).savedEnable = (s.page m).savedEnable := by
  have h : ∀ f : Page → Page, (∀ p, (f p).savedEnable = p.savedEnable) → ((s.modPage n f).page m).savedEnable = (s.page m).savedEnable := fun f => modPage_keeps s Page.savedEnable n m f
  unfold State.event; dsimp only; split <;> simp [h]
@[simp] theorem page_event_readyFlows (n b : Nat) (m : Nat) : ((s.event n b).page m).readyFlows = (s.page m).readyFlows := by
  have h : ∀ f : Page → Page, (∀ p, (f p).readyFlows = p.readyFlows) → ((s.modPage n f).page m).readyFlows = (s.page m).readyFlows := fun f => modPage_keeps s Page.readyFlows n m f
  unfold State.event; dsimp only; split <;> simp [h]
@[simp] theorem raw_event (n b : Nat) (m o' : Nat) : (s.event n b).raw m o' = s.raw m o' := by simp [State.raw]
@[simp] theorem fld_event (n b : Nat) (m o' lo w : Nat) : (s.event n b).fld m o' lo w = s.fld m o' lo w := by
  simp [State.fld, State.inForce, State.expertEn]
@[simp] theorem written_event (n b : Nat) (m o' : Nat) : (s.event n b).written m o' = s.written m o' := by simp [State.written]
@[simp] theorem admits_event (n b : Nat) (m : Nat) : (s.event n b).admits m = s.admits m := by simp [State.admits, State.enabled]

/-! ### errorRecord -/

@[simp] theorem errorRecord_time (n sev : Nat) (p : Bool) (code : Nat) (c : Option Nat) (loc : Word) : (s.errorRecord n sev p code c loc).time = s.time := by
  unfold State.errorRecord; split <;> [rfl; (dsimp only; split <;> simp)]
@[simp] theorem errorRecord_draws (n sev : Nat) (p : Bool) (code : Nat) (c : Option Nat) (loc : Word) : (s.errorRecord n sev p code c loc).draws = s.draws := by
  unfold State.errorRecord; split <;> [rfl; (dsimp only; split <;> simp)]
@[simp] theorem errorRecord_pkg (n sev : Nat) (p : Bool) (code : Nat) (c : Option Nat) (loc : Word) : (s.errorRecord n sev p code c loc).pkg = s.pkg := by
  unfold State.errorRecord; split <;> [rfl; (dsimp only; split <;> simp)]
@[simp] theorem errorRecord_tiles (n sev : Nat) (p : Bool) (code : Nat) (c : Option Nat) (loc : Word) : (s.errorRecord n sev p code c loc).tiles = s.tiles := by
  unfold State.errorRecord; split <;> [rfl; (dsimp only; split <;> simp)]
@[simp] theorem errorRecord_mem (n sev : Nat) (p : Bool) (code : Nat) (c : Option Nat) (loc : Word) : (s.errorRecord n sev p code c loc).mem = s.mem := by
  unfold State.errorRecord; split <;> [rfl; (dsimp only; split <;> simp)]
@[simp] theorem errorRecord_fab (n sev : Nat) (p : Bool) (code : Nat) (c : Option Nat) (loc : Word) : (s.errorRecord n sev p code c loc).fab = s.fab := by
  unfold State.errorRecord; split <;> [rfl; (dsimp only; split <;> simp)]
@[simp] theorem errorRecord_sbd (n sev : Nat) (p : Bool) (code : Nat) (c : Option Nat) (loc : Word) : (s.errorRecord n sev p code c loc).sbd = s.sbd := by
  unfold State.errorRecord; split <;> [rfl; (dsimp only; split <;> simp)]
@[simp] theorem errorRecord_upe (n sev : Nat) (p : Bool) (code : Nat) (c : Option Nat) (loc : Word) : (s.errorRecord n sev p code c loc).upe = s.upe := by
  unfold State.errorRecord; split <;> [rfl; (dsimp only; split <;> simp)]
@[simp] theorem errorRecord_cle (n sev : Nat) (p : Bool) (code : Nat) (c : Option Nat) (loc : Word) : (s.errorRecord n sev p code c loc).cle = s.cle := by
  unfold State.errorRecord; split <;> [rfl; (dsimp only; split <;> simp)]
@[simp] theorem errorRecord_key (n sev : Nat) (p : Bool) (code : Nat) (c : Option Nat) (loc : Word) : (s.errorRecord n sev p code c loc).key = s.key := by
  unfold State.errorRecord; split <;> [rfl; (dsimp only; split <;> simp)]
@[simp] theorem errorRecord_bur (n sev : Nat) (p : Bool) (code : Nat) (c : Option Nat) (loc : Word) : (s.errorRecord n sev p code c loc).bur = s.bur := by
  unfold State.errorRecord; split <;> [rfl; (dsimp only; split <;> simp)]
@[simp] theorem errorRecord_sync (n sev : Nat) (p : Bool) (code : Nat) (c : Option Nat) (loc : Word) : (s.errorRecord n sev p code c loc).sync = s.sync := by
  unfold State.errorRecord; split <;> [rfl; (dsimp only; split <;> simp)]
@[simp] theorem errorRecord_out (n sev : Nat) (p : Bool) (code : Nat) (c : Option Nat) (loc : Word) : (s.errorRecord n sev p code c loc).out = s.out := by
  unfold State.errorRecord; split <;> [rfl; (dsimp only; split <;> simp)]
@[simp] theorem errorRecord_pending (n sev : Nat) (p : Bool) (code : Nat) (c : Option Nat) (loc : Word) : (s.errorRecord n sev p code c loc).pending = s.pending := by
  unfold State.errorRecord; split <;> [rfl; (dsimp only; split <;> simp)]
@[simp] theorem tile_errorRecord (n sev : Nat) (p : Bool) (code : Nat) (c : Option Nat) (loc : Word) (t : Nat) : (s.errorRecord n sev p code c loc).tile t = s.tile t := by simp [State.tile]
@[simp] theorem page_errorRecord_words (n sev : Nat) (p : Bool) (code : Nat) (c : Option Nat) (loc : Word) (m : Nat) : ((s.errorRecord n sev p code c loc).page m).words = (s.page m).words := by
  unfold State.errorRecord; split <;> [rfl; (dsimp only; split <;> simp)]
@[simp] theorem page_errorRecord_pend (n sev : Nat) (p : Bool) (code : Nat) (c : Option Nat) (loc : Word) (m : Nat) : ((s.errorRecord n sev p code c loc).page m).pend = (s.page m).pend := by
  unfold State.errorRecord; split <;> [rfl; (dsimp only; split <;> simp)]
@[simp] theorem page_errorRecord_pendMask (n sev : Nat) (p : Bool) (code : Nat) (c : Option Nat) (loc : Word) (m : Nat) : ((s.errorRecord n sev p code c loc).page m).pendMask = (s.page m).pendMask := by
  unfold State.errorRecord; split <;> [rfl; (dsimp only; split <;> simp)]
@[simp] theorem page_errorRecord_quiesceBit (n sev : Nat) (p : Bool) (code : Nat) (c : Option Nat) (loc : Word) (m : Nat) : ((s.errorRecord n sev p code c loc).page m).quiesceBit = (s.page m).quiesceBit := by
  unfold State.errorRecord; split <;> [rfl; (dsimp only; split <;> simp)]
@[simp] theorem page_errorRecord_quiescing (n sev : Nat) (p : Bool) (code : Nat) (c : Option Nat) (loc : Word) (m : Nat) : ((s.errorRecord n sev p code c loc).page m).quiescing = (s.page m).quiescing := by
  unfold State.errorRecord; split <;> [rfl; (dsimp only; split <;> simp)]
@[simp] theorem page_errorRecord_quiesced (n sev : Nat) (p : Bool) (code : Nat) (c : Option Nat) (loc : Word) (m : Nat) : ((s.errorRecord n sev p code c loc).page m).quiesced = (s.page m).quiesced := by
  unfold State.errorRecord; split <;> [rfl; (dsimp only; split <;> simp)]
@[simp] theorem page_errorRecord_writeRejected (n sev : Nat) (p : Bool) (code : Nat) (c : Option Nat) (loc : Word) (m : Nat) : ((s.errorRecord n sev p code c loc).page m).writeRejected = (s.page m).writeRejected := by
  unfold State.errorRecord; split <;> [rfl; (dsimp only; split <;> simp)]
@[simp] theorem page_errorRecord_rejectWord (n sev : Nat) (p : Bool) (code : Nat) (c : Option Nat) (loc : Word) (m : Nat) : ((s.errorRecord n sev p code c loc).page m).rejectWord = (s.page m).rejectWord := by
  unfold State.errorRecord; split <;> [rfl; (dsimp only; split <;> simp)]
@[simp] theorem page_errorRecord_epoch (n sev : Nat) (p : Bool) (code : Nat) (c : Option Nat) (loc : Word) (m : Nat) : ((s.errorRecord n sev p code c loc).page m).epoch = (s.page m).epoch := by
  unfold State.errorRecord; split <;> [rfl; (dsimp only; split <;> simp)]
@[simp] theorem page_errorRecord_cause (n sev : Nat) (p : Bool) (code : Nat) (c : Option Nat) (loc : Word) (m : Nat) : ((s.errorRecord n sev p code c loc).page m).cause = (s.page m).cause := by
  unfold State.errorRecord; split <;> [rfl; (dsimp only; split <;> simp)]
@[simp] theorem page_errorRecord_err (n sev : Nat) (p : Bool) (code : Nat) (c : Option Nat) (loc : Word) (m : Nat) : ((s.errorRecord n sev p code c loc).page m).err = (s.page m).err := by
  unfold State.errorRecord; split <;> [rfl; (dsimp only; split <;> simp)]
@[simp] theorem page_errorRecord_errCount (n sev : Nat) (p : Bool) (code : Nat) (c : Option Nat) (loc : Word) (m : Nat) : ((s.errorRecord n sev p code c loc).page m).errCount = (s.page m).errCount := by
  unfold State.errorRecord; split <;> [rfl; (dsimp only; split <;> simp)]
@[simp] theorem page_errorRecord_heldGo (n sev : Nat) (p : Bool) (code : Nat) (c : Option Nat) (loc : Word) (m : Nat) : ((s.errorRecord n sev p code c loc).page m).heldGo = (s.page m).heldGo := by
  unfold State.errorRecord; split <;> [rfl; (dsimp only; split <;> simp)]
@[simp] theorem page_errorRecord_heldBad (n sev : Nat) (p : Bool) (code : Nat) (c : Option Nat) (loc : Word) (m : Nat) : ((s.errorRecord n sev p code c loc).page m).heldBad = (s.page m).heldBad := by
  unfold State.errorRecord; split <;> [rfl; (dsimp only; split <;> simp)]
@[simp] theorem page_errorRecord_savedEnable (n sev : Nat) (p : Bool) (code : Nat) (c : Option Nat) (loc : Word) (m : Nat) : ((s.errorRecord n sev p code c loc).page m).savedEnable = (s.page m).savedEnable := by
  unfold State.errorRecord; split <;> [rfl; (dsimp only; split <;> simp)]
@[simp] theorem page_errorRecord_readyFlows (n sev : Nat) (p : Bool) (code : Nat) (c : Option Nat) (loc : Word) (m : Nat) : ((s.errorRecord n sev p code c loc).page m).readyFlows = (s.page m).readyFlows := by
  unfold State.errorRecord; split <;> [rfl; (dsimp only; split <;> simp)]
@[simp] theorem raw_errorRecord (n sev : Nat) (p : Bool) (code : Nat) (c : Option Nat) (loc : Word) (m o' : Nat) : (s.errorRecord n sev p code c loc).raw m o' = s.raw m o' := by simp [State.raw]
@[simp] theorem fld_errorRecord (n sev : Nat) (p : Bool) (code : Nat) (c : Option Nat) (loc : Word) (m o' lo w : Nat) : (s.errorRecord n sev p code c loc).fld m o' lo w = s.fld m o' lo w := by
  simp [State.fld, State.inForce, State.expertEn]
@[simp] theorem written_errorRecord (n sev : Nat) (p : Bool) (code : Nat) (c : Option Nat) (loc : Word) (m o' : Nat) : (s.errorRecord n sev p code c loc).written m o' = s.written m o' := by simp [State.written]
@[simp] theorem admits_errorRecord (n sev : Nat) (p : Bool) (code : Nat) (c : Option Nat) (loc : Word) (m : Nat) : (s.errorRecord n sev p code c loc).admits m = s.admits m := by simp [State.admits, State.enabled]

/-! ### raise -/

@[simp] theorem raise_time (n sev code : Nat) (c : Option Nat) (loc : Word) : (s.raise n sev code c loc).time = s.time := by
  unfold State.raise; dsimp only; split <;> split <;> simp
@[simp] theorem raise_draws (n sev code : Nat) (c : Option Nat) (loc : Word) : (s.raise n sev code c loc).draws = s.draws := by
  unfold State.raise; dsimp only; split <;> split <;> simp
@[simp] theorem raise_pkg (n sev code : Nat) (c : Option Nat) (loc : Word) : (s.raise n sev code c loc).pkg = s.pkg := by
  unfold State.raise; dsimp only; split <;> split <;> simp
@[simp] theorem raise_tiles (n sev code : Nat) (c : Option Nat) (loc : Word) : (s.raise n sev code c loc).tiles = s.tiles := by
  unfold State.raise; dsimp only; split <;> split <;> simp
@[simp] theorem raise_mem (n sev code : Nat) (c : Option Nat) (loc : Word) : (s.raise n sev code c loc).mem = s.mem := by
  unfold State.raise; dsimp only; split <;> split <;> simp
@[simp] theorem raise_fab (n sev code : Nat) (c : Option Nat) (loc : Word) : (s.raise n sev code c loc).fab = s.fab := by
  unfold State.raise; dsimp only; split <;> split <;> simp
@[simp] theorem raise_sbd (n sev code : Nat) (c : Option Nat) (loc : Word) : (s.raise n sev code c loc).sbd = s.sbd := by
  unfold State.raise; dsimp only; split <;> split <;> simp
@[simp] theorem raise_upe (n sev code : Nat) (c : Option Nat) (loc : Word) : (s.raise n sev code c loc).upe = s.upe := by
  unfold State.raise; dsimp only; split <;> split <;> simp
@[simp] theorem raise_cle (n sev code : Nat) (c : Option Nat) (loc : Word) : (s.raise n sev code c loc).cle = s.cle := by
  unfold State.raise; dsimp only; split <;> split <;> simp
@[simp] theorem raise_key (n sev code : Nat) (c : Option Nat) (loc : Word) : (s.raise n sev code c loc).key = s.key := by
  unfold State.raise; dsimp only; split <;> split <;> simp
@[simp] theorem raise_sync (n sev code : Nat) (c : Option Nat) (loc : Word) : (s.raise n sev code c loc).sync = s.sync := by
  unfold State.raise; dsimp only; split <;> split <;> simp
@[simp] theorem raise_out (n sev code : Nat) (c : Option Nat) (loc : Word) : (s.raise n sev code c loc).out = s.out := by
  unfold State.raise; dsimp only; split <;> split <;> simp
@[simp] theorem raise_pending (n sev code : Nat) (c : Option Nat) (loc : Word) : (s.raise n sev code c loc).pending = s.pending := by
  unfold State.raise; dsimp only; split <;> split <;> simp
@[simp] theorem tile_raise (n sev code : Nat) (c : Option Nat) (loc : Word) (t : Nat) : (s.raise n sev code c loc).tile t = s.tile t := by simp [State.tile]
@[simp] theorem page_raise_words (n sev code : Nat) (c : Option Nat) (loc : Word) (m : Nat) : ((s.raise n sev code c loc).page m).words = (s.page m).words := by
  have h : ∀ (s : State) (f : Page → Page), (∀ p, (f p).words = p.words) → ((s.modPage n f).page m).words = (s.page m).words := fun s f => modPage_keeps s Page.words n m f
  unfold State.raise; dsimp only; split <;> split <;> simp [h]
@[simp] theorem page_raise_pend (n sev code : Nat) (c : Option Nat) (loc : Word) (m : Nat) : ((s.raise n sev code c loc).page m).pend = (s.page m).pend := by
  have h : ∀ (s : State) (f : Page → Page), (∀ p, (f p).pend = p.pend) → ((s.modPage n f).page m).pend = (s.page m).pend := fun s f => modPage_keeps s Page.pend n m f
  unfold State.raise; dsimp only; split <;> split <;> simp [h]
@[simp] theorem page_raise_pendMask (n sev code : Nat) (c : Option Nat) (loc : Word) (m : Nat) : ((s.raise n sev code c loc).page m).pendMask = (s.page m).pendMask := by
  have h : ∀ (s : State) (f : Page → Page), (∀ p, (f p).pendMask = p.pendMask) → ((s.modPage n f).page m).pendMask = (s.page m).pendMask := fun s f => modPage_keeps s Page.pendMask n m f
  unfold State.raise; dsimp only; split <;> split <;> simp [h]
@[simp] theorem page_raise_quiesceBit (n sev code : Nat) (c : Option Nat) (loc : Word) (m : Nat) : ((s.raise n sev code c loc).page m).quiesceBit = (s.page m).quiesceBit := by
  have h : ∀ (s : State) (f : Page → Page), (∀ p, (f p).quiesceBit = p.quiesceBit) → ((s.modPage n f).page m).quiesceBit = (s.page m).quiesceBit := fun s f => modPage_keeps s Page.quiesceBit n m f
  unfold State.raise; dsimp only; split <;> split <;> simp [h]
@[simp] theorem page_raise_quiescing (n sev code : Nat) (c : Option Nat) (loc : Word) (m : Nat) : ((s.raise n sev code c loc).page m).quiescing = (s.page m).quiescing := by
  have h : ∀ (s : State) (f : Page → Page), (∀ p, (f p).quiescing = p.quiescing) → ((s.modPage n f).page m).quiescing = (s.page m).quiescing := fun s f => modPage_keeps s Page.quiescing n m f
  unfold State.raise; dsimp only; split <;> split <;> simp [h]
@[simp] theorem page_raise_quiesced (n sev code : Nat) (c : Option Nat) (loc : Word) (m : Nat) : ((s.raise n sev code c loc).page m).quiesced = (s.page m).quiesced := by
  have h : ∀ (s : State) (f : Page → Page), (∀ p, (f p).quiesced = p.quiesced) → ((s.modPage n f).page m).quiesced = (s.page m).quiesced := fun s f => modPage_keeps s Page.quiesced n m f
  unfold State.raise; dsimp only; split <;> split <;> simp [h]
@[simp] theorem page_raise_writeRejected (n sev code : Nat) (c : Option Nat) (loc : Word) (m : Nat) : ((s.raise n sev code c loc).page m).writeRejected = (s.page m).writeRejected := by
  have h : ∀ (s : State) (f : Page → Page), (∀ p, (f p).writeRejected = p.writeRejected) → ((s.modPage n f).page m).writeRejected = (s.page m).writeRejected := fun s f => modPage_keeps s Page.writeRejected n m f
  unfold State.raise; dsimp only; split <;> split <;> simp [h]
@[simp] theorem page_raise_rejectWord (n sev code : Nat) (c : Option Nat) (loc : Word) (m : Nat) : ((s.raise n sev code c loc).page m).rejectWord = (s.page m).rejectWord := by
  have h : ∀ (s : State) (f : Page → Page), (∀ p, (f p).rejectWord = p.rejectWord) → ((s.modPage n f).page m).rejectWord = (s.page m).rejectWord := fun s f => modPage_keeps s Page.rejectWord n m f
  unfold State.raise; dsimp only; split <;> split <;> simp [h]
@[simp] theorem page_raise_epoch (n sev code : Nat) (c : Option Nat) (loc : Word) (m : Nat) : ((s.raise n sev code c loc).page m).epoch = (s.page m).epoch := by
  have h : ∀ (s : State) (f : Page → Page), (∀ p, (f p).epoch = p.epoch) → ((s.modPage n f).page m).epoch = (s.page m).epoch := fun s f => modPage_keeps s Page.epoch n m f
  unfold State.raise; dsimp only; split <;> split <;> simp [h]
@[simp] theorem page_raise_heldGo (n sev code : Nat) (c : Option Nat) (loc : Word) (m : Nat) : ((s.raise n sev code c loc).page m).heldGo = (s.page m).heldGo := by
  have h : ∀ (s : State) (f : Page → Page), (∀ p, (f p).heldGo = p.heldGo) → ((s.modPage n f).page m).heldGo = (s.page m).heldGo := fun s f => modPage_keeps s Page.heldGo n m f
  unfold State.raise; dsimp only; split <;> split <;> simp [h]
@[simp] theorem page_raise_heldBad (n sev code : Nat) (c : Option Nat) (loc : Word) (m : Nat) : ((s.raise n sev code c loc).page m).heldBad = (s.page m).heldBad := by
  have h : ∀ (s : State) (f : Page → Page), (∀ p, (f p).heldBad = p.heldBad) → ((s.modPage n f).page m).heldBad = (s.page m).heldBad := fun s f => modPage_keeps s Page.heldBad n m f
  unfold State.raise; dsimp only; split <;> split <;> simp [h]
@[simp] theorem page_raise_savedEnable (n sev code : Nat) (c : Option Nat) (loc : Word) (m : Nat) : ((s.raise n sev code c loc).page m).savedEnable = (s.page m).savedEnable := by
  have h : ∀ (s : State) (f : Page → Page), (∀ p, (f p).savedEnable = p.savedEnable) → ((s.modPage n f).page m).savedEnable = (s.page m).savedEnable := fun s f => modPage_keeps s Page.savedEnable n m f
  unfold State.raise; dsimp only; split <;> split <;> simp [h]
@[simp] theorem page_raise_readyFlows (n sev code : Nat) (c : Option Nat) (loc : Word) (m : Nat) : ((s.raise n sev code c loc).page m).readyFlows = (s.page m).readyFlows := by
  have h : ∀ (s : State) (f : Page → Page), (∀ p, (f p).readyFlows = p.readyFlows) → ((s.modPage n f).page m).readyFlows = (s.page m).readyFlows := fun s f => modPage_keeps s Page.readyFlows n m f
  unfold State.raise; dsimp only; split <;> split <;> simp [h]
@[simp] theorem raw_raise (n sev code : Nat) (c : Option Nat) (loc : Word) (m o' : Nat) : (s.raise n sev code c loc).raw m o' = s.raw m o' := by simp [State.raw]
@[simp] theorem fld_raise (n sev code : Nat) (c : Option Nat) (loc : Word) (m o' lo w : Nat) : (s.raise n sev code c loc).fld m o' lo w = s.fld m o' lo w := by
  simp [State.fld, State.inForce, State.expertEn]
@[simp] theorem written_raise (n sev code : Nat) (c : Option Nat) (loc : Word) (m o' : Nat) : (s.raise n sev code c loc).written m o' = s.written m o' := by simp [State.written]
@[simp] theorem admits_raise (n sev code : Nat) (c : Option Nat) (loc : Word) (m : Nat) : (s.raise n sev code c loc).admits m = s.admits m := by simp [State.admits, State.enabled]

/-! ### reject -/

@[simp] theorem reject_time (n o : Nat) : (s.reject n o).time = s.time := by simp [State.reject]
@[simp] theorem reject_draws (n o : Nat) : (s.reject n o).draws = s.draws := by simp [State.reject]
@[simp] theorem reject_pkg (n o : Nat) : (s.reject n o).pkg = s.pkg := by simp [State.reject]
@[simp] theorem reject_tiles (n o : Nat) : (s.reject n o).tiles = s.tiles := by simp [State.reject]
@[simp] theorem reject_mem (n o : Nat) : (s.reject n o).mem = s.mem := by simp [State.reject]
@[simp] theorem reject_fab (n o : Nat) : (s.reject n o).fab = s.fab := by simp [State.reject]
@[simp] theorem reject_sbd (n o : Nat) : (s.reject n o).sbd = s.sbd := by simp [State.reject]
@[simp] theorem reject_upe (n o : Nat) : (s.reject n o).upe = s.upe := by simp [State.reject]
@[simp] theorem reject_cle (n o : Nat) : (s.reject n o).cle = s.cle := by simp [State.reject]
@[simp] theorem reject_key (n o : Nat) : (s.reject n o).key = s.key := by simp [State.reject]
@[simp] theorem reject_bur (n o : Nat) : (s.reject n o).bur = s.bur := by simp [State.reject]
@[simp] theorem reject_sync (n o : Nat) : (s.reject n o).sync = s.sync := by simp [State.reject]
@[simp] theorem reject_out (n o : Nat) : (s.reject n o).out = s.out := by simp [State.reject]
@[simp] theorem reject_pending (n o : Nat) : (s.reject n o).pending = s.pending := by simp [State.reject]
@[simp] theorem tile_reject (n o : Nat) (t : Nat) : (s.reject n o).tile t = s.tile t := by simp [State.tile]
@[simp] theorem page_reject_words (n o : Nat) (m : Nat) : ((s.reject n o).page m).words = (s.page m).words := by
  have h : ∀ f : Page → Page, (∀ p, (f p).words = p.words) → ((s.modPage n f).page m).words = (s.page m).words := fun f => modPage_keeps s Page.words n m f
  simp [State.reject, h]
@[simp] theorem page_reject_pend (n o : Nat) (m : Nat) : ((s.reject n o).page m).pend = (s.page m).pend := by
  have h : ∀ f : Page → Page, (∀ p, (f p).pend = p.pend) → ((s.modPage n f).page m).pend = (s.page m).pend := fun f => modPage_keeps s Page.pend n m f
  simp [State.reject, h]
@[simp] theorem page_reject_pendMask (n o : Nat) (m : Nat) : ((s.reject n o).page m).pendMask = (s.page m).pendMask := by
  have h : ∀ f : Page → Page, (∀ p, (f p).pendMask = p.pendMask) → ((s.modPage n f).page m).pendMask = (s.page m).pendMask := fun f => modPage_keeps s Page.pendMask n m f
  simp [State.reject, h]
@[simp] theorem page_reject_quiesceBit (n o : Nat) (m : Nat) : ((s.reject n o).page m).quiesceBit = (s.page m).quiesceBit := by
  have h : ∀ f : Page → Page, (∀ p, (f p).quiesceBit = p.quiesceBit) → ((s.modPage n f).page m).quiesceBit = (s.page m).quiesceBit := fun f => modPage_keeps s Page.quiesceBit n m f
  simp [State.reject, h]
@[simp] theorem page_reject_quiescing (n o : Nat) (m : Nat) : ((s.reject n o).page m).quiescing = (s.page m).quiescing := by
  have h : ∀ f : Page → Page, (∀ p, (f p).quiescing = p.quiescing) → ((s.modPage n f).page m).quiescing = (s.page m).quiescing := fun f => modPage_keeps s Page.quiescing n m f
  simp [State.reject, h]
@[simp] theorem page_reject_quiesced (n o : Nat) (m : Nat) : ((s.reject n o).page m).quiesced = (s.page m).quiesced := by
  have h : ∀ f : Page → Page, (∀ p, (f p).quiesced = p.quiesced) → ((s.modPage n f).page m).quiesced = (s.page m).quiesced := fun f => modPage_keeps s Page.quiesced n m f
  simp [State.reject, h]
@[simp] theorem page_reject_epoch (n o : Nat) (m : Nat) : ((s.reject n o).page m).epoch = (s.page m).epoch := by
  have h : ∀ f : Page → Page, (∀ p, (f p).epoch = p.epoch) → ((s.modPage n f).page m).epoch = (s.page m).epoch := fun f => modPage_keeps s Page.epoch n m f
  simp [State.reject, h]
@[simp] theorem page_reject_err (n o : Nat) (m : Nat) : ((s.reject n o).page m).err = (s.page m).err := by
  have h : ∀ f : Page → Page, (∀ p, (f p).err = p.err) → ((s.modPage n f).page m).err = (s.page m).err := fun f => modPage_keeps s Page.err n m f
  simp [State.reject, h]
@[simp] theorem page_reject_errCount (n o : Nat) (m : Nat) : ((s.reject n o).page m).errCount = (s.page m).errCount := by
  have h : ∀ f : Page → Page, (∀ p, (f p).errCount = p.errCount) → ((s.modPage n f).page m).errCount = (s.page m).errCount := fun f => modPage_keeps s Page.errCount n m f
  simp [State.reject, h]
@[simp] theorem page_reject_heldGo (n o : Nat) (m : Nat) : ((s.reject n o).page m).heldGo = (s.page m).heldGo := by
  have h : ∀ f : Page → Page, (∀ p, (f p).heldGo = p.heldGo) → ((s.modPage n f).page m).heldGo = (s.page m).heldGo := fun f => modPage_keeps s Page.heldGo n m f
  simp [State.reject, h]
@[simp] theorem page_reject_heldBad (n o : Nat) (m : Nat) : ((s.reject n o).page m).heldBad = (s.page m).heldBad := by
  have h : ∀ f : Page → Page, (∀ p, (f p).heldBad = p.heldBad) → ((s.modPage n f).page m).heldBad = (s.page m).heldBad := fun f => modPage_keeps s Page.heldBad n m f
  simp [State.reject, h]
@[simp] theorem page_reject_savedEnable (n o : Nat) (m : Nat) : ((s.reject n o).page m).savedEnable = (s.page m).savedEnable := by
  have h : ∀ f : Page → Page, (∀ p, (f p).savedEnable = p.savedEnable) → ((s.modPage n f).page m).savedEnable = (s.page m).savedEnable := fun f => modPage_keeps s Page.savedEnable n m f
  simp [State.reject, h]
@[simp] theorem page_reject_readyFlows (n o : Nat) (m : Nat) : ((s.reject n o).page m).readyFlows = (s.page m).readyFlows := by
  have h : ∀ f : Page → Page, (∀ p, (f p).readyFlows = p.readyFlows) → ((s.modPage n f).page m).readyFlows = (s.page m).readyFlows := fun f => modPage_keeps s Page.readyFlows n m f
  simp [State.reject, h]
@[simp] theorem raw_reject (n o : Nat) (m o' : Nat) : (s.reject n o).raw m o' = s.raw m o' := by simp [State.raw]
@[simp] theorem fld_reject (n o : Nat) (m o' lo w : Nat) : (s.reject n o).fld m o' lo w = s.fld m o' lo w := by
  simp [State.fld, State.inForce, State.expertEn]
@[simp] theorem written_reject (n o : Nat) (m o' : Nat) : (s.reject n o).written m o' = s.written m o' := by simp [State.written]
@[simp] theorem admits_reject (n o : Nat) (m : Nat) : (s.reject n o).admits m = s.admits m := by simp [State.admits, State.enabled]

/-! ### Words -/

/-- A word set reads back. -/
@[simp] theorem raw_setRaw_same (n o' : Nat) (w : Word) : (s.setRaw n o' w).raw n o' = w := by
  simp [State.raw, State.setRaw, BitVec.xor_assoc]
/-- Another word of the page, or another page, reads as before. -/
@[simp] theorem raw_setRaw_other (n m o' p : Nat) (w : Word) (h : m ≠ n ∨ p / 8 ≠ o' / 8) : (s.setRaw n o' w).raw m p = s.raw m p := by
  unfold State.raw State.setRaw
  by_cases hm : m = n
  · subst hm
    have hp : p / 8 ≠ o' / 8 := by simpa using h
    simp [hp]
  · simp [hm]

end Sys2Proof.Machine
end

