-- ==== Sys2Proof/Laws/Crypto.lean ====
section
/-! SUPPORT. What AES-256-GCM seals, it opens (R274, R387); a packet that a package builds passes its own checks (R271, R274). -/

namespace Sys2Proof.Machine

open Sys2Proof

theorem toBytes_length (n : Nat) : ∀ v, (toBytes n v).length = n := by
  induction n with
  | zero => intro v; rfl
  | succ n ih => intro v; simp [toBytes, ih]

theorem xorBytes_length (a b : List Byte) : (xorBytes a b).length = min a.length b.length := by simp [xorBytes]

theorem xorBytes_twice : ∀ a k : List Byte, a.length = k.length → xorBytes (xorBytes a k) k = a := by
  intro a
  induction a with
  | nil => intro k _; simp [xorBytes]
  | cons x a ih =>
    intro k h
    cases k with
    | nil => simp at h
    | cons y k =>
      have := ih k (by simpa using h)
      simp only [xorBytes, List.zipWith_cons_cons] at this ⊢
      rw [this, BitVec.xor_assoc, BitVec.xor_self, BitVec.xor_zero]

theorem keyWords_words (key : List Byte) (h : key.length = 32) : ∀ n,
    (keyWords key n).length = n + 8 ∧ ∀ w ∈ keyWords key n, w.length = 4 := by
  intro n
  induction n with
  | zero =>
    refine ⟨by simp [keyWords], ?_⟩
    intro w hw
    simp only [keyWords, List.mem_map, List.mem_range] at hw
    obtain ⟨i, hi, rfl⟩ := hw
    simp only [List.length_take, List.length_drop, h]
    omega
  | succ n ih =>
    have get (i : Nat) (hi : i < n + 8) : ((keyWords key n).getD i []).length = 4 := by
      rw [List.getD_eq_getElem _ _ (by omega)]
      exact ih.2 _ (List.getElem_mem _)
    refine ⟨by simp [keyWords, ih.1], ?_⟩
    intro w hw
    simp only [keyWords, List.mem_append, List.mem_singleton] at hw
    rcases hw with hw | rfl
    · exact ih.2 w hw
    · rw [xorBytes_length, get _ (by omega)]
      have hp := get (n + 8 - 1) (by omega)
      split
      · simp only [xorBytes_length, List.length_map, List.length_append, List.length_drop, List.length_take, hp, List.length_cons, List.length_nil]
        omega
      · split <;> simp only [List.length_map, hp, Nat.min_self]

theorem roundKeys_length (key : List Byte) (h : key.length = 32) (r : Nat) (hr : r < 15) : ((roundKeys key).getD r []).length = 16 := by
  have hw := keyWords_words key h 52
  simp only [roundKeys]
  rw [List.getD_eq_getElem _ _ (by simpa using hr)]
  simp only [List.getElem_map, List.getElem_range, List.length_flatten]
  have : ((((keyWords key 52).drop (4 * r)).take 4).map List.length) = List.replicate 4 4 := by
    rw [List.eq_replicate_iff]
    refine ⟨by simp only [List.length_map, List.length_take, List.length_drop, hw.1]; omega, ?_⟩
    intro n hn
    obtain ⟨w, hm, rfl⟩ := List.mem_map.1 hn
    exact hw.2 w (List.mem_of_mem_drop (List.mem_of_mem_take hm))
  rw [this]
  rfl

theorem aesEnc_length (key : List Byte) (h : key.length = 32) (b : List Byte) : (aesEnc (roundKeys key) b).length = 16 := by
  simp only [aesEnc, xorBytes_length, roundKeys_length key h 14 (by omega)]
  simp [shiftRows]

theorem gcmStream_length (key : List Byte) (h : key.length = 32) (iv : List Byte) (n : Nat) : (gcmStream (roundKeys key) iv n).length = n := by
  simp only [gcmStream, List.length_take, List.length_flatMap]
  have : (List.map (fun i => (aesEnc (roundKeys key) (iv ++ toBytesBE 4 (i + 2))).length) (List.range ((n + 15) / 16)))
      = List.replicate ((n + 15) / 16) 16 := by
    rw [List.eq_replicate_iff]
    refine ⟨by simp, ?_⟩
    intro m hm
    obtain ⟨i, _, rfl⟩ := List.mem_map.1 hm
    exact aesEnc_length key h _
  rw [this, List.sum_replicate]
  simp only [smul_eq_mul]
  omega

/-- A sealed text opens to what was sealed, under the same key, nonce and authenticated data. -/
theorem gcmOpen_seal (key : BitVec 256) (iv aad pt : List Byte) :
    gcmOpen key iv aad (gcmSeal key iv aad pt).1 (gcmSeal key iv aad pt).2 = some pt := by
  have hk : (toBytesBE 32 key.toNat).length = 32 := by simp [toBytesBE, toBytes_length]
  have hl : (gcmSeal key iv aad pt).1.length = pt.length := by
    simp only [gcmSeal, xorBytes_length, gcmStream_length _ hk, Nat.min_self]
  simp only [gcmOpen, hl]
  rw [if_pos (by simp only [gcmSeal])]
  simp only [gcmSeal]
  rw [xorBytes_twice _ _ (by rw [gcmStream_length _ hk])]

/-! ## Packets -/

theorem putBits_low (w : Word) (v : Nat) : putBits w 0 32 v = (w &&& 0xFFFFFFFF00000000#64) ||| BitVec.ofNat 64 (v % 2 ^ 32) := by
  simp [putBits]

theorem putBits_low_toNat (w : Word) (v : Nat) : (putBits w 0 32 v).toNat = w.toNat / 2 ^ 32 * 2 ^ 32 + v % 2 ^ 32 := by
  have hm : (0xFFFFFFFF00000000#64) = BitVec.allOnes 64 <<< 32 := by decide
  have hs : w &&& 0xFFFFFFFF00000000#64 = (w >>> 32) <<< 32 := by
    rw [hm]
    apply BitVec.eq_of_getLsbD_eq
    intro i hi
    simp only [BitVec.getLsbD_and, BitVec.getLsbD_shiftLeft, BitVec.getLsbD_allOnes, BitVec.getLsbD_ushiftRight]
    by_cases h : i < 32
    · simp [h]
    · have h1 : i - 32 < 64 := by omega
      have h2 : 32 + (i - 32) = i := by omega
      simp [h, hi, h1, h2]
  have hw : (w &&& 0xFFFFFFFF00000000#64).toNat = 2 ^ 32 * (w.toNat / 2 ^ 32) := by
    rw [hs, BitVec.toNat_shiftLeft, BitVec.toNat_ushiftRight, Nat.shiftRight_eq_div_pow, Nat.shiftLeft_eq, Nat.mul_comm]
    exact Nat.mod_eq_of_lt (by have := w.isLt; omega)
  have hd : v % 2 ^ 32 < 2 ^ 32 := Nat.mod_lt _ (by decide)
  rw [putBits_low, BitVec.toNat_or, hw, BitVec.toNat_ofNat, Nat.mod_eq_of_lt (Nat.lt_trans hd (by decide)),
    ← Nat.two_pow_add_eq_or_of_lt hd, Nat.mul_comm]

theorem putBits_low_twice (w : Word) (v : Nat) : putBits (putBits w 0 32 v) 0 32 0 = putBits w 0 32 0 := by
  apply BitVec.eq_of_toNat_eq
  rw [putBits_low_toNat, putBits_low_toNat, putBits_low_toNat]
  omega

theorem bits_putBits_low (w : Word) (v : Nat) : bits (putBits w 0 32 v) 0 32 = v % 2 ^ 32 := by
  simp only [bits, putBits_low_toNat, Nat.pow_zero, Nat.div_one]
  omega

theorem bits_putBits_high (w : Word) (v lo n : Nat) (h : 32 ≤ lo) : bits (putBits w 0 32 v) lo n = bits w lo n := by
  have hd : v % 2 ^ 32 < 2 ^ 32 := Nat.mod_lt _ (by decide)
  simp only [bits, putBits_low_toNat]
  obtain ⟨k, rfl⟩ := Nat.exists_eq_add_of_le h
  rw [Nat.pow_add, ← Nat.div_div_eq_div_mul, ← Nat.div_div_eq_div_mul]
  congr 2
  omega

theorem getLsbD_putBits_high (w : Word) (v i : Nat) (h : 32 ≤ i) : (putBits w 0 32 v).getLsbD i = w.getLsbD i := by
  have hb := bits_putBits_high w v i 1 h
  have hg (x : Word) : x.getLsbD i = decide (bits x i 1 = 1) := by
    simp [bits, BitVec.getLsbD, Nat.testBit_eq_decide_div_mod_eq]
  rw [hg, hg, hb]

/-- The nonce that a packet's own fields give is that of what it was built from. -/
def SameNonce (p : Packet) (f : Form) : Prop :=
  ivOf f.owner (ivKind (pktPop p)) (pktFlow p) f.fgen (pktSeq p) (pktResend p) (pktPart p) = ivOf f.owner (ivKind f.pop) f.flow f.fgen f.seq f.resend f.part

variable (s : State) (key : BitVec 256) (f : Form) (vc : Nat)

/-- A bulk packet carries its CRC. -/
theorem build_bulk_crc (hc : popClass f.pop = some (true, vc)) (hb : pktBulk (s.build key f) = true) :
    pktCrc (s.build key f) = pktSentCrc (s.build key f) := by
  rw [pktSentCrc, if_pos hb]
  simp only [State.build, hc, Option.getD_some, ↓reduceIte] at hb ⊢
  rw [bits_putBits_low]
  simp only [pktCrc, pktAad, pktBulk] at hb ⊢
  simp only [hb, ↓reduceIte, putBits_low_twice]
  apply BitVec.eq_of_toNat_eq
  rw [BitVec.toNat_ofNat, Nat.mod_mod, Nat.mod_eq_of_lt (BitVec.isLt _)]

/-- A bulk packet opens to its payload. -/
theorem build_bulk_opens (hc : popClass f.pop = some (true, vc)) (hb : pktBulk (s.build key f) = true) (hn : SameNonce (s.build key f) f) :
    openAs key (s.build key f) f.owner f.fgen =
      some { w2 := f.w2, fgen := f.fgen, owner := f.owner, tsel := (s.build key f).w3.getLsbD 61, len := bits (s.build key f).w0 43 8
             data := f.data } := by
  unfold openAs
  rw [hn]
  have h : gcmOpen key (ivOf f.owner (ivKind f.pop) f.flow f.fgen f.seq f.resend f.part) (pktAad (s.build key f)) (s.build key f).body
      (s.build key f).tag = some f.data := by
    simp only [State.build, hc, Option.getD_some, ↓reduceIte] at hb ⊢
    simp only [pktAad, pktBulk] at hb ⊢
    simp only [hb, ↓reduceIte, putBits_low_twice]
    exact gcmOpen_seal _ _ _ _
  rw [h]
  simp only [hb, ↓reduceIte]
  simp only [State.build, hc, Option.getD_some, ↓reduceIte]

/-- A cell carries its CRC. -/
theorem build_cell_crc (hc : popClass f.pop = some (false, vc)) (hb : pktBulk (s.build key f) = false) :
    pktCrc (s.build key f) = pktSentCrc (s.build key f) := by
  rw [pktSentCrc, if_neg (by simp [hb])]
  simp only [State.build, hc, Option.getD_some, Bool.false_eq_true, ↓reduceIte, pktCrc, pktAad, pktBulk]

/-- What a cell's body says. -/
def cellOpened (f : Form) (tsel : Bool) : Opened :=
  let d := cellBody f tsel
  let b := BitVec.ofNat 64 (ofBytes ((d.drop 8).take 8))
  { w2 := BitVec.ofNat 64 (ofBytes (d.take 8)), fgen := bits b 0 16, owner := bits b 16 13, tsel := b.getLsbD 29, len := bits b 30 16, data := d.drop 16 }

/-- A cell opens to its body. -/
theorem build_cell_opens (hc : popClass f.pop = some (false, vc)) (hb : pktBulk (s.build key f) = false) (hn : SameNonce (s.build key f) f) :
    openAs key (s.build key f) f.owner f.fgen = some (cellOpened f (s.tselOf f.target)) := by
  unfold openAs
  rw [hn]
  have h : gcmOpen key (ivOf f.owner (ivKind f.pop) f.flow f.fgen f.seq f.resend f.part) (pktAad (s.build key f)) (s.build key f).body
      (s.build key f).tag = some (cellBody f (s.tselOf f.target)) := by
    simp only [State.build, hc, Option.getD_some, Bool.false_eq_true, ↓reduceIte]
    exact gcmOpen_seal _ _ _ _
  rw [h]
  simp only [hb, Bool.false_eq_true, ↓reduceIte, cellOpened]

end Sys2Proof.Machine
end

