-- ==== Sys2Proof/Laws/Memory.lean ====
section
/-! SUPPORT. Memory and its cache: every operation keeps the canonical form; a written byte reads as written and no other changes; moving lines
in and out of the cache changes no byte, but for the read that discards a line (R246 to R252). -/

namespace Sys2Proof.Machine

open Sys2Proof

/-! ## The canonical form -/

theorem Mem.wf_iff (m : Mem) : m.wf = true ↔ Tab.wf 0 m.hbm = true ∧ Tab.wf 0 m.delta = true := by simp [Mem.wf]

/-- The reset memory is in its canonical form. -/
theorem reset_mem_wf : State.reset.mem.wf = true := rfl

theorem wf_foldl_set (ds : List (Nat × Byte)) (f : Nat × Byte → Byte) : ∀ h : Tab Byte, Tab.wf 0 h = true →
    Tab.wf 0 (ds.foldl (fun h e => Tab.set 0 h e.1 (f e)) h) = true := by
  induction ds with
  | nil => intro h hh; exact hh
  | cons e ds ih => intro h hh; exact ih _ (Tab.wf_set 0 h e.1 _ hh)

@[simp] theorem Mem.setLine_wf (m : Mem) (l : Nat) (x : Line) : (m.setLine l x).wf = m.wf := rfl

theorem Mem.writeBack_wf (m : Mem) (l : Nat) (h : m.wf = true) : (m.writeBack l).wf = true := by
  rw [Mem.wf_iff] at *
  exact ⟨wf_foldl_set _ (fun e => m.byte e.1) _ h.1, Tab.wf_filter 0 _ _ h.2⟩

theorem Mem.evict_wf (m : Mem) (l : Nat) (h : m.wf = true) : (m.evict l).wf = true := Mem.writeBack_wf m l h

theorem Mem.dropLine_wf (m : Mem) (l : Nat) (h : m.wf = true) : (m.dropLine l).wf = true := by
  rw [Mem.wf_iff] at *
  exact ⟨h.1, Tab.wf_filter 0 _ _ h.2⟩

theorem Mem.allocate_wf (m : Mem) (l : Nat) (high dirty : Bool) (keep : Nat) (h : m.wf = true) : (m.allocate l high dirty keep).wf = true := by
  unfold Mem.allocate
  simp only
  split
  · exact h
  · rw [Mem.setLine_wf]
    split
    · exact Mem.evict_wf m _ h
    · exact h

theorem Mem.raiseLine_wf (m : Mem) (l keep : Nat) (h : m.wf = true) : (m.raiseLine l keep).wf = true := by
  unfold Mem.raiseLine
  simp only
  split
  · exact h
  · rw [Mem.setLine_wf]
    split
    · split <;> exact h
    · exact h

theorem Mem.putByte_wf (m : Mem) (a : Nat) (b : Byte) (h : m.wf = true) : (m.putByte a b).wf = true := by
  rw [Mem.wf_iff] at h
  unfold Mem.putByte
  split
  · exact (Mem.wf_iff _).2 ⟨h.1, Tab.wf_set 0 _ _ _ h.2⟩
  · exact (Mem.wf_iff _).2 ⟨Tab.wf_set 0 _ _ _ h.1, h.2⟩

theorem Mem.put_wf (d : List Byte) : ∀ (m : Mem) (a : Nat), m.wf = true → (m.put a d).wf = true := by
  induction d with
  | nil => intro m a h; exact h
  | cons b d ih => intro m a h; exact ih _ _ (Mem.putByte_wf m a b h)

theorem foldl_mem_wf {α : Type} (f : Mem → α → Mem) (hf : ∀ m x, m.wf = true → (f m x).wf = true) (xs : List α) :
    ∀ m : Mem, m.wf = true → (xs.foldl f m).wf = true := by
  induction xs with
  | nil => intro m h; exact h
  | cons x xs ih => intro m h; exact ih _ (hf m x h)

theorem Mem.putAtomic_wf (m : Mem) (a : Nat) (d : List Byte) (h : m.wf = true) : (m.putAtomic a d).wf = true := by
  unfold Mem.putAtomic
  simp only
  refine Mem.put_wf d _ a (foldl_mem_wf _ (fun m l hm => ?_) _ m h)
  split
  · exact hm
  · exact hm

theorem Mem.spoil_wf (m : Mem) (k a : Nat) (h : m.wf = true) : (m.spoil k a).wf = true := by
  unfold Mem.spoil
  refine foldl_mem_wf _ (fun m i hm => ?_) _ m h
  rw [Mem.wf_iff] at *
  exact ⟨Tab.wf_set 0 _ _ _ hm.1, hm.2⟩

/-! ## The bytes -/

@[simp] theorem Mem.setLine_byte (m : Mem) (l : Nat) (x : Line) (a : Nat) : (m.setLine l x).byte a = m.byte a := rfl

theorem get_foldl_set (ds : List (Nat × Byte)) (f : Nat → Byte) (a : Nat) : ∀ h : Tab Byte,
    Tab.get 0 (ds.foldl (fun h e => Tab.set 0 h e.1 (f e.1)) h) a = if ∃ e ∈ ds, e.1 = a then f a else Tab.get 0 h a := by
  induction ds with
  | nil => intro h; simp
  | cons e ds ih =>
    intro h
    rw [List.foldl_cons, ih, Tab.get_set]
    by_cases h1 : ∃ e ∈ ds, e.1 = a
    · simp only [h1, if_true]
      obtain ⟨x, hx, hxa⟩ := h1
      rw [if_pos ⟨x, List.mem_cons_of_mem _ hx, hxa⟩]
    · simp only [h1, if_false]
      by_cases h2 : a = e.1
      · subst h2
        simp
      · rw [if_neg h2, if_neg]
        rintro ⟨x, hx, hxa⟩
        rcases List.mem_cons.1 hx with rfl | hx
        · exact h2 hxa.symm
        · exact h1 ⟨x, hx, hxa⟩

/-- A key that no entry has reads as the default. -/
theorem get_unlisted (m : Tab Byte) (a : Nat) (h : ¬ ∃ e ∈ m, e.1 = a) : Tab.get 0 m a = 0 := by
  induction m with
  | nil => rfl
  | cons e m ih =>
    obtain ⟨k, v⟩ := e
    simp only [Tab.get]
    rw [if_neg fun hk => h ⟨(k, v), List.mem_cons_self .., hk⟩]
    exact ih fun ⟨x, hx, hxa⟩ => h ⟨x, List.mem_cons_of_mem _ hx, hxa⟩

theorem Mem.writeBack_byte (m : Mem) (l a : Nat) : (m.writeBack l).byte a = m.byte a := by
  show Tab.get 0 ((m.delta.filter fun e => decide (e.1 / 256 = l)).foldl (fun h e => Tab.set 0 h e.1 (m.byte e.1)) m.hbm) a
    ^^^ Tab.get 0 (m.delta.filter fun e => decide (e.1 / 256 ≠ l)) a = m.byte a
  rw [get_foldl_set _ m.byte, Tab.get_filter 0 (fun k => decide (k / 256 ≠ l))]
  by_cases hl : a / 256 = l
  · simp only [hl]
    by_cases h : ∃ e ∈ m.delta.filter fun e => decide (e.1 / 256 = l), e.1 = a
    · rw [if_pos h]; simp
    · rw [if_neg h]
      have hz : Tab.get 0 m.delta a = 0 := get_unlisted _ a fun ⟨e, he, hea⟩ => h ⟨e, List.mem_filter.2 ⟨he, by simp [hea, hl]⟩, hea⟩
      rw [if_neg (by simp), Mem.byte, hz]
  · rw [if_neg]
    · simp [hl, Mem.byte]
    · rintro ⟨e, he, hea⟩
      have := (List.mem_filter.1 he).2
      simp [hea, hl] at this

@[simp] theorem Mem.evict_byte (m : Mem) (l a : Nat) : (m.evict l).byte a = m.byte a := Mem.writeBack_byte m l a

@[simp] theorem Mem.allocate_byte (m : Mem) (l : Nat) (high dirty : Bool) (keep a : Nat) : (m.allocate l high dirty keep).byte a = m.byte a := by
  unfold Mem.allocate
  simp only
  split
  · rfl
  · rw [Mem.setLine_byte]
    split
    · exact Mem.evict_byte ..
    · rfl

@[simp] theorem Mem.raiseLine_byte (m : Mem) (l keep a : Nat) : (m.raiseLine l keep).byte a = m.byte a := by
  unfold Mem.raiseLine
  simp only
  split
  · rfl
  · rw [Mem.setLine_byte]
    split
    · split <;> rfl
    · rfl

/-- A discarded line leaves the bytes of every other line. -/
theorem Mem.dropLine_byte (m : Mem) (l a : Nat) (h : a / 256 ≠ l) : (m.dropLine l).byte a = m.byte a := by
  show Tab.get 0 m.hbm a ^^^ Tab.get 0 (m.delta.filter fun e => decide (e.1 / 256 ≠ l)) a = m.byte a
  rw [Tab.get_filter 0 (fun k => decide (k / 256 ≠ l))]
  simp [h, Mem.byte]

/-- A written byte reads as written, and no other changes. -/
theorem Mem.putByte_byte (m : Mem) (a : Nat) (b : Byte) (x : Nat) : (m.putByte a b).byte x = if x = a then b else m.byte x := by
  unfold Mem.putByte
  split
  · simp only [Mem.byte, Tab.get_set]
    split
    · rename_i h; subst h; rw [BitVec.xor_comm, BitVec.xor_assoc, BitVec.xor_self, BitVec.xor_zero]
    · rfl
  · simp only [Mem.byte, Tab.get_set]
    split
    · rename_i h; subst h; rw [BitVec.xor_assoc, BitVec.xor_self, BitVec.xor_zero]
    · rfl

/-- Written bytes read as written, and no other changes. -/
theorem Mem.put_byte (d : List Byte) : ∀ (m : Mem) (a x : Nat),
    (m.put a d).byte x = if a ≤ x ∧ x < a + d.length then d.getD (x - a) 0 else m.byte x := by
  induction d with
  | nil => intro m a x; rw [if_neg (by simp)]; rfl
  | cons b d ih =>
    intro m a x
    show ((m.putByte a b).put (a + 1) d).byte x = _
    rw [ih, Mem.putByte_byte]
    simp only [List.length_cons]
    by_cases h1 : x = a
    · subst h1
      rw [if_neg (by omega), if_pos rfl, if_pos (by omega)]
      simp
    · by_cases h2 : a + 1 ≤ x ∧ x < a + 1 + d.length
      · rw [if_pos h2, if_pos (by omega)]
        obtain ⟨k, hk⟩ : ∃ k, x - a = k + 1 := ⟨x - a - 1, by omega⟩
        rw [hk, show x - (a + 1) = k by omega]
        simp
      · rw [if_neg h2, if_neg h1, if_neg (by omega)]

theorem Mem.put_byte_other (m : Mem) (a x : Nat) (d : List Byte) (h : x < a ∨ a + d.length ≤ x) : (m.put a d).byte x = m.byte x := by
  rw [Mem.put_byte, if_neg (by omega)]

@[simp] theorem Mem.bytes_length (m : Mem) (a n : Nat) : (m.bytes a n).length = n := by simp [Mem.bytes]

/-- Bytes just written read back. -/
theorem Mem.bytes_put (m : Mem) (a : Nat) (d : List Byte) : (m.put a d).bytes a d.length = d := by
  apply List.ext_getElem
  · simp
  · intro i h1 h2
    simp only [Mem.bytes, List.getElem_map, List.getElem_range]
    rw [Mem.put_byte, if_pos (by simp at h1; omega)]
    simp [List.getD_eq_getElem?_getD, h2]

/-- The update of the atomic unit is a write like any other. -/
theorem Mem.putAtomic_byte (m : Mem) (a x : Nat) (d : List Byte) : (m.putAtomic a d).byte x = (m.put a d).byte x := by
  unfold Mem.putAtomic
  simp only
  rw [Mem.put_byte, Mem.put_byte]
  split
  · rfl
  · generalize linesOf a d.length = ls
    induction ls generalizing m with
    | nil => rfl
    | cons l ls ih =>
      rw [List.foldl_cons, ih]
      split <;> rfl

/-! ## Reads and writes by the engines -/

/-- What a read does to a line changes no byte, unless it is the read that discards the line (hint 3). -/
theorem lineRead_byte (s : State) (ctx : Option Nat) (hint : Nat) (alloc : Bool) (l a : Nat) (h : hint ≠ 3) :
    (s.lineRead ctx hint alloc l).mem.byte a = s.mem.byte a := by
  have he : effHint hint (s.keepWays (lineDie l)) ≠ 3 := by unfold effHint; split <;> simp [h]
  unfold State.lineRead
  simp only [he, if_false]
  split
  · simp only [Mem.setLine_byte]
    split
    · exact Mem.raiseLine_byte _ _ _ _
    · rfl
  · split
    · simp only [count_mem]
      exact Mem.allocate_byte _ _ _ _ _ _
    · rfl

/-- What a write does to a line before its bytes are written changes no byte. -/
theorem lineWrite_byte (s : State) (ctx : Option Nat) (hint : Nat) (alloc : Bool) (l a : Nat) :
    (s.lineWrite ctx hint alloc l).mem.byte a = s.mem.byte a := by
  unfold State.lineWrite
  simp only
  split
  · simp only [count_mem, Mem.setLine_byte]
    split
    · exact Mem.raiseLine_byte _ _ _ _
    · rfl
  · split
    · simp only [count_mem]
      exact Mem.allocate_byte _ _ _ _ _ _
    · rfl

theorem lineRead_wf (s : State) (ctx : Option Nat) (hint : Nat) (alloc : Bool) (l : Nat) (h : s.mem.wf = true) :
    (s.lineRead ctx hint alloc l).mem.wf = true := by
  unfold State.lineRead
  simp only
  split
  · split
    · split <;> exact Mem.dropLine_wf _ _ h
    · split
      · exact Mem.raiseLine_wf _ _ _ h
      · exact h
  · split
    · simp only [count_mem]
      exact Mem.allocate_wf _ _ _ _ _ h
    · exact h

theorem lineWrite_wf (s : State) (ctx : Option Nat) (hint : Nat) (alloc : Bool) (l : Nat) (h : s.mem.wf = true) :
    (s.lineWrite ctx hint alloc l).mem.wf = true := by
  unfold State.lineWrite
  simp only
  split
  · simp only [count_mem, Mem.setLine_wf]
    split
    · exact Mem.raiseLine_wf _ _ _ h
    · exact h
  · split
    · simp only [count_mem]
      exact Mem.allocate_wf _ _ _ _ _ h
    · exact h

/-- A property of memory that every line operation of a fold keeps. -/
theorem foldl_keeps {α : Type} (P : State → Prop) (f : State → α → State) (hf : ∀ s x, P s → P (f s x)) (xs : List α) :
    ∀ s, P s → P (xs.foldl f s) := by
  induction xs with
  | nil => intro s h; exact h
  | cons x xs ih => intro s h; exact ih _ (hf s x h)

/-- A write to local memory: the bytes read as written, and no other changes. -/
theorem memWrite_byte (s : State) (ctx : Option Nat) (a : Nat) (d : List Byte) (hint : Nat) (alloc : Bool) (x : Nat) :
    (s.memWrite ctx a d hint alloc).mem.byte x = if a ≤ x ∧ x < a + d.length then d.getD (x - a) 0 else s.mem.byte x := by
  unfold State.memWrite
  simp only [count_mem]
  rw [Mem.put_byte]
  split
  · rfl
  · exact foldl_keeps (fun s' => s'.mem.byte x = s.mem.byte x) _ (fun s' l h => (lineWrite_byte ..).trans h) _ s rfl

theorem memWrite_wf (s : State) (ctx : Option Nat) (a : Nat) (d : List Byte) (hint : Nat) (alloc : Bool) (h : s.mem.wf = true) :
    (s.memWrite ctx a d hint alloc).mem.wf = true := by
  unfold State.memWrite
  simp only [count_mem]
  exact Mem.put_wf _ _ _ (foldl_keeps (fun s' => s'.mem.wf = true) _ (fun s' l h => lineWrite_wf _ _ _ _ _ h) _ s h)

/-- A read of local memory with any hint but the discarding one changes no byte. -/
theorem memRead_byte (s : State) (ctx : Option Nat) (a n hint : Nat) (alloc : Bool) (x : Nat) (h : hint ≠ 3) :
    (s.memRead ctx a n hint alloc).2.mem.byte x = s.mem.byte x := by
  unfold State.memRead
  simp only [count_mem]
  refine foldl_keeps (fun s' => s'.mem.byte x = s.mem.byte x) _ (fun s' l h' => (lineRead_byte _ _ _ _ _ _ h).trans h') _ _ ?_
  split <;> rfl

theorem memRead_wf (s : State) (ctx : Option Nat) (a n hint : Nat) (alloc : Bool) (h : s.mem.wf = true) :
    (s.memRead ctx a n hint alloc).2.mem.wf = true := by
  unfold State.memRead
  simp only [count_mem]
  refine foldl_keeps (fun s' => s'.mem.wf = true) _ (fun s' l h => lineRead_wf _ _ _ _ _ h) _ _ ?_
  split <;> exact h

/-- Where no write is in flight, a read gives the bytes that memory holds. -/
theorem memRead_bytes (s : State) (ctx : Option Nat) (a n hint : Nat) (alloc : Bool) (h : s.mem.writes = []) :
    (s.memRead ctx a n hint alloc).1 = s.mem.bytes a n := by
  simp [State.memRead, h]

theorem flushWrites_wf (s : State) (ctx : Option Nat) (id : Nat) (h : s.mem.wf = true) : (s.flushWrites ctx id).mem.wf = true := by
  unfold State.flushWrites
  exact foldl_keeps (fun s' => s'.mem.wf = true) _ (fun s' w h => memWrite_wf _ _ _ _ _ _ h) _ _ h

/-- With nothing of an operation waiting, making its writes good changes no byte. -/
theorem flushWrites_byte_none (s : State) (ctx : Option Nat) (id x : Nat) (h : (s.mem.writes.filter fun w => decide (w.id = id)) = []) :
    (s.flushWrites ctx id).mem.byte x = s.mem.byte x := by
  simp only [State.flushWrites, h, List.foldl_nil]
  rfl

end Sys2Proof.Machine
end

