-- ==== Sys2Proof/Laws/Maintenance.lean ====
section
/-! SUPPORT. The operations over memory outside Ops.lean keep the canonical form of the HBM: flushes, half-banks, the atomic unit, a stack that
loses its contents, the escape table of bring-up and a warm reset. -/

namespace Sys2Proof.Machine

open Sys2Proof

theorem Mem.clean_wf (m : Mem) (l : Nat) (h : m.wf = true) : (m.clean l).wf = true := by
  rw [Mem.clean, Mem.setLine_wf]
  exact Mem.writeBack_wf m l h

theorem Mem.onLines_wf (m : Mem) (die : Nat) (p : Line → Bool) (f : Mem → Nat → Mem) (hf : ∀ m l, m.wf = true → (f m l).wf = true)
    (h : m.wf = true) : (m.onLines die p f).wf = true := foldl_mem_wf _ (fun m x hm => hf m x.1 hm) _ m h

theorem countBack_mem (s : State) (die : Nat) (p : Line → Bool) : (s.countBack die p).mem = s.mem := by simp [State.countBack]

/-- FLUSH and INVAL_ALL (R252). -/
theorem flushAct_wf (s : State) (die : Nat) (inval : Bool) (h : s.mem.wf = true) : (s.flushAct die inval).mem.wf = true := by
  have hb : (s.countBack die fun _ => true).mem.wf = true := by rw [countBack_mem]; exact h
  cases inval
  · exact Mem.onLines_wf _ die Line.dirty _ Mem.clean_wf hb
  · exact Mem.onLines_wf _ die (fun _ => true) _ Mem.evict_wf hb

/-- A half of a die leaves or rejoins (R252). -/
theorem halfAct_wf (s : State) (die half : Nat) (off : Bool) (h : s.mem.wf = true) : (s.halfAct die half off).mem.wf = true := by
  unfold State.halfAct
  simp only
  split
  · exact h
  cases off
  · exact h
  · have hb : (s.countBack die fun l => decide (l.upper = decide (half = 1))).mem.wf = true := by rw [countBack_mem]; exact h
    exact Mem.onLines_wf _ die (fun l => decide (l.upper = decide (half = 1))) _ Mem.evict_wf hb

/-- The atomic unit (R251). -/
theorem atomicSegs_wf (s : State) (ctx : Option Nat) (rop rtype : Nat) (segs : List (Nat × Nat × Bool)) (d : List Byte)
    (h : s.mem.wf = true) : (s.atomicSegs ctx rop rtype segs d).mem.wf = true := by
  unfold State.atomicSegs
  suffices H : ∀ (gs : List (Nat × Nat × Bool)) (r : State × List Byte), r.1.mem.wf = true →
      (gs.foldl (fun (r : State × List Byte) g =>
        let old := r.1.mem.bytes g.1 g.2.1
        ((r.1.modMem fun m => m.putAtomic g.1 (redBytes rop rtype old (r.2.take g.2.1))).count (hmcPage (homeOf g.1)) 2 ctx,
          r.2.drop g.2.1)) r).1.mem.wf = true from H segs (s, d) h
  intro gs
  induction gs with
  | nil => intro r hr; exact hr
  | cons g gs ih =>
    intro r hr
    refine ih _ ?_
    simp only [count_mem]
    exact Mem.putAtomic_wf _ _ _ hr

/-- A stack that lost its contents (R407). -/
theorem blankStack_wf (s : State) (k : Nat) (h : s.mem.wf = true) : (s.blankStack k).mem.wf = true := by
  rw [Mem.wf_iff] at h
  exact (Mem.wf_iff _).2 ⟨Tab.wf_filter 0 _ _ h.1, Tab.wf_filter 0 _ _ h.2⟩

/-- A warm reset (R369): the contents of the HBM stay. -/
theorem warmReset_wf (s : State) (h : s.mem.wf = true) : s.warmResetAct.mem.wf = true := by
  unfold State.warmResetAct
  split
  · simpa using h
  · have flows : ∀ (xs : List (Nat × Flow)) (s : State), s.mem.wf = true →
        (xs.foldl (fun s e => s.writeBackFlow e.1 e.2) s).mem.wf = true := fun xs =>
      foldl_keeps (fun s => s.mem.wf = true) _ (fun s x hs => by
        unfold State.writeBackFlow
        split
        · exact hs
        · exact memWrite_wf _ _ _ _ _ _ (memWrite_wf _ _ _ _ _ _ hs)) xs
    have dies : ∀ (xs : List Nat) (s : State), s.mem.wf = true →
        (xs.foldl (fun s d => s.modMem fun m => m.onLines d (fun _ => true) Mem.evict) s).mem.wf = true := fun xs =>
      foldl_keeps (fun s => s.mem.wf = true) _ (fun s d hs => Mem.onLines_wf _ _ _ _ Mem.evict_wf hs) xs
    have hm := (Mem.wf_iff _).1 (dies (List.range 4) _ (flows (s.fab.cache.filterMap fun e => e.2.map fun x => (e.1, x)) s h))
    exact (Mem.wf_iff _).2 ⟨hm.1, hm.2⟩

end Sys2Proof.Machine
end

