-- ==== Sys2Proof/Laws/Packets.lean ====
section
/-! SUPPORT. A request that its flow's peer built passes the checks of its target as new (R273, R294). -/

namespace Sys2Proof.Machine

open Sys2Proof

/-- Word 3 of a bulk packet before its CRC is put in. -/
def formW3 (s : State) (f : Form) : Word :=
  BitVec.ofNat 64 (f.fgen % 2 ^ 16 * 2 ^ 32 + f.owner % 2 ^ 13 * 2 ^ 48 + flag (s.tselOf f.target) * 2 ^ 61)

variable (s src : State) (key : BitVec 256) (f : Form) (vc : Nat) (x : Inbound) (e : Flow)

theorem build_bulk_w3 (hc : popClass f.pop = some (true, vc)) : ∃ v, (src.build key f).w3 = putBits (formW3 src f) 0 32 v := by
  simp only [State.build, hc, Option.getD_some, ↓reduceIte, formW3]
  exact ⟨_, rfl⟩

/-- What makes a request new besides its seal: the entry is valid with a reply area, and SEQ lies in the window unrecorded. -/
def NewTo (s : State) (x : Inbound) (e : Flow) : Prop :=
  e.valid = true ∧ e.replyArea ≠ 0 ∧ pktSeq x.pkt < e.recvBase + 64 ∧ e.recvBase ≤ pktSeq x.pkt ∧ e.w4.getLsbD (pktSeq x.pkt - e.recvBase) = false
    ∧ s.fab.combine = []

theorem checkReq_bulk (hp : x.pkt = src.build key f) (hc : popClass f.pop = some (true, vc)) (hb : pktBulk x.pkt = true)
    (hn : SameNonce x.pkt f) (hk : s.keyOf e = some key) (hg : bits (formW3 src f) 32 16 = e.gen) (hf : f.fgen = e.gen)
    (ho : bits (formW3 src f) 48 13 = e.peer) (hw : f.owner = e.peer) (ht : (formW3 src f).getLsbD 61 = false) (hx : NewTo s x e) :
    (s.checkReq x e).1 = .fresh { w2 := f.w2, fgen := e.gen, owner := e.peer, tsel := false, len := bits x.pkt.w0 43 8, data := f.data } := by
  obtain ⟨v, hv⟩ := build_bulk_w3 src key f vc hc
  have h3 : x.pkt.w3 = putBits (formW3 src f) 0 32 v := by rw [hp, hv]
  have hcrc : pktCrc x.pkt = pktSentCrc x.pkt := by rw [hp] at hb ⊢; exact build_bulk_crc src key f vc hc hb
  have hop := build_bulk_opens src key f vc hc (hp ▸ hb) (hp ▸ hn)
  rw [← hp, hf, hw] at hop
  have ht' : x.pkt.w3.getLsbD 61 = false := by rw [h3, getLsbD_putBits_high _ _ _ (by decide), ht]
  have ho' : bits x.pkt.w3 48 13 = e.peer := by rw [h3, bits_putBits_high _ _ _ _ (by decide), ho]
  have hg' : bits x.pkt.w3 32 16 = e.gen := by rw [h3, bits_putBits_high _ _ _ _ (by decide), hg]
  rw [ht'] at hop
  obtain ⟨hva, hra, hs1, hs2, hs3, hcb⟩ := hx
  have hlt : ¬ (pktSeq x.pkt < e.recvBase ∨ e.w4.getLsbD (pktSeq x.pkt - e.recvBase) = true) := by
    rw [hs3]; simp; omega
  have hm : s.flowMatch x.pkt e = true := by
    simp only [State.flowMatch, hva, ho', hg', ht', decide_true, Bool.true_and, Bool.not_false, Bool.true_or, Bool.or_true]
  have hq : s.openReq x.pkt e = some { w2 := f.w2, fgen := e.gen, owner := e.peer, tsel := false, len := bits x.pkt.w0 43 8, data := f.data } := by
    simp only [State.openReq, hk, hb, ho', ↓reduceIte, hop]
  simp only [State.checkReq, hcrc, hm, hq]
  simp [hra, hcb, hlt, Nat.not_le.2 hs1]

/-- The operand of a cell as its target opens it. -/
theorem checkReq_cell (hp : x.pkt = src.build key f) (hc : popClass f.pop = some (false, vc)) (hb : pktBulk x.pkt = false)
    (hn : SameNonce x.pkt f) (hk : s.keyOf e = some key) (hf : f.fgen = e.gen) (hw : f.owner = e.peer)
    (ht : (cellOpened f (src.tselOf f.target)).tsel = false) (hx : NewTo s x e) :
    (s.checkReq x e).1 = .fresh (cellOpened f (src.tselOf f.target)) := by
  have hcrc : pktCrc x.pkt = pktSentCrc x.pkt := by rw [hp] at hb ⊢; exact build_cell_crc src key f vc hc hb
  have hop := build_cell_opens src key f vc hc (hp ▸ hb) (hp ▸ hn)
  rw [← hp, hf, hw] at hop
  obtain ⟨hva, hra, hs1, hs2, hs3, hcb⟩ := hx
  have hlt : ¬ (pktSeq x.pkt < e.recvBase ∨ e.w4.getLsbD (pktSeq x.pkt - e.recvBase) = true) := by
    rw [hs3]; simp; omega
  have hm : s.flowMatch x.pkt e = true := by simp [State.flowMatch, hva, hb]
  have hq : s.openReq x.pkt e = some (cellOpened f (src.tselOf f.target)) := by
    simp [State.openReq, hk, hb, State.owners, hop]
  simp only [State.checkReq, hcrc, hm, hq]
  simp [hra, hcb, hlt, ht, Nat.not_le.2 hs1]

/-- A bulk answer, DATA, opens at its requester. -/
theorem openAnswer_bulk (p : Packet) (hp : p = src.build key f) (hc : popClass f.pop = some (true, vc)) (hb : pktBulk p = true) (hn : SameNonce p f)
    (hk : s.keyOf e = some key) (hg : bits (formW3 src f) 32 16 = f.fgen) (ho : bits (formW3 src f) 48 13 = f.owner)
    (ht : (formW3 src f).getLsbD 61 = false) :
    s.openAnswer e p = some { w2 := f.w2, fgen := f.fgen, owner := f.owner, tsel := false, len := bits p.w0 43 8
                              data := f.data } := by
  obtain ⟨v, hv⟩ := build_bulk_w3 src key f vc hc
  have h3 : p.w3 = putBits (formW3 src f) 0 32 v := by rw [hp, hv]
  have hcrc : pktCrc p = pktSentCrc p := by rw [hp] at hb ⊢; exact build_bulk_crc src key f vc hc hb
  have hop := build_bulk_opens src key f vc hc (hp ▸ hb) (hp ▸ hn)
  rw [← hp] at hop
  have ho' : bits p.w3 48 13 = f.owner := by rw [h3, bits_putBits_high _ _ _ _ (by decide), ho]
  have hg' : bits p.w3 32 16 = f.fgen := by rw [h3, bits_putBits_high _ _ _ _ (by decide), hg]
  have ht' : p.w3.getLsbD 61 = false := by rw [h3, getLsbD_putBits_high _ _ _ (by decide), ht]
  rw [ht'] at hop
  simp only [State.openAnswer, hcrc, hk, hb, ho', hg', ↓reduceIte, hop, ne_eq, not_true_eq_false]

/-- A cell that answers opens at its requester. -/
theorem openAnswer_cell (p : Packet) (hp : p = src.build key f) (hc : popClass f.pop = some (false, vc)) (hb : pktBulk p = false) (hn : SameNonce p f)
    (hk : s.keyOf e = some key) (hf : f.fgen = e.gen) (hw : f.owner = s.ownLc) :
    s.openAnswer e p = some (cellOpened f (src.tselOf f.target)) := by
  have hcrc : pktCrc p = pktSentCrc p := by rw [hp] at hb ⊢; exact build_cell_crc src key f vc hc hb
  have hop := build_cell_opens src key f vc hc (hp ▸ hb) (hp ▸ hn)
  rw [← hp, hf, hw] at hop
  simp [State.openAnswer, hcrc, hk, hb, hop]

/-- A sync cell of a valid management flow of its port opens. -/
theorem openSync_cell (q : Nat) (hq : x.port = some q) (hp : x.pkt = src.build key f) (hc : popClass f.pop = some (false, vc)) (hb : pktBulk x.pkt = false)
    (hn : SameNonce x.pkt f) (hk : s.keyOf e = some key) (hf : f.fgen = e.gen) (hw : f.owner = e.peer) (hl : pktFlow x.pkt = s.syncFlow q)
    (hv : e.valid = true) (hm : e.mgmt = true) : s.openSync x e = some (cellOpened f (src.tselOf f.target)) := by
  have hcrc : pktCrc x.pkt = pktSentCrc x.pkt := by rw [hp] at hb ⊢; exact build_cell_crc src key f vc hc hb
  have hop := build_cell_opens src key f vc hc (hp ▸ hb) (hp ▸ hn)
  rw [← hp, hf, hw] at hop
  simp [State.openSync, hq, hk, hcrc, hl, hv, hm, hop]

/-- A request that is new opens, and the checks have only counted it. -/
theorem checkReq_fresh (o : Opened) (h : (s.checkReq x e).1 = .fresh o) :
    s.openReq x.pkt e = some o ∧ (s.checkReq x e).2 = s.count (keyPage x.die) 5 (some e.ctx) := by
  unfold State.checkReq at h ⊢
  dsimp only at h ⊢
  split at h
  · cases h
  · split at h
    · cases h
    · rename_i h1 h2
      rw [if_neg h1, if_neg h2]
      cases hq : s.openReq x.pkt e with
      | none => rw [hq] at h; cases h
      | some o' =>
        rw [hq] at h
        dsimp only at h ⊢
        split at h
        · cases h
        · split at h
          · cases h
          · split at h
            · cases h
            · split at h
              · cases h
              · split at h
                · split at h
                  · cases h
                  · split at h <;> cases h
                · rename_i h3 h4 h5 h6 h7
                  cases h
                  rw [if_neg h3, if_neg h4, if_neg h5, if_neg h6, if_neg h7]
                  exact ⟨rfl, rfl⟩

end Sys2Proof.Machine
end

