-- ==== Sys2Proof/Laws/PerInstr.lean ====
section
/-! SUPPORT. What well-formedness says of the operands of each command, constructor by constructor (family Wf of LAWS.json). -/

namespace Sys2Proof.Laws.Wf

open Sys2Proof

/-- The register access of a command that is one. -/
def accessOf (i : Instr) : Option Access :=
  match i with
  | .runStart x _ => some x
  | .runHalt x _ => some x
  | .jobGo x _ _ => some x
  | .rtBase x _ _ => some x
  | .upeCommit x _ _ => some x
  | .upeRollback x _ _ => some x
  | .cLoad x _ _ _ => some x
  | .ptBase x _ _ => some x
  | .cleCommit x _ _ => some x
  | .cleRollback x _ _ => some x
  | .attemptWrite x _ _ _ => some x
  | .tlcInvalAll x _ => some x
  | .portRetrain x _ => some x
  | .portEnWrite x _ _ => some x
  | .fltInval x _ _ _ => some x
  | .resync x => some x
  | .replan x => some x
  | .ctBase x _ => some x
  | .setteeRetry x => some x
  | .quarantine x => some x
  | .pkgQuiesce x => some x
  | .pkgReady x => some x
  | .warmReset x => some x
  | .enableWrite x _ _ => some x
  | .quiesce x _ => some x
  | .blockReset x _ => some x
  | .cntClear x _ => some x
  | .errFirstClear x _ => some x
  | .errCountRead x _ => some x
  | .pMaxRead x => some x
  | .registerWrite x _ _ => some x
  | .xlatGo x _ _ _ _ => some x
  | .flush x _ => some x
  | .mscInvalAll x _ => some x
  | .halfOff x _ _ => some x
  | .switchRestore x _ _ => some x
  | .switchClear x _ _ => some x
  | .switchVacate x _ => some x
  | .reload x _ => some x
  | .erase x _ _ => some x
  | .aclReload x => some x
  | .hrtReload x => some x
  | .quadOn x _ => some x
  | .hbmOn x _ => some x
  | .mscOn x _ => some x
  | .tstRun x => some x
  | .tstAbort x => some x
  | .add _ | .sub _ | .mul _ | .and _ | .or _ | .xor _ | .shl _ | .shr _ | .sra _ | .min _ | .max _ | .minu _ | .maxu _ | .addi _ | .subi _
  | .muli _ | .andi _ | .ori _ | .xori _ | .shli _ | .shri _ | .srai _ | .mini _ | .maxi _ | .minui _ | .maxui _ | .nop _ | .movi _
  | .movhi _ | .ins _ | .ext _ | .cmp _ | .cmpi _ | .plog _ | .fcmp _ | .fcmpi _ | .br _ | .jr _ | .call _ | .loop _ | .halt _ | .ldc _
  | .stc _ | .controlReply _ | .uclr _ | .urd _ | .summaryResume _ | .tset _ | .twait _ | .twaitResume _ | .tsig _ | .trd _ | .tarm _
  | .tend _ | .tdis _ | .issue _ | .taskPick _ | .spillRefill _ _ | .stallWatchdog _ | .load _ _ | .ldeCopy _ _ | .gather _ _ | .mma _ _
  | .drain _ _ | .group _ _ | .run _ _ | .loadp _ _ | .rawacc _ _ | .store _ _ | .steCopy _ _ | .put _ _ | .get _ | .red _ _ | .mcast _ _
  | .send _ _ | .fence _ | .inval _ | .descriptorComplete _ _ _ | .accScrub _ _ | .idleScrub _ _ _ | .clear _ | .acc _ _ | .select _
  | .expand _ | .audit _ _ | .begin _ | .close _ | .ftsComplete _ | .route _ _ | .clrcnt _ | .routeComplete _ | .sbdJobStart _
  | .sbdJobComplete _ | .upeJobHead _ _ _ | .upeJobStart _ _ _ _ _ | .upeJobComplete _ _ | .cleStepStart _ _ _ _ | .xfer _ _ _ _
  | .xferChunk _ _ _ _ _ | .cleAdd _ _ _ | .addChunk _ _ _ _ _ _ | .perm _ _ _ _ | .fetch _ _ _ | .cleStepComplete _ _ _ _
  | .packetArrival _ _ | .creditReturn _ _ _ _ | .popPut | .popGet _ | .popData | .popRed _ | .combineDrain | .popSend | .popFlag | .popInval
  | .popAck | .popNack | .popColl | .popMirror | .popReady | .resendTimeout _ _ | .flowFill _ _ | .fabBudgetPeriod | .uncorrectableCodeword _
  | .replayRequest _ _ | .linkLossOfLock _ | .retrainTimer _ | .portTrainingDone _ _ _ | .fecWindow _ _ | .invalDone | .stepSyncEdge
  | .popSync | .roundBoundary _ | .replanTimer | .slackSample _ _ | .fatalReport | .bureauWatchdog | .voteSend _ | .mirrorCopy _ _ _
  | .heartbeatTimer | .heartbeatMiss | .heartbeat | .vote | .abort | .dlog | .decide | .rollbackQuiesceDone _ | .quiesced | .reset
  | .queryTimer _ | .query | .voteTimeout _ | .takeoverReq | .probe | .probeAck | .probeTimeout _ | .grant | .mgmtFence | .dying | .handover
  | .assign | .standbyCopyDone | .mgmtReady | .xlatDone | .flushDone _ | .halfEmpty _ _ | .thermSample _ _ | .patrolScrub _ _ | .switchDone _
  | .coarseRecord _ _ _ | .attSessionExpiry _ | .identify _ | .status _ | .regRead _ | .regWrite _ | .evtBind _ | .evtAck _ | .attReport _
  | .keyBlob _ | .imagePart _ | .imageCommit _ | .qpCreate _ | .qpDestroy _ | .mrReg _ | .mrDereg _ | .seqGapTimeout _ | .event _
  | .eventResend _ | .rdmaWrite _ _ _ _ _ | .rdmaRead _ _ _ _ _ | .rdmaSend _ _ _ | .readResponse _ _ _ | .writeAck _ _ | .rdmaNak _ _ _
  | .qpRetryTimeout _ | .cnp _ | .neighborSolicitation _ _ _ | .echoRequest _ _ _ _ | .domainSwitchDone _ | .powerCapTick _
  | .dieThermalSample _ _ | .railSample _ _ | .refclkLoss | .porstNAssert | .porstNRelease _ | .strapSample _ | .bringupStage _ | .packDone _
  | .freezeNAssert | .freezeNRelease | .extest | .idcode | .samplePreload | .lctAddr _ | .lctRead | .lctStatus | .bypass | .hostLinkDown _
  | .hostLinkUp _ | .unsupportedRdmaOpcode _ _ | .unknownOp _ | .powerRemoved | .trstNAssert => none

/-- The storage verdict that a command carries. -/
def eccOf (i : Instr) : Option Ecc :=
  match i with
  | .load _ x => some x
  | .ldeCopy _ x => some x
  | .gather _ x => some x
  | .mma _ x => some x
  | .drain _ x => some x
  | .group _ x => some x
  | .run _ x => some x
  | .loadp _ x => some x
  | .rawacc _ x => some x
  | .store _ x => some x
  | .steCopy _ x => some x
  | .put _ x => some x
  | .red _ x => some x
  | .mcast _ x => some x
  | .send _ x => some x
  | .accScrub _ x => some x
  | .idleScrub _ _ x => some x
  | .acc _ x => some x
  | .audit _ x => some x
  | .route _ x => some x
  | .sbdJobStart x => some x
  | .upeJobStart _ _ _ _ x => some x
  | .xfer _ _ _ x => some x
  | .xferChunk _ _ _ _ x => some x
  | .addChunk _ _ _ _ _ x => some x
  | .perm _ _ _ x => some x
  | .popGet x => some x
  | .popRed x => some x
  | .flowFill _ x => some x
  | .mirrorCopy _ _ x => some x
  | .patrolScrub _ x => some x
  | .switchDone x => some x
  | .add _ | .sub _ | .mul _ | .and _ | .or _ | .xor _ | .shl _ | .shr _ | .sra _ | .min _ | .max _ | .minu _ | .maxu _ | .addi _ | .subi _
  | .muli _ | .andi _ | .ori _ | .xori _ | .shli _ | .shri _ | .srai _ | .mini _ | .maxi _ | .minui _ | .maxui _ | .nop _ | .movi _
  | .movhi _ | .ins _ | .ext _ | .cmp _ | .cmpi _ | .plog _ | .fcmp _ | .fcmpi _ | .br _ | .jr _ | .call _ | .loop _ | .halt _ | .ldc _
  | .stc _ | .controlReply _ | .uclr _ | .urd _ | .summaryResume _ | .tset _ | .twait _ | .twaitResume _ | .tsig _ | .trd _ | .tarm _
  | .tend _ | .tdis _ | .issue _ | .taskPick _ | .spillRefill _ _ | .stallWatchdog _ | .runStart _ _ | .runHalt _ _ | .get _ | .fence _
  | .inval _ | .descriptorComplete _ _ _ | .clear _ | .select _ | .expand _ | .begin _ | .close _ | .ftsComplete _ | .clrcnt _
  | .routeComplete _ | .jobGo _ _ _ | .sbdJobComplete _ | .upeJobHead _ _ _ | .upeJobComplete _ _ | .rtBase _ _ _ | .upeCommit _ _ _
  | .upeRollback _ _ _ | .cLoad _ _ _ _ | .cleStepStart _ _ _ _ | .cleAdd _ _ _ | .fetch _ _ _ | .cleStepComplete _ _ _ _ | .ptBase _ _ _
  | .cleCommit _ _ _ | .cleRollback _ _ _ | .attemptWrite _ _ _ _ | .tlcInvalAll _ _ | .packetArrival _ _ | .creditReturn _ _ _ _ | .popPut
  | .popData | .combineDrain | .popSend | .popFlag | .popInval | .popAck | .popNack | .popColl | .popMirror | .popReady | .resendTimeout _ _
  | .fabBudgetPeriod | .uncorrectableCodeword _ | .replayRequest _ _ | .linkLossOfLock _ | .retrainTimer _ | .portTrainingDone _ _ _
  | .fecWindow _ _ | .portRetrain _ _ | .portEnWrite _ _ _ | .fltInval _ _ _ _ | .invalDone | .stepSyncEdge | .popSync | .roundBoundary _
  | .resync _ | .replanTimer | .replan _ | .slackSample _ _ | .fatalReport | .bureauWatchdog | .voteSend _ | .heartbeatTimer | .heartbeatMiss
  | .heartbeat | .vote | .abort | .dlog | .decide | .rollbackQuiesceDone _ | .quiesced | .reset | .queryTimer _ | .query | .voteTimeout _
  | .takeoverReq | .probe | .probeAck | .probeTimeout _ | .grant | .mgmtFence | .dying | .handover | .assign | .standbyCopyDone | .mgmtReady
  | .ctBase _ _ | .setteeRetry _ | .quarantine _ | .pkgQuiesce _ | .pkgReady _ | .warmReset _ | .enableWrite _ _ _ | .quiesce _ _
  | .blockReset _ _ | .cntClear _ _ | .errFirstClear _ _ | .errCountRead _ _ | .pMaxRead _ | .registerWrite _ _ _ | .xlatGo _ _ _ _ _
  | .xlatDone | .flush _ _ | .mscInvalAll _ _ | .flushDone _ | .halfOff _ _ _ | .halfEmpty _ _ | .thermSample _ _ | .switchRestore _ _ _
  | .switchClear _ _ _ | .switchVacate _ _ | .reload _ _ | .erase _ _ _ | .coarseRecord _ _ _ | .attSessionExpiry _ | .identify _ | .status _
  | .regRead _ | .regWrite _ | .evtBind _ | .evtAck _ | .attReport _ | .keyBlob _ | .imagePart _ | .imageCommit _ | .qpCreate _
  | .qpDestroy _ | .mrReg _ | .mrDereg _ | .seqGapTimeout _ | .event _ | .eventResend _ | .aclReload _ | .hrtReload _ | .rdmaWrite _ _ _ _ _
  | .rdmaRead _ _ _ _ _ | .rdmaSend _ _ _ | .readResponse _ _ _ | .writeAck _ _ | .rdmaNak _ _ _ | .qpRetryTimeout _ | .cnp _
  | .neighborSolicitation _ _ _ | .echoRequest _ _ _ _ | .quadOn _ _ | .hbmOn _ _ | .mscOn _ _ | .domainSwitchDone _ | .powerCapTick _
  | .dieThermalSample _ _ | .railSample _ _ | .refclkLoss | .porstNAssert | .porstNRelease _ | .strapSample _ | .bringupStage _ | .packDone _
  | .tstRun _ | .tstAbort _ | .freezeNAssert | .freezeNRelease | .extest | .idcode | .samplePreload | .lctAddr _ | .lctRead | .lctStatus
  | .bypass | .hostLinkDown _ | .hostLinkUp _ | .unsupportedRdmaOpcode _ _ | .unknownOp _ | .powerRemoved | .trstNAssert => none

/-- The host message that a command carries. -/
def messageOf (i : Instr) : Option Umlon :=
  match i with
  | .identify x => some x
  | .status x => some x
  | .regRead x => some x
  | .regWrite x => some x
  | .evtBind x => some x
  | .evtAck x => some x
  | .attReport x => some x
  | .keyBlob x => some x
  | .imagePart x => some x
  | .imageCommit x => some x
  | .qpCreate x => some x
  | .qpDestroy x => some x
  | .mrReg x => some x
  | .mrDereg x => some x
  | .unknownOp x => some x
  | .add _ | .sub _ | .mul _ | .and _ | .or _ | .xor _ | .shl _ | .shr _ | .sra _ | .min _ | .max _ | .minu _ | .maxu _ | .addi _ | .subi _
  | .muli _ | .andi _ | .ori _ | .xori _ | .shli _ | .shri _ | .srai _ | .mini _ | .maxi _ | .minui _ | .maxui _ | .nop _ | .movi _
  | .movhi _ | .ins _ | .ext _ | .cmp _ | .cmpi _ | .plog _ | .fcmp _ | .fcmpi _ | .br _ | .jr _ | .call _ | .loop _ | .halt _ | .ldc _
  | .stc _ | .controlReply _ | .uclr _ | .urd _ | .summaryResume _ | .tset _ | .twait _ | .twaitResume _ | .tsig _ | .trd _ | .tarm _
  | .tend _ | .tdis _ | .issue _ | .taskPick _ | .spillRefill _ _ | .stallWatchdog _ | .runStart _ _ | .runHalt _ _ | .load _ _
  | .ldeCopy _ _ | .gather _ _ | .mma _ _ | .drain _ _ | .group _ _ | .run _ _ | .loadp _ _ | .rawacc _ _ | .store _ _ | .steCopy _ _
  | .put _ _ | .get _ | .red _ _ | .mcast _ _ | .send _ _ | .fence _ | .inval _ | .descriptorComplete _ _ _ | .accScrub _ _
  | .idleScrub _ _ _ | .clear _ | .acc _ _ | .select _ | .expand _ | .audit _ _ | .begin _ | .close _ | .ftsComplete _ | .route _ _
  | .clrcnt _ | .routeComplete _ | .jobGo _ _ _ | .sbdJobStart _ | .sbdJobComplete _ | .upeJobHead _ _ _ | .upeJobStart _ _ _ _ _
  | .upeJobComplete _ _ | .rtBase _ _ _ | .upeCommit _ _ _ | .upeRollback _ _ _ | .cLoad _ _ _ _ | .cleStepStart _ _ _ _ | .xfer _ _ _ _
  | .xferChunk _ _ _ _ _ | .cleAdd _ _ _ | .addChunk _ _ _ _ _ _ | .perm _ _ _ _ | .fetch _ _ _ | .cleStepComplete _ _ _ _ | .ptBase _ _ _
  | .cleCommit _ _ _ | .cleRollback _ _ _ | .attemptWrite _ _ _ _ | .tlcInvalAll _ _ | .packetArrival _ _ | .creditReturn _ _ _ _ | .popPut
  | .popGet _ | .popData | .popRed _ | .combineDrain | .popSend | .popFlag | .popInval | .popAck | .popNack | .popColl | .popMirror
  | .popReady | .resendTimeout _ _ | .flowFill _ _ | .fabBudgetPeriod | .uncorrectableCodeword _ | .replayRequest _ _ | .linkLossOfLock _
  | .retrainTimer _ | .portTrainingDone _ _ _ | .fecWindow _ _ | .portRetrain _ _ | .portEnWrite _ _ _ | .fltInval _ _ _ _ | .invalDone
  | .stepSyncEdge | .popSync | .roundBoundary _ | .resync _ | .replanTimer | .replan _ | .slackSample _ _ | .fatalReport | .bureauWatchdog
  | .voteSend _ | .mirrorCopy _ _ _ | .heartbeatTimer | .heartbeatMiss | .heartbeat | .vote | .abort | .dlog | .decide
  | .rollbackQuiesceDone _ | .quiesced | .reset | .queryTimer _ | .query | .voteTimeout _ | .takeoverReq | .probe | .probeAck
  | .probeTimeout _ | .grant | .mgmtFence | .dying | .handover | .assign | .standbyCopyDone | .mgmtReady | .ctBase _ _ | .setteeRetry _
  | .quarantine _ | .pkgQuiesce _ | .pkgReady _ | .warmReset _ | .enableWrite _ _ _ | .quiesce _ _ | .blockReset _ _ | .cntClear _ _
  | .errFirstClear _ _ | .errCountRead _ _ | .pMaxRead _ | .registerWrite _ _ _ | .xlatGo _ _ _ _ _ | .xlatDone | .flush _ _
  | .mscInvalAll _ _ | .flushDone _ | .halfOff _ _ _ | .halfEmpty _ _ | .thermSample _ _ | .patrolScrub _ _ | .switchRestore _ _ _
  | .switchClear _ _ _ | .switchVacate _ _ | .switchDone _ | .reload _ _ | .erase _ _ _ | .coarseRecord _ _ _ | .attSessionExpiry _
  | .seqGapTimeout _ | .event _ | .eventResend _ | .aclReload _ | .hrtReload _ | .rdmaWrite _ _ _ _ _ | .rdmaRead _ _ _ _ _ | .rdmaSend _ _ _
  | .readResponse _ _ _ | .writeAck _ _ | .rdmaNak _ _ _ | .qpRetryTimeout _ | .cnp _ | .neighborSolicitation _ _ _ | .echoRequest _ _ _ _
  | .quadOn _ _ | .hbmOn _ _ | .mscOn _ _ | .domainSwitchDone _ | .powerCapTick _ | .dieThermalSample _ _ | .railSample _ _ | .refclkLoss
  | .porstNAssert | .porstNRelease _ | .strapSample _ | .bringupStage _ | .packDone _ | .tstRun _ | .tstAbort _ | .freezeNAssert
  | .freezeNRelease | .extest | .idcode | .samplePreload | .lctAddr _ | .lctRead | .lctStatus | .bypass | .hostLinkDown _ | .hostLinkUp _
  | .unsupportedRdmaOpcode _ _ | .powerRemoved | .trstNAssert => none

/-- The operands of a well-formed command: an access by the Bureau names no role, a storage location lies in the package's address space and a
message fits a frame. -/
def Statement (i : Instr) : Prop :=
  i.wellFormed = true →
    (∀ a, accessOf i = some a → a.source = .bureau → a.role = none) ∧
    (∀ e, eccOf i = some e → e.wellFormed = true) ∧
    (∀ m, messageOf i = some m → m.data.length ≤ 9168)

theorem access_role (a : Access) (h : a.wellFormed = true) (hs : a.source = .bureau) : a.role = none := by
  simpa [Access.wellFormed, hs] using h

theorem message_length (m : Umlon) (h : m.wellFormed = true) : m.data.length ≤ 9168 := by simpa [Umlon.wellFormed] using h

theorem add (t : Fin 192) : Statement (.add t) :=
  fun _ => ⟨nofun, nofun, nofun⟩

theorem sub (t : Fin 192) : Statement (.sub t) :=
  fun _ => ⟨nofun, nofun, nofun⟩

theorem mul (t : Fin 192) : Statement (.mul t) :=
  fun _ => ⟨nofun, nofun, nofun⟩

theorem and (t : Fin 192) : Statement (.and t) :=
  fun _ => ⟨nofun, nofun, nofun⟩

theorem or (t : Fin 192) : Statement (.or t) :=
  fun _ => ⟨nofun, nofun, nofun⟩

theorem xor (t : Fin 192) : Statement (.xor t) :=
  fun _ => ⟨nofun, nofun, nofun⟩

theorem shl (t : Fin 192) : Statement (.shl t) :=
  fun _ => ⟨nofun, nofun, nofun⟩

theorem shr (t : Fin 192) : Statement (.shr t) :=
  fun _ => ⟨nofun, nofun, nofun⟩

theorem sra (t : Fin 192) : Statement (.sra t) :=
  fun _ => ⟨nofun, nofun, nofun⟩

theorem min (t : Fin 192) : Statement (.min t) :=
  fun _ => ⟨nofun, nofun, nofun⟩

theorem max (t : Fin 192) : Statement (.max t) :=
  fun _ => ⟨nofun, nofun, nofun⟩

theorem minu (t : Fin 192) : Statement (.minu t) :=
  fun _ => ⟨nofun, nofun, nofun⟩

theorem maxu (t : Fin 192) : Statement (.maxu t) :=
  fun _ => ⟨nofun, nofun, nofun⟩

theorem addi (t : Fin 192) : Statement (.addi t) :=
  fun _ => ⟨nofun, nofun, nofun⟩

theorem subi (t : Fin 192) : Statement (.subi t) :=
  fun _ => ⟨nofun, nofun, nofun⟩

theorem muli (t : Fin 192) : Statement (.muli t) :=
  fun _ => ⟨nofun, nofun, nofun⟩

theorem andi (t : Fin 192) : Statement (.andi t) :=
  fun _ => ⟨nofun, nofun, nofun⟩

theorem ori (t : Fin 192) : Statement (.ori t) :=
  fun _ => ⟨nofun, nofun, nofun⟩

theorem xori (t : Fin 192) : Statement (.xori t) :=
  fun _ => ⟨nofun, nofun, nofun⟩

theorem shli (t : Fin 192) : Statement (.shli t) :=
  fun _ => ⟨nofun, nofun, nofun⟩

theorem shri (t : Fin 192) : Statement (.shri t) :=
  fun _ => ⟨nofun, nofun, nofun⟩

theorem srai (t : Fin 192) : Statement (.srai t) :=
  fun _ => ⟨nofun, nofun, nofun⟩

theorem mini (t : Fin 192) : Statement (.mini t) :=
  fun _ => ⟨nofun, nofun, nofun⟩

theorem maxi (t : Fin 192) : Statement (.maxi t) :=
  fun _ => ⟨nofun, nofun, nofun⟩

theorem minui (t : Fin 192) : Statement (.minui t) :=
  fun _ => ⟨nofun, nofun, nofun⟩

theorem maxui (t : Fin 192) : Statement (.maxui t) :=
  fun _ => ⟨nofun, nofun, nofun⟩

theorem nop (t : Fin 192) : Statement (.nop t) :=
  fun _ => ⟨nofun, nofun, nofun⟩

theorem movi (t : Fin 192) : Statement (.movi t) :=
  fun _ => ⟨nofun, nofun, nofun⟩

theorem movhi (t : Fin 192) : Statement (.movhi t) :=
  fun _ => ⟨nofun, nofun, nofun⟩

theorem ins (t : Fin 192) : Statement (.ins t) :=
  fun _ => ⟨nofun, nofun, nofun⟩

theorem ext (t : Fin 192) : Statement (.ext t) :=
  fun _ => ⟨nofun, nofun, nofun⟩

theorem cmp (t : Fin 192) : Statement (.cmp t) :=
  fun _ => ⟨nofun, nofun, nofun⟩

theorem cmpi (t : Fin 192) : Statement (.cmpi t) :=
  fun _ => ⟨nofun, nofun, nofun⟩

theorem plog (t : Fin 192) : Statement (.plog t) :=
  fun _ => ⟨nofun, nofun, nofun⟩

theorem fcmp (t : Fin 192) : Statement (.fcmp t) :=
  fun _ => ⟨nofun, nofun, nofun⟩

theorem fcmpi (t : Fin 192) : Statement (.fcmpi t) :=
  fun _ => ⟨nofun, nofun, nofun⟩

theorem br (t : Fin 192) : Statement (.br t) :=
  fun _ => ⟨nofun, nofun, nofun⟩

theorem jr (t : Fin 192) : Statement (.jr t) :=
  fun _ => ⟨nofun, nofun, nofun⟩

theorem call (t : Fin 192) : Statement (.call t) :=
  fun _ => ⟨nofun, nofun, nofun⟩

theorem loop (t : Fin 192) : Statement (.loop t) :=
  fun _ => ⟨nofun, nofun, nofun⟩

theorem halt (t : Fin 192) : Statement (.halt t) :=
  fun _ => ⟨nofun, nofun, nofun⟩

theorem ldc (t : Fin 192) : Statement (.ldc t) :=
  fun _ => ⟨nofun, nofun, nofun⟩

theorem stc (t : Fin 192) : Statement (.stc t) :=
  fun _ => ⟨nofun, nofun, nofun⟩

theorem controlReply (t : Fin 192) : Statement (.controlReply t) :=
  fun _ => ⟨nofun, nofun, nofun⟩

theorem uclr (t : Fin 192) : Statement (.uclr t) :=
  fun _ => ⟨nofun, nofun, nofun⟩

theorem urd (t : Fin 192) : Statement (.urd t) :=
  fun _ => ⟨nofun, nofun, nofun⟩

theorem summaryResume (t : Fin 192) : Statement (.summaryResume t) :=
  fun _ => ⟨nofun, nofun, nofun⟩

theorem tset (t : Fin 192) : Statement (.tset t) :=
  fun _ => ⟨nofun, nofun, nofun⟩

theorem twait (t : Fin 192) : Statement (.twait t) :=
  fun _ => ⟨nofun, nofun, nofun⟩

theorem twaitResume (t : Fin 192) : Statement (.twaitResume t) :=
  fun _ => ⟨nofun, nofun, nofun⟩

theorem tsig (t : Fin 192) : Statement (.tsig t) :=
  fun _ => ⟨nofun, nofun, nofun⟩

theorem trd (t : Fin 192) : Statement (.trd t) :=
  fun _ => ⟨nofun, nofun, nofun⟩

theorem tarm (t : Fin 192) : Statement (.tarm t) :=
  fun _ => ⟨nofun, nofun, nofun⟩

theorem tend (t : Fin 192) : Statement (.tend t) :=
  fun _ => ⟨nofun, nofun, nofun⟩

theorem tdis (t : Fin 192) : Statement (.tdis t) :=
  fun _ => ⟨nofun, nofun, nofun⟩

theorem issue (t : Fin 192) : Statement (.issue t) :=
  fun _ => ⟨nofun, nofun, nofun⟩

theorem taskPick (t : Fin 192) : Statement (.taskPick t) :=
  fun _ => ⟨nofun, nofun, nofun⟩

theorem spillRefill (t : Fin 192) (e : Eng) : Statement (.spillRefill t e) :=
  fun _ => ⟨nofun, nofun, nofun⟩

theorem stallWatchdog (t : Fin 192) : Statement (.stallWatchdog t) :=
  fun _ => ⟨nofun, nofun, nofun⟩

theorem runStart (a : Access) (t : Fin 192) : Statement (.runStart a t) :=
  fun h => ⟨fun x hx => by cases hx; exact access_role _ h, nofun, nofun⟩

theorem runHalt (a : Access) (t : Fin 192) : Statement (.runHalt a t) :=
  fun h => ⟨fun x hx => by cases hx; exact access_role _ h, nofun, nofun⟩

theorem load (t : Fin 192) (ecc : Ecc) : Statement (.load t ecc) :=
  fun h => ⟨nofun, fun x hx => by cases hx; exact h, nofun⟩

theorem ldeCopy (t : Fin 192) (ecc : Ecc) : Statement (.ldeCopy t ecc) :=
  fun h => ⟨nofun, fun x hx => by cases hx; exact h, nofun⟩

theorem gather (t : Fin 192) (ecc : Ecc) : Statement (.gather t ecc) :=
  fun h => ⟨nofun, fun x hx => by cases hx; exact h, nofun⟩

theorem mma (t : Fin 192) (ecc : Ecc) : Statement (.mma t ecc) :=
  fun h => ⟨nofun, fun x hx => by cases hx; exact h, nofun⟩

theorem drain (t : Fin 192) (ecc : Ecc) : Statement (.drain t ecc) :=
  fun h => ⟨nofun, fun x hx => by cases hx; exact h, nofun⟩

theorem group (t : Fin 192) (ecc : Ecc) : Statement (.group t ecc) :=
  fun h => ⟨nofun, fun x hx => by cases hx; exact h, nofun⟩

theorem run (t : Fin 192) (ecc : Ecc) : Statement (.run t ecc) :=
  fun h => ⟨nofun, fun x hx => by cases hx; exact h, nofun⟩

theorem loadp (t : Fin 192) (ecc : Ecc) : Statement (.loadp t ecc) :=
  fun h => ⟨nofun, fun x hx => by cases hx; exact h, nofun⟩

theorem rawacc (t : Fin 192) (ecc : Ecc) : Statement (.rawacc t ecc) :=
  fun h => ⟨nofun, fun x hx => by cases hx; exact h, nofun⟩

theorem store (t : Fin 192) (ecc : Ecc) : Statement (.store t ecc) :=
  fun h => ⟨nofun, fun x hx => by cases hx; exact h, nofun⟩

theorem steCopy (t : Fin 192) (ecc : Ecc) : Statement (.steCopy t ecc) :=
  fun h => ⟨nofun, fun x hx => by cases hx; exact h, nofun⟩

theorem put (t : Fin 192) (ecc : Ecc) : Statement (.put t ecc) :=
  fun h => ⟨nofun, fun x hx => by cases hx; exact h, nofun⟩

theorem get (t : Fin 192) : Statement (.get t) :=
  fun _ => ⟨nofun, nofun, nofun⟩

theorem red (t : Fin 192) (ecc : Ecc) : Statement (.red t ecc) :=
  fun h => ⟨nofun, fun x hx => by cases hx; exact h, nofun⟩

theorem mcast (t : Fin 192) (ecc : Ecc) : Statement (.mcast t ecc) :=
  fun h => ⟨nofun, fun x hx => by cases hx; exact h, nofun⟩

theorem send (t : Fin 192) (ecc : Ecc) : Statement (.send t ecc) :=
  fun h => ⟨nofun, fun x hx => by cases hx; exact h, nofun⟩

theorem fence (t : Fin 192) : Statement (.fence t) :=
  fun _ => ⟨nofun, nofun, nofun⟩

theorem inval (t : Fin 192) : Statement (.inval t) :=
  fun _ => ⟨nofun, nofun, nofun⟩

theorem descriptorComplete (t : Fin 192) (e : Eng) (heldNs : Nat) : Statement (.descriptorComplete t e heldNs) :=
  fun _ => ⟨nofun, nofun, nofun⟩

theorem accScrub (t : Fin 192) (ecc : Ecc) : Statement (.accScrub t ecc) :=
  fun h => ⟨nofun, fun x hx => by cases hx; exact h, nofun⟩

theorem idleScrub (t : Fin 192) (rf : Bool) (ecc : Ecc) : Statement (.idleScrub t rf ecc) :=
  fun h => ⟨nofun, fun x hx => by cases hx; exact h, nofun⟩

theorem clear (t : Fin 192) : Statement (.clear t) :=
  fun _ => ⟨nofun, nofun, nofun⟩

theorem acc (t : Fin 192) (ecc : Ecc) : Statement (.acc t ecc) :=
  fun h => ⟨nofun, fun x hx => by cases hx; exact h, nofun⟩

theorem select (t : Fin 192) : Statement (.select t) :=
  fun _ => ⟨nofun, nofun, nofun⟩

theorem expand (t : Fin 192) : Statement (.expand t) :=
  fun _ => ⟨nofun, nofun, nofun⟩

theorem audit (t : Fin 192) (ecc : Ecc) : Statement (.audit t ecc) :=
  fun h => ⟨nofun, fun x hx => by cases hx; exact h, nofun⟩

theorem begin (t : Fin 192) : Statement (.begin t) :=
  fun _ => ⟨nofun, nofun, nofun⟩

theorem close (t : Fin 192) : Statement (.close t) :=
  fun _ => ⟨nofun, nofun, nofun⟩

theorem ftsComplete (t : Fin 192) : Statement (.ftsComplete t) :=
  fun _ => ⟨nofun, nofun, nofun⟩

theorem route (t : Fin 192) (ecc : Ecc) : Statement (.route t ecc) :=
  fun h => ⟨nofun, fun x hx => by cases hx; exact h, nofun⟩

theorem clrcnt (t : Fin 192) : Statement (.clrcnt t) :=
  fun _ => ⟨nofun, nofun, nofun⟩

theorem routeComplete (t : Fin 192) : Statement (.routeComplete t) :=
  fun _ => ⟨nofun, nofun, nofun⟩

theorem jobGo (a : Access) (addr : Word) (ctx : Fin 256) : Statement (.jobGo a addr ctx) :=
  fun h => ⟨fun x hx => by cases hx; exact access_role _ h, nofun, nofun⟩

theorem sbdJobStart (ecc : Ecc) : Statement (.sbdJobStart ecc) :=
  fun h => ⟨nofun, fun x hx => by cases hx; exact h, nofun⟩

theorem sbdJobComplete (busyNs : Nat) : Statement (.sbdJobComplete busyNs) :=
  fun _ => ⟨nofun, nofun, nofun⟩

theorem upeJobHead (stack : Fin 4) (ctx : Fin 256) (ring : Fin 8) : Statement (.upeJobHead stack ctx ring) :=
  fun _ => ⟨nofun, nofun, nofun⟩

theorem upeJobStart (stack : Fin 4) (ctx : Fin 256) (ring : Fin 8) (heldNs : Nat) (ecc : Ecc) : Statement (.upeJobStart stack ctx ring heldNs ecc) :=
  fun h => ⟨nofun, fun x hx => by cases hx; exact h, nofun⟩

theorem upeJobComplete (stack : Fin 4) (busyNs : Nat) : Statement (.upeJobComplete stack busyNs) :=
  fun _ => ⟨nofun, nofun, nofun⟩

theorem rtBase (a : Access) (stack : Fin 4) (base : BitVec 52) : Statement (.rtBase a stack base) :=
  fun h => ⟨fun x hx => by cases hx; exact access_role _ h, nofun, nofun⟩

theorem upeCommit (a : Access) (stack : Fin 4) (ctx : Fin 256) : Statement (.upeCommit a stack ctx) :=
  fun h => ⟨fun x hx => by cases hx; exact access_role _ h, nofun, nofun⟩

theorem upeRollback (a : Access) (stack : Fin 4) (ctx : Fin 256) : Statement (.upeRollback a stack ctx) :=
  fun h => ⟨fun x hx => by cases hx; exact access_role _ h, nofun, nofun⟩

theorem cLoad (a : Access) (stack : Fin 4) (ctx : Fin 256) (c : Word) : Statement (.cLoad a stack ctx c) :=
  fun h => ⟨fun x hx => by cases hx; exact access_role _ h, nofun, nofun⟩

theorem cleStepStart (stack : Fin 4) (ctx : Fin 256) (q : Fin 8) (heldNs : Nat) : Statement (.cleStepStart stack ctx q heldNs) :=
  fun _ => ⟨nofun, nofun, nofun⟩

theorem xfer (stack : Fin 4) (ctx : Fin 256) (q : Fin 8) (ecc : Ecc) : Statement (.xfer stack ctx q ecc) :=
  fun h => ⟨nofun, fun x hx => by cases hx; exact h, nofun⟩

theorem xferChunk (stack : Fin 4) (ctx : Fin 256) (q : Fin 8) (chunk : Nat) (ecc : Ecc) : Statement (.xferChunk stack ctx q chunk ecc) :=
  fun h => ⟨nofun, fun x hx => by cases hx; exact h, nofun⟩

theorem cleAdd (stack : Fin 4) (ctx : Fin 256) (q : Fin 8) : Statement (.cleAdd stack ctx q) :=
  fun _ => ⟨nofun, nofun, nofun⟩

theorem addChunk (stack : Fin 4) (ctx : Fin 256) (q : Fin 8) (chunk : Nat) (addersAgree : Bool) (ecc : Ecc) : Statement (.addChunk stack ctx q chunk addersAgree ecc) :=
  fun h => ⟨nofun, fun x hx => by cases hx; exact h, nofun⟩

theorem perm (stack : Fin 4) (ctx : Fin 256) (q : Fin 8) (ecc : Ecc) : Statement (.perm stack ctx q ecc) :=
  fun h => ⟨nofun, fun x hx => by cases hx; exact h, nofun⟩

theorem fetch (stack : Fin 4) (ctx : Fin 256) (q : Fin 8) : Statement (.fetch stack ctx q) :=
  fun _ => ⟨nofun, nofun, nofun⟩

theorem cleStepComplete (stack : Fin 4) (ctx : Fin 256) (q : Fin 8) (busyNs : Nat) : Statement (.cleStepComplete stack ctx q busyNs) :=
  fun _ => ⟨nofun, nofun, nofun⟩

theorem ptBase (a : Access) (stack : Fin 4) (base : BitVec 52) : Statement (.ptBase a stack base) :=
  fun h => ⟨fun x hx => by cases hx; exact access_role _ h, nofun, nofun⟩

theorem cleCommit (a : Access) (stack : Fin 4) (ctx : Fin 256) : Statement (.cleCommit a stack ctx) :=
  fun h => ⟨fun x hx => by cases hx; exact access_role _ h, nofun, nofun⟩

theorem cleRollback (a : Access) (stack : Fin 4) (ctx : Fin 256) : Statement (.cleRollback a stack ctx) :=
  fun h => ⟨fun x hx => by cases hx; exact access_role _ h, nofun, nofun⟩

theorem attemptWrite (a : Access) (stack : Fin 4) (ctx : Fin 256) (v : Byte) : Statement (.attemptWrite a stack ctx v) :=
  fun h => ⟨fun x hx => by cases hx; exact access_role _ h, nofun, nofun⟩

theorem tlcInvalAll (a : Access) (stack : Fin 4) : Statement (.tlcInvalAll a stack) :=
  fun h => ⟨fun x hx => by cases hx; exact access_role _ h, nofun, nofun⟩

theorem packetArrival (port : Fin 6) (p : Packet) : Statement (.packetArrival port p) :=
  fun _ => ⟨nofun, nofun, nofun⟩

theorem creditReturn (port : Fin 6) (vc : Fin 4) (cls : Fin 3) (n : Nat) : Statement (.creditReturn port vc cls n) :=
  fun _ => ⟨nofun, nofun, nofun⟩

theorem popPut : Statement (.popPut) :=
  fun _ => ⟨nofun, nofun, nofun⟩

theorem popGet (ecc : Ecc) : Statement (.popGet ecc) :=
  fun h => ⟨nofun, fun x hx => by cases hx; exact h, nofun⟩

theorem popData : Statement (.popData) :=
  fun _ => ⟨nofun, nofun, nofun⟩

theorem popRed (ecc : Ecc) : Statement (.popRed ecc) :=
  fun h => ⟨nofun, fun x hx => by cases hx; exact h, nofun⟩

theorem combineDrain : Statement (.combineDrain) :=
  fun _ => ⟨nofun, nofun, nofun⟩

theorem popSend : Statement (.popSend) :=
  fun _ => ⟨nofun, nofun, nofun⟩

theorem popFlag : Statement (.popFlag) :=
  fun _ => ⟨nofun, nofun, nofun⟩

theorem popInval : Statement (.popInval) :=
  fun _ => ⟨nofun, nofun, nofun⟩

theorem popAck : Statement (.popAck) :=
  fun _ => ⟨nofun, nofun, nofun⟩

theorem popNack : Statement (.popNack) :=
  fun _ => ⟨nofun, nofun, nofun⟩

theorem popColl : Statement (.popColl) :=
  fun _ => ⟨nofun, nofun, nofun⟩

theorem popMirror : Statement (.popMirror) :=
  fun _ => ⟨nofun, nofun, nofun⟩

theorem popReady : Statement (.popReady) :=
  fun _ => ⟨nofun, nofun, nofun⟩

theorem resendTimeout (flow : BitVec 20) (seq : BitVec 32) : Statement (.resendTimeout flow seq) :=
  fun _ => ⟨nofun, nofun, nofun⟩

theorem flowFill (flow : BitVec 20) (ecc : Ecc) : Statement (.flowFill flow ecc) :=
  fun h => ⟨nofun, fun x hx => by cases hx; exact h, nofun⟩

theorem fabBudgetPeriod : Statement (.fabBudgetPeriod) :=
  fun _ => ⟨nofun, nofun, nofun⟩

theorem uncorrectableCodeword (port : Fin 6) : Statement (.uncorrectableCodeword port) :=
  fun _ => ⟨nofun, nofun, nofun⟩

theorem replayRequest (port : Fin 6) (ok : Bool) : Statement (.replayRequest port ok) :=
  fun _ => ⟨nofun, nofun, nofun⟩

theorem linkLossOfLock (port : Fin 6) : Statement (.linkLossOfLock port) :=
  fun _ => ⟨nofun, nofun, nofun⟩

theorem retrainTimer (port : Fin 6) : Statement (.retrainTimer port) :=
  fun _ => ⟨nofun, nofun, nofun⟩

theorem portTrainingDone (port : Fin 6) (lanes : Nat) (rtt : BitVec 16) : Statement (.portTrainingDone port lanes rtt) :=
  fun _ => ⟨nofun, nofun, nofun⟩

theorem fecWindow (port : Fin 6) (symbols : Nat) : Statement (.fecWindow port symbols) :=
  fun _ => ⟨nofun, nofun, nofun⟩

theorem portRetrain (a : Access) (port : Fin 6) : Statement (.portRetrain a port) :=
  fun h => ⟨fun x hx => by cases hx; exact access_role _ h, nofun, nofun⟩

theorem portEnWrite (a : Access) (port : Fin 6) (en : Bool) : Statement (.portEnWrite a port en) :=
  fun h => ⟨fun x hx => by cases hx; exact access_role _ h, nofun, nofun⟩

theorem fltInval (a : Access) (flow : BitVec 20) (ctx : Fin 256) (byCtx : Bool) : Statement (.fltInval a flow ctx byCtx) :=
  fun h => ⟨fun x hx => by cases hx; exact access_role _ h, nofun, nofun⟩

theorem invalDone : Statement (.invalDone) :=
  fun _ => ⟨nofun, nofun, nofun⟩

theorem stepSyncEdge : Statement (.stepSyncEdge) :=
  fun _ => ⟨nofun, nofun, nofun⟩

theorem popSync : Statement (.popSync) :=
  fun _ => ⟨nofun, nofun, nofun⟩

theorem roundBoundary (slacks : List Int) : Statement (.roundBoundary slacks) :=
  fun _ => ⟨nofun, nofun, nofun⟩

theorem resync (a : Access) : Statement (.resync a) :=
  fun h => ⟨fun x hx => by cases hx; exact access_role _ h, nofun, nofun⟩

theorem replanTimer : Statement (.replanTimer) :=
  fun _ => ⟨nofun, nofun, nofun⟩

theorem replan (a : Access) : Statement (.replan a) :=
  fun h => ⟨fun x hx => by cases hx; exact access_role _ h, nofun, nofun⟩

theorem slackSample (t : Fin 192) (ps : Int) : Statement (.slackSample t ps) :=
  fun _ => ⟨nofun, nofun, nofun⟩

theorem fatalReport : Statement (.fatalReport) :=
  fun _ => ⟨nofun, nofun, nofun⟩

theorem bureauWatchdog : Statement (.bureauWatchdog) :=
  fun _ => ⟨nofun, nofun, nofun⟩

theorem voteSend (ctx : Fin 256) : Statement (.voteSend ctx) :=
  fun _ => ⟨nofun, nofun, nofun⟩

theorem mirrorCopy (ctx : Fin 256) (entry : Nat) (ecc : Ecc) : Statement (.mirrorCopy ctx entry ecc) :=
  fun h => ⟨nofun, fun x hx => by cases hx; exact h, nofun⟩

theorem heartbeatTimer : Statement (.heartbeatTimer) :=
  fun _ => ⟨nofun, nofun, nofun⟩

theorem heartbeatMiss : Statement (.heartbeatMiss) :=
  fun _ => ⟨nofun, nofun, nofun⟩

theorem heartbeat : Statement (.heartbeat) :=
  fun _ => ⟨nofun, nofun, nofun⟩

theorem vote : Statement (.vote) :=
  fun _ => ⟨nofun, nofun, nofun⟩

theorem abort : Statement (.abort) :=
  fun _ => ⟨nofun, nofun, nofun⟩

theorem dlog : Statement (.dlog) :=
  fun _ => ⟨nofun, nofun, nofun⟩

theorem decide : Statement (.decide) :=
  fun _ => ⟨nofun, nofun, nofun⟩

theorem rollbackQuiesceDone (ctx : Fin 256) : Statement (.rollbackQuiesceDone ctx) :=
  fun _ => ⟨nofun, nofun, nofun⟩

theorem quiesced : Statement (.quiesced) :=
  fun _ => ⟨nofun, nofun, nofun⟩

theorem reset : Statement (.reset) :=
  fun _ => ⟨nofun, nofun, nofun⟩

theorem queryTimer (ctx : Fin 256) : Statement (.queryTimer ctx) :=
  fun _ => ⟨nofun, nofun, nofun⟩

theorem query : Statement (.query) :=
  fun _ => ⟨nofun, nofun, nofun⟩

theorem voteTimeout (ctx : Fin 256) : Statement (.voteTimeout ctx) :=
  fun _ => ⟨nofun, nofun, nofun⟩

theorem takeoverReq : Statement (.takeoverReq) :=
  fun _ => ⟨nofun, nofun, nofun⟩

theorem probe : Statement (.probe) :=
  fun _ => ⟨nofun, nofun, nofun⟩

theorem probeAck : Statement (.probeAck) :=
  fun _ => ⟨nofun, nofun, nofun⟩

theorem probeTimeout (ctx : Fin 256) : Statement (.probeTimeout ctx) :=
  fun _ => ⟨nofun, nofun, nofun⟩

theorem grant : Statement (.grant) :=
  fun _ => ⟨nofun, nofun, nofun⟩

theorem mgmtFence : Statement (.mgmtFence) :=
  fun _ => ⟨nofun, nofun, nofun⟩

theorem dying : Statement (.dying) :=
  fun _ => ⟨nofun, nofun, nofun⟩

theorem handover : Statement (.handover) :=
  fun _ => ⟨nofun, nofun, nofun⟩

theorem assign : Statement (.assign) :=
  fun _ => ⟨nofun, nofun, nofun⟩

theorem standbyCopyDone : Statement (.standbyCopyDone) :=
  fun _ => ⟨nofun, nofun, nofun⟩

theorem mgmtReady : Statement (.mgmtReady) :=
  fun _ => ⟨nofun, nofun, nofun⟩

theorem ctBase (a : Access) (base : BitVec 52) : Statement (.ctBase a base) :=
  fun h => ⟨fun x hx => by cases hx; exact access_role _ h, nofun, nofun⟩

theorem setteeRetry (a : Access) : Statement (.setteeRetry a) :=
  fun h => ⟨fun x hx => by cases hx; exact access_role _ h, nofun, nofun⟩

theorem quarantine (a : Access) : Statement (.quarantine a) :=
  fun h => ⟨fun x hx => by cases hx; exact access_role _ h, nofun, nofun⟩

theorem pkgQuiesce (a : Access) : Statement (.pkgQuiesce a) :=
  fun h => ⟨fun x hx => by cases hx; exact access_role _ h, nofun, nofun⟩

theorem pkgReady (a : Access) : Statement (.pkgReady a) :=
  fun h => ⟨fun x hx => by cases hx; exact access_role _ h, nofun, nofun⟩

theorem warmReset (a : Access) : Statement (.warmReset a) :=
  fun h => ⟨fun x hx => by cases hx; exact access_role _ h, nofun, nofun⟩

theorem enableWrite (a : Access) (page : Fin 1781) (en : Bool) : Statement (.enableWrite a page en) :=
  fun h => ⟨fun x hx => by cases hx; exact access_role _ h, nofun, nofun⟩

theorem quiesce (a : Access) (page : Fin 1781) : Statement (.quiesce a page) :=
  fun h => ⟨fun x hx => by cases hx; exact access_role _ h, nofun, nofun⟩

theorem blockReset (a : Access) (page : Fin 1781) : Statement (.blockReset a page) :=
  fun h => ⟨fun x hx => by cases hx; exact access_role _ h, nofun, nofun⟩

theorem cntClear (a : Access) (page : Fin 1781) : Statement (.cntClear a page) :=
  fun h => ⟨fun x hx => by cases hx; exact access_role _ h, nofun, nofun⟩

theorem errFirstClear (a : Access) (page : Fin 1781) : Statement (.errFirstClear a page) :=
  fun h => ⟨fun x hx => by cases hx; exact access_role _ h, nofun, nofun⟩

theorem errCountRead (a : Access) (page : Fin 1781) : Statement (.errCountRead a page) :=
  fun h => ⟨fun x hx => by cases hx; exact access_role _ h, nofun, nofun⟩

theorem pMaxRead (a : Access) : Statement (.pMaxRead a) :=
  fun h => ⟨fun x hx => by cases hx; exact access_role _ h, nofun, nofun⟩

theorem registerWrite (a : Access) (addr : Word) (val : Word) : Statement (.registerWrite a addr val) :=
  fun h => ⟨fun x hx => by cases hx; exact access_role _ h, nofun, nofun⟩

theorem xlatGo (a : Access) (ctx : Fin 256) (allCtx : Bool) (vaBase : BitVec 27) (vaPages : BitVec 27) : Statement (.xlatGo a ctx allCtx vaBase vaPages) :=
  fun h => ⟨fun x hx => by cases hx; exact access_role _ h, nofun, nofun⟩

theorem xlatDone : Statement (.xlatDone) :=
  fun _ => ⟨nofun, nofun, nofun⟩

theorem flush (a : Access) (stack : Fin 4) : Statement (.flush a stack) :=
  fun h => ⟨fun x hx => by cases hx; exact access_role _ h, nofun, nofun⟩

theorem mscInvalAll (a : Access) (stack : Fin 4) : Statement (.mscInvalAll a stack) :=
  fun h => ⟨fun x hx => by cases hx; exact access_role _ h, nofun, nofun⟩

theorem flushDone (stack : Fin 4) : Statement (.flushDone stack) :=
  fun _ => ⟨nofun, nofun, nofun⟩

theorem halfOff (a : Access) (stack : Fin 4) (halves : BitVec 2) : Statement (.halfOff a stack halves) :=
  fun h => ⟨fun x hx => by cases hx; exact access_role _ h, nofun, nofun⟩

theorem halfEmpty (stack : Fin 4) (half : Fin 2) : Statement (.halfEmpty stack half) :=
  fun _ => ⟨nofun, nofun, nofun⟩

theorem thermSample (hmc : Fin 16) (reading : Option Nat) : Statement (.thermSample hmc reading) :=
  fun _ => ⟨nofun, nofun, nofun⟩

theorem patrolScrub (hmc : Fin 16) (ecc : Ecc) : Statement (.patrolScrub hmc ecc) :=
  fun h => ⟨nofun, fun x hx => by cases hx; exact h, nofun⟩

theorem switchRestore (a : Access) (quad : Fin 64) (ctx : Fin 256) : Statement (.switchRestore a quad ctx) :=
  fun h => ⟨fun x hx => by cases hx; exact access_role _ h, nofun, nofun⟩

theorem switchClear (a : Access) (quad : Fin 64) (ctx : Fin 256) : Statement (.switchClear a quad ctx) :=
  fun h => ⟨fun x hx => by cases hx; exact access_role _ h, nofun, nofun⟩

theorem switchVacate (a : Access) (quad : Fin 64) : Statement (.switchVacate a quad) :=
  fun h => ⟨fun x hx => by cases hx; exact access_role _ h, nofun, nofun⟩

theorem switchDone (ecc : Ecc) : Statement (.switchDone ecc) :=
  fun h => ⟨nofun, fun x hx => by cases hx; exact h, nofun⟩

theorem reload (a : Access) (ctx : Fin 256) : Statement (.reload a ctx) :=
  fun h => ⟨fun x hx => by cases hx; exact access_role _ h, nofun, nofun⟩

theorem erase (a : Access) (ctx : Fin 256) (mgmt : Bool) : Statement (.erase a ctx mgmt) :=
  fun h => ⟨fun x hx => by cases hx; exact access_role _ h, nofun, nofun⟩

theorem coarseRecord (power : Nat) (temp : Nat) (util : Nat) : Statement (.coarseRecord power temp util) :=
  fun _ => ⟨nofun, nofun, nofun⟩

theorem attSessionExpiry (nonce : BitVec 256) : Statement (.attSessionExpiry nonce) :=
  fun _ => ⟨nofun, nofun, nofun⟩

theorem identify (m : Umlon) : Statement (.identify m) :=
  fun h => ⟨nofun, nofun, fun x hx => by cases hx; exact message_length _ ((Bool.and_eq_true _ _).mp h).1⟩

theorem status (m : Umlon) : Statement (.status m) :=
  fun h => ⟨nofun, nofun, fun x hx => by cases hx; exact message_length _ ((Bool.and_eq_true _ _).mp h).1⟩

theorem regRead (m : Umlon) : Statement (.regRead m) :=
  fun h => ⟨nofun, nofun, fun x hx => by cases hx; exact message_length _ ((Bool.and_eq_true _ _).mp h).1⟩

theorem regWrite (m : Umlon) : Statement (.regWrite m) :=
  fun h => ⟨nofun, nofun, fun x hx => by cases hx; exact message_length _ ((Bool.and_eq_true _ _).mp h).1⟩

theorem evtBind (m : Umlon) : Statement (.evtBind m) :=
  fun h => ⟨nofun, nofun, fun x hx => by cases hx; exact message_length _ ((Bool.and_eq_true _ _).mp h).1⟩

theorem evtAck (m : Umlon) : Statement (.evtAck m) :=
  fun h => ⟨nofun, nofun, fun x hx => by cases hx; exact message_length _ ((Bool.and_eq_true _ _).mp h).1⟩

theorem attReport (m : Umlon) : Statement (.attReport m) :=
  fun h => ⟨nofun, nofun, fun x hx => by cases hx; exact message_length _ ((Bool.and_eq_true _ _).mp h).1⟩

theorem keyBlob (m : Umlon) : Statement (.keyBlob m) :=
  fun h => ⟨nofun, nofun, fun x hx => by cases hx; exact message_length _ ((Bool.and_eq_true _ _).mp h).1⟩

theorem imagePart (m : Umlon) : Statement (.imagePart m) :=
  fun h => ⟨nofun, nofun, fun x hx => by cases hx; exact message_length _ ((Bool.and_eq_true _ _).mp h).1⟩

theorem imageCommit (m : Umlon) : Statement (.imageCommit m) :=
  fun h => ⟨nofun, nofun, fun x hx => by cases hx; exact message_length _ ((Bool.and_eq_true _ _).mp h).1⟩

theorem qpCreate (m : Umlon) : Statement (.qpCreate m) :=
  fun h => ⟨nofun, nofun, fun x hx => by cases hx; exact message_length _ ((Bool.and_eq_true _ _).mp h).1⟩

theorem qpDestroy (m : Umlon) : Statement (.qpDestroy m) :=
  fun h => ⟨nofun, nofun, fun x hx => by cases hx; exact message_length _ ((Bool.and_eq_true _ _).mp h).1⟩

theorem mrReg (m : Umlon) : Statement (.mrReg m) :=
  fun h => ⟨nofun, nofun, fun x hx => by cases hx; exact message_length _ ((Bool.and_eq_true _ _).mp h).1⟩

theorem mrDereg (m : Umlon) : Statement (.mrDereg m) :=
  fun h => ⟨nofun, nofun, fun x hx => by cases hx; exact message_length _ ((Bool.and_eq_true _ _).mp h).1⟩

theorem seqGapTimeout (session : Fin 64) : Statement (.seqGapTimeout session) :=
  fun _ => ⟨nofun, nofun, nofun⟩

theorem event (chan : Fin 4096) : Statement (.event chan) :=
  fun _ => ⟨nofun, nofun, nofun⟩

theorem eventResend (chan : Fin 4096) : Statement (.eventResend chan) :=
  fun _ => ⟨nofun, nofun, nofun⟩

theorem aclReload (a : Access) : Statement (.aclReload a) :=
  fun h => ⟨fun x hx => by cases hx; exact access_role _ h, nofun, nofun⟩

theorem hrtReload (a : Access) : Statement (.hrtReload a) :=
  fun h => ⟨fun x hx => by cases hx; exact access_role _ h, nofun, nofun⟩

theorem rdmaWrite (qpn : BitVec 24) (rkey : BitVec 32) (va : Word) (data : List Byte) (ecn : Bool) : Statement (.rdmaWrite qpn rkey va data ecn) :=
  fun _ => ⟨nofun, nofun, nofun⟩

theorem rdmaRead (qpn : BitVec 24) (rkey : BitVec 32) (va : Word) (len : Nat) (ecn : Bool) : Statement (.rdmaRead qpn rkey va len ecn) :=
  fun _ => ⟨nofun, nofun, nofun⟩

theorem rdmaSend (qpn : BitVec 24) (data : List Byte) (ecn : Bool) : Statement (.rdmaSend qpn data ecn) :=
  fun _ => ⟨nofun, nofun, nofun⟩

theorem readResponse (qpn : BitVec 24) (data : List Byte) (ecn : Bool) : Statement (.readResponse qpn data ecn) :=
  fun _ => ⟨nofun, nofun, nofun⟩

theorem writeAck (qpn : BitVec 24) (ecn : Bool) : Statement (.writeAck qpn ecn) :=
  fun _ => ⟨nofun, nofun, nofun⟩

theorem rdmaNak (qpn : BitVec 24) (syndrome : Byte) (ecn : Bool) : Statement (.rdmaNak qpn syndrome ecn) :=
  fun _ => ⟨nofun, nofun, nofun⟩

theorem qpRetryTimeout (qpn : BitVec 24) : Statement (.qpRetryTimeout qpn) :=
  fun _ => ⟨nofun, nofun, nofun⟩

theorem cnp (qpn : BitVec 24) : Statement (.cnp qpn) :=
  fun _ => ⟨nofun, nofun, nofun⟩

theorem neighborSolicitation (port : Fin 2) (target : BitVec 128) (src : BitVec 128) : Statement (.neighborSolicitation port target src) :=
  fun _ => ⟨nofun, nofun, nofun⟩

theorem echoRequest (port : Fin 2) (dst : BitVec 128) (src : BitVec 128) (data : List Byte) : Statement (.echoRequest port dst src data) :=
  fun _ => ⟨nofun, nofun, nofun⟩

theorem quadOn (a : Access) (bits : BitVec 48) : Statement (.quadOn a bits) :=
  fun h => ⟨fun x hx => by cases hx; exact access_role _ h, nofun, nofun⟩

theorem hbmOn (a : Access) (bits : BitVec 16) : Statement (.hbmOn a bits) :=
  fun h => ⟨fun x hx => by cases hx; exact access_role _ h, nofun, nofun⟩

theorem mscOn (a : Access) (bits : BitVec 8) : Statement (.mscOn a bits) :=
  fun h => ⟨fun x hx => by cases hx; exact access_role _ h, nofun, nofun⟩

theorem domainSwitchDone (dom : Fin 72) : Statement (.domainSwitchDone dom) :=
  fun _ => ⟨nofun, nofun, nofun⟩

theorem powerCapTick (avgW : Nat) : Statement (.powerCapTick avgW) :=
  fun _ => ⟨nofun, nofun, nofun⟩

theorem dieThermalSample (stack : Fin 4) (hottest : Nat) : Statement (.dieThermalSample stack hottest) :=
  fun _ => ⟨nofun, nofun, nofun⟩

theorem railSample (r : Rail) (l : RailLevel) : Statement (.railSample r l) :=
  fun _ => ⟨nofun, nofun, nofun⟩

theorem refclkLoss : Statement (.refclkLoss) :=
  fun _ => ⟨nofun, nofun, nofun⟩

theorem porstNAssert : Statement (.porstNAssert) :=
  fun _ => ⟨nofun, nofun, nofun⟩

theorem porstNRelease (straps : BitVec 13) : Statement (.porstNRelease straps) :=
  fun _ => ⟨nofun, nofun, nofun⟩

theorem strapSample (straps : BitVec 13) : Statement (.strapSample straps) :=
  fun _ => ⟨nofun, nofun, nofun⟩

theorem bringupStage (inp : StageInput) : Statement (.bringupStage inp) :=
  fun _ => ⟨nofun, nofun, nofun⟩

theorem packDone (r : PackResult) : Statement (.packDone r) :=
  fun _ => ⟨nofun, nofun, nofun⟩

theorem tstRun (a : Access) : Statement (.tstRun a) :=
  fun h => ⟨fun x hx => by cases hx; exact access_role _ h, nofun, nofun⟩

theorem tstAbort (a : Access) : Statement (.tstAbort a) :=
  fun h => ⟨fun x hx => by cases hx; exact access_role _ h, nofun, nofun⟩

theorem freezeNAssert : Statement (.freezeNAssert) :=
  fun _ => ⟨nofun, nofun, nofun⟩

theorem freezeNRelease : Statement (.freezeNRelease) :=
  fun _ => ⟨nofun, nofun, nofun⟩

theorem extest : Statement (.extest) :=
  fun _ => ⟨nofun, nofun, nofun⟩

theorem idcode : Statement (.idcode) :=
  fun _ => ⟨nofun, nofun, nofun⟩

theorem samplePreload : Statement (.samplePreload) :=
  fun _ => ⟨nofun, nofun, nofun⟩

theorem lctAddr (v : Word) : Statement (.lctAddr v) :=
  fun _ => ⟨nofun, nofun, nofun⟩

theorem lctRead : Statement (.lctRead) :=
  fun _ => ⟨nofun, nofun, nofun⟩

theorem lctStatus : Statement (.lctStatus) :=
  fun _ => ⟨nofun, nofun, nofun⟩

theorem bypass : Statement (.bypass) :=
  fun _ => ⟨nofun, nofun, nofun⟩

theorem hostLinkDown (port : Fin 2) : Statement (.hostLinkDown port) :=
  fun _ => ⟨nofun, nofun, nofun⟩

theorem hostLinkUp (port : Fin 2) : Statement (.hostLinkUp port) :=
  fun _ => ⟨nofun, nofun, nofun⟩

theorem unsupportedRdmaOpcode (qpn : BitVec 24) (ecn : Bool) : Statement (.unsupportedRdmaOpcode qpn ecn) :=
  fun _ => ⟨nofun, nofun, nofun⟩

theorem unknownOp (m : Umlon) : Statement (.unknownOp m) :=
  fun h => ⟨nofun, nofun, fun x hx => by cases hx; exact message_length _ ((Bool.and_eq_true _ _).mp h).1⟩

theorem powerRemoved : Statement (.powerRemoved) :=
  fun _ => ⟨nofun, nofun, nofun⟩

theorem trstNAssert : Statement (.trstNAssert) :=
  fun _ => ⟨nofun, nofun, nofun⟩

end Sys2Proof.Laws.Wf
end

