-- ==== Sys2Proof/Laws/Seq.lean ====
section
/-! SUPPORT. What the shared operations of the sequencer can do. -/

namespace Sys2Proof.Machine

open Sys2Proof

variable {s : State} {t opc : Nat} {run : Word → State → State}

/-- A ready sequencer at a legal instruction of the row's opcode whose guard is 1 runs it. -/
theorem seqRow_runs (hr : s.seqReady t = true) (hp : s.pcInside t = true) (hl : insLegal (s.tile t) (s.insAt t) = true)
    (ho : insOpc (s.insAt t) = opc) (hg : insGuard (s.tile t) (s.insAt t) = true) :
    s.seqRow t opc run = run (s.insAt t) (s.fetched t) := by
  simp [State.seqRow, hr, hp, hl, ho, hg]

/-- Everything a row of the sequencer can do: nothing, a halt with 0x013 or 0x015, a skipped instruction, or its effect. -/
theorem seqRow_cases : s.seqRow t opc run = s ∨ s.seqRow t opc run = s.haltWith t 0x013 ∨ s.seqRow t opc run = s.haltWith t 0x015
    ∨ s.seqRow t opc run = (s.touchLine t).stepPc t ∨ s.seqRow t opc run = run (s.insAt t) (s.fetched t) := by
  unfold State.seqRow
  split
  · exact .inl rfl
  split
  · exact .inr (.inl rfl)
  split
  · exact .inr (.inr (.inl rfl))
  split
  · exact .inl rfl
  split
  · exact .inr (.inr (.inr (.inr rfl)))
  · exact .inr (.inr (.inr (.inl rfl)))

@[simp] theorem page_count_other (n i : Nat) (c : Option Nat) (k m : Nat) (h : m ≠ n) : (s.count n i c k).page m = s.page m := by
  unfold State.count
  split
  · rfl
  · simp [h]

/-- Counting changes nothing of a page but its counters. -/
theorem page_count (n i : Nat) (c : Option Nat) (k m : Nat) :
    { (s.count n i c k).page m with counts := (s.page m).counts } = s.page m := by
  unfold State.count
  split
  · rfl
  · by_cases h : m = n
    · subst h; simp
    · simp [h]

theorem tile_fetched_same : (s.fetched t).tile t = { s.tile t with
    tileLine := ((s.progBase t + 8 * (s.tile t).pc.toNat) / 1024
      :: (s.tile t).tileLine.filter fun x => decide (x ≠ (s.progBase t + 8 * (s.tile t).pc.toNat) / 1024)).take 16 } := by
  unfold State.fetched; rw [tile_count]; simp [State.touchLine]

@[simp] theorem tile_fetched_other (u : Nat) (h : u ≠ t) : (s.fetched t).tile u = s.tile u := by
  unfold State.fetched; rw [tile_count]; simp [State.touchLine, h]

@[simp] theorem reg_fetched (i : Nat) : ((s.fetched t).tile t).reg i = (s.tile t).reg i := by rw [tile_fetched_same]; rfl

@[simp] theorem fetched_page (m : Nat) (h : m ≠ seqPage t) : (s.fetched t).page m = s.page m := by
  unfold State.fetched; rw [page_count_other _ _ _ _ _ h]; rfl

theorem fetched_counts : { (s.fetched t).page (seqPage t) with counts := (s.page (seqPage t)).counts } = s.page (seqPage t) :=
  page_count (s := s.touchLine t) (seqPage t) 0 none 1 (seqPage t)

@[simp] theorem fetched_mem : (s.fetched t).mem = s.mem := by simp [State.fetched, State.touchLine]
@[simp] theorem fetched_fab : (s.fetched t).fab = s.fab := by simp [State.fetched, State.touchLine]
@[simp] theorem fetched_sbd : (s.fetched t).sbd = s.sbd := by simp [State.fetched, State.touchLine]
@[simp] theorem fetched_upe : (s.fetched t).upe = s.upe := by simp [State.fetched, State.touchLine]
@[simp] theorem fetched_cle : (s.fetched t).cle = s.cle := by simp [State.fetched, State.touchLine]
@[simp] theorem fetched_key : (s.fetched t).key = s.key := by simp [State.fetched, State.touchLine]
@[simp] theorem fetched_bur : (s.fetched t).bur = s.bur := by simp [State.fetched, State.touchLine]
@[simp] theorem fetched_sync : (s.fetched t).sync = s.sync := by simp [State.fetched, State.touchLine]
@[simp] theorem fetched_host : (s.fetched t).host = s.host := by simp [State.fetched, State.touchLine]
@[simp] theorem fetched_pkg : (s.fetched t).pkg = s.pkg := by simp [State.fetched, State.touchLine]
@[simp] theorem fetched_time : (s.fetched t).time = s.time := by simp [State.fetched, State.touchLine]
@[simp] theorem fetched_draws : (s.fetched t).draws = s.draws := by simp [State.fetched, State.touchLine]
@[simp] theorem fetched_out : (s.fetched t).out = s.out := by simp [State.fetched, State.touchLine]
@[simp] theorem fetched_pending : (s.fetched t).pending = s.pending := by simp [State.fetched, State.touchLine]

/-- A register reads as written, and every other one as before. -/
theorem reg_setReg (ti : Tile) (i j : Nat) (v : Word) : (ti.setReg i v).reg j = if j = i then v else ti.reg j := by
  simp [Tile.setReg, Tile.reg, Tab.get_set]

/-- p0 reads 1; another predicate reads as written, and the rest as before. -/
theorem pred_setPred (ti : Tile) (i j : Nat) (v : Bool) (hj : j < 8) :
    (ti.setPred i v).pred j = if j = 0 then true else if j = i then v else ti.pred j := by
  by_cases h0 : j = 0
  · subst h0; simp [Tile.pred]
  by_cases hi : i = 0
  · subst hi; simp [Tile.setPred, Tile.pred, h0]
  by_cases hji : j = i
  · subst hji
    cases v <;> simp [Tile.setPred, Tile.pred, h0, hj]
  · have hd : ¬ (¬ j < i ∧ j - i = 0) := by omega
    cases v <;> simp [Tile.setPred, Tile.pred, h0, hi, hji, hj] <;> grind

end Sys2Proof.Machine
end

