-- ==== Sys2Proof/Laws/Shared.lean ====
section
/-! SUPPORT. What the operations that many commands share can do: a step, the start of an engine, a register access, the next packet of a
direction; and that none of them acts while the package is frozen, off or stopped. -/

namespace Sys2Proof.Machine

open Sys2Proof

variable {s : State} {t : Nat} {e : Eng}

/-- A step of a nonempty queue runs the front command on the rest. -/
theorem step_front {c : Instr} {cs : List Instr} (h : s.pending = c :: cs) : step s = exec c { s with pending := cs } := by
  unfold step
  rw [h]

/-- Nothing sleeps while awake: the four conditions. -/
theorem awake_iff : s.awake = true ↔ s.pkg.porst = false ∧ s.pkg.frozen = false ∧ s.pkg.powerOn = true ∧ s.pkg.stopped = false := by
  simp [State.awake, and_assoc]

theorem tileRuns_awake (h : s.tileRuns t = true) : s.awake = true := by
  simp only [State.tileRuns, Bool.and_eq_true] at h
  exact h.2

/-- An engine that may start is of a running tile, with the descriptor at the front of its queue. -/
theorem startable_some {d : Desc} (h : s.startable t e = some d) :
    s.tileRuns t = true ∧ ∃ q, (s.tile t).queue e = d :: q := by
  unfold State.startable at h
  simp only at h
  split at h
  · cases h
  · rename_i d' q hq
    split at h
    · rename_i hc
      cases h
      simp only [Bool.and_eq_true] at hc
      exact ⟨hc.1.1.1.1.1.1, q, hq⟩
    · cases h

/-- Everything the start of an engine can do: nothing, a refusal of the front descriptor, or its effect. -/
theorem engineStart_cases (ops : List Nat) (op : Nat) (extra : Desc → Bool) (bad : Desc → State → Option Nat) (run : Desc → State → State) :
    s.engineStart t e ops op extra bad run = s ∨ ∃ d, s.startable t e = some d ∧
      ((∃ code, s.engineStart t e ops op extra bad run = s.refuseDesc t e d code) ∨
       (ops.contains d.op = true ∧ d.op = op ∧ extra d = true ∧ bad d (s.applyStaged (engPage t e)) = none ∧
         s.engineStart t e ops op extra bad run = run d s)) := by
  cases hd : s.startable t e with
  | none => exact .inl (by simp [State.engineStart, hd])
  | some d =>
    by_cases ho : ops.contains d.op = true
    · by_cases hx : d.op ≠ op ∨ (!extra d) = true
      · exact .inl (by simp only [State.engineStart, hd]; rw [if_neg (by simpa using ho), if_pos hx])
      · refine .inr ⟨d, rfl, ?_⟩
        have hr : s.engineStart t e ops op extra bad run =
            match bad d (s.applyStaged (engPage t e)) with | some code => s.refuseDesc t e d code | none => run d s := by
          simp only [State.engineStart, hd]
          rw [if_neg (by simpa using ho), if_neg hx]
          all_goals rfl
        cases hb : bad d (s.applyStaged (engPage t e)) with
        | some code => exact .inl ⟨code, by rw [hr, hb]⟩
        | none =>
          simp only [not_or, not_not, Bool.not_eq_true', Bool.not_eq_false] at hx
          exact .inr ⟨ho, hx.1, hx.2, rfl, by rw [hr, hb]⟩
    · refine .inr ⟨d, rfl, .inl ⟨_, by simp only [State.engineStart, hd]; rw [if_pos (by simpa using ho)]⟩⟩

/-- A register row does nothing where the access does not reach the page; else it is refused or has its effect. -/
theorem rowDo_cases (a : Access) (n o : Nat) (f : State → State) :
    s.rowDo a n o f = s ∨ (s.reaches a = true ∧ (s.rowDo a n o f = s.refuseAccess a ∨ s.rowDo a n o f = f s)) := by
  unfold State.rowDo
  split
  · rename_i h
    split
    · exact .inr ⟨h, .inr rfl⟩
    · exact .inr ⟨h, .inl rfl⟩
  · exact .inl rfl

/-! ## A package that is not awake -/

theorem tileRuns_asleep (h : s.awake = false) : s.tileRuns t = false := by simp [State.tileRuns, h]

theorem startable_asleep (h : s.awake = false) : s.startable t e = none := by
  unfold State.startable
  simp only
  split
  · rfl
  · simp [State.tileRuns, h]

theorem engineStart_asleep (ops : List Nat) (op : Nat) (extra : Desc → Bool) (bad : Desc → State → Option Nat) (run : Desc → State → State)
    (h : s.awake = false) : s.engineStart t e ops op extra bad run = s := by
  simp [State.engineStart, startable_asleep h]

theorem takePkt_asleep (n : Nat) (h : s.awake = false) : s.takePkt n = (none, s) := by simp [State.takePkt, h]

theorem takeMgmt_asleep (n : Nat) (h : s.awake = false) : s.takeMgmt n = (none, s) := by simp [State.takeMgmt, h]

theorem routeDue_asleep (n : Nat) (h : s.awake = false) : s.routeDue t n = none := by
  unfold State.routeDue
  split <;> simp [State.tileRuns, h]

end Sys2Proof.Machine
end

