-- ==== Sys2Proof/Tests/Slice0.lean ====
section
/-! SUPPORT. Witnesses: for the hypotheses of each statement a state and operands that meet them together, at the ends of their ranges; operands
that cannot occur; and the manual's worked examples. -/

namespace Sys2Proof.Tests
open Sys2Proof Sys2Proof.Machine Sys2Proof.Spec
set_option Elab.async false
set_option synthInstance.maxSize 4096
set_option synthInstance.maxHeartbeats 400000

/-- The package up, with every domain on. -/
def up : State := { State.reset with pkg := { porst := false, stage := 7, powered := BitVec.allOnes 72 } }
/-- A word of a page set to a value. -/
def wordIs (s : State) (n o : Nat) (v : Word) : State :=
  s.modPage n fun p => { p with words := Tab.set 0 p.words (o / 8) (v ^^^ resetWord n o) }
def tileIs (s : State) (t : Nat) (ti : Tile) : State := s.modTile t fun _ => ti
/-- An instruction word of R100 with guard 1. -/
def ins (opc rd ra rb x imm : Nat) : Word := BitVec.ofNat 64 (opc + 2 ^ 12 * rd + 2 ^ 17 * ra + 2 ^ 22 * rb + 2 ^ 27 * x + 2 ^ 32 * imm)
/-- Tile 0 running w at PC 0 of a region of 128 instructions. -/
def at0 (w : Word) (ti : Tile := {}) : State :=
  tileIs (wordIs up (seqPage 0) 0x100 0x10000) 0 { ti with seq := .running, store := putBytes [] 0 (bytesOf [w]) }

/-! ## Sequencer -/
/-! ## Sequencer -/

/-- Where no IMM is allowed besides, a word with registers 1, 2, 3. -/
theorem test_arithmetic_runs : ∀ r ∈ aluRows, Runs (at0 (ins r.2.1 1 2 3 0 0)) 0 r.2.1 (ins r.2.1 1 2 3 0 0) := by
  unfold Runs Ready Works
  decide +kernel

theorem test_immediates_run : ∀ r ∈ aluImmRows, Runs (at0 (ins r.2.1 31 0 0 0 63)) 0 r.2.1 (ins r.2.1 31 0 0 0 63) := by
  unfold Runs Ready Works
  decide +kernel

def words : List (Nat × Word) :=
  [(0x00, ins 0x00 0 0 0 0 0), (0x1E, ins 0x1E 31 0 0 0 0xFFFFFFFF), (0x1F, ins 0x1F 0 0 0 0 1), (0x20, ins 0x20 1 2 0 0 (64 * 64)), (0x21, ins 0x21 1 2 0 0 (63 + 64)), (0x28, ins 0x28 9 1 2 7 0),
   (0x29, ins 0x29 0 1 0 0 5), (0x2A, ins 0x2A 3 1 2 7 0), (0x2B, ins 0x2B 0 1 2 1 0), (0x2C, ins 0x2C 1 1 0 1 0), (0x30, ins 0x30 0 0 0 0 0xFFFFFFFF), (0x31, ins 0x31 0 31 0 0 0),
   (0x32, ins 0x32 31 0 0 0 127), (0x33, ins 0x33 1 0 0 0 0), (0x34, ins 0x34 0 0 0 0 0), (0x38, ins 0x38 1 2 0 0 0), (0x39, ins 0x39 0 2 3 0 8), (0x40, ins 0x40 0 0 0 15 3),
   (0x41, ins 0x41 1 0 0 15 0), (0x48, ins 0x48 0 0 0 31 0xFFFF), (0x49, ins 0x49 0 0 0 31 15), (0x4A, ins 0x4A 0 0 0 31 0), (0x4B, ins 0x4B 1 0 0 31 0), (0x50, ins 0x50 0 1 0 0 2),
   (0x51, ins 0x51 0 0 0 0 0), (0x52, ins 0x52 0 0 0 0 63), (0x58, ins 0x58 0 28 0 0 0)]

/-- Every other instruction runs somewhere, with fields at the ends of their ranges. -/
theorem test_others_run : ∀ r ∈ words, Runs (at0 r.2) 0 r.1 r.2 := by
  unfold Runs Ready Works
  decide +kernel

/-- R108: an address that is not a multiple of 8, the own ENTRY word read, and the Footstool's own word written. -/
theorem test_control_access_cases :
    (let s := at0 (ins 0x38 1 2 0 0 4)
     Runs s 0 0x38 (ins 0x38 1 2 0 0 4) ∧ ((s.tile 0).reg 2 + simm (ins 0x38 1 2 0 0 4)).toNat % 8 ≠ 0)
    ∧ (let w := ins 0x38 1 2 0 0 0x108
       let s := at0 w { s := [(2, BitVec.ofNat 64 (pageAddr (seqPage 0) 0))] }
       Runs s 0 0x38 w ∧ ((s.tile 0).reg 2 + simm w).toNat = pageAddr (seqPage 0) 0x108 ∧ s.ctxOf 0 = none)
    ∧ (let w := ins 0x39 0 2 3 0 0x110
       let s := at0 w { s := [(2, BitVec.ofNat 64 (pageAddr (tilePage 0 5) 0))] }
       Runs s 0 0x39 w ∧ ((s.tile 0).reg 2 + simm w).toNat = pageAddr (tilePage 0 5) 0x110 ∧ s.ctxOf 0 = none) := by
  unfold Runs Ready Works
  decide +kernel

/-- Stalls of every kind. -/
theorem test_stalled : ∀ x ∈ [(Stall.token, 0), (.summary, 0), (.queue, 0), (.control (some 31) true 5, 0), (.control none false 0, 0)],
    Stalled (at0 0 { stall := x.1 }) 0 x.1 := by
  unfold Stalled Works
  decide +kernel

/-- A summary register with and without pending contributions, read and cleared at once or on resumption. -/
theorem test_summary_cases :
    (Runs (at0 (ins 0x40 0 0 0 15 3)) 0 0x40 (ins 0x40 0 0 0 15 3) ∧ (((at0 (ins 0x40 0 0 0 15 3)).tile 0).sum 15).pending = 0)
    ∧ (let s := at0 (ins 0x41 1 0 0 0 0) { u := [(0, { pending := 1 })] }
       Runs s 0 0x41 (ins 0x41 1 0 0 0 0) ∧ ((s.tile 0).sum 0).pending ≠ 0)
    ∧ (let s := at0 (ins 0x40 0 0 0 0 1) { u := [(0, { pending := 1 })] }
       Runs s 0 0x40 (ins 0x40 0 0 0 0 1) ∧ ((s.tile 0).sum 0).pending ≠ 0)
    ∧ (let s := at0 (ins 0x41 1 0 0 15 0) { stall := .summary }
       Stalled s 0 .summary ∧ s.insAt 0 = ins 0x41 1 0 0 15 0 ∧ ((s.tile 0).sum 15).pending = 0)
    ∧ (let s := at0 (ins 0x40 0 0 0 15 2) { stall := .summary }
       Stalled s 0 .summary ∧ s.insAt 0 = ins 0x40 0 0 0 15 2 ∧ ((s.tile 0).sum 15).pending = 0) := by
  unfold Runs Ready Stalled Works
  decide +kernel

/-- Waits at and below their amount, and a counter at its end. -/
theorem test_token_cases :
    (let s := at0 (ins 0x4A 0 0 0 31 0) { k := [(31, 0xFFFF)] }
     Runs s 0 0x4A (ins 0x4A 0 0 0 31 0) ∧ (s.tile 0).tok 31 = 0xFFFF)
    ∧ (let s := at0 (ins 0x4A 0 0 0 31 0) { k := [(31, 0xFFFE)] }
       Runs s 0 0x4A (ins 0x4A 0 0 0 31 0) ∧ (s.tile 0).tok 31 < 0xFFFF)
    ∧ (let s := at0 (ins 0x49 0 0 0 0 15) { k := [(0, 15)] }
       Runs s 0 0x49 (ins 0x49 0 0 0 0 15) ∧ 15 ≤ (s.tile 0).tok 0)
    ∧ (let s := at0 (ins 0x49 0 0 0 0 15) { k := [(0, 14)] }
       Runs s 0 0x49 (ins 0x49 0 0 0 0 15) ∧ (s.tile 0).tok 0 < 15)
    ∧ (let s := at0 (ins 0x49 0 0 0 0 1) { k := [(0, 1)], stall := .token }
       Stalled s 0 .token ∧ s.insAt 0 = ins 0x49 0 0 0 0 1 ∧ 1 ≤ (s.tile 0).tok 0) := by
  unfold Runs Ready Stalled Works
  decide +kernel

/-- Picks: nothing armed, armed and not ready, and the ready slot of two. A counter named twice needs the sum. -/
theorem test_pick_cases :
    (let ti : Tile := { tasks := [(0, { armed := true, ka := 1, amtA := 2, kb := 1, amtB := 1 }), (63, { armed := true, entry := 5 })], k := [(1, 2)] }
     ¬ TaskReady ti (ti.taskAt 0) ∧ TaskReady ti (ti.taskAt 63))
    ∧ (let ti : Tile := { tasks := [(0, { armed := true, ka := 1, amtA := 2 })], k := [(1, 1)] }
       (ti.taskAt 0).armed = true ∧ ∀ i, i < 64 → ¬ TaskReady ti (ti.taskAt i))
    ∧ (let s := tileIs up 191 { seq := .waiting }
       Works s 191 ∧ (s.tile 191).seq = .waiting ∧ (s.tile 191).stopped = false) := by
  unfold TaskReady Works
  decide +kernel

def aDesc (e op : Nat) : Desc := { w0 := BitVec.ofNat 64 (e + 8 * op) }

/-- ISSUE to a queue with room, to a ring, to neither, to an engine that does not exist, and again after a stall. -/
theorem test_issue_cases :
    (let s := at0 (ins 0x58 0 28 0 0 0) { s := [(28, (aDesc 4 6).w0)] }
     Runs s 0 0x58 (ins 0x58 0 28 0 0 0) ∧ ((s.tile 0).reg 28).toNat % 8 = engNum .xce ∧ (s.tile 0).ringCount .xce = 0
       ∧ ((s.tile 0).queue .xce).length < 64)
    ∧ (let s := wordIs (at0 (ins 0x58 0 0 0 0 0) { queues := [(0, List.replicate 64 {})] }) (seqPage 0) 0x400 0x00010400 |> fun s => wordIs s (seqPage 0) 0x10 0x10009
       Runs s 0 0x58 (ins 0x58 0 0 0 0 0) ∧ ((s.tile 0).queue .lde).length = 64 ∧ (s.tile 0).ringCount .lde < (s.spillRing 0 .lde).size)
    ∧ (let s := at0 (ins 0x58 0 0 0 0 0) { queues := [(0, List.replicate 64 {})] }
       Runs s 0 0x58 (ins 0x58 0 0 0 0 0) ∧ ((s.tile 0).queue .lde).length = 64 ∧ (s.spillRing 0 .lde).size ≤ (s.tile 0).ringCount .lde)
    ∧ (let s := at0 (ins 0x58 0 0 0 0 0) { s := [(0, 5)] }
       Runs s 0 0x58 (ins 0x58 0 0 0 0 0) ∧ 5 ≤ ((s.tile 0).reg 0).toNat % 8)
    ∧ (let s := at0 (ins 0x58 0 0 0 0 0) { stall := .queue }
       Stalled s 0 .queue ∧ s.insAt 0 = ins 0x58 0 0 0 0 0 ∧ (s.tile 0).ringCount .lde = 0 ∧ ((s.tile 0).queue .lde).length < 64) := by
  unfold Runs Ready Stalled Works
  decide +kernel

/-! ## Engines -/

/-- A page enabled. -/
def enabled (s : State) (n : Nat) : State := wordIs s n 0x10 (resetWord n 0x10 ||| 1)
/-- Context 0 resident in quad 0, its first GiB local memory and its second that of tray member 1, its job key loaded; flow 1 leads to member 1.
Every controller of memory is enabled. -/
def ctxUp : State :=
  (List.range 16).foldl (fun s h => enabled s (hmcPage h))
    { (wordIs up (fltPage 0) 0x100 0x100000) with
      key := { owner := [(0, some 0)], descs := [(0, { w0 := 1 })], keys := [(0, some 7)] }
      mem := { hbm := putBytes (putBytes [] 0 (bytesOf [7, 0x2F])) 0x100040 (bytesOf [0x401]) } }
/-- Engine e of tile 0 with descriptor d at the front of its queue. -/
def eng (e : Eng) (d : Desc) (ti : Tile := {}) : State := tileIs (enabled ctxUp (engPage 0 e)) 0 (ti.setQueue e [d])
/-- The Bureau's access. -/
def bur : Access := { source := .bureau, role := none }

/-- A PC past the region and an illegal word, and an instruction whose guard is 0. -/
theorem test_fetch_cases :
    (let s := tileIs up 0 { seq := .running }
     Works s 0 ∧ (s.tile 0).stopped = false ∧ (s.tile 0).stall = .none ∧ s.progLen 0 ≤ (s.tile 0).pc.toNat)
    ∧ (Ready (at0 2) 0 ∧ insLegal ((at0 0x02000002).tile 0) ((at0 0x08000002).insAt 0) = false)
    ∧ (let w := ins 0x01 1 2 3 0 0 ||| 0x800
       Ready (at0 w) 0 ∧ (at0 w).insAt 0 = w ∧ insLegal ((at0 w).tile 0) w = true
         ∧ (((at0 w).tile 0).pred (w.toNat / 2 ^ 8 % 2 ^ 3) ^^ w.getLsbD 11) = false) := by
  unfold Ready Works
  decide +kernel


/-- RUN in every state of the sequencer, with an enabled page and without one. -/
theorem test_run_control_cases :
    (let s := tileIs (wordIs (wordIs up (seqPage 0) 0x10 0x10001) (seqPage 0) 0x100 0x10000) 0 {}
     Works s 0 ∧ bur.source = .bureau ∧ s.admits (seqPage 0) = true ∧ s.startBad 0 = false ∧ (s.tile 0).seq = .idle)
    ∧ (let s := tileIs (wordIs (wordIs up (seqPage 0) 0x10 0x10001) (seqPage 0) 0x100 0x18000000) 0 { seq := .halted }
       s.admits (seqPage 0) = true ∧ s.startBad 0 = false ∧ (s.tile 0).seq = .halted)
    ∧ (let s := wordIs up (seqPage 0) 0x10 0x10001
       s.admits (seqPage 0) = true ∧ s.startBad 0 = true)
    ∧ up.admits (seqPage 0) = false
    ∧ (let s := wordIs (at0 0 { stall := .token }) (seqPage 0) 0x120 1
       Works s 0 ∧ (s.tile 0).seq = .running ∧ (s.tile 0).stall ≠ .none ∧ s.fld (seqPage 0) 0x120 0 6 ≠ 0) := by
  unfold Works
  decide +kernel

/-- Every engine starts a descriptor whose waits hold, and one with an undefined OP. -/
theorem test_startable : ∀ r ∈ [(Eng.lde, 31), (.mxe, 0), (.vxe, 4), (.ste, 3), (.xce, 8)],
    (eng r.1 (aDesc (engNum r.1) r.2)).startable 0 r.1 = some (aDesc (engNum r.1) r.2)
    ∧ (aDesc (engNum r.1) r.2).w0.toNat / 2 ^ 3 % 2 ^ 5 ∉ opsOf r.1 := by
  decide +kernel

/-- A wait that does not hold, a counter named twice, a page that is disabled and a FEED at the window's end start nothing. -/
theorem test_not_startable :
    (eng .lde { w0 := 0x10008 }).startable 0 .lde = none
    ∧ (eng .lde { w0 := 0x02010008 } { k := [(0, 1)] }).startable 0 .lde = none
    ∧ ((eng .lde { w0 := 0x02010008 } { k := [(0, 2)] }).startable 0 .lde).isSome = true
    ∧ (tileIs up 0 (({} : Tile).setQueue .lde [{}])).startable 0 .lde = none
    ∧ (eng .lde { w0 := 0x108 } { fl := 4, fm := 0 }).startable 0 .lde = none
    ∧ ((eng .lde { w0 := 0x108 } { fl := 2, fm := 0xFFFFFFFF }).startable 0 .lde).isSome = true := by
  decide +kernel

/-- Copies of two rows of 32 bytes, from byte 4096 of the store to the register file and back. -/
def copyIn : Desc := { w0 := 0x10, w1 := 0x0000000000800080, w2 := 0x0000000000140000, w3 := 0x0000000000800000 }
def copyOut : Desc := { w0 := 0x13, w1 := 0x0000000000840080, w2 := 0x0000000000100000, w3 := 0x0000000000800000 }
theorem test_copies : Quiet ((eng .lde copyIn).tile 0) ∧ (eng .lde copyIn).startable 0 .lde = some copyIn ∧ lsBad false copyIn (lsOf copyIn) = none
    ∧ (lsOf copyIn).bexp = false ∧ (lsOf copyIn).lsel = true ∧ (lsOf copyIn).rows = 2
    ∧ (eng .ste copyOut).startable 0 .ste = some copyOut ∧ lsBad true copyOut (lsOf copyOut) = none ∧ (lsOf copyOut).ssel = true := by
  unfold Quiet
  decide +kernel

/-- Two rows of 64 bytes in one space that do not meet. -/
theorem test_copy_within_store : (let d : Desc := { w0 := 0x10, w1 := 0x0000000001000100, w2 := 0x0000001000100000, w3 := 0x0000000001000000 }
    let x := lsOf d
    lsBad false d x = none ∧ x.lsel = false ∧ x.rows = 2 ∧ ∀ i, i < x.rows → ∀ j, j < x.rows →
      x.saddr + i * x.sstride + x.rlen ≤ x.laddr + j * x.lstride ∨ x.laddr + j * x.lstride + x.rlen ≤ x.saddr + i * x.sstride) := by
  decide +kernel

/-- A LOAD, a GATHER and a STORE of two rows at 0x200000 of local memory; the whole extent translates, and the last byte of the GiB too. -/
def loadD : Desc := { w0 := 0x08, w1 := 0x200000, w2 := 0x0000000000100000, w3 := 0x0000000000800001 }
def gatherD : Desc := { w0 := 0x18, w1 := 0x200000, w2 := 0x0000000000100000, w3 := 0x0020000000800001 }
def storeD : Desc := { w0 := 0x0B, w1 := 0x3FFFFFE0, w2 := 0, w3 := 0 }
theorem test_local_memory_commands :
    (eng .lde loadD).ctxOf 0 = some 0 ∧ (eng .lde loadD).startable 0 .lde = some loadD ∧ lsBad false loadD (lsOf loadD) = none
    ∧ (lsOf loadD).bexp = false ∧ (lsOf loadD).hint ≠ 3 ∧ (eng .lde loadD).mem.writes = []
    ∧ (∃ gs, ((eng .lde loadD).lsReach 0 0 false [0x200000, 0x200020] 32).1 = .go gs ∧ ∀ g ∈ gs, ((eng .lde loadD).localOf g).isSome = true)
    ∧ (List.range (lsOf loadD).rows).map (fun i => ((lsOf loadD).maddr + i * (lsOf loadD).mstride) % 2 ^ 64) = [0x200000, 0x200020]
    ∧ (eng .lde gatherD).startable 0 .lde = some gatherD ∧ lsBad false gatherD (lsOf gatherD) = none ∧ (lsOf gatherD).baddr = 0x1000
    ∧ (∃ gs, ((eng .ste storeD).lsReach 0 0 true [0x3FFFFFE0] 32).1 = .go gs ∧ ∀ g ∈ gs, ((eng .ste storeD).localOf g).isSome = true)
    ∧ (eng .ste storeD).startable 0 .ste = some storeD ∧ lsBad true storeD (lsOf storeD) = none ∧ (eng .ste storeD).fab.unsent = [] := by
  and_intros
  all_goals first | decide +kernel | exact ⟨_, rfl, by decide +kernel⟩

/-- A LOAD and a STORE of one row of tray member 1. -/
def trayD (e op : Nat) : Desc := { w0 := BitVec.ofNat 64 (e + 8 * op), w1 := 0x40000000 }
def traySeg : Seg := { va := 0x40000000, pa := 0x030000000000, len := 32, noalloc := false, kind := 1 }
def trayLoad : State := wordIs (eng .lde (trayD 0 1)) (clePage 0) 0x108 0
theorem test_tray_memory_commands :
    trayLoad.startable 0 .lde = some (trayD 0 1) ∧ lsBad false (trayD 0 1) (lsOf (trayD 0 1)) = none
    ∧ trayLoad.tlcOn 0 = false ∧ trayLoad.trayOf traySeg = some (1, 0) ∧ trayLoad.localOf traySeg = none
    ∧ (trayLoad.lsReach 0 0 false [0x40000000] 32).1 = .go [traySeg]
    ∧ trayLoad.cached (trayLoad.trayFlow 0 1) = none
    ∧ (eng .ste (trayD 3 1)).startable 0 .ste = some (trayD 3 1) ∧ lsBad true (trayD 3 1) (lsOf (trayD 3 1)) = none
    ∧ ((eng .ste (trayD 3 1)).lsReach 0 0 true [0x40000000] 32).1 = .go [traySeg] := by
  decide +kernel

def mmaD : Desc := { w0 := 0x09, w3 := 0x200000000000 }
def drainD : Desc := { w0 := 0x11, w1 := 0x400000000000 }
def rawD : Desc := { w0 := 0x1A, w1 := 0x1FC04000 }
theorem test_matrix_commands :
    (eng .mxe mmaD).startable 0 .mxe = some mmaD
    ∧ mmaBad mmaD (((eng .mxe mmaD).applyStaged (engPage 0 .mxe)).mmaFields 0 mmaD) = none
    ∧ (eng .mxe drainD).startable 0 .mxe = some drainD ∧ drainBad ((eng .mxe drainD).tile 0) drainD (drainOf drainD) = none ∧ (drainOf drainD).uen = true
    ∧ (let s := wordIs (eng .vxe rawD) (seqPage 0) 0x110 (resetWord (seqPage 0) 0x110 ||| 0x10)
       s.startable 0 .vxe = some rawD ∧ rawaccBad rawD ((s.raw (seqPage 0) 0x110).getLsbD 4) = none ∧ rawD.w1.toNat / 2 ^ 22 % 2 ^ 7 + 1 = 128) := by
  decide +kernel

/-- A RUN of a program that stores input 0 to output 0, its rows apart, and a LOADP of one instruction. -/
def runD : Desc := { w0 := 0x0A, w1 := 0x40000000000 }
def loadpD : Desc := { w0 := 0x12, w1 := 0x20000 }
def storeIn : Word := 0x48 + 16 * 2 ^ 12
theorem test_vector_commands :
    (let s := eng .vxe runD { slots := [(0, [storeIn])] }
     s.startable 0 .vxe = some runD ∧ runBad (s.tile 0) runD (runOf runD) = none ∧ usesOut ((s.tile 0).prog 0) 0 = true
       ∧ (runOf runD).rows = 1)
    ∧ (eng .vxe loadpD).startable 0 .vxe = some loadpD ∧ loadpBad loadpD = none ∧ (einsOf 0).legal = true := by
  decide +kernel

/-- Remote operations on 32 bytes at offset 0 and in the last 32 of an 8 KiB block of package 1. -/
def xceD (op : Nat) (off : Word) : Desc :=
  { w0 := BitVec.ofNat 64 (4 + 8 * op), w1 := 0x4002000000000000 + off, w2 := if op = 3 then 0x2200001000000000 else 0x1000000000, w3 := if op = 4 then 2 else 0 }
theorem test_remote_commands : ∀ r ∈ [(1, (0 : Word)), (2, 8160), (3, 0), (4, 0), (7, 8160)],
    let s := eng .xce (xceD r.1 r.2)
    let x := xceOf (xceD r.1 r.2)
    s.ctxOf 0 = some 0 ∧ s.startable 0 .xce = some (xceD r.1 r.2) ∧ xceBad (xceD r.1 r.2) x = none ∧ s.fab.unsent = [] ∧ x.raddr.toNat / 2 ^ 62 = 1
    ∧ x.raddr.getLsbD 48 = false ∧ x.raddr.toNat % 2 ^ 13 + x.len ≤ 8192 ∧ x.flag = false ∧ s.cached x.flow = none ∧ x.flow = 1
    ∧ s.admitCode 0 [(x.flow, x.raddr.toNat / 2 ^ 49 % 2 ^ 13, 1)] = none
    ∧ (r.1 = 4 → (List.range 4).filter (fun m => decide (x.mask / 2 ^ m % 2 = 1)) = [1] ∧ s.admitCode 0 [(1, 1, 1)] = none) := by
  decide +kernel

theorem test_send_and_fence :
    (let d : Desc := { w0 := 0x2C, w1 := 0x40030000000000FF, w2 := 0x1000000000 }
     let s := eng .xce d
     let x := xceOf d
     s.startable 0 .xce = some d ∧ xceBad d x = none ∧ x.raddr.toNat / 2 ^ 62 = 1 ∧ x.raddr.getLsbD 48 = true ∧ x.raddr.toNat % 2 ^ 48 = 255
       ∧ s.cached x.flow = none ∧ s.admitCode 0 [(x.flow, x.raddr.toNat / 2 ^ 49 % 2 ^ 13, 1)] = none)
    ∧ (let d : Desc := { w0 := 0x34, w2 := 0x40000 }
       (eng .xce d).startable 0 .xce = some d ∧ xceBad d (xceOf d) = none ∧ (xceOf d).allf = true) := by
  decide +kernel

def groupD : Desc := { w0 := 0x19, w1 := 0x40000000, w2 := 0x100000000 }
def tableSeg : Seg := { va := 0x40000000, pa := 0x030000000000, len := 128, noalloc := false, kind := 1 }
def groupS : State := wordIs (enabled (eng .mxe groupD) (trsPage 0)) (trsPage 0) 0x128 0x04000000
theorem test_group_starts : groupS.startable 0 .mxe = some groupD ∧ groupBad groupD = none ∧ groupS.admits (trsPage 0) = true
    ∧ ((groupS.applyStaged (engPage 0 .mxe)).applyStaged (trsPage 0)).stageBad 0 = false
    ∧ (groupS.reach 0 (some 0) 0x40000000 128 false).1 = .ok [tableSeg] ∧ groupS.trayOf tableSeg = some (1, 0)
    ∧ groupS.cached (groupS.trayFlow 0 1) = none := by
  decide +kernel

/-- Descriptors about to complete: with nothing to wait for, with a counter at its end and a record, and with a write to memory. -/
def doneF (w0 : Nat) : Flight := { id := 0, eng := .ste, desc := { w0 := BitVec.ofNat 64 w0 }, writes := [{ rf := true, addr := 0, data := [1] }] }
theorem test_completions : ∀ w0 ∈ [0, 0xFC00, 0x200],
    let s := wordIs (wordIs (tileIs ctxUp 0 { flights := [doneF w0], k := [(31, 0xFFFF)] }) (seqPage 0) 0x458 0x10000) (seqPage 0) 0x10 0x10009
    Works s 0 ∧ ((s.tile 0).flights.filter fun g => decide (g.eng = .ste)).head? = some (doneF w0)
    ∧ (s.tile 0).flights.find? (fun g => decide (g.id = (doneF w0).id)) = some (doneF w0) ∧ (doneF w0).left = 0 ∧ (doneF w0).waitFor = none
    ∧ (doneF w0).flag = none ∧ (doneF w0).phase ≠ 1 ∧ (doneF w0).sums = [] ∧ (s.crecRing 0 .ste).size = 1 := by
  unfold Works
  decide +kernel

/-- Scrubs that are on. -/
theorem test_scrubs : Works up 0 ∧ (wordIs up (engPage 0 .mxe) 0x10 0x10009).fld (engPage 0 .mxe) 0x408 0 1 = 1
    ∧ (wordIs up (tmonPage 0) 0x100 1).fld (tmonPage 0) 0x100 0 1 = 1 := by
  unfold Works
  decide +kernel

/-- Tile 0's Footstool running operation op over two scores at byte 0, with its list and mask beyond them. -/
def ftsUp (op : Nat) (sel : Selection := {}) (slotW : Word := 0) : State :=
  let s := tileIs up 0 { fts := some {}, sel := sel }
  let s := wordIs (wordIs (wordIs s (ftsPage 0) 0x100 (BitVec.ofNat 64 op)) (ftsPage 0) 0x108 0x800000) (ftsPage 0) 0x110 2
  wordIs (wordIs (wordIs s (ftsPage 0) 0x120 0x80000000) (ftsPage 0) 0x128 0x200) (ftsPage 0) 0x200 slotW
theorem test_footstool_runs : ∀ op ∈ [1, 2, 3, 4, 5, 6, 7], FtsRuns (ftsUp op) 0 op ((ftsUp op).ftsFields 0) := by
  unfold FtsRuns Works
  decide +kernel
theorem test_footstool_fields : let x := (ftsUp 2).ftsFields 0
    0 < x.f ∧ x.f = 2 ∧ x.gs % 32 = 0 ∧ x.list = 0x100 ∧ x.mask = 0x200 ∧ x.coff + x.cols ≤ x.f ∧ rfBad x = false
    ∧ x.gs + 4 * x.f ≤ storeBytes ∧ x.mask + (x.f + 255) / 256 * 32 ≤ storeBytes ∧ x.list + 4 * x.f ≤ storeBytes := by
  decide +kernel
/-- An audit of a held selection, and a closing whose test holds, at the edge of not holding, and in mode 0. -/
theorem test_footstool_slots :
    (let s := ftsUp 5 { valid := true, list := [1, 0], s := 1, a := 1 }
     let x := s.ftsFields 0
     FtsRuns s 0 5 x ∧ rfBad x = false ∧ (s.tile 0).sel.valid = true ∧ x.coff + x.cols ≤ (s.tile 0).sel.s + (s.tile 0).sel.a)
    ∧ (let s := wordIs (wordIs (ftsUp 7 {} 0x101) (ftsPage 0) 0x130 0xFFFF) (ftsPage 0) 0x138 1
       FtsRuns s 0 7 (s.ftsFields 0) ∧ s.fld (ftsPage 0) 0x200 0 2 = 1
         ∧ (s.raw (ftsPage 0) 0x130).toNat * s.fld (ftsPage 0) 0x200 8 16 < (s.raw (ftsPage 0) 0x138).toNat * 2 ^ 16)
    ∧ (let s := wordIs (wordIs (ftsUp 7 {} 0x101) (ftsPage 0) 0x130 0x10000) (ftsPage 0) 0x138 1
       s.fld (ftsPage 0) 0x200 0 2 = 1
         ∧ ¬ (s.raw (ftsPage 0) 0x130).toNat * s.fld (ftsPage 0) 0x200 8 16 < (s.raw (ftsPage 0) 0x138).toNat * 2 ^ 16) := by
  unfold FtsRuns Works
  decide +kernel

/-- Route operations of both kinds over one row of two scores, and one that is done. -/
def routeO (op : Nat) (done : Bool) : RouteOp := { cmd := BitVec.ofNat 64 op, rt0 := 0, rt1 := 0x4001, rt2 := 0x80000000, done := done }
theorem test_route_unit : ∀ r ∈ [(1, false), (2, false), (1, true)],
    let s := tileIs up 191 { route := some (routeO r.1 r.2) }
    let x := (routeO r.1 r.2).fields
    Works s 191 ∧ (s.tile 191).route = some (routeO r.1 r.2) ∧ x.kact ≤ x.kcand ∧ x.kcand ≤ x.e ∧ x.e = 2 ∧ x.out % 8 = 0 ∧ x.cnt % 32 = 0
    ∧ x.raddr + (x.rows - 1) * x.stride + x.e * (if x.bf16 then 2 else 4) ≤ rfBytes ∧ x.cnt + 4 * x.e ≤ storeBytes
    ∧ x.out + 8 * x.kcand * x.rows ≤ storeBytes := by
  unfold Works
  decide +kernel

/-- The Sideboard with its four pages enabled and a job in front: misaligned, and in tray memory; and jobs that are done. -/
def sbdUp (x : Sbd) : State := { (List.range 4).foldl (fun s d => enabled s (sbdPage d)) ctxUp with sbd := x }
def sbdSeg : Seg := { va := 0x40000000, pa := 0x030000000000, len := 144, noalloc := false, kind := 1 }
def sbdWrite : MWrite := { id := sbdMem, addr := 4096, data := [1, 2], hint := 0, alloc := true }
theorem test_sideboard_jobs :
    Awake (sbdUp {}) ∧ bur.source = .bureau ∧ (sbdUp {}).sbdAdmits = true ∧ (sbdUp {}).sbd.queue.length < (sbdUp {}).qMax
    ∧ (sbdUp { queue := [{ addr := 0x40000008, ctx := 0 }] }).sbdAdmits = true
    ∧ 0 ∉ (sbdUp {}).upe.halted
    ∧ ((sbdUp { queue := [{ addr := 0x40000000, ctx := 0 }] }).reach 0 (some 0) 0x40000000 144 false).1 = .ok [sbdSeg]
    ∧ (sbdUp {}).trayOf sbdSeg = some (1, 0) ∧ (sbdUp {}).cached ((sbdUp {}).trayFlow 0 1) = none
    ∧ (let s := { sbdUp { running := some { job := { addr := 0, ctx := 0 }, phase := 3 } } with mem := { writes := [sbdWrite] } }
       s.sbd.running = some { job := { addr := 0, ctx := 0 }, phase := 3 } ∧ (s.mem.writes.filter fun w => decide (w.id = sbdMem)) = [sbdWrite]) := by
  unfold Awake
  decide +kernel

/-- The Bureau reaches every page; blocks of each kind, idle and busy, quiesced and not. -/
theorem test_pages_reached : ∀ n ∈ List.range 1781, n < 1728 → up.pkg.powered.getLsbD (quadOf (n / 9)) = true := by
  decide +kernel
theorem test_page_states :
    ByBureau up bur 0 ∧ ByBureau up bur 1780
    ∧ blockOf (engPage 0 .lde) = .lde ∧ (tileIs up 0 { flights := [{ id := 0, eng := .lde, desc := {} }] }).busy (engPage 0 .lde) = true
    ∧ up.busy (engPage 0 .lde) = false ∧ (up.page 0).quiesced = false ∧ blockOf (seqPage 0) = .seq
    ∧ ((up.modPage (engPage 0 .lde) fun p => { p with quiesced := true }).page (engPage 0 .lde)).quiesced = true
    ∧ (up.page 5).heldGo = false ∧ (up.page 5).readyFlows = [] ∧ up.fab.unsent = [] ∧ up.fab.held = [] := by
  unfold ByBureau Awake
  decide +kernel

/-- A field write of each block that the statement names; and a write by a context of a page that is not its own, from a host and a tile. -/
theorem test_field_writes :
    (∀ n ∈ [engPage 0 .lde, engPage 0 .mxe, engPage 0 .vxe, engPage 0 .ste, engPage 0 .xce, tmonPage 0, thmPage, telPage],
      blockOf n = .lde ∨ blockOf n = .mxe ∨ blockOf n = .vxe ∨ blockOf n = .ste ∨ blockOf n = .xce ∨ blockOf n = .tmon ∨ blockOf n = .thm ∨ blockOf n = .tel)
    ∧ (BitVec.ofNat 64 (pageAddr (engPage 0 .lde) 0x100)).toNat = pageAddr (engPage 0 .lde) 0x100
    ∧ up.roleOf { source := .host0, role := some 3 } = some 3 ∧ up.ownsPage 3 0 = false ∧ up.reaches { source := .host0, role := some 3 } = true
    ∧ ctxUp.roleOf { source := .tile 0, role := some 0 } = some 0 ∧ ctxUp.ownsPage 0 36 = false ∧ ctxUp.tileRuns 0 = true := by
  decide +kernel

/-- Words put at a local address. -/
def dataAt (s : State) (a : Nat) (ws : List Word) : State := s.modMem fun m => { m with hbm := putBytes m.hbm a (bytesOf ws) }
/-- A range of local memory whose virtual and physical addresses are the same. -/
def seg (a n : Nat) : Seg := { va := a, pa := a, len := n, noalloc := false, kind := 0 }
def nth (n : Nat) (xs : List (Nat × Word)) : List Word := (List.range n).map fun i => Tab.get 0 xs i

/-! ## Base-die engines -/

/-- Ring 0 of context 0 on stack 0 with one job at 0x1000. -/
def upeUp (ws : List (Nat × Word)) (g : Ring := {}) (u : Upe := {}) : State :=
  { dataAt (dataAt (enabled ctxUp (upePage 0)) 0x1000 (nth 32 ws)) 0x2000 [storeIn] with
    upe := { u with rings := [(0, { g with base := 0x1000, jobs := 1, en := true })] } }
def jobW : List (Nat × Word) := [(0, 1), (1, 1), (2, 0x2000), (10, 0x3000), (22, 0x4000)]
theorem test_ring_tables :
    ByBureau (upeUp []) bur (upePage 0) ∧ (upeUp []).busy (upePage 0) = false ∧ (0xFFFFFFFFFFFFF : BitVec 52).toNat + 32768 > hbmBytes
    ∧ (upeUp []).upeBusyFor 0 0 = false ∧ (upeUp [] {} { run := [(0, some { ctx := 0, ring := 0, idx := 0 })] }).upeBusyFor 0 0 = true
    ∧ ((upeUp []).ring 0 0).jobs = 1 ∧ ((upeUp []).ring 0 4).en = false
    ∧ ((upeUp []).reach 0 (some 0) 0x1040 4 true).1 = .ok [seg 0x1040 4] ∧ (upeUp []).localOf (seg 0x1040 4) = some 0x1040
    ∧ (∀ r ∈ List.range 8, r % 4 = 1 → ((upeUp []).ring 0 r).en = false) := by
  unfold ByBureau Awake
  decide +kernel

/-- The job's descriptor and its READY word are local; its head is met with a bad PHASE, a failed interval test and a passed one. -/
theorem test_job_heads :
    (∀ ws ∈ [jobW, [(0, 0x0001000100000001)], [(0, 0x0000000200000001)]],
      let s := upeUp ws
      Awake s ∧ s.upeHeld 0 0 = false ∧ (s.ring 0 0).live = true ∧ (s.ring 0 0).head = none ∧ s.mem.writes = [] ∧ s.fab.unsent = []
      ∧ (s.reach 0 (some 0) (s.ring 0 0).at 256 false).1 = .ok [seg 0x1000 256] ∧ s.localOf (seg 0x1000 256) = some 0x1000
      ∧ s.segsHeld [seg 0x1000 256] = false ∧ (s.reach 0 (some 0) ((s.ring 0 0).at + 64) 4 true).1 = .ok [seg 0x1040 4]
      ∧ s.segsHeld [seg 0x1040 4] = false)
    ∧ (let w := (descAt (upeUp jobW) 0x1000).getD 0 0
       w.toNat / 2 ^ 48 < max 1 (w.toNat / 2 ^ 32 % 2 ^ 16)
         ∧ ((upeUp jobW).stepOf 0 0).toNat % max 1 (w.toNat / 2 ^ 32 % 2 ^ 16) = w.toNat / 2 ^ 48)
    ∧ (let w := (descAt (upeUp [(0, 0x0001000100000001)]) 0x1000).getD 0 0
       max 1 (w.toNat / 2 ^ 32 % 2 ^ 16) ≤ w.toNat / 2 ^ 48)
    ∧ (let w := (descAt (upeUp [(0, 0x0000000200000001)]) 0x1000).getD 0 0
       w.toNat / 2 ^ 48 < max 1 (w.toNat / 2 ^ 32 % 2 ^ 16)
         ∧ ((upeUp [(0, 0x0000000200000001)]).stepOf 0 0).toNat % max 1 (w.toNat / 2 ^ 32 % 2 ^ 16) ≠ w.toNat / 2 ^ 48) := by
  unfold Awake
  decide +kernel

/-- A released job of one input and one output, all of it local, and one with a bad descriptor. -/
theorem test_job_starts :
    (let s := upeUp jobW { head := some 0 }
     let ws := descAt s 0x1000
     let p := (wordsOf 1 (s.mem.bytes 0x2000 8)).map einsOf
     s.upeRun 0 = none ∧ (s.ring 0 0).head = some ((ws.getD 8 0).toNat % 2 ^ 32) ∧ ws.getD 3 0 = 0
     ∧ inTurn (Tab.get 0 s.upe.turn 0 / 32) (Tab.get 0 s.upe.turn 0 % 32) (s.released 0) = some (ringKey 0 0)
     ∧ upeBadWords ws = false ∧ (p.findIdx? fun i => !i.upeLegal) = none ∧ progKinds p false = []
     ∧ (upeStreams ws 0 p).map (fun x => (x.k, x.addr, x.bytes 1, x.bad 1 0)) = [(0, 0x3000, 4, false), (6, 0x4000, 4, false)]
     ∧ (s.reach 0 (some 0) 0x2000 8 false).1 = .ok [seg 0x2000 8] ∧ (s.reach 0 (some 0) 0x3000 4 false).1 = .ok [seg 0x3000 4]
     ∧ (s.reach 0 (some 0) 0x4000 4 true).1 = .ok [seg 0x4000 4] ∧ s.segsHeld [seg 0x4000 4] = false
     ∧ (s.reach 0 (some 0) (ws.getD 6 0).toNat 0 false).1 = .ok [])
    ∧ (let s := upeUp [(0, 0x401)] { head := some 0 }
       upeBadWords (descAt s 0x1000) = true
       ∧ inTurn (Tab.get 0 s.upe.turn 0 / 32) (Tab.get 0 s.upe.turn 0 % 32) (s.released 0) = some (ringKey 0 0)) := by
  decide +kernel

/-- A skipped job whose DONE word lies in a controller that does not admit waits (R41, R256). -/
def doneFar : State := wordIs (dataAt (upeUp [(0, 0x0000000200000001), (3, 0x40000000)]) 8 [0x900000087]) (hmcPage 1) 0x010 0
theorem test_head_waits :
    doneFar.headHeld 0 0 0 (wordsOf 4 (doneFar.mem.bytes 0x1000 256)) = true ∧ doneFar.upeHeld 0 0 = false
    ∧ (match exec (.upeJobHead 0 0 0) doneFar with | .next t => decide ((t.ring 0 0).pos = 0) | _ => false) = true
    ∧ (match exec (.upeJobHead 0 0 0) (wordIs doneFar (hmcPage 1) 0x010 1) with | .next t => decide ((t.ring 0 0).pos = 1) | _ => false) = true := by
  decide +kernel

/-- A finished job, without and with a DONE word. -/
def upeM : MWrite := { id := upeMem 0, addr := 0x4000, data := [1, 2, 3, 4], hint := 0, alloc := false }
def finished (d : Word) : State :=
  { upeUp [] { head := some 0 } { run := [(0, some { ctx := 0, ring := 0, idx := 0, phase := 4, words := [1, 1, 0, d] })] } with
    mem := { (dataAt (upeUp []) 0 [0x87]).mem with writes := [upeM] } }
theorem test_job_completes : ∀ d ∈ [0, 0x5000],
    let s := finished (BitVec.ofNat 64 d)
    Awake s ∧ (s.upeRun 0).map (fun j => (j.phase, j.left, j.sum, j.words.getD 3 0)) = some (4, 0, none, BitVec.ofNat 64 d)
    ∧ s.mem.writes = [upeM] ∧ ((s.flushWrites (some 0) (upeMem 0)).reach 0 (some 0) 0x1040 4 true).1 = .ok [{ seg 0x1040 4 with noalloc := true }]
    ∧ (((s.flushWrites (some 0) (upeMem 0)).storeAny 0 0 (upePage 0) 0x1040 0 (toBytes 4 0)).2.reach 0 (some 0) 0x5000 8 true).1
        = .ok [{ seg 0x5000 8 with noalloc := true }] := by
  unfold Awake
  decide +kernel

/-- Queue 0 of context 0 on stack 0 with one step at 0x1000. -/
def cleUp (ws : List (Nat × Word)) (runs : List CleRun := []) : State :=
  { dataAt (enabled ctxUp (clePage 0)) 0x1000 (nth 16 ws) with cle := { queues := [(0, { base := 0x1000, steps := 1 })], runs := runs } }
theorem test_plan_tables :
    ByBureau (cleUp []) bur (clePage 0) ∧ (cleUp []).busy (clePage 0) = false ∧ (cleUp []).cleBusyFor 0 0 = false
    ∧ (cleUp [] [{ stack := 0, ctx := 0, q := 0, idx := 0 }]).cleBusyFor 0 0 = true
    ∧ (∀ q ∈ List.range 8, q % 4 = 1 → (((cleUp []).cleQ 0 q).bad = true ∨ ((cleUp []).cleQ 0 q).steps = 0)) := by
  unfold ByBureau Awake
  decide +kernel

/-- Steps that are refused, skipped and started: an XFER of one FP32 element. -/
def xferW : List (Nat × Word) := [(0, 0x201), (3, 1), (4, 0x3000), (5, 0x4000), (6, 1)]
theorem test_steps_start :
    (∀ ws ∈ [xferW, [(1, 0x0000000100010000)], [(1, 0x0000000000020000)]],
      let s := cleUp ws
      Awake s ∧ s.cleHeld 0 0 = false ∧ (s.cleQ 0 0).live = true ∧ s.fab.unsent = [] ∧ s.mem.writes = [] ∧ s.cleRun 0 0 0 = none
      ∧ (s.cle.runs.filter fun j => decide (j.stack = 0)).length < s.maxSteps 0
      ∧ (s.reach 0 (some 0) 0x1000 128 false).1 = .ok [seg 0x1000 128] ∧ (s.reach 0 (some 0) 0x1010 4 true).1 = .ok [seg 0x1010 4]
      ∧ s.segsHeld [seg 0x1000 128] = false
      ∧ (let x := stepFields (wordsOf 16 (s.mem.bytes 0x1000 128))
         x.done = 0 ∧ x.release = 0 ∧ x.notify = false ∧ x.sbjob = 0))
    ∧ (let x := stepFields (nth 16 [(1, 0x0000000100010000)])
       x.interval ≤ x.phase)
    ∧ (let x := stepFields (nth 16 [(1, 0x0000000000020000)])
       x.phase < x.interval ∧ ((cleUp []).stepOf 0 0).toNat % x.interval ≠ x.phase)
    ∧ (let s := cleUp xferW
       let ws := wordsOf 16 (s.mem.bytes 0x1000 128)
       let x := stepFields ws
       x.phase < x.interval ∧ (s.stepOf 0 0).toNat % x.interval = x.phase ∧ x.nready = x.ready
       ∧ inTurn (Tab.get 0 s.cle.turn 0) 0 (s.cleReleased 0) = some (ringKey 0 0) ∧ stepBad ws x = false
       ∧ (s.reachAll 0 (some 0) false x.reads).1 = .inr [[seg 0x3000 4]] ∧ (s.reachAll 0 (some 0) true x.writes).1 = .inr []
       ∧ x.op = 1 ∧ s.cleFlowOk 0 x.flow = true) := by
  unfold Awake
  decide +kernel

/-- A running step with the words of a descriptor. -/
def runOn (ws : List (Nat × Word)) (j : CleRun := { stack := 0, ctx := 0, q := 0, idx := 0 }) : State :=
  cleUp [] [{ j with words := nth 16 ws }]
theorem test_steps_complete : ∀ ws ∈ [[(0, 0x201)], [(0, 0x201), (15, 0x2000)]],
    let s := runOn ws { stack := 0, ctx := 0, q := 0, idx := 0, begun := true }
    (s.cleRun 0 0 0).map (fun j => (j.begun, j.left, j.todo, j.cntTo, j.f.done, j.f.release, j.f.notify)) = some (true, 0, [], [], 0, 0, false)
    ∧ (s.reach 0 (some 0) 0x1010 4 true).1 = .ok [seg 0x1010 4] := by
  decide +kernel
/-- A PERM that has still to tell member 1, in a group whose member 0 is this package. -/
theorem test_perm_completes :
    let s := dataAt (runOn [(0, 3), (3, 2), (6, 0)] { stack := 0, ctx := 0, q := 0, idx := 0, begun := true, cntTo := [1] }) 0x100000 [1]
    (s.cleRun 0 0 0).map (fun j => (j.cntTo, s.ownMember j.f, s.cached (j.f.flow + 1))) = some ([1], some 0, none)
    ∧ Tab.get 0 s.cle.dbase 0 = 0 := by
  decide +kernel

/-- XFERs of one chunk at once and behind a count word that has reached LNEED, and one short of it. -/
theorem test_transfers :
    (let s := runOn xferW
     let x := stepFields (nth 16 xferW)
     Awake s ∧ (s.cleRun 0 0 0).map (fun j => (j.f, j.phase, j.gather, j.begun)) = some (x, 0, 0, false) ∧ x.op = 1 ∧ x.lneed = 0 ∧ x.chunks = 1
       ∧ x.zero = false ∧ s.cached x.flow = none ∧ (s.reach 0 (some 0) x.src (x.chunkLen 0 * x.local) false).1 = .ok [seg 0x3000 4])
    ∧ (∀ r ∈ [(1, true), (2, false)],
       let s := dataAt (runOn ((1, 0x0002000000000000) :: (9, 0x5000) :: xferW) { stack := 0, ctx := 0, q := 0, idx := 0, begun := true, todo := [0] })
         0x5000 [BitVec.ofNat 64 ((cleUp []).stampOf 0 0 + r.1)]
       let x := stepFields (nth 16 ((1, 0x0002000000000000) :: (9, 0x5000) :: xferW))
       x.lneed = 2 ∧ x.op = 1 ∧ decide (s.countOf 0 0 (ofBytes (s.mem.bytes 0x5000 4)) < x.lneed) = r.2
         ∧ (s.reach 0 (some 0) x.ocnt 4 false).1 = .ok [seg 0x5000 4]) := by
  unfold Awake
  decide +kernel

/-- ADDs of one BF16 element of one contribution whose count has arrived, with ROP and without. -/
def addW (rop : Nat) : List (Nat × Word) :=
  [(0, BitVec.ofNat 64 (2 + rop * 2 ^ 4 + 5 * 2 ^ 7 + 2 ^ 19)), (3, 1), (5, 0x4000), (8, 0x5000), (9, 0x6000), (10, 0x3000)]
theorem test_adds : ∀ r ∈ [(0, 2), (2, 4)],
    let s := dataAt (runOn (addW r.1) { stack := 0, ctx := 0, q := 0, idx := 0, begun := true, todo := [0] }) 0x5000 [BitVec.ofNat 64 ((cleUp []).stampOf 0 0 + 1)]
    let x := stepFields (nth 16 (addW r.1))
    x.op = 2 ∧ x.rop = r.1 ∧ x.loc = false ∧ s.countOf 0 0 (ofBytes (s.mem.bytes 0x5000 4)) = x.nin
    ∧ (s.reach 0 (some 0) (x.contrib + 0 * x.slotBytes) (x.chunkLen 0 * x.wire) false).1 = .ok [seg 0x3000 (x.chunkLen 0 * x.wire)]
    ∧ (s.reach 0 (some 0) x.dst 4 true).1 = .ok [seg 0x4000 4] ∧ x.chunkLen 0 * x.outW = r.2
    ∧ ({ s with mem := s.mem.put 0x4000 [1, 2, 3, 4] }.reach 0 (some 0) x.ocnt 4 true).1 = .ok [seg 0x6000 4] := by
  decide +kernel

/-- A PERM of one row of 32 bytes, for this member and for member 1. -/
def permW : List (Nat × Word) := [(0, 3), (3, 2), (4, 0x3000), (5, 0x4000), (6, 0), (11, 0x2000)]
theorem test_permutations : ∀ dest ∈ [0, 1],
    let s := dataAt (dataAt (runOn permW) 0x100000 [1]) 0x2000 [1, 32, 0, 0, BitVec.ofNat 64 (2 ^ 32 + dest), 0, 0, 0]
    let x := stepFields (nth 16 permW)
    let rec' := permRec (s.mem.bytes 0x2020 32)
    x.op = 3 ∧ x.rev = false ∧ x.pass2 = false ∧ x.stage = 0 ∧ x.half rec' = true ∧ rec'.dest = dest ∧ rec'.count = 1 ∧ rec'.inp = false
    ∧ rec'.list = false ∧ (s.reach 0 (some 0) rec'.laddr 0 false).1 = .ok [] ∧ s.ownMember x = some 0
    ∧ (∀ m ∈ List.range x.count, s.cleFlowOk 0 (x.flow + m) = true) ∧ s.cached (x.flow + 1) = none
    ∧ (s.reach 0 (some 0) 0x2000 32 false).1 = .ok [seg 0x2000 32] ∧ (s.reach 0 (some 0) 0x2020 32 false).1 = .ok [seg 0x2020 32]
    ∧ (s.reach 0 (some 0) (x.src + rec'.srcrow * x.spitch) 32 false).1 = .ok [seg 0x3000 32]
    ∧ (s.reach 0 (some 0) (x.dst + rec'.dstrow * x.dpitch) 32 true).1 = .ok [seg 0x4000 32] := by
  decide +kernel

/-- A FETCH of one expert of 4 KiB held by member 1. -/
def fetchW : List (Nat × Word) := [(0, 4), (5, 0x4000), (6, 0), (9, 0x6000), (11, 0x2000)]
theorem test_fetches :
    let s := dataAt (runOn fetchW) 0x2000 [0, 0, 0, 0, 1, 0, 0, 0, 2 ^ 11, 1, 0x0002000000007000, 0]
    let x := stepFields (nth 16 fetchW)
    let rec' := fetchRec (s.mem.bytes 0x2040 32)
    x.op = 4 ∧ ofBytes (s.mem.bytes 0x2020 4) = 1 ∧ rec'.owner = 1 ∧ rec'.bytes = 4096 ∧ rec'.coord = 1 ∧ rec'.va = 0x7000
    ∧ s.cleFlowOk 0 (x.flow + 1) = true ∧ (s.flowNow (x.flow + 1)).peer = rec'.coord ∧ s.cached (x.flow + 1) = none
    ∧ (s.reach 0 (some 0) 0x2020 32 false).1 = .ok [seg 0x2020 32] ∧ (s.reach 0 (some 0) 0x2040 32 false).1 = .ok [seg 0x2040 32]
    ∧ (s.reach 0 (some 0) (x.dst + rec'.slot) 4096 true).1 = .ok [seg 0x4000 4096]
    ∧ (s.reach 0 (some 0) x.ocnt 4 true).1 = .ok [seg 0x6000 4] := by
  decide +kernel

/-- Member 1 builds a packet for this package on flow 1 under context 0's key; it waits to be handled, flow 1's entry cached with its reply area at
2 MiB. Context 0's memory is not cached, as no run of these tests depends on how the cache places a line. -/
def flow1 : Flow := { w0 := 0x401, w5 := 0x200000 }
def form (pop : Nat) (w2 : Word) (data : List Byte) : Form := { pop := pop, flow := 1, fgen := 0, owner := 1, target := 0, w2 := w2, data := data, arg := data }
def request (f : Form) : Inbound := { port := some 0, die := 0, pkt := ctxUp.build 7 f }
def fabUp (x : Inbound) : State :=
  let s := enabled (enabled (dataAt ctxUp 0 [0x87]) (rtrPage 0)) (fltPage 1)
  { s with fab := { s.fab with inbound := [x], cache := [(1, some flow1)] } }
/-- What a bulk request opens to. -/
def opened (f : Form) : Opened := { w2 := f.w2, fgen := 0, owner := f.owner, tsel := false, len := bits (request f).pkt.w0 43 8, data := f.data }

/-! ## Fabric -/

/-- Ports: down and due to retrain, training, up, at its last replay, disabled. -/
def portUp (p : Port) : State := let s := ctxUp; { s with time := 1000000000, fab := { s.fab with ports := [(0, p), (1, p), (5, p)] } }
theorem test_link_cases : ByBureau (portUp {}) bur (rtrPage 0) ∧ (portUp {}).fab.held = []
    ∧ ((portUp { state := .up, width := 24 }).port 5).isUp = true ∧ ((portUp { state := .reduced, width := 8 }).port 5).isUp = true
    ∧ ((portUp { state := .up, replays := 6 }).port 0).replays + 1 < max 1 ((portUp {}).fld (rtrPage 0) 0x400 0 4)
    ∧ max 1 ((portUp {}).fld (rtrPage 0) 0x400 0 4) ≤ ((portUp { state := .up, replays := 7 }).port 0).replays + 1
    ∧ ((portUp {}).port 0).state = .down
    ∧ ((portUp {}).port 0).downAt + max 1 ((portUp {}).fld (rtrPage 0) 0x400 8 8) * 1000000 ≤ (portUp {}).time
    ∧ ((portUp { state := .training }).port 0).state = .training ∧ ((portUp { state := .disabled }).port 0).state = .disabled := by
  unfold ByBureau Awake
  decide +kernel

/-- Packets at port 0: malformed, at the hop limit, for this position, on its way, without a way. -/
def pktAt (dst hops : Nat) (bad : Nat := 0) : Packet :=
  { w0 := BitVec.ofNat 64 (hops * 2 ^ 6 + dst * 2 ^ 12 + 1 * 2 ^ 38 + bad), w1 := 0, w2 := 0, w3 := 0, body := List.replicate 32 0, ccrc := 0, tag := 0 }
def upPort : Port := { state := .up, width := 24 }
theorem test_packet_cases :
    Awake (portUp upPort) ∧ ((portUp upPort).port 0).isUp = true ∧ malformed (pktAt 0 0 2) = true
    ∧ (malformed (pktAt 0 63) = false ∧ max 33 ((portUp upPort).fld (rtrPage 0) 0x400 16 6) ≤ pktHops (pktAt 0 63))
    ∧ (malformed (pktAt 0 32) = false ∧ pktHops (pktAt 0 32) < max 33 ((portUp upPort).fld (rtrPage 0) 0x400 16 6)
        ∧ pktDst (pktAt 0 32) = (portUp upPort).here)
    ∧ (portUp upPort).hopOf (pktAt 1 0) = .out 1 0 ∧ (portUp { state := .down }).hopOf (pktAt 1 0) = .drop := by
  unfold Awake
  decide +kernel

/-- Requests without an answer: to be resent, at the limit, and waiting after a quiesce; a flow entry to be filled; an invalidation with and without
outstanding requests. -/
def aReq (k : Nat) (w : Bool) : Req :=
  { flow := 1, seq := 5, pop := 1, resend := k, ctx := 0, owner := .upe 0, waiting := w, page := upePage 0 }
def reqUp (r : Req) : State := let s := ctxUp; { s with time := 2 ^ 40, fab := { s.fab with reqs := [r], cache := [(1, some flow1)] } }
theorem test_flow_cases :
    (∀ r ∈ [(6, false), (7, false), (0, true)], let s := reqUp (aReq r.1 r.2)
      Awake s ∧ (s.fab.reqs.find? fun x => decide (x.flow = 1 ∧ x.seq = 5 % 2 ^ 32)) = some (aReq r.1 r.2) ∧ s.cached 1 = some flow1
      ∧ (aReq r.1 r.2).sentAt + flow1.timeoutNs ≤ s.time ∧ flow1.resendMax = 7 ∧ (flow1.next + 2 ^ 32 - flow1.low) % 2 ^ 32 < 64
      ∧ (s.keyOf flow1).isSome = true)
    ∧ (let s := { ctxUp with fab := { ctxUp.fab with missing := [1] } }
       1 ∈ s.fab.missing ∧ s.mem.writes = [] ∧ (s.dieFlows 1).length < 16384 ∧ s.fab.unsent = []
         ∧ (s.keyOf (flowOfWords (wordsOf 8 (s.peek (s.flowAddr 1) 64)))).isSome = true)
    ∧ ByBureau ctxUp bur (fltPage 0)
    ∧ (let s := { ctxUp with fab := { ctxUp.fab with cache := [(1, some flow1)], invalid := some (some 1, 0) } }
       s.namedFlows (some 1, 0) = [(1, flow1)] ∧ flow1.pinned = false ∧ s.cached 1 = some flow1)
    ∧ (let s := { ctxUp with fab := { ctxUp.fab with cache := [(1, some { flow1 with w1 := 1 })], invalid := some (none, 0) } }
       (s.namedFlows (none, 0)).any (fun y => y.2.pinned) = true) := by
  unfold ByBureau Awake
  decide +kernel

/-- A bulk request that arrives passes the checks as new: PUT, RED with both kinds of operation, SEND, COLL and MIRROR. -/
theorem test_bulk_arrives : ∀ r ∈ [(1, 0x4000), (4, 0x0042000000004000), (4, 0x0144000000004000), (5, 0x1000000000000), (10, 0x4000), (11, 0x4000)],
    Arrived (fabUp (request (form r.1 (BitVec.ofNat 64 r.2) (List.replicate 64 0)))) r.1 (request (form r.1 (BitVec.ofNat 64 r.2) (List.replicate 64 0))) flow1
      (opened (form r.1 (BitVec.ofNat 64 r.2) (List.replicate 64 0))) := by
  intro r hr
  simp only [List.mem_cons, List.not_mem_nil, or_false] at hr
  unfold Arrived Awake
  rcases hr with rfl | rfl | rfl | rfl | rfl | rfl <;>
  · refine ⟨by decide +kernel, rfl, by decide +kernel, by decide +kernel, by decide +kernel, ?_⟩
    refine checkReq_bulk _ ctxUp 7 (form _ _ _) _ _ flow1 rfl rfl ?_ ?_ ?_ ?_ ?_ ?_ ?_ ?_ ?_
    all_goals first | decide +kernel | (unfold SameNonce; decide +kernel) | (unfold NewTo; decide +kernel)

/-- A cell request likewise: GET, FLAG and INVAL. -/
theorem test_cell_arrives : ∀ r ∈ [(2, 0x4000), (6, 0), (7, 0x4000)],
    Arrived (fabUp (request (form r.1 (BitVec.ofNat 64 r.2) [0, 0x40, 0, 0, 0, 0, 0, 0, 1, 0, 0, 0]))) r.1
      (request (form r.1 (BitVec.ofNat 64 r.2) [0, 0x40, 0, 0, 0, 0, 0, 0, 1, 0, 0, 0])) flow1
      (cellOpened (form r.1 (BitVec.ofNat 64 r.2) [0, 0x40, 0, 0, 0, 0, 0, 0, 1, 0, 0, 0]) false) := by
  intro r hr
  simp only [List.mem_cons, List.not_mem_nil, or_false] at hr
  unfold Arrived Awake
  rcases hr with rfl | rfl | rfl <;>
  · refine ⟨by decide +kernel, rfl, by decide +kernel, by decide +kernel, by decide +kernel, ?_⟩
    refine checkReq_cell _ ctxUp 7 (form _ _ _) _ _ flow1 rfl rfl ?_ ?_ ?_ ?_ ?_ ?_ ?_
    all_goals first | decide +kernel | (unfold SameNonce; decide +kernel) | (unfold NewTo; decide +kernel)

/-- Their ranges translate or do not, and the blocks they need admit. -/
theorem test_request_ranges :
    let x := request (form 1 0x4000 (List.replicate 64 0))
    let s := fabUp x
    (s.targetSegs 0 flow1 0x4000 64 true).1 = some [(0x4000, 64, true)] ∧ (s.targetSegs 0 flow1 0x80000000 64 true).1 = none
    ∧ (s.targetSegs 0 flow1 0x4000 32 false).1 = some [(0x4000, 32, true)] ∧ (s.targetSegs 0 flow1 0x4000 4 true).1 = some [(0x4000, 4, true)]
    ∧ AllAdmit s (reqPages x [(0x4000, 64, true)])
    ∧ (reqPages x [(0x4000, 64, true)]).find? (fun n => !(wordIs s (rtrPage 0) 0x10 0x10000).admits n) = some (rtrPage 0)
    ∧ (∀ r ∈ [(0x0042000000004000, 1, 0), (0x0144000000004000, 2, 4)], (opened (form 4 (BitVec.ofNat 64 r.1) (List.replicate 64 0))).w2.toNat / 2 ^ 49 % 2 ^ 3 = r.2.1
        ∧ redOk r.2.1 r.2.2 = true ∧ 0x4000 % redWidth r.2.2 = 0 ∧ (BitVec.ofNat 64 r.1).getLsbD 56 = decide (r.2.1 = 2))
    ∧ (s.translate 0 (some 0) 0x4000 0x4000 false).1 = some [{ seg 0x4000 0x4000 with noalloc := true }] := by
  unfold AllAdmit
  and_intros
  all_goals decide +kernel

/-- A combining queue of two sums for one place. -/
def comb (seq : Nat) : Combined :=
  { flow := 1, ctx := 0, pkt := (ctxUp.build 7 { form 4 0x0144000000004000 (List.replicate 32 0) with seq := seq }), plain := List.replicate 32 0, pa := 0x4000
    owner := 1, die := 0, w2 := 0x0144000000004000 }
theorem test_combine_case : let s := { fabUp (request (form 1 0 [])) with fab := { (fabUp (request (form 1 0 []))).fab with combine := [comb 0, comb 1] } }
    (s.targetSegs 0 (s.flowNow 1) ((comb 0).w2.toNat % 2 ^ 48) 32 true).1 = some [(0x4000, 32, true)]
    ∧ slotAddr (s.flowNow 1) (pktSeq (comb 0).pkt) + 8 ≤ slotAddr (s.flowNow 1) (pktSeq (comb 1).pkt)
    ∧ 0x4000 + 32 ≤ slotAddr (s.flowNow 1) (pktSeq (comb 0).pkt) ∧ (comb 1).plain.length = (comb 0).plain.length := by
  decide +kernel

/-- A SEND that fits the inbox to its last byte and one that does not; COLLs of this attempt, of an old one, of the next step and of a far one. -/
theorem test_delivery_cases :
    (let s := wordIs (enabled (fabUp (request (form 5 0x1000000000000 (List.replicate 64 0)))) (engPage 0 .xce)) (engPage 0 .xce) 0x100 0x10000
     s.ctxOf 0 = some flow1.ctx ∧ (s.admits (rtrPage 0) && s.admits (fltPage 1) && s.admits (engPage 0 .xce)) = true
     ∧ s.fld (engPage 0 .xce) 0x100 16 13 * 1024 = 1024 ∧ s.fld (engPage 0 .xce) 0x108 0 23 % 1024 + 32 + 64 ≤ 1024
     ∧ (s.fld (engPage 0 .xce) 0x108 0 23 + 1024 - s.fld (engPage 0 .xce) 0x110 0 23) % 1024 + 64 + 64 ≤ 1024
     ∧ (let s' := wordIs s (engPage 0 .xce) 0x110 (128)
        1024 < (s'.fld (engPage 0 .xce) 0x108 0 23 + 1024 - s'.fld (engPage 0 .xce) 0x110 0 23) % 1024 + 64 + 65))
    ∧ (let s := enabled (fabUp (request (form 10 0x4000 (List.replicate 64 0)))) (clePage 0)
       (∀ n ∈ reqPages (request (form 10 0x4000 (List.replicate 64 0))) [(0x4000, 32, true)] ++ [clePage 0], s.admits n = true)
       ∧ Tab.get 0 s.cle.dbase 0 = 0 ∧ homeOf 0x4000 / 4 = 0 ∧ s.attemptOf 0 0 = 0 ∧ s.cstep 0 0 = 1
       ∧ (∀ r ∈ [(1, 0), (2, 1), (3, 2), (0, 0xFFFF)], (r.1 + 2 ^ 16 - s.cstep 0 0) % 2 ^ 16 = r.2)) := by
  decide +kernel

/-- R277's example, step 10, and the example of R293, step 6: WAIT of 3,990 ns is 2, and of 65.8 µs is 7. -/
theorem test_wait_buckets : waitBucket (0 + 3990) = 2 ∧ waitBucket 65800 = 7 := by decide

/-- The answer f to tile 0's request r on flow 1 waits; the tile holds the access that made the request. -/
def answered (f : Form) (r : Req) : State :=
  tileIs { fabUp (request f) with fab := { (fabUp (request f)).fab with reqs := [r] } } 0 { flights := [{ id := 3, desc := {}, eng := .xce }] }
def answer (pop : Nat) (data : List Byte) (resend part : Nat := 0) : Form :=
  { pop := pop, flow := 1, fgen := 0, owner := 0, target := 0, data := data, arg := data, resend := resend, part := part }
def req (pop resend len : Nat) (dest : Dest) : Req :=
  { flow := 1, seq := 0, pop := pop, resend := resend, len := len, dest := dest, ctx := 0, owner := .tile 0 3, page := engPage 0 .xce }

/-- Acknowledgements, refusals and NACKs of a packet sent once or twice, each opening to what was sent; READY too. -/
theorem test_answer_cells : ∀ r ∈ [(8, 0, 0), (8, 0, 1), (9, 0, 0), (9, 1, 0), (9, 2, 0), (9, 4, 0)], ∀ d, d = r.2.1 :: List.replicate 7 0 →
    let f := answer r.1 (d.map fun b => BitVec.ofNat 8 b) r.2.2
    Reply (answered f (req 1 r.2.2 64 .none)) r.1 (request f) flow1 (cellOpened f false) (req 1 r.2.2 64 .none)
    ∧ (answered f (req 1 r.2.2 64 .none)).ctxOf 0 = some 0 ∧ ((cellOpened f false).data.getD 0 0).toNat = r.2.1
    ∧ (r.2.1 = 0 → ofBytes ((cellOpened f false).data.take 8) = 0) := by
  intro r hr d hd
  simp only [List.mem_cons, List.not_mem_nil, or_false] at hr
  subst hd
  unfold Reply Awake NoFences
  rcases hr with rfl | rfl | rfl | rfl | rfl | rfl <;>
  · refine ⟨⟨by decide +kernel, rfl, by decide +kernel, by decide +kernel, ?_, ?_, by decide +kernel, by decide +kernel, by decide +kernel⟩, by decide +kernel,
      by decide +kernel, by decide +kernel⟩
    · refine openAnswer_cell _ ctxUp 7 (answer _ _ _) _ _ _ rfl rfl ?_ ?_ ?_ ?_ ?_
      all_goals first | decide +kernel | (unfold SameNonce; decide +kernel)
    · decide +kernel

/-- The data of a GET, whole and as the second part of a longer one. -/
theorem test_answer_data : ∀ r ∈ [(0, 1), (1, 300)],
    let f := answer 3 (List.replicate 64 9) 0 r.1
    Reply (answered f (req 2 0 r.2 (.store 0 64))) 3 (request f) flow1 (opened f) (req 2 0 r.2 (.store 0 64))
    ∧ pktPart (request f).pkt = r.1 ∧ (256 ≤ r.2 → pktPart (request f).pkt < (32 * (r.2 + 1) + 8191) / 8192) ∧ (opened f).data ≠ [] := by
  intro r hr
  simp only [List.mem_cons, List.not_mem_nil, or_false] at hr
  unfold Reply Awake NoFences
  rcases hr with rfl | rfl <;>
  · refine ⟨⟨by decide +kernel, rfl, by decide +kernel, by decide +kernel, ?_, ?_, by decide +kernel, by decide +kernel, by decide +kernel⟩, by decide +kernel,
      by decide +kernel, by decide +kernel⟩
    · refine openAnswer_bulk _ ctxUp 7 (answer _ _ _ _) _ _ _ rfl rfl ?_ ?_ ?_ ?_ ?_ ?_
      all_goals first | decide +kernel | (unfold SameNonce; decide +kernel)
    · decide +kernel

/-- An answer that no request matches, and a READY that one waiting request meets. -/
theorem test_stale_answer : let f := answer 8 (List.replicate 8 0); let s := fabUp (request f)
    s.matching (request f).pkt = none ∧ s.fab.inbound = [request f] ∧ s.openAnswer flow1 (request f).pkt = some (cellOpened f false) := by
  refine ⟨by decide +kernel, rfl, ?_⟩
  refine openAnswer_cell _ ctxUp 7 (answer _ _ _) _ _ _ rfl rfl ?_ ?_ ?_ ?_ ?_
  all_goals first | decide +kernel | (unfold SameNonce; decide +kernel)
def readied : Form := { answer 14 (List.replicate 8 0) with owner := 1 }
theorem ready_crc : pktCrc (request readied).pkt = pktSentCrc (request readied).pkt := build_cell_crc ctxUp 7 readied 2 rfl (by decide +kernel)
theorem ready_opens : openAs 7 (request readied).pkt 1 0 = some (cellOpened readied false) :=
  build_cell_opens ctxUp 7 readied 2 rfl (by decide +kernel) (by unfold SameNonce; decide +kernel)
theorem ready_sealed : (openAs 7 (request readied).pkt flow1.peer flow1.gen).isSome = true := by
  rw [show flow1.peer = 1 by decide +kernel, show flow1.gen = 0 by decide +kernel, ready_opens]; rfl
theorem test_ready_case : let y := aReq 0 true; let x := request readied
    let s := { fabUp x with fab := { (fabUp x).fab with reqs := [y] } }
    Awake s ∧ s.fab.inbound = [x] ∧ pktPop x.pkt = 14 ∧ s.cached (pktFlow x.pkt) = some flow1 ∧ s.fab.unsent = [] ∧ s.keyOf flow1 = some 7
    ∧ (s.fab.reqs.filter fun z => decide (z.flow = pktFlow x.pkt) && z.waiting) = [y] ∧ (flow1.next + 2 ^ 32 - flow1.low) % 2 ^ 32 < 64 := by
  unfold Awake
  refine ⟨by decide +kernel, rfl, ?_⟩
  decide +kernel

/-! ## Rounds -/

/-- The package on sync source src with forward mask fwd, cells accepted at port 0, period 1,000 us, sync flows 8 and up. -/
def syncUp (src fwd : Nat) : State :=
  { wordIs (wordIs ctxUp burPage 0x300 (BitVec.ofNat 64 (src + 2 ^ 4 * fwd + 2 ^ 10))) burPage 0x308 0x803E8 with
    time := 10000000, sync := { last := 9000000, count := 5 }, key := { ctxUp.key with mgmt := some 7 } }
theorem test_edge_cases : (syncUp 0 0).syncSrc % 2 = 0 ∧ (syncUp 1 0).syncSrc % 2 = 1
    ∧ (syncUp 1 0).sync.last + (syncUp 1 0).periodNs / 2 ≤ (syncUp 1 0).time ∧ (syncUp 1 0).sync.beat = none
    ∧ (let s := { syncUp 1 0 with time := 9499999 }; s.sync.resync = false ∧ s.time < s.sync.last + s.periodNs / 2)
    ∧ (let s := { syncUp 1 0 with sync := { resync := true } }; s.sync.resync = true) := by
  decide +kernel

/-- A sync cell for round 5, 6 or 7, of depth 2, at port 0. -/
def syncFlow9 : Flow := { w0 := 0x403 }
def syncForm (round : Nat) : Form :=
  { pop := 12, flow := 9, fgen := 0, owner := 1, target := 0, arg := toBytes 8 round ++ [2, 0, 0, 0] }
def syncIn (round : Nat) : Inbound := { port := some 0, die := 0, pkt := ctxUp.build 7 (syncForm round) }
def syncGot (fwd : Nat) (x : Inbound) : State :=
  { syncUp 2 fwd with fab := { inbound := [x], cache := [(9, some syncFlow9), (8, some syncFlow9)], ports := [(1, upPort)] } }
theorem test_sync_cell : ∀ r ∈ [5, 6, 7], ∀ s, s = syncGot 2 (syncIn r) →
    Awake s ∧ s.fab.inbound = [syncIn r] ∧ pktPop (syncIn r).pkt = 12 ∧ s.cached (pktFlow (syncIn r).pkt) = some syncFlow9
    ∧ s.openSync (syncIn r) syncFlow9 = some (cellOpened (syncForm r) false) ∧ ofBytes ((cellOpened (syncForm r) false).data.take 8) = r
    ∧ ((cellOpened (syncForm r) false).data.getD 8 0).toNat = 2 ∧ 2 ≤ s.syncSrc ∧ (s.fld burPage 0x300 10 6).testBit 0 = true
    ∧ s.isMaster = false ∧ s.isBackup = false ∧ s.sync.resync = false ∧ s.sync.count.toNat = 5 ∧ s.sync.beat = none := by
  intro r hr s hs
  simp only [List.mem_cons, List.not_mem_nil, or_false] at hr
  subst hs
  unfold Awake
  rcases hr with rfl | rfl | rfl <;>
  · refine ⟨by decide +kernel, rfl, by decide +kernel, by decide +kernel, ?_, by decide +kernel⟩
    refine openSync_cell _ ctxUp 7 (syncForm _) _ _ _ 0 rfl rfl rfl ?_ ?_ ?_ ?_ ?_ ?_ ?_ ?_
    all_goals first | decide +kernel | (unfold SameNonce; decide +kernel)
theorem test_sync_forward : (syncGot 0 (syncIn 6)).fld burPage 0x300 4 6 = 0
    ∧ (let s := syncGot 2 (syncIn 6)
       s.fld burPage 0x300 4 6 = 2 ^ 1 ∧ s.syncFlow 1 = 8 ∧ s.cached 8 = some syncFlow9 ∧ syncFlow9.valid = true ∧ 8 ∉ s.fab.worn
        ∧ (s.keyOf syncFlow9).isSome = true ∧ (s.port 1).isUp = true ∧ 0 < (s.port 1).freeCredits 3 0) := by
  decide +kernel
/-- Without the management key no cell opens. -/
theorem test_sync_refused : ({ syncGot 0 (syncIn 6) with key := ctxUp.key }).openSync (syncIn 6) syncFlow9 = none := by
  decide +kernel

/-- Boundaries: none due; free-running; a beat on time, early and missing, with the second missed round at the limit. -/
def round (src : Nat) (last : Nat) (beat : Option Beat) (consec : BitVec 8 := 0) : State :=
  { syncUp src 0 with sync := { last := last, count := 5, beat := beat, consec := consec } }
theorem test_round_cases :
    PlainRounds (syncUp 1 0) ∧ (round 0 9500000 none).placed = none
    ∧ (let s := round 0 9000000 none; s.syncSrc = 0 ∧ s.sync.beat = none ∧ periodEnd s ≤ s.time ∧ s.placed.isSome = true)
    ∧ (∀ t ∈ [9936000, 10064000], let s := round 1 9000000 (some { time := t, src := 1, round := none })
       s.syncSrc ≠ 0 ∧ s.sync.resync = false ∧ s.sync.beat = some { time := t, src := 1, round := none } ∧ periodEnd s ≤ t + 64000 ∧ t ≤ periodEnd s + 64000)
    ∧ (let s := round 1 9000000 (some { time := 9935999, src := 1, round := none }); 9935999 + 64000 < periodEnd s ∧ periodEnd s ≤ s.time + 64000)
    ∧ (∀ c ∈ [0, 15], let s := round 1 8936000 none (BitVec.ofNat 8 c); s.syncSrc ≠ 0 ∧ s.sync.beat = none ∧ periodEnd s + 64000 ≤ s.time
       ∧ s.sync.consec.toNat = c ∧ s.sync.lostOnce = false ∧ max 1 (s.fld burPage 0x300 16 4) ≤ 255
       ∧ (c = 15 → max 1 (s.fld burPage 0x300 16 4) ≤ s.sync.consec.toNat + 1))
    ∧ (let s := { round 0 9000000 none with key := { arriving := [(some 3, 9)] } }
       s.key.arriving = [(some 3, 9)] ∧ s.placed.isSome = true) := by
  unfold PlainRounds Awake
  decide +kernel

/-- Re-planning: before and after 24 hours, at a boundary; a tile's slack above and below the alarm. -/
theorem test_replan_cases : hoursOf (syncUp 0 0).time < (syncUp 0 0).pkg.ageLastH + 24
    ∧ (let s := { syncUp 0 0 with time := 86400000000000 }; s.pkg.ageLastH + 24 ≤ hoursOf s.time)
    ∧ (let s := { syncUp 0 0 with sync := { last := 9000000, replanDue := true } }
       s.isMaster = false ∧ s.isBackup = false ∧ s.bur.commits = [] ∧ s.placed.isSome = true ∧ s.sync.replanDue = true)
    ∧ (syncUp 0 0).tileRuns 0 = true
    ∧ (let alarm := min ((syncUp 0 0).fld agePage 0x100 16 8 : Int) ((syncUp 0 0).fld agePage 0x100 0 8); -32768 < alarm ∧ alarm < 32768)
    ∧ (syncUp 0 0).offsetOf (quadOf 0) < 24 := by
  decide +kernel

/-! ## The Bureau -/

/-- Context 0 is in a group of this package, the coordinator, and member 1, with one standby pair; its list lies at 3 MiB. The line of flow 1's
reply area is in the cache. -/
def rec0 : CommitRec := { en := true, coord := true, cflow := 40, group := 5, glist := 0x300000, verdict := 0x5000, mlist := 0x6000 }
def member0 : CommitRec := { rec0 with coord := false, coordLc := 9 }
def flow1m : Flow := { flow1 with w0 := 0x403 }
def list0 : GList := { addr := 0x300000, n := 2, sb := 1, gen0 := 1, twin := 0 }
def burUp (co : Commit) : State :=
  let s := dataAt (dataAt ctxUp 0 [0x87]) 0x300000 [0x100010002, 0, 0x50000, 0x52001, 0x54002, 0x56003]
  let s := s.modMem fun m => m.setLine 0x2000 { there := true }
  { s with key := { s.key with mgmt := some 7 }, bur := { settee := 0, commits := [(0, co)] }, time := 60000000000 }
theorem test_group : (burUp { cr := rec0 }).groupOf 0 = some list0
    ∧ (burUp { cr := rec0 }).memberList list0 = [(0, 40), (1, 41)] ∧ (burUp { cr := rec0 }).standbyList list0 = [((2, 42), (3, 43))] := by
  decide +kernel

/-- What the Bureau does of itself. -/
theorem test_bureau_cases :
    Awake (burUp { cr := rec0 }) ∧ CanTell (burUp { cr := rec0 }) 0
    ∧ (∀ v ∈ [3, 4], let s := { burUp { cr := rec0 } with bur := { (burUp { cr := rec0 }).bur with fatals := [{ page := engPage 0 .lde, code := 0x020, sev := v, ctx := some 0, loc := 0 }] } }
       s.bur.fatals.length = 1 ∧ s.bur.levels = [] ∧ 0x020 ∉ offenceCodes ∧ (s.commit 0).cr.en = true)
    ∧ (let s := burUp { cr := rec0 }
       s.voteReady 0 = true ∧ s.mem.writes = [] ∧ (s.translateLocal 3 (some 0) 0x5000 8 false).1 = some [(0x5000, 8, true)] ∧ s.homeOff [0x5000] = none)
    ∧ (let s := burUp { cr := rec0, firstVote := some (0, 1, 0), voted := true }
       s.coordinates 0 = true ∧ (s.commit 0).open 1 0 = true ∧ 0 + max 1 (s.fld burPage 0x350 0 16) * 1000000 ≤ s.time
        ∧ (s.commit 0).queryAt + max 1 (s.fld burPage 0x350 0 16) * 1000000 ≤ s.time)
    ∧ (∀ l ∈ [true, false], let s := burUp { cr := rec0, phase := 2, lost := l }; (s.commit 0).phase = 2 ∧ s.rolledDown 0 = true ∧ (s.commit 0).lost = l) := by
  unfold CanTell Awake
  decide +kernel

/-- A mirror entry of one page at 32 KiB whose job's word 0 is w, the ring at job pos. -/
def mirrorUp (w : Word) (pos : Nat) : State :=
  let s := burUp { cr := { member0 with nmirror := 1, mflow := 44 } }
  let s := dataAt (dataAt (dataAt s 0x6000 [0x8000, 1, 0, 0x40000]) 0x7000 [w]) 0x7050 [0x8000, 0x100]
  { s with upe := { s.upe with rings := Tab.set {} [] (ringKey 0 0) { base := 0x7000, pos := pos } } }
def entry0 : MirrorEntry := { va := 0x8000, pages := 1, spar := false, n := 1, ring := 0, job := 0, tva := 0x40000 }
theorem test_mirror_cases :
    (∀ r ∈ [(0, 0), (0x200000000, 1), (0x100000000, 1)], let s := mirrorUp (BitVec.ofNat 64 r.1) r.2
      (s.commit 0).cr.en = true ∧ (s.commit 0).held = false ∧ 0 < (s.commit 0).cr.nmirror ∧ (s.commit 0).phase = 0 ∧ Tab.get 0 s.upe.mirrorLeft 0 = 0
      ∧ (0, 0) ∉ s.upe.mirrorDone ∧ 0 ∉ (s.commit 0).resend ∧ s.mirrorEntry 0 0 = some entry0 ∧ ((s.mirrorJob 0 entry0).getD []).getD 0 0 = BitVec.ofNat 64 r.1
      ∧ (s.ring 0 0).pos = r.2)
    ∧ (mirrorUp 0x200000000 1).stepOf 0 = 1
    ∧ (let s := mirrorUp 0x100000000 1
       s.bankOf 0 entry0 (1 - committedBank false 1 (s.cOf 0)) = some (0x8000, 0x40000) ∧ ((s.loadVirt 0 0 0x8000 4096 0).1.getD []).length = 4096
        ∧ s.fab.unsent = [] ∧ s.cached (s.commit 0).cr.mflow.toNat = none) := by
  decide +kernel

/-- A management cell from member 1 about context 0's first attempt at step 1. -/
def cell (kind arg : Nat) : Cell := { kind := kind, group := 5, attempt := 0, step := 1, arg := arg }
def cellReq (kind arg : Nat) : Form := { pop := 13, flow := 1, fgen := 0, owner := 1, target := 0, arg := (cell kind arg).bytes }
def cellIn (kind arg : Nat) : Inbound := request (cellReq kind arg)
def burGot (co : Commit) (kind arg : Nat) : State :=
  { burUp co with fab := { inbound := [cellIn kind arg], cache := [(1, some flow1m)] } }
def cellGot (kind arg : Nat) : Opened := cellOpened (cellReq kind arg) false
/-- The state whose checks pass is the one without the packet; whatever else of it holds goes into hs. -/
theorem cell_new (s : State) (kind arg : Nat) (hk : s.keyOf flow1m = some 7) (hc : s.fab.combine = []) (hb : pktBulk (cellIn kind arg).pkt = false)
    (hn : SameNonce (cellIn kind arg).pkt (cellReq kind arg)) (hq : pktSeq (cellIn kind arg).pkt = 0) : (s.checkReq (cellIn kind arg) flow1m).1 = .fresh (cellGot kind arg) := by
  have ht : ctxUp.tselOf (cellReq kind arg).target = false := (by decide +kernel : ctxUp.tselOf 0 = false)
  have h := checkReq_cell s ctxUp 7 (cellReq kind arg) 3 (cellIn kind arg) flow1m rfl rfl hb hn hk rfl rfl
    (by rw [ht]; exact (by decide +kernel : (cellOpened (cellReq 0 0) false).tsel = false))
  rw [ht] at h
  refine h ?_
  unfold NewTo
  rw [hq, hc]
  decide +kernel
/-- What makes a management cell arrive, but for the seal. -/
def CellCase (s : State) (kind arg : Nat) : Prop :=
  pktBulk (cellIn kind arg).pkt = false ∧ SameNonce (cellIn kind arg).pkt (cellReq kind arg) ∧ pktSeq (cellIn kind arg).pkt = 0
    ∧ pktPop (cellIn kind arg).pkt = 13 ∧ pktFlow (cellIn kind arg).pkt = 1 ∧ s.keyOf flow1m = some 7 ∧ s.fab.combine = [] ∧ Awake s
    ∧ s.cached 1 = some flow1m ∧ s.mem.writes = [] ∧ cell kind arg = cellOf (cellGot kind arg).data ∧ kind ∈ cellKinds
/-- It arrives, and what stands once it has been recorded. -/
theorem cell_arrives (s : State) (kind arg : Nat) (h : CellCase s kind arg) (hi : s.fab.inbound = [cellIn kind arg]) :
    CellArrived s kind (cellIn kind arg) flow1m (cellGot kind arg) (cell kind arg)
    ∧ afterCell s (cellIn kind arg) flow1m (cellGot kind arg)
      = (({ s with fab := { s.fab with inbound := [] } } : State).count (keyPage 0) 5 (some flow1m.ctx)).acceptReq (cellIn kind arg) flow1m (cellGot kind arg).owner := by
  have hf := cell_new { s with fab := { s.fab with inbound := [] } } kind arg h.2.2.2.2.2.1 h.2.2.2.2.2.2.1 h.1 h.2.1 h.2.2.1
  have hq := checkReq_fresh _ _ _ _ hf
  refine ⟨⟨⟨h.2.2.2.2.2.2.2.1, hi, h.2.2.2.1, ?_, h.2.2.2.2.2.2.2.2.2.1, hf⟩, ?_, h.2.2.2.2.2.2.2.2.2.2.1, rfl, h.2.2.2.2.2.2.2.2.2.2.2⟩, ?_⟩
  · rw [h.2.2.2.2.1]; exact h.2.2.2.2.2.2.2.2.1
  · exact congrArg Option.isSome hq.1
  · unfold afterCell
    rw [hq.2]
    rfl
/-- What a commit record may stand at: nothing yet, the other member has voted, decided to roll back; a member that has voted, in phase 4. -/
def stands : List Commit :=
  [{ cr := rec0 }, { cr := rec0, votes := [(0, 1, 0)] }, { cr := rec0, decided := some (false, 1, 1, 0) }, { cr := member0, voted := true }, { cr := member0, phase := 4 }]
def stand (i : Nat) : Commit := stands.getD i {}
/-- The cells of these tests: kind, argument, record. -/
def cells1 : List (Nat × Nat × Nat) :=
  [(0x02, 1, 0), (0x02, 0, 1), (0x02, 0, 0), (0x03, 0, 0), (0x11, 1, 0), (0x11, 2, 0), (0x04, 1, 3), (0x04, 2, 3), (0x0C, 0, 2), (0x05, 0, 2), (0x06, 7, 4)]
theorem cells1_case : ∀ r ∈ cells1, CellCase (burGot (stand r.2.2) r.1 r.2.1) r.1 r.2.1 := by
  unfold CellCase SameNonce Awake
  decide +kernel
theorem test_cells_arrive (r : Nat × Nat × Nat) (hr : r ∈ cells1) :
    CellArrived (burGot (stand r.2.2) r.1 r.2.1) r.1 (cellIn r.1 r.2.1) flow1m (cellGot r.1 r.2.1) (cell r.1 r.2.1) :=
  (cell_arrives _ _ _ (cells1_case r hr) rfl).1
theorem test_decision_cases : ∀ r ∈ [(0x02, 1, 0), (0x02, 0, 1), (0x02, 0, 0), (0x03, 0, 0), (0x0C, 0, 2), (0x05, 0, 2)],
    let s := burGot (stand r.2.2) r.1 r.2.1
    let s' := (({ s with fab := { s.fab with inbound := [] } } : State).count (keyPage 0) 5 (some flow1m.ctx)).acceptReq (cellIn r.1 r.2.1) flow1m 1
    s.ctxOfGroup 5 = some 0 ∧ s.coordinates 0 = true ∧ (s.commit 0).held = false ∧ s'.groupOf 0 = some list0
    ∧ s'.memberList list0 = [(0, 40), (1, 41)] ∧ (r.2.2 < 2 → (s.commit 0).open 1 0 = true) ∧ s.fab.unsent = [] ∧ s.cached 41 = none
    ∧ (cellGot r.1 r.2.1).owner = 1 ∧ (s.commit 0).dead = none := by
  decide +kernel
theorem test_member_cases :
    (let s := burGot (stand 3) 0x04 2
     s.present 0 (cell 0x04 2) = true ∧ (s.commit 0).phase = 0 ∧ (s.commit 0).voted = true ∧ (s.commit 0).commitDue = false ∧ (s.commit 0).resend = []
      ∧ s.bur.damaged = [] ∧ s.fab.unsent = [])
    ∧ (let s := burGot (stand 4) 0x06 7
       (s.commit 0).phase = 4 ∧ s.bur.streaming = none ∧ (cell 0x06 7).arg < 2 ^ 32 ∧ s.sync.count.toNat + 2 ^ 33 < 2 ^ 64) := by
  decide +kernel

/-! ## Takeover -/

/-- Heartbeats due; missed at the limit; a suspect probed; a standby assigned. -/
theorem test_takeover_cases :
    (let s := wordIs (burUp {}) burPage 0x348 0x29000
     s.fld burPage 0x348 12 20 = 41 ∧ s.bur.hbAt + max 20 (s.fld burPage 0x348 0 8) * 1000 ≤ s.time ∧ s.fab.unsent = [] ∧ s.cached 41 = none
      ∧ s.bur.missed < max 1 (s.fld burPage 0x348 8 4))
    ∧ (let s := burUp { cr := member0 }
       let s := { s with bur := { s.bur with missed := 15 } }
       max 1 (s.fld burPage 0x348 8 4) ≤ s.bur.missed ∧ s.bur.twinLost = false ∧ s.bur.settee = 0 ∧ s.groupCtxs = [0] ∧ (s.commit 0).held = false
        ∧ (s.commit 0).cr.coordLc.toNat ≠ twinOf s.ownLc ∧ CanTell s 0)
    ∧ (let s := burUp { cr := member0 }
       let s := { s with bur := { s.bur with assigned := some (5, 0, 3, 1) } }
       s.bur.assigned = some (5, 0, 3, 1) ∧ (s.commit 0).cr.nmirror = 0) := by
  unfold CanTell
  decide +kernel
def probed : Commit := { cr := rec0, probing := some (0, 1, 0), askedBy := some (cellIn 0x07 0) }
theorem test_probe_case : let s := burUp probed
    (s.commit 0).probing = some (0, 1, 0) ∧ (s.commit 0).askedBy.isSome = true ∧ 0 + max 50 (s.fld burPage 0x350 16 16) * 1000 ≤ s.time
    ∧ (s.acceptReq (cellIn 0x07 0) (s.flowNow (pktFlow (cellIn 0x07 0).pkt)) 1).groupOf 0 = some list0 := by
  decide +kernel

/-- The cells of a takeover: kind, argument, record. -/
def stands2 : List Commit :=
  [{ cr := rec0 }, { cr := member0 }, { cr := rec0, probing := some (1, 0, 0), askedBy := some (cellIn 0x07 0) }, { cr := rec0, dead := some (1, 0), standby := some 0 }]
def cells2 : List (Nat × Nat × Nat) :=
  [(0x01, 0, 0), (0x0D, 0, 0), (0x0B, 0, 0), (0x07, 1, 0), (0x07, 1, 1), (0x08, 0, 0), (0x09, 0, 2), (0x0A, 1, 0), (0x0E, 0x4002, 0), (0x0F, 1, 0), (0x10, 1, 3)]
/-- Settee's state that goes with a kind. -/
def setteeFor (kind : Nat) : BitVec 3 := if kind = 0x0E then 2 else if kind = 0x0F then 4 else 0
def burTook (co : Commit) (kind arg : Nat) : State :=
  let s := burGot co kind arg
  { s with bur := { s.bur with settee := setteeFor kind } }
theorem cells2_case : ∀ r ∈ cells2, CellCase (burTook (stands2.getD r.2.2 {}) r.1 r.2.1) r.1 r.2.1 := by
  unfold CellCase SameNonce Awake
  decide +kernel
theorem test_takeover_cells (r : Nat × Nat × Nat) (hr : r ∈ cells2) :
    CellArrived (burTook (stands2.getD r.2.2 {}) r.1 r.2.1) r.1 (cellIn r.1 r.2.1) flow1m (cellGot r.1 r.2.1) (cell r.1 r.2.1) :=
  (cell_arrives _ _ _ (cells2_case r hr) rfl).1
theorem test_takeover_states :
    (cellGot 1 0).owner = twinOf (burTook (stands2.getD 0 {}) 1 0).ownLc ∧ (cellGot 0x0B 0).tsel = false
    ∧ (let s := burTook (stands2.getD 0 {}) 7 1
       s.ctxOfGroup 5 = some 0 ∧ s.groupOf 0 = some list0 ∧ (s.memberList list0).find? (fun z => decide (z.1 = (cell 7 1).arg % 2 ^ 13)) = some (1, 41)
        ∧ s.coordinates 0 = true ∧ (s.commit 0).probing = none ∧ s.cached 41 = none)
    ∧ (burTook (stands2.getD 1 {}) 7 1).coordinates 0 = false ∧ CanTell (burTook (stands2.getD 0 {}) 8 0) 0
    ∧ ((burTook (stands2.getD 2 {}) 9 0).commit 0).probing = some (1, 0, 0)
    ∧ (burTook (stands2.getD 0 {}) 10 1).bur.levels = [] ∧ (burTook (stands2.getD 0 {}) 10 1).takenLc ≠ some 1
    ∧ (burTook (stands2.getD 0 {}) 0x0E 0x4002).bur.settee = 2 ∧ (burTook (stands2.getD 0 {}) 0x0F 1).bur.settee = 4
    ∧ (let s := burTook (stands2.getD 3 {}) 0x10 1
       let s' := (({ s with fab := { s.fab with inbound := [] } } : State).count (keyPage 0) 5 (some flow1m.ctx)).acceptReq (cellIn 0x10 1) flow1m 1
       (s.commit 0).dead = some (1, 0) ∧ (s.commit 0).standby = some 0 ∧ s'.groupOf 0 = some list0 ∧ (s'.standbyList list0)[0]? = some ((2, 42), (3, 43))) := by
  unfold CanTell
  decide +kernel

/-! ## Cells of a Bureau to itself -/

def burOwn (co : Commit) (kind arg : Nat) : State :=
  let s := burUp co
  { s with bur := { s.bur with settee := setteeFor kind, own := [(0, (cell kind arg).bytes)] } }
theorem own_comes (s s1 : State) (c kind : Nat) (m : Cell) (d : List Byte) (ha : Awake s) (hd : s.bur.own = [(c, d)]) (hm : m = cellOf d) (hk : m.kind = kind)
    (h1 : s1 = { s with bur := { s.bur with own := [] } }) : CellComes s kind m c s.ownLc s1 := .inr ⟨ha, d, [], hd, hm, hk, rfl, h1⟩
theorem test_own_cells : ∀ r ∈ cells1 ++ (cells2.drop 3), CellComes (burOwn (stand r.2.2) r.1 r.2.1) r.1 (cell r.1 r.2.1) 0 (burOwn (stand r.2.2) r.1 r.2.1).ownLc
    { burOwn (stand r.2.2) r.1 r.2.1 with bur := { (burOwn (stand r.2.2) r.1 r.2.1).bur with own := [] } } := by
  intro r hr
  have h : ∀ r ∈ cells1 ++ (cells2.drop 3), Awake (burOwn (stand r.2.2) r.1 r.2.1) ∧ cell r.1 r.2.1 = cellOf (cell r.1 r.2.1).bytes := by
    unfold Awake
    decide +kernel
  exact own_comes _ _ 0 r.1 _ (cell r.1 r.2.1).bytes (h r hr).1 rfl (h r hr).2 rfl rfl
theorem test_packets_come : ∀ r ∈ cells1, NoOwn (burGot (stand r.2.2) r.1 r.2.1) r.1 := fun _ _ _ h => absurd h List.not_mem_nil
/-- The coordinator tells itself within the Bureau; a group of one, whose list names no flow, decides at once and commits (R349, R353). -/
theorem test_lone_vote :
    let s := dataAt (burUp { cr := rec0, voted := true }) 0x300000 [0x100000001, 0, 0]
    let s := { s with bur := { s.bur with own := [(0, (cell 0x02 0).bytes)] } }
    (match exec .vote s with
     | .next t => decide (t.bur.own = [(0, (cell 0x04 1).bytes)]) && t.fab.unsent.isEmpty
        && (match exec .decide t with | .next u => (u.commit 0).commitDue && u.bur.own.isEmpty | _ => false)
     | _ => false) = true := by
  decide +kernel
theorem test_own_takeover : let s := burOwn { cr := rec0 } 7 1
    s.groupOf 0 = some list0 ∧ (s.memberList list0).find? (fun z => decide (z.1 = (cell 7 1).arg % 2 ^ 13)) = some (1, 41) ∧ s.fab.unsent = [] ∧ s.cached 41 = none := by
  decide +kernel

/-! ## The package -/

/-- The provider's controls: a standby to be tried again; blocks quiesced; the package quiesced. -/
def waiting : Commit :=
  { cr := rec0, noStandby := true, dead := some (1, 0), quiescers := [0], readies := [] }
theorem test_package_cases : ByBureau (burUp waiting) bur burPage ∧ (burUp waiting).busy burPage = false
    ∧ (let s := burUp waiting
       s.bur.commits.map Prod.fst = [0] ∧ (s.commit 0).noStandby = true ∧ s.groupOf 0 = some list0 ∧ (s.commit 0).resetSent = false
        ∧ (∀ m ∈ s.memberList list0, m.1 = 1 ∨ m.1 ∈ (s.commit 0).quiescers) ∧ ((List.range list0.sb).find? fun j => !(s.commit 0).spent.contains j) = some 0
        ∧ (s.standbyList list0)[0]? = some ((2, 42), (3, 43)))
    ∧ (∀ e ∈ (burUp { cr := rec0 }).bur.commits, ((burUp { cr := rec0 }).commit e.1).noStandby = false)
    ∧ (burUp {}).pkgQuiesced = false ∧ (burUp {}).fab.unsent = [] ∧ (burUp {}).fab.held = [] := by
  unfold ByBureau Awake
  decide +kernel
/-- Every page of the package has taken a quiesce. -/
def quiet : Page := { quiescing := true, quiesced := true, quiesceBit := true }
theorem quiet_get (k : Nat) : ∀ m a : Nat, a ≤ k → k < a + m → Tab.get ({} : Page) ((List.range' a m).map fun n => (n, quiet)) k = quiet := by
  intro m
  induction m with
  | zero => intro a h1 h2; omega
  | succ m ih =>
    intro a h1 h2
    rw [List.range'_succ, List.map_cons, Tab.get]
    split
    · rfl
    · exact ih (a + 1) (by omega) (by omega)
theorem test_all_quiet : ({ ctxUp with pages := (List.range' 0 1781).map fun n => (n, quiet) } : State).pkgQuiesced = true := by
  unfold State.pkgQuiesced
  rw [List.all_eq_true]
  intro n hn
  have h : Tab.get ({} : Page) ((List.range' 0 1781).map fun n => (n, quiet)) n = quiet := quiet_get n 1781 0 (Nat.zero_le n) (by simpa using hn)
  exact congrArg Page.quiesced h
/-- With no tile and no job at work nothing accesses memory. -/
theorem idle_accesses (s : State) (c : Nat) (ht : s.tiles = []) (hu : s.upe.run = []) (hc : s.cle.runs = []) (hs : s.sbd.running = none) : s.accessing c = false := by
  simp [State.accessing, State.tile, ht, hu, hc, hs]

theorem test_cache_cases : ByBureau ctxUp bur (mscPage 1)
    ∧ (let s := { ctxUp with mem := { ctxUp.mem with xlatBusy := true } }; s.mem.xlatBusy = true ∧ s.tiles = [] ∧ s.upe.run = [] ∧ s.cle.runs = [] ∧ s.sbd.running = none)
    ∧ (let s := { ctxUp with mem := { ctxUp.mem with flushing := 2 } }; s.mem.flushing.getLsbD 1 = true)
    ∧ (∀ i, i < 2 → ctxUp.pkg.powered.getLsbD (64 + 2 * 1 + i) = true ∧ ctxUp.mem.off 1 i = (ctxUp.raw (mscPage 1) 0x108).getLsbD (2 + i))
    ∧ (let s := wordIs ctxUp (mscPage 1) 0x108 4
       let s := { s with mem := { s.mem with halfOff := 4 } }
       s.mem.off 1 0 = true ∧ s.mem.halfEmpty.getLsbD 2 = false ∧ s.mem.lines = []) := by
  unfold ByBureau Awake
  decide +kernel

theorem test_heat_cases : Awake ctxUp ∧ ctxUp.stackOn 3 = true ∧ 0 < ctxUp.tCrit 3 ∧ ctxUp.tCrit 3 < 256 ∧ ctxUp.fld (hmcPage 3) 0x110 0 8 ≠ 0
    ∧ homeOf (3 * (hbmBytes / 16)) = 3 ∧ (let s := { ctxUp with mem := { ctxUp.mem with badTemp := [(3, 2)] } }; Tab.get 0 s.mem.badTemp 3 + 1 = 3)
    ∧ (let s := wordIs { ctxUp with pkg := { ctxUp.pkg with capHot := 99 } } pwrPage 0x110 0x7258; s.capStep = 7 ∧ s.limitW < 601 ∧ 99 ≤ s.pkg.capHot ∧ s.pkg.capOnce = false) := by
  unfold Awake
  decide +kernel

theorem test_power_cases : ByBureau ctxUp bur pwrPage ∧ ctxUp.pkg.switching = []
    ∧ (let s := { ctxUp with pkg := { ctxUp.pkg with switching := [(5, true)] } }; s.pkg.switching = [(5, true)])
    ∧ ctxUp.mayOff 5 = true ∧ ctxUp.mayOff 0 = false := by
  unfold ByBureau Awake
  decide +kernel

/-- Context 3's descriptor at 4 MiB lists quad 7; context 4 has none. -/
def switchUp (w : Option Switch) : State :=
  let s := dataAt (wordIs ctxUp (keyPage 0) 0x100 0x400000) 0x4000C0 [0x800001, 0x80, 0x800000, 0, 0, 0, 0, 0]
  { s with key := { s.key with switch := w } }
theorem test_switch_cases : ByBureau (switchUp none) bur (keyPage 0) ∧ (switchUp none).pkg.powered.getLsbD 7 = true
    ∧ ((switchUp none).raw (keyPage 0) 0x100).toNat % 2 ^ 52 + 256 * 64 ≤ hbmBytes ∧ GoodDesc (descIn (switchUp none) 3)
    ∧ (descIn (switchUp none) 3).w1.getLsbD 7 = true ∧ (descIn (switchUp none) 3).w1.getLsbD 8 = false ∧ ¬ GoodDesc (descIn (switchUp none) 4)
    ∧ (let s := switchUp (some { quad := 7, ctx := 3, mode := 0 })
       (∀ t ∈ quadTiles 7, (s.tile t).drainedFor = true)
        ∧ ∃ t ∈ quadTiles 7, ((tileIs s t { flights := [{ id := 1, desc := {}, eng := .lde }] }).tile t).drainedFor = false) := by
  unfold ByBureau Awake GoodDesc
  decide +kernel

/-- A coarse record that has a place and one that has none. -/
theorem test_coarse_cases : ∀ r ∈ [0x4000, 0x80000000],
    let s := { ctxUp with key := { ctxUp.key with descs := [(0, { w0 := 1, w5 := BitVec.ofNat 64 r })] } }
    (s.key.descs.map Prod.fst).filter (fun c => decide ((s.desc c).w0.getLsbD 0 = true ∧ (s.desc c).w5 ≠ 0)) = [0] ∧ s.fab.unsent = [] ∧ s.mem.writes = [] := by
  decide +kernel

/-! ## Host -/

/-- Session 0, of the provider or of context 0, on a package whose port 0 is linked; port 1 is not. -/
def sess (prov : Bool) (next : BitVec 32 := 3) : Session := { valid := true, prov := prov, pfx := 0xFD000000000000000000000000000000, plen := 8, key := 9, next := next, begun := true }
def hostUp (x : Session) : State :=
  { wordIs ctxUp (keyPage 0) 0x100 0x400000 with
    pkg := { ctxUp.pkg with bootId := 5 }, host := { sessions := [(0, x)], linkUp := [(0, 2)] }, time := 1000000000 }
/-- A request of session 0 under its key. -/
def ask (op seq : Nat) (d : List Byte) (boot : Word := 5) : Umlon :=
  let h0 := BitVec.ofNat 64 (1 + op * 2 ^ 16 + seq * 2 ^ 32)
  let h1 := BitVec.ofNat 64 (2 ^ 32 + d.length * 2 ^ 48)
  { port := 0, addr := 0xFD000000000000000000000000000001, h0 := h0, h1 := h1, h2 := boot, h3 := 0, data := d, tag := umTag 9 h0 h1 boot 0 d }
/-- All that a whole request of session 0 has beside its tag. -/
theorem test_asked (op seq : Nat) (d : List Byte) (p : Bool) (hd : d.length < 2 ^ 14) (ho : op < 256) (hq : seq < 2 ^ 32) :
    AskedBy (hostUp (sess p)) op 0 (ask op seq d) := by
  have h0 : (ask op seq d).h0.toNat = 1 + op * 2 ^ 16 + seq * 2 ^ 32 := by
    show (BitVec.ofNat 64 (1 + op * 2 ^ 16 + seq * 2 ^ 32)).toNat = _
    rw [BitVec.toNat_ofNat, Nat.mod_eq_of_lt (by omega)]
  have h1 : (ask op seq d).h1.toNat = 2 ^ 32 + d.length * 2 ^ 48 := by
    show (BitVec.ofNat 64 (2 ^ 32 + d.length * 2 ^ 48)).toNat = _
    rw [BitVec.toNat_ofNat, Nat.mod_eq_of_lt (by omega)]
  refine ⟨?_, rfl, rfl, (by decide +kernel : (5 : Word) ≠ 0), ?_, ?_, rfl, rfl, by cases p <;> decide +kernel, ?_, ?_⟩
  · cases p
    · exact (by decide +kernel : (hostUp (sess false)).hears 0 = true)
    · exact (by decide +kernel : (hostUp (sess true)).hears 0 = true)
  · rw [h0]; omega
  · rw [h1]; show _ = 0 + 2 ^ 32 + d.length * 2 ^ 48; omega
  · cases p <;> exact (by decide +kernel : 0xFD000000000000000000000000000001 / 2 ^ 120 = 0xFD000000000000000000000000000000 / 2 ^ 120)
  · cases p <;> rfl
/-- The one in turn is the next; others lie ahead or behind, near and far. -/
theorem test_in_turn (op : Nat) (d : List Byte) (p : Bool) (ho : op < 256) : InTurn (hostUp (sess p)) 0 (ask op 3 d) := by
  have h0 : (ask op 3 d).h0.toNat = 1 + op * 2 ^ 16 + 3 * 2 ^ 32 := by
    show (BitVec.ofNat 64 (1 + op * 2 ^ 16 + 3 * 2 ^ 32)).toNat = _
    rw [BitVec.toNat_ofNat, Nat.mod_eq_of_lt (by omega)]
  refine ⟨rfl, fun _ => ?_⟩
  rw [h0]
  show 3 = _
  omega
theorem test_seq_cases : (hostUp (sess true)).hears 1 = false
    ∧ (∀ r ∈ [(5, 2, 2 ^ 32 - 2), (67, 64, 2 ^ 32 - 64), (68, 65, 2 ^ 32 - 65), (2, 2 ^ 32 - 1, 1), (2 ^ 32 - 61, 2 ^ 32 - 64, 64)],
       (((hostUp (sess true)).session 0).next.toNat + r.2.1) % 2 ^ 32 = (ask 1 r.1 []).h0.toNat / 2 ^ 32
        ∧ ((ask 1 r.1 []).h0.toNat / 2 ^ 32 + r.2.2) % 2 ^ 32 = ((hostUp (sess true)).session 0).next.toNat)
    ∧ (let s := hostUp { sess true with lost := [2] }; (ask 1 2 []).h0.toNat / 2 ^ 32 ∈ (s.session 0).lost)
    ∧ (let s := hostUp { sess true with replies := [(2, [])] }; (s.session 0).replies = [((ask 1 2 []).h0.toNat / 2 ^ 32, [])])
    ∧ ({ hostUp (sess true) with pkg := { ctxUp.pkg with stage := 3, bootId := 5 } } : State).hears 0 = true := by
  decide +kernel
/-- A wrong tag, a request without a session, one of an earlier boot. -/
theorem test_tag_cases : (∀ t : BitVec 128, t + 1 ≠ t)
    ∧ (let m : Umlon := { ask 1 0 [] with h1 := 0x10000FFFF, tag := 0 }; m.h1.toNat = 0xFFFF + 2 ^ 32 ∧ m.h2 = (hostUp (sess true)).pkg.bootId)
    ∧ (hostUp (sess true)).pkg.bootId ≠ (ask 1 3 [] 4).h2 := by
  refine ⟨fun t h => ?_, by decide +kernel, by decide +kernel⟩
  have := congrArg (fun x => x - t) h
  simp at this

/-- The operands of the commands that read registers, bind channels and acknowledge messages. -/
theorem test_command_cases :
    (blockOf telPage ∈ [.lde, .mxe, .vxe, .ste, .xce, .tmon, .thm, .tel] ∧ telPage < 1781 ∧ (hostUp (sess true)).awake = true)
    ∧ (∀ r ∈ [(2048, true), (2049, false), (1780, true)], let d := toBytes 2 r.1 ++ [1, 0, 1, 0, 0, 0] ++ toBytes 2 4791 ++ List.replicate 6 0 ++ List.replicate 16 9
       d.length = 32 ∧ part d 0 2 = r.1 ∧ part d 2 1 = 1 ∧ part d 3 1 ≤ 2 ∧ part d 4 2 ≤ 64 ∧ part d 10 6 = 0
        ∧ (part d 0 2 < 1781 ∨ 2048 ≤ part d 0 2 ∧ part d 0 2 < 4096 ∧ part d 0 2 % 8 < 4) ∧ ((sess r.2).prov = true ∨ part d 0 2 / 8 = 256 + (sess r.2).ctx))
    ∧ (sess false).prov = false ∧ 1780 / 8 ≠ 256 + (sess false).ctx
    ∧ (let s := hostUp (sess true)
       let s := dataAt s 0x4000C0 [0x800001, 0x80, 0x800000, 0, 0, 0, 0, 0]
       s.key.sessions.length < 8 ∧ (s.raw (keyPage 0) 0x100).toNat % 2 ^ 52 + 256 * 64 ≤ hbmBytes ∧ GoodDesc (descIn s 3))
    ∧ patchOk (hostUp (sess true)).host.image = false ∧ packCode (hostUp (sess true)).host.image ≠ none
    ∧ (∀ f, (f, 0x80) ∉ umRows) ∧ (∀ f, (f, 0x51) ∉ umRows) := by
  refine ⟨by decide +kernel, by decide +kernel, rfl, by decide +kernel, by unfold GoodDesc; decide +kernel, by decide +kernel, by decide +kernel, ?_, ?_⟩ <;>
  · intro f h
    simp [umRows] at h

/-- A channel with one record that is due, one with too few, one with a message that waits for its acknowledgement. -/
def rec1 : EvRec := { type := 0, seqno := 0, body := [1, 2, 3, 4], fatal := false, sev := 0, at' := 0 }
def chanUp (h : Chan) : State := let s := hostUp (sess true); { s with host := { s.host with chans := [(7, h)] } }
theorem test_channel_cases :
    (∀ n ∈ [1, 2], let h : Chan := { bound := true, queue := [rec1], coalN := n, coalUs := 50 }
       let s := chanUp h
       let room := (max 1024 (min 8192 ((s.raw (henPage 0) 0x120).toNat / 2 ^ 16 % 2 ^ 14)) - 16) / 40
       Awake s ∧ s.pkg.stage = 7 ∧ s.chan 7 = h ∧ s.hears 0 = true ∧ s.hears 1 = false ∧ h.unacked.length < 4 ∧ h.queue.length ≤ room
        ∧ h.queue.length ≤ h.coalN ∧ (∃ r, h.queue.head? = some r ∧ r.at' + h.coalUs * 1000 ≤ s.time))
    ∧ (let h : Chan := { bound := true, queue := [{ rec1 with at' := 999990000 }], coalN := 2, coalUs := 50 }
       let s := chanUp h
       h.queue.length < h.coalN ∧ (∀ r ∈ h.queue, r.fatal = false ∧ s.time < r.at' + h.coalUs * 1000))
    ∧ (∀ r ∈ [(0, 999999000), (0, 0), (15, 0)], let h : Chan := { bound := true, unacked := [(0, r.1, r.2, ask 0x80 0 [])] }
       let s := chanUp h
       let ack := max 1 ((s.raw telPage 0x100).toNat % 2 ^ 16) * 1000
       let again := (s.raw telPage 0x100).toNat / 2 ^ 16 % 2 ^ 4
       SendsOn s h 0 ∧ (r.2 = 999999000 → s.time < r.2 + ack) ∧ (r.2 = 0 → r.2 + ack ≤ s.time) ∧ (r.1 = 15 → again ≤ r.1) ∧ (r.2 = 0 → r.1 = 0 → r.1 < again)) := by
  refine ⟨?_, by decide +kernel, ?_⟩
  · intro n hn
    simp only [List.mem_cons, List.not_mem_nil, or_false] at hn
    unfold Awake
    rcases hn with rfl | rfl
    · exact ⟨by decide +kernel, rfl, rfl, by decide +kernel, by decide +kernel, by decide, by decide +kernel, by decide, rec1, rfl, by decide +kernel⟩
    · exact ⟨by decide +kernel, rfl, rfl, by decide +kernel, by decide +kernel, by decide, by decide +kernel, by decide, rec1, rfl, by decide +kernel⟩
  · unfold SendsOn
    decide +kernel

/-- A request that waits for a missing SEQ; an access-list entry that stands and one that does not; host region entries likewise. -/
theorem test_session_cases :
    (∀ t ∈ [999999999, 0], let x : Session := { sess true with waiting := [(t, ask 0x10 5 [])] }
       (x.next.toNat + 2) % 2 ^ 32 = (ask 0x10 5 []).h0.toNat / 2 ^ 32 ∧ (t = 0 → t + 10000000 ≤ (hostUp x).time) ∧ (t ≠ 0 → (hostUp x).time < t + 10000000))
    ∧ ByBureau (hostUp (sess true)) bur (henPage 0) ∧ Tab.wf {} (hostUp (sess true)).host.chans = true := by
  unfold ByBureau Awake
  decide +kernel

/-- Payloads of the commands on queue pairs and registrations. -/
def qpData : List Byte :=
  [0, 0, 0, 0] ++ toBytes 4 4096 ++ List.replicate 16 7 ++ toBytes 4 12 ++ toBytes 4 34 ++ [7, 7, 14, 0] ++ toBytes 4 64 ++ toBytes 8 0x10000 ++ toBytes 4 16 ++ toBytes 4 0
def mrData (va : Nat) : List Byte := toBytes 2 0 ++ [3, 0, 0, 0, 0, 0] ++ toBytes 8 va ++ toBytes 8 4096
theorem test_qp_cases :
    (let d := qpData
     d.length = 56 ∧ part d 0 2 < 256 ∧ part d 2 1 ≤ 1 ∧ part d 3 1 = 0 ∧ part d 4 4 ∈ [1024, 2048, 4096] ∧ part d 24 4 < 2 ^ 24 ∧ part d 28 4 < 2 ^ 24
      ∧ part d 32 1 ≤ 7 ∧ part d 33 1 ≤ 7 ∧ 8 ≤ part d 34 1 ∧ part d 34 1 ≤ 20 ∧ part d 35 1 = 0 ∧ part d 36 4 % 32 = 0 ∧ 0 < part d 36 4 ∧ part d 36 4 ≤ 8192
      ∧ part d 52 4 = 0)
    ∧ ((hostUp (sess true)).qp 0).there = false
    ∧ (∀ va ∈ [0x4000, 0x80000000], let d := mrData va
       d.length = 24 ∧ part d 2 1 = 3 ∧ part d 3 5 = 0 ∧ part d 8 8 = va ∧ part d 16 8 = 4096)
    ∧ ((hostUp (sess true)).translate 2 (some 0) 0x4000 4096 true).1 = some [seg 0x4000 4096] ∧ ((hostUp (sess true)).translate 2 (some 0) 0x80000000 4096 true).1 = none
    ∧ (let s := hostUp (sess true)
       let s := { s with host := { s.host with mrs := [(0, { there := true, rkey := 0x5000, va := 0x4000, len := 4096 })], qps := [(3, { there := true })] } }
       (Tab.get ({} : Mr) s.host.mrs 0).rkey = 0x5000 ∧ (Tab.get ({} : Mr) s.host.mrs 0).ctx = ((hostUp (sess true)).session 0).ctx ∧ (s.qp 3).there = true ∧ (s.qp 3).ops = []) := by
  decide +kernel

/-- A ready queue pair with a registration and a receive ring of 16 entries of 64 bytes at 64 KiB, whose consumer word follows. -/
def qpUp (q : Qp) : State :=
  let s := hostUp (sess true)
  { s with host := { s.host with qps := [(3, q)], mrs := [(0, { there := true, rkey := 0x5000, va := 0x4000, len := 4096, rd := true, wr := true })] } }
def qp3 : Qp := { there := true, ringVa := 0x10000, entSize := 64, entries := 16, retries := 7, rnr := 3, timeout := 14 }
/-- R397: an ECN-marked packet brings about a CNP unless one left less than 50 µs ago. -/
theorem test_cnp_for_mark :
    let s := { qpUp { qp3 with cnpAt := some 0 } with time := 49999 }
    let t := { s with time := 50000 }
    (s.ecnMark 3 true).out = s.out ∧ (t.ecnMark 3 false).out = t.out ∧ (t.ecnMark 3 true).out = t.out ++ [.cnp 3]
    ∧ ((t.ecnMark 3 true).qp 3).cnpAt = some 50000 ∧ (((qpUp qp3).ecnMark 3 true).out = (qpUp qp3).out ++ [.cnp 3]) ∧ NoCnp s 3 true :=
  ⟨by decide +kernel, by decide +kernel, by decide +kernel, by decide +kernel, by decide +kernel, .inr ⟨0, by decide +kernel⟩⟩
theorem test_inbound_cases : QpReady (qpUp qp3) 3 ∧ (qpUp qp3).host.inbound = [] ∧ (qpUp qp3).fab.unsent = [] ∧ (qpUp qp3).mem.writes = []
    ∧ Registered (qpUp qp3) 3 0x5000 0x4FF0 16 true ∧ ¬ Registered (qpUp qp3) 3 0x5000 0x4FF0 17 true
    ∧ ((qpUp qp3).translateLocal 2 (some 0) (0x10000 + 16 * 64) 8 false).1 = some [(0x10400, 8, false)]
    ∧ ((qpUp qp3).translateLocal 2 (some 0) 0x10000 64 true).1 = some [(0x10000, 64, false)]
    ∧ (qpUp qp3).linkState 0 = 2 ∧ ((qpUp { qp3 with error := true }).qp 3).error = true := by
  have h : ((0, { there := true, rkey := 0x5000, va := 0x4000, len := 4096, rd := true, wr := true }) : Nat × Mr) ∈ (qpUp qp3).host.mrs := List.mem_cons_self ..
  refine ⟨by unfold QpReady Awake; decide +kernel, rfl, rfl, rfl, ⟨_, h, by decide +kernel⟩, ?_, by decide +kernel, by decide +kernel, by decide +kernel, by decide +kernel⟩
  unfold Registered
  decide +kernel
theorem test_inbound_local : LocalAt (qpUp qp3) 2 0 0x4FF0 16 true 0x4FF0 :=
  ⟨seg 0x4FF0 16, by decide +kernel, by decide +kernel, rfl, by decide +kernel⟩

/-- A queue pair with one operation outstanding for the access of tile 0: a read or a write, tried before or not. -/
def op3 (rd : Bool) : RdmaOp := { read := rd, t := 0, flight := 3, dest := .buf 0, len := 64, sent := true }
def qpBusy (rd : Bool) (tries : Nat) : State :=
  let q := { qp3 with ops := [op3 rd], tries := tries, rnrs := tries }
  tileIs (qpUp q) 0 { flights := [{ id := 3, desc := {}, eng := .lde, left := 1 }] }
theorem test_device_cases : ∀ r ∈ [(true, 0), (true, 7), (false, 0), (false, 7)], let s := qpBusy r.1 r.2
    QpReady s 3 ∧ (s.qp 3).ops = [op3 r.1] ∧ (op3 r.1).flight < 2 ^ 64 ∧ (op3 r.1).sent = true ∧ s.ctxOf 0 = some (s.qp 3).ctx
    ∧ (s.qp 3).timer + 4096 * 2 ^ (s.qp 3).timeout ≤ s.time ∧ (r.2 = 0 → (s.qp 3).tries < (s.qp 3).retries ∧ (s.qp 3).rnrs < (s.qp 3).rnr)
    ∧ (r.2 = 7 → (s.qp 3).retries ≤ (s.qp 3).tries ∧ (s.qp 3).rnr ≤ (s.qp 3).rnrs) := by
  unfold QpReady Awake
  decide +kernel

theorem test_port_cases : let s := hostUp (sess true)
    s.linkState 0 = 2 ∧ s.linkState 1 = 0 ∧ (s.raw (henPage 0) 0x100).getLsbD 2 = true ∧ 1 ≤ s.pkg.stage.toNat
    ∧ (BitVec.ofNat 128 ((s.raw (henPage 0) 0x110).toNat + (s.raw (henPage 0) 0x118).toNat * 2 ^ 64)).toNat
      = (s.raw (henPage 0) 0x110).toNat + (s.raw (henPage 0) 0x118).toNat * 2 ^ 64
    ∧ (5 : BitVec 128).toNat / 2 ^ 112 ≠ 0xFE80 := by
  decide +kernel

/-! ## Pins, bring-up and debug -/

/-- Bring-up at a stage; an intact configuration block in flash, and two that are not. -/
def bootAt (stage : BitVec 8) : State := { ctxUp with pkg := { ctxUp.pkg with stage := stage } }
def cfgBlock : List Byte :=
  let d := asciiBytes "GVPC" ++ toBytes 2 1 ++ toBytes 2 0 ++ [2, 0, 0, 0, 0, 1, 0, 0] ++ List.replicate 236 0
  d ++ toBytes 4 (crc32c d).toNat
theorem test_boot_cases : State.reset.pkg.porst = true
    ∧ (∀ n, n < 8 → (bootAt (BitVec.ofNat 8 n)).pkg.stage.toNat = n ∧ (bootAt (BitVec.ofNat 8 n)).pkg.strapped = false ∧ (bootAt (BitVec.ofNat 8 n)).pkg.testing = false)
    ∧ (let s := { bootAt 2 with host := { flash := [(0, some 0), (0x8000, some 0)] } }
       cfgGood (s.flashRead 0 256) = false ∧ cfgGood (s.flashRead 0x8000 256) = false ∧ s.pkg.warm = false) := by
  decide +kernel
theorem test_boot_config :
    let s := { bootAt 2 with host := { flash := (List.range 256).map fun k => (k, some (cfgBlock.getD k 0)) } }
    s.flashRead 0 256 = cfgBlock ∧ cfgGood cfgBlock = true := by
  decide +kernel
theorem test_workbench_cases :
    (let s := { ctxUp with key := {}, pkg := { ctxUp.pkg with testing := true } }; s.pkg.testing = true ∧ ByBureau s bur tstPage ∧ s.pkgQuiesced = false
      ∧ ∀ q, q < 48 → Tab.get none s.key.owner q = none)
    ∧ (let s := { ctxUp with host := { flash := [(0x1000000, some 0), (0x5000000, some 0)] } }
       s.packIn false = none ∧ s.packIn true = none) := by
  unfold ByBureau Awake
  decide +kernel

/-- A frozen package whose port is armed, at an address of each space. -/
def lctUp (a : Nat) : State :=
  { ctxUp with pkg := { ctxUp.pkg with frozen := true, armed := true, freezeOk := true, lctAddr := BitVec.ofNat 64 a } }
theorem test_lectern_cases :
    (∀ r ∈ [(0, 0, pageAddr 5 0x18), (1, 191, 8), (2, 0, 16), (4, 0, 0x4000)], (lctUp (r.1 * 2 ^ 60 + r.2.1 * 2 ^ 52 + r.2.2)).pkg.lctAddr.toNat
        = r.1 * 2 ^ 60 + r.2.1 * 2 ^ 52 + r.2.2 ∧ r.2.2 < 2 ^ 52 ∧ r.2.2 % 8 = 0)
    ∧ (lctUp 0).stackOn (homeOf 0x4000) = true ∧ (lctUp 0).host.sessions = [] ∧ (lctUp 0).pkg.frozen = true ∧ (lctUp 0).pkg.stopped = false := by
  decide +kernel

/-- What every step keeps: the frozen state above has been frozen since it was itself; a fail-stopped one likewise. -/
theorem test_frozen_case : FrozenSince (lctUp 0) (lctUp 0) ∧ (lctUp 0).pending.head? = none := by
  have h : (lctUp 0).pkg.frozen = true := by decide +kernel
  have hp : (lctUp 0).pending.head? = none := by decide +kernel
  generalize lctUp 0 = s at h hp ⊢
  exact ⟨⟨h, fun _ => rfl, rfl, fun _ => rfl, rfl, rfl, rfl, rfl, rfl, rfl, rfl, rfl, rfl, rfl⟩, hp⟩
def stoppedUp : State := { ctxUp with pkg := { ctxUp.pkg with stopped := true } }
theorem test_stopped_case : StoppedSince stoppedUp stoppedUp ∧ stoppedUp.pending.head? = none := by
  have h : stoppedUp.pkg.stopped = true := by decide +kernel
  have hp : stoppedUp.pending.head? = none := by decide +kernel
  generalize stoppedUp = s at h hp ⊢
  exact ⟨⟨h, fun _ => rfl, rfl, fun _ _ _ => rfl, rfl, rfl, rfl, rfl, rfl, rfl, rfl, rfl, rfl, rfl⟩, hp⟩

/-- An error and an event on a page whose channel is bound, with room and without. -/
theorem test_error_cases : telPage < 1781
    ∧ (let s := chanUp { bound := true }; (s.chan 7).queue.length < 64 ∧ (s.page 7).err.valid = false ∧ (s.raw 7 0x028).getLsbD 4 = false)
    ∧ (let s := chanUp { bound := true, queue := List.replicate 64 rec1 }
       64 ≤ (s.chan 7).queue.length ∧ (s.chan 7).queue = [] ++ rec1 :: List.replicate 63 rec1 ∧ rec1.sev < 3) := by
  decide +kernel

/-! ## Operands that cannot occur, one for each check -/

theorem test_ill_formed : ∀ i ∈ [
    Instr.runStart { source := .bureau, role := some 3 } 0, .load 0 (.corrected (2 ^ 52)), .mma 0 (.uncorrectable (2 ^ 52)),
    .packetArrival 0 { w0 := 0, w1 := 0, w2 := 0, w3 := 0, body := [], ccrc := 1, tag := 0 },
    .packetArrival 0 { w0 := 1, w1 := 0, w2 := 0, w3 := 0, body := List.replicate 27 0, ccrc := 0, tag := 0 },
    .creditReturn 0 0 0 0, .portTrainingDone 0 25 0, .thermSample 0 (some 256), .roundBoundary [], .identify (ask 0x02 0 []),
    .status { ask 0x02 0 [] with data := List.replicate 9169 0 }, .unknownOp (ask 0x10 0 []), .rdmaRead 0 0 0 (2 ^ 30 + 1) false, .echoRequest 0 0 0 (List.replicate 9217 0)],
    i.wellFormed = false := by
  decide +kernel

/-! ## Worked examples -/

/-- The example after R61 (03_number_formats.md): the anchor is 13, and the four products add 1.5 × 2^92, −5, 4 and 0 window LSBs. -/
theorem test_window_example : anchorOf (some 12) none = 13
    ∧ ([⟨1536, 0⟩, ⟨-16641, -94⟩, ⟨16641, -94⟩, ⟨1, -90⟩].foldl Entry.addProduct (({} : Entry).setA 13)).i = 3 * 2 ^ 91 - 5 + 4 := by
  decide +kernel

/-- ADD wraps (R104), whatever the sign: all ones and 1 give 0. -/
theorem test_add_wraps : (match exec (.add 0) (at0 (ins 0x01 1 2 3 0 0) { s := [(2, 0xFFFFFFFFFFFFFFFF), (3, 1)] }) with
    | .next s => decide ((s.tile 0).reg 1 = 0 ∧ (s.tile 0).pc.toNat = 1) | _ => false) = true := by
  decide +kernel

/-- CRC-32C of the nine digits, SHA-256 of "abc" (FIPS 180-4) and AES-256 of the example of FIPS 197. -/
theorem test_crc : crc32c (asciiBytes "123456789") = 0xE3069283 := by decide +kernel
theorem test_sha : ofBytesBE (sha256 (asciiBytes "abc")) = 0xBA7816BF8F01CFEA414140DE5DAE2223B00361A396177A9CB410FF61F20015AD := by decide +kernel
theorem test_aes : ofBytesBE (aesEnc (roundKeys ((List.range 32).map (BitVec.ofNat 8))) ((List.range 16).map fun i => BitVec.ofNat 8 (17 * i)))
    = 0x8EA2B7CA516745BFEAFC49904B496089 := by
  decide +kernel

/-- The example after R41 (02_register_pages.md), steps 1 to 4: PASSES of tile 2.27 written as 2, as 3, and with RESET, while a product runs. -/
def passesUp : State := tileIs (enabled ctxUp (engPage 123 .mxe)) 123 { flights := [{ id := 1, desc := {}, eng := .mxe }] }
def wrote (s : State) (v : Nat) : State :=
  match exec (.registerWrite { source := .host0, role := none } 0x00F0021B2010 (BitVec.ofNat 64 v)) s with | .next t => t | _ => s
theorem test_staged_example : let n := engPage 123 .mxe
    let s2 := wrote passesUp (1 + 2 * 2 ^ 32)
    let s3 := wrote s2 (1 + 3 * 2 ^ 32)
    let s4 := wrote s3 (1 + 2 ^ 2 + 3 * 2 ^ 32)
    passesUp.busy n = true ∧ bits (s2.regWord none n 0x10) 32 2 = 2 ∧ bits (s2.raw n 0x10) 32 2 = 1 ∧ bits (s2.regWord none n 0x18) 4 1 = 1
    ∧ bits (s3.regWord none n 0x10) 32 2 = 3 ∧ bits (s3.raw n 0x10) 32 2 = 1
    ∧ bits (s4.regWord none n 0x18) 3 1 = 1 ∧ bits (s4.regWord none n 0x18) 8 9 = 2 ∧ bits (s4.regWord none n 0x10) 32 2 = 3 := by
  decide +kernel
end Sys2Proof.Tests
end

section
/-! What memory accesses and the way of a packet leave alone (R249, R268 to R270), and what an error report gives the Bureau (R344). -/

namespace Sys2Proof.Machine

open Sys2Proof Sys2Proof.Spec

/-! ## What the memory system leaves alone -/

/-- Nothing changes but memory, pages and the count of free values. -/
def MemFrame (s s' : State) : Prop := ∃ m ps d, s' = { s with mem := m, pages := ps, draws := d }

namespace MemFrame

variable {s s₁ s₂ : State}

theorem refl (s : State) : MemFrame s s := ⟨_, _, _, rfl⟩

theorem trans (h₁ : MemFrame s s₁) (h₂ : MemFrame s₁ s₂) : MemFrame s s₂ := by
  obtain ⟨_, _, _, rfl⟩ := h₁
  obtain ⟨m, ps, d, rfl⟩ := h₂
  exact ⟨m, ps, d, rfl⟩

theorem time (h : MemFrame s s₁) : s₁.time = s.time := by obtain ⟨_, _, _, rfl⟩ := h; rfl
theorem tiles (h : MemFrame s s₁) : s₁.tiles = s.tiles := by obtain ⟨_, _, _, rfl⟩ := h; rfl
theorem fab (h : MemFrame s s₁) : s₁.fab = s.fab := by obtain ⟨_, _, _, rfl⟩ := h; rfl
theorem key (h : MemFrame s s₁) : s₁.key = s.key := by obtain ⟨_, _, _, rfl⟩ := h; rfl
theorem bur (h : MemFrame s s₁) : s₁.bur = s.bur := by obtain ⟨_, _, _, rfl⟩ := h; rfl

theorem setMem (s : State) (m : Mem) : MemFrame s { s with mem := m } := ⟨_, _, _, rfl⟩

theorem count (h : MemFrame s s₁) (n i : Nat) (c : Option Nat) (k : Nat) : MemFrame s (s₁.count n i c k) := by
  refine h.trans ?_
  unfold State.count
  split
  · exact .refl _
  · exact ⟨_, _, _, rfl⟩

end MemFrame

variable (s : State) (ctx : Option Nat) (hint : Nat) (alloc : Bool)

theorem lineRead_frame (l : Nat) : MemFrame s (s.lineRead ctx hint alloc l) := by
  have hit : MemFrame s (s.count (mscPage (lineDie l)) 0 ctx) := (MemFrame.refl s).count ..
  have miss : MemFrame s (s.count (mscPage (lineDie l)) 1 ctx) := (MemFrame.refl s).count ..
  unfold State.lineRead
  dsimp only
  split
  · split
    · split
      · exact ((hit.count ..).count ..).trans (.setMem ..)
      · exact (hit.count ..).trans (.setMem ..)
    · exact hit.trans (.setMem ..)
  · split
    · exact (miss.trans (.setMem ..)).count ..
    · exact miss.trans (.setMem ..)

theorem lineWrite_frame (l : Nat) : MemFrame s (s.lineWrite ctx hint alloc l) := by
  unfold State.lineWrite
  dsimp only
  split
  · exact (MemFrame.setMem ..).count ..
  · have miss : MemFrame s (s.count (mscPage (lineDie l)) 3 ctx) := (MemFrame.refl s).count ..
    split
    · exact (miss.trans (.setMem ..)).count ..
    · exact miss.trans (.setMem ..)

theorem memRead_frame (a n : Nat) : MemFrame s (s.memRead ctx a n hint alloc).2 := by
  unfold State.memRead
  refine MemFrame.count (foldl_keeps (MemFrame s) _ (fun s' l h => h.trans (lineRead_frame s' ctx hint alloc l)) _ _ ?_) ..
  split
  · exact .refl s
  · exact ⟨_, _, _, rfl⟩

theorem memWrite_frame (a : Nat) (d : List Byte) : MemFrame s (s.memWrite ctx a d hint alloc) := by
  unfold State.memWrite
  have h := foldl_keeps (MemFrame s) _ (fun s' l h => h.trans (lineWrite_frame s' ctx hint alloc l)) (linesOf a d.length) _ (.refl s)
  exact (h.trans (.setMem ..)).count ..

@[simp] theorem eccMem_fab (e : Ecc) : (s.eccMem ctx e).2.fab = s.fab := by
  unfold State.eccMem State.stepFatal
  cases e with
  | clean => rfl
  | corrected a => dsimp only; split <;> simp
  | uncorrectable a => dsimp only; split <;> [simp; (split <;> [simp; (dsimp only; split <;> simp)])]

/-! ## What moving a packet leaves alone -/

/-- What the way of a packet keeps: tiles, memory, the flow cache and both lists of requests; and no fatal report is lost. -/
structure Carried (s s' : State) : Prop where
  tiles  : s'.tiles = s.tiles
  mem    : s'.mem = s.mem
  cache  : s'.fab.cache = s.fab.cache
  reqs   : s'.fab.reqs = s.fab.reqs
  unsent : s'.fab.unsent = s.fab.unsent
  fatals : ∀ x ∈ s.bur.fatals, x ∈ s'.bur.fatals

namespace Carried

variable {s s₁ s₂ : State}

theorem refl (s : State) : Carried s s := ⟨rfl, rfl, rfl, rfl, rfl, fun _ hx => hx⟩

theorem trans (h₁ : Carried s s₁) (h₂ : Carried s₁ s₂) : Carried s s₂ :=
  ⟨h₂.tiles.trans h₁.tiles, h₂.mem.trans h₁.mem, h₂.cache.trans h₁.cache, h₂.reqs.trans h₁.reqs, h₂.unsent.trans h₁.unsent,
    fun x hx => h₂.fatals x (h₁.fatals x hx)⟩

end Carried

/-- All that an error report changes of the Bureau: a Step-fatal or Package-fatal one reaches it in every case (R344). -/
theorem raise_bur (n sev code : Nat) (c : Option Nat) (loc : Word) : (s.raise n sev code c loc).bur =
    if 3 ≤ sev then { s.bur with fatals := s.bur.fatals ++ [{ page := n, code := code, sev := sev, ctx := c, loc := loc }] } else s.bur := by
  unfold State.raise
  by_cases h : 3 ≤ sev
  · simp only [h, if_true]
    split <;> simp
  · simp only [h, if_false]
    split <;> simp

theorem fatal_raise {s : State} {x : Fatal} (n sev code : Nat) (c : Option Nat) (loc : Word) (h : x ∈ s.bur.fatals) :
    x ∈ (s.raise n sev code c loc).bur.fatals := by
  rw [raise_bur]
  split
  · exact List.mem_append_left _ h
  · exact h

theorem mem_fatals_raise (n sev code : Nat) (c : Option Nat) (loc : Word) (h : 3 ≤ sev) :
    { page := n, code := code, sev := sev, ctx := c, loc := loc } ∈ (s.raise n sev code c loc).bur.fatals := by
  simp [raise_bur, h]

theorem count_carried (n i : Nat) (c : Option Nat) (k : Nat) : Carried s (s.count n i c k) := ⟨by simp, by simp, by simp, by simp, by simp, by simp⟩

theorem note_carried (n code : Nat) : Carried s (s.note n code) :=
  ⟨by simp [State.note], by simp [State.note], by simp [State.note], by simp [State.note], by simp [State.note], fun _ => fatal_raise n 0 code none 0⟩

theorem touchFlow_carried (f : Nat) : Carried s (s.touchFlow f) := by
  unfold State.touchFlow
  split
  · exact count_carried ..
  · split
    · exact count_carried ..
    · exact ⟨rfl, rfl, rfl, rfl, rfl, fun _ hx => hx⟩

theorem deliver_carried (src : Option Nat) (die : Nat) (p : Packet) : Carried s (s.deliver src die p) :=
  (touchFlow_carried s (pktFlow p)).trans ⟨rfl, rfl, rfl, rfl, rfl, fun _ hx => hx⟩

theorem giveCredits_carried (src : Option Nat) (p : Packet) : Carried s (s.giveCredits src p) := by
  unfold State.giveCredits
  split <;> exact ⟨rfl, rfl, rfl, rfl, rfl, fun _ hx => hx⟩

theorem sendOn_carried (port cls : Nat) (p : Packet) : Carried s (s.sendOn port cls p) := by
  unfold State.sendOn State.countPort
  dsimp only
  split <;> exact ⟨by simp, by simp, by simp, by simp, by simp, by simp⟩

theorem routePkt_carried (src : Option Nat) (die : Nat) (p : Packet) : Carried s (s.routePkt src die p) := by
  have hc := giveCredits_carried s src p
  unfold State.routePkt
  split
  · exact hc.trans (deliver_carried ..)
  · exact hc.trans (sendOn_carried ..)
  · exact ⟨rfl, rfl, rfl, rfl, rfl, fun _ hx => hx⟩
  · refine (hc.trans ?_).trans (note_carried ..)
    split
    · exact count_carried ..
    · exact count_carried ..

theorem launch_carried (die target : Nat) (p : Packet) : Carried s (s.launch die target p) := by
  unfold State.launch
  split
  · exact deliver_carried ..
  · exact routePkt_carried ..

theorem transmit_carried (e : Flow) (r : Req) : Carried s (s.transmit e r) := by
  unfold State.transmit
  split
  · exact .refl s
  · refine Carried.trans ?_ (launch_carried ..)
    have hk := count_carried s (keyPage r.die) 4 r.ctxOpt 1
    split
    · exact (hk.trans (count_carried ..)).trans (count_carried ..)
    · split
      · exact hk.trans (count_carried ..)
      · exact hk

end Sys2Proof.Machine
end

section
/-! A fatal report stays with the Bureau whatever the end of a request lets happen: its owner, fences, flags and the requests that go next
(R272, R288 to R290, R344). -/

namespace Sys2Proof.Machine

open Sys2Proof Sys2Proof.Spec

/-! ## A fatal report stays while a request ends -/

variable {s : State} {x : Fatal}

@[simp] theorem memWrite_bur (s : State) (ctx : Option Nat) (a : Nat) (d : List Byte) (hint : Nat) (alloc : Bool) :
    (s.memWrite ctx a d hint alloc).bur = s.bur := (memWrite_frame s ctx hint alloc a d).bur

@[simp] theorem modTileOf_bur (s : State) (c t : Nat) (f : Tile → Tile) : (s.modTileOf c t f).bur = s.bur := by
  unfold State.modTileOf
  split <;> rfl

@[simp] theorem modFlow_bur (s : State) (f : Nat) (g : Flow → Flow) : (s.modFlow f g).bur = s.bur := by
  unfold State.modFlow
  split <;> rfl

@[simp] theorem setFlow_bur (s : State) (f : Nat) (e : Flow) : (s.setFlow f e).bur = s.bur := rfl
@[simp] theorem modQp_bur (s : State) (n : Nat) (f : Qp → Qp) : (s.modQp n f).bur = s.bur := rfl

@[simp] theorem noteDelay_bur (s : State) (r : Req) : (s.noteDelay r).bur = s.bur := by
  unfold State.noteDelay
  split
  · split <;> simp
  · rfl

theorem fatal_request (r : Req) (h : x ∈ s.bur.fatals) : x ∈ (s.request r).bur.fatals := (touchFlow_carried s r.flow).fatals x h

/-! ### Memory at a virtual address -/

theorem fatal_translate (die : Nat) (ctx : Option Nat) (va n : Nat) (write : Bool) (h : x ∈ s.bur.fatals) :
    x ∈ (s.translate die ctx va n write).2.bur.fatals := by
  unfold State.translate
  cases ctx with
  | none => exact h
  | some c =>
    refine List.foldlRecOn (motive := fun r : Option (List Seg) × State => x ∈ r.2.bur.fatals) _ _ h fun r hr g _ => ?_
    obtain ⟨acc, s'⟩ := r
    cases acc with
    | none => exact hr
    | some segs =>
      dsimp only
      split
      · exact hr
      · exact fatal_raise _ _ _ _ _ (by simpa using hr)
      · split <;> split <;> exact hr

theorem fatal_translateLocal (die : Nat) (ctx : Option Nat) (va n : Nat) (write : Bool) (h : x ∈ s.bur.fatals) :
    x ∈ (s.translateLocal die ctx va n write).2.bur.fatals := by
  have ht := fatal_translate die ctx va n write h
  unfold State.translateLocal
  split
  · rename_i s' he
    rw [he] at ht
    exact ht
  · rename_i gs s' he
    rw [he] at ht
    exact ht

theorem fatal_storeVirt (die c va : Nat) (d : List Byte) (hint : Nat) (h : x ∈ s.bur.fatals) : x ∈ (s.storeVirt die c va d hint).2.bur.fatals := by
  have ht := fatal_translateLocal die (some c) va d.length true h
  unfold State.storeVirt
  split
  · rename_i s' he
    rw [he] at ht
    exact ht
  · rename_i segs s' he
    rw [he] at ht
    exact List.foldlRecOn (motive := fun r : State × List Byte => x ∈ r.1.bur.fatals) _ _ ht fun r hr g _ => by simpa using hr

theorem fatal_countSet (die c va n : Nat) (h : x ∈ s.bur.fatals) : x ∈ (s.countSet die c va n).2.bur.fatals := fatal_storeVirt _ _ _ _ _ h

/-! ### Answers to inbound RDMA requests -/

@[simp] theorem qpSay_bur (s : State) (n : Nat) (o : Out) : (s.qpSay n o).bur = s.bur := by
  unfold State.qpSay State.roceOut
  dsimp only
  split <;> simp

theorem fatal_qpError (n syndrome : Nat) (h : x ∈ s.bur.fatals) : x ∈ (s.qpError n syndrome).bur.fatals := by
  unfold State.qpError
  dsimp only
  split
  · exact h
  · rw [queueRec_bur]
    refine foldl_keeps (fun s => x ∈ s.bur.fatals) _ (fun s' k hs => fatal_raise _ _ _ _ _ hs) _ _ ?_
    refine foldl_keeps (fun s => x ∈ s.bur.fatals) _ (fun s' o hs => by simpa using hs) _ _ ?_
    simpa using h

theorem fatal_answerRdma (k : Nat) : ∀ {s : State}, x ∈ s.bur.fatals → x ∈ (State.answerRdma k s).bur.fatals := by
  induction k with
  | zero => exact fun h => h
  | succ k ih =>
    intro s h
    unfold State.answerRdma
    split
    · exact h
    · refine ih ?_
      split
      · exact h
      · split
        · simpa using h
        · simpa using h
        · exact fatal_qpError _ _ (by simpa using h)
        · exact fatal_qpError _ _ (by simpa using h)
        · simpa using h

/-! ### The end of a request -/

/-- Whatever the owner of a request makes of its end, no fatal report is lost. -/
theorem fatal_ownerEnd (r : Req) (refused : Bool) (m : Met) (data : List Byte) (h : x ∈ s.bur.fatals) :
    x ∈ (s.ownerEnd r refused m data).bur.fatals := by
  unfold State.ownerEnd
  cases r.owner with
  | tile t id => simpa using h
  | upe st => exact h
  | sbd => exact h
  | rdma id => exact fatal_answerRdma _ h
  | mirror c k =>
    dsimp only
    split
    · split
      · exact h
      · exact fatal_raise _ _ _ _ _ h
    · split <;> exact h
  | restore c =>
    dsimp only
    split
    · split
      · exact h
      · rw [count_bur, event_bur]
        exact fatal_storeVirt _ _ _ _ _ h
    · exact h
  | handover => exact h
  | bureau =>
    dsimp only
    split
    · refine foldl_keeps (fun s => x ∈ s.bur.fatals) _ (fun s' w hs => ?_) _ _ h
      split
      · exact hs
      · exact fatal_request _ hs
    · split
      · exact fatal_raise _ _ _ _ _ h
      · exact h
  | cle st c q =>
    dsimp only
    split
    · split
      · exact h
      · exact fatal_storeVirt _ _ _ _ _ h
    · exact h

theorem fatal_fetchMark (r : Req) (refused : Bool) (h : x ∈ s.bur.fatals) : x ∈ (s.fetchMark r refused).bur.fatals := by
  unfold State.fetchMark
  split
  · split
    · exact h
    · split
      · split
        · exact h
        · exact fatal_countSet _ _ _ _ h
      · exact h
  · exact h

/-- The first half of `State.settleFlight`: a fence that is reached ends (R289). -/
def State.endFence (s : State) (c t : Nat) (f : Flight) : State :=
  match f.waitFor with
  | none => s
  | some (all, fl, cap) =>
    if reached (if all then (Tab.get 0 s.fab.doneAll c).toNat else (s.flowNow fl).completed) cap then
      s.modTileOf c t (mapFlight f.id fun f => { f with waitFor := none })
    else s

/-- The second half of `State.settleFlight`: a flag that is due is requested or dropped (R290). -/
def State.sendFlag (s : State) (c t : Nat) (f : Flight) : State :=
  match f.flag with
  | none => s
  | some (fl, w, cap) =>
    if f.refused && decide (f.left = 0) then s.modTileOf c t (mapFlight f.id fun f => { f with flag := none })
    else match cap with
      | none => s
      | some n =>
        if f.left = 0 ∧ reached (s.flowNow fl).completed n then
          (s.modTileOf c t (mapFlight f.id fun f => { f with flag := none, left := 1, unsent := 1 })).request
            { flow := fl, seq := 0, pop := 6, ctx := c, owner := .tile t f.id, w2 := w, arg := toBytes 8 w.toNat ++ toBytes 4 1
              page := engPage t .xce, die := tileDie t }
        else s

theorem settleFlight_eq (s : State) (c t : Nat) (f : Flight) : s.settleFlight c t f = (s.endFence c t f).sendFlag c t f := rfl

@[simp] theorem endFence_bur (s : State) (c t : Nat) (f : Flight) : (s.endFence c t f).bur = s.bur := by
  unfold State.endFence
  split
  · rfl
  · simp only [apply_ite State.bur, modTileOf_bur, ite_self]

theorem fatal_sendFlag (c t : Nat) (f : Flight) (h : x ∈ s.bur.fatals) : x ∈ (s.sendFlag c t f).bur.fatals := by
  unfold State.sendFlag
  split
  · exact h
  · split
    · simpa using h
    · split
      · exact h
      · split
        · refine fatal_request _ ?_
          simpa using h
        · exact h

theorem fatal_settleFlight (c t : Nat) (f : Flight) (h : x ∈ s.bur.fatals) : x ∈ (s.settleFlight c t f).bur.fatals := by
  rw [settleFlight_eq]
  exact fatal_sendFlag c t f (by simpa using h)

theorem fatal_settle (h : x ∈ s.bur.fatals) : x ∈ s.settle.bur.fatals :=
  foldl_keeps (fun s => x ∈ s.bur.fatals) _ (fun _ _ hs => fatal_settleFlight _ _ _ hs) _ _ h

@[simp] theorem sendLow_bur (s : State) (f : Nat) : (s.sendLow f).bur = s.bur := modFlow_bur ..

/-! ### Sending -/

theorem fatal_sendReq (i : Nat) (h : x ∈ s.bur.fatals) : x ∈ (s.sendReq i).bur.fatals := by
  unfold State.sendReq
  split
  · exact h
  · rename_i u _
    dsimp only
    split
    · exact h
    · split
      · refine fatal_settle (fatal_ownerEnd _ _ _ _ (fatal_raise _ _ _ _ _ ?_))
        split
        · simpa using h
        · exact h
      · refine (transmit_carried _ _ _).fatals x ?_
        cases u.req.owner with
        | tile t id => simpa using h
        | _ => exact h

theorem fatal_pumpN (n : Nat) : ∀ {s : State}, x ∈ s.bur.fatals → x ∈ (State.pumpN n s).bur.fatals := by
  induction n with
  | zero => exact fun h => h
  | succ n ih =>
    intro s h
    unfold State.pumpN
    split
    · exact h
    · exact ih (fatal_sendReq _ h)

theorem fatal_pump (h : x ∈ s.bur.fatals) : x ∈ s.pump.bur.fatals := fatal_pumpN _ h

/-- A request that ends with a Step-fatal error is reported to the Bureau, whatever its end lets go (R344). -/
theorem endReq_reports (r : Req) (sev code : Nat) (data : List Byte) (hs : 3 ≤ sev) (hc : code ≠ 0) :
    { page := r.page, code := code, sev := sev, ctx := r.ctxOpt, loc := 0 } ∈ (s.endReq r sev code data).bur.fatals := by
  unfold State.endReq State.finalReq
  refine fatal_pump (fatal_settle (fatal_fetchMark _ _ (fatal_ownerEnd _ _ _ _ ?_)))
  rw [noteDelay_bur]
  simp only [hc, ne_eq, not_false_eq_true, decide_true, if_true, false_and, if_false]
  exact mem_fatals_raise _ _ _ _ _ _ hs

end Sys2Proof.Machine
end

section
/-! Requests: the sequence numbers of a flow entry, the only waiting request that goes, a resend, the end of resends and a re-issue
(R272, R273, R275, R277, R288). -/

namespace Sys2Proof.Machine

open Sys2Proof Sys2Proof.Spec

/-! ## The sequence numbers of a flow entry (R275, R288) -/

theorem putBits_high_toNat (w : Word) (v : Nat) : (putBits w 32 32 v).toNat = w.toNat % 2 ^ 32 + v % 2 ^ 32 * 2 ^ 32 := by
  have hd : v % 2 ^ 32 < 2 ^ 32 := Nat.mod_lt _ (by decide)
  have hw : w.toNat % 2 ^ 32 < 2 ^ 32 := Nat.mod_lt _ (by decide)
  have hl : (w &&& ~~~(BitVec.ofNat 64 ((2 ^ 32 - 1) <<< 32))).toNat = w.toNat % 2 ^ 32 := by
    have hm : ~~~(BitVec.ofNat 64 ((2 ^ 32 - 1) <<< 32)) = BitVec.ofNat 64 (2 ^ 32 - 1) := by decide
    rw [hm, BitVec.toNat_and, BitVec.toNat_ofNat, Nat.mod_eq_of_lt (by decide), Nat.and_two_pow_sub_one_eq_mod]
  have hh : (BitVec.ofNat 64 ((v % 2 ^ 32) <<< 32)).toNat = v % 2 ^ 32 * 2 ^ 32 := by
    rw [BitVec.toNat_ofNat, Nat.shiftLeft_eq]
    exact Nat.mod_eq_of_lt (by omega)
  rw [putBits, BitVec.toNat_or, hl, hh, Nat.or_comm, Nat.mul_comm, ← Nat.two_pow_add_eq_or_of_lt hw, Nat.add_comm]

theorem bits_putBits_high_same (w : Word) (v : Nat) : bits (putBits w 32 32 v) 32 32 = v % 2 ^ 32 := by
  simp only [bits, putBits_high_toNat]
  omega

theorem bits_putBits_high_low (w : Word) (v : Nat) : bits (putBits w 32 32 v) 0 32 = bits w 0 32 := by
  simp only [bits, putBits_high_toNat]
  omega

/-- The entry once its next sequence number is taken: a re-issue does not count in ISSUED again (R288). -/
def Flow.taken (e : Flow) (again : Bool) : Flow :=
  { e with w1 := putBits e.w1 0 32 (e.next + 1), w2 := if again then e.w2 else putBits e.w2 32 32 (e.issued + 1) }

@[simp] theorem Flow.taken_w0 (e : Flow) (again : Bool) : (e.taken again).w0 = e.w0 := rfl
@[simp] theorem Flow.taken_next (e : Flow) (again : Bool) : (e.taken again).next = (e.next + 1) % 2 ^ 32 := bits_putBits_low ..
@[simp] theorem Flow.taken_issued (e : Flow) : (e.taken false).issued = (e.issued + 1) % 2 ^ 32 := bits_putBits_high_same ..
@[simp] theorem Flow.taken_completed (e : Flow) : (e.taken false).completed = e.completed := bits_putBits_high_low ..

/-! ## The flow cache -/

variable {s : State}

theorem cached_setFlow (f g : Nat) (e : Flow) : (s.setFlow f e).cached g = if g = f then some e else s.cached g := by
  simp only [State.cached, State.setFlow, State.modFab_fab, Tab.get_set]

/-- The cache says which flows are cached. -/
theorem cached_congr {s' : State} (h : s'.fab.cache = s.fab.cache) (g : Nat) : s'.cached g = s.cached g := by
  unfold State.cached
  rw [h]

/-! ## One request that can go, goes (R272, R277) -/

theorem le_unitOf (o : Owner) (h : ∀ t i, o ≠ .tile t i) : 192 ≤ unitOf o := by
  cases o with
  | tile t i => exact absurd rfl (h t i)
  | _ => dsimp only [unitOf]; omega

theorem nextSend_nil (h : s.fab.unsent = []) : s.nextSend = none := by simp [State.nextSend, h]

/-- The only request that waits goes next as soon as it may go, whatever flow its unit served last. -/
theorem nextSend_single {u : Unsent} (h : s.fab.unsent = [u]) (hs : s.sendable 0 u = true) : s.nextSend = some 0 := by
  have later (p : Prop) [Decidable p] : (if p then [((0 : Nat), u.req)] else []) = [(0, u.req)] ∨ (if p then [((0 : Nat), u.req)] else []) = [] := by
    split <;> simp
  simp only [State.nextSend, h, List.length_singleton, List.range_one, List.filterMap_cons, List.getElem?_cons_zero, hs, if_true,
    List.filterMap_nil, List.filter_cons, decide_true, List.foldl_cons, List.foldl_nil, Nat.zero_max, List.filter_nil, decide_eq_true_eq]
  obtain hl | hl := later ((if unitOf u.req.owner < 192 then (s.tile (unitOf u.req.owner)).lastFlow else 0) < u.req.flow) <;> rw [hl] <;> rfl

theorem sendable_first {u : Unsent} {e : Flow} (hc : s.cached u.req.flow = some e) (hw : (e.next + 2 ^ 32 - e.low) % 2 ^ 32 < 64)
    (ho : ∀ t i, u.req.owner ≠ .tile t i) : s.sendable 0 u = true := by
  simp only [State.sendable, List.take_zero, List.all_nil, hc, decide_eq_true hw, decide_eq_true (le_unitOf _ ho), Bool.true_and, Bool.true_or]

/-- What it is for the only waiting request to take its sequence number and leave: it joins the requests without an answer, its
entry counts it, and tiles and memory stay. -/
structure Sent (s : State) (u : Unsent) (e : Flow) (s' : State) : Prop where
  unsent : s'.fab.unsent = []
  reqs   : s'.fab.reqs = s.fab.reqs ++ [reqSent s e u.req]
  cache  : s'.fab.cache = (s.setFlow u.req.flow (e.taken u.again)).fab.cache
  tiles  : s'.tiles = s.tiles
  mem    : s'.mem = s.mem

/-- The state in which the only waiting request has taken its sequence number, its packet not yet sent. -/
def State.seqTaken (s : State) (u : Unsent) (e : Flow) : State :=
  ((s.modFab fun f => { f with unsent := f.unsent.eraseIdx 0 }).setFlow u.req.flow (e.taken u.again)).modFab fun f =>
    { f with reqs := f.reqs ++ [reqSent s e u.req], worn := if e.next = 0xFFFFFFFF then f.worn ++ [u.req.flow] else f.worn
             issuedAll := if u.again || u.req.mgmt then f.issuedAll else Tab.mod 0 f.issuedAll u.req.ctx (· + 1) }

theorem sendReq_eq {u : Unsent} {e : Flow} (h : s.fab.unsent = [u]) (hc : s.cached u.req.flow = some e) (ho : ∀ t i, u.req.owner ≠ .tile t i)
    (hk : (s.keyOf e).isSome = true) : s.sendReq 0 = (s.seqTaken u e).transmit (e.taken u.again) (reqSent s e u.req) := by
  have hu : s.fab.unsent[0]? = some u := by rw [h]; rfl
  have hc' : (s.modFab fun f => { f with unsent := f.unsent.eraseIdx 0 }).cached u.req.flow = some e := hc
  have hk' : ((s.modFab fun f => { f with unsent := f.unsent.eraseIdx 0 }).keyOf e).isNone = false := by
    rw [← Option.not_isSome, show (s.modFab _).keyOf e = s.keyOf e from rfl, hk, Bool.not_true]
  unfold State.sendReq
  simp only [hu, hc', hk', Bool.false_eq_true, if_false]
  cases hr : u.req.owner with
  | tile t i => exact absurd hr (ho t i)
  | _ => simp only [State.seqTaken, reqSent, hr]; rfl

theorem sendReq_sent {u : Unsent} {e : Flow} (h : s.fab.unsent = [u]) (hc : s.cached u.req.flow = some e) (ho : ∀ t i, u.req.owner ≠ .tile t i)
    (hk : (s.keyOf e).isSome = true) : Sent s u e (s.sendReq 0) := by
  rw [sendReq_eq h hc ho hk]
  have ht := transmit_carried (s.seqTaken u e) (e.taken u.again) (reqSent s e u.req)
  have hu : (s.seqTaken u e).fab.unsent = s.fab.unsent.eraseIdx 0 := rfl
  exact ⟨ht.unsent.trans (by rw [hu, h]; rfl), ht.reqs, ht.cache, ht.tiles, ht.mem⟩

/-- The only waiting request goes when its entry is cached with the window open and its key is there. -/
theorem pump_single {u : Unsent} {e : Flow} (h : s.fab.unsent = [u]) (hc : s.cached u.req.flow = some e)
    (hw : (e.next + 2 ^ 32 - e.low) % 2 ^ 32 < 64) (ho : ∀ t i, u.req.owner ≠ .tile t i) (hk : (s.keyOf e).isSome = true) :
    Sent s u e s.pump := by
  have hs := sendReq_sent h hc ho hk
  have hp : s.pump = s.sendReq 0 := by
    simp only [State.pump, h, List.length_singleton, State.pumpN, nextSend_single h (sendable_first hc hw ho), nextSend_nil hs.unsent]
  rw [hp]
  exact hs

theorem pump_nil (h : s.fab.unsent = []) : s.pump = s := by simp [State.pump, State.pumpN, nextSend_nil h]

/-! ## Requests without an answer (R272, R273) -/

theorem awake_of_Awake (h : Awake s) : s.awake = true := by
  obtain ⟨hp, ho, hf, hs⟩ := h
  exact awake_iff.2 ⟨hp, hf, ho, hs⟩

/-- The time of a request is up: it is issued again where it waits for READY, and resent or given up otherwise. -/
theorem resendTimeout_due {f : BitVec 20} {e : Flow} {r : Req} (ha : Awake s)
    (hr : (s.fab.reqs.find? fun x => decide (x.flow = f.toNat ∧ x.seq = r.seq % 2 ^ 32)) = some r) (hc : s.cached f.toNat = some e)
    (ht : r.sentAt + e.timeoutNs ≤ s.time) :
    exec (.resendTimeout f (BitVec.ofNat 32 r.seq)) s = .next (if r.waiting then s.reissue r else s.resend r r.firstAt) := by
  show execResendTimeout f (BitVec.ofNat 32 r.seq) s = _
  unfold execResendTimeout
  simp only [awake_of_Awake ha, BitVec.toNat_ofNat, hr, hc, Bool.not_true, Bool.false_eq_true, if_false, Bool.false_or,
    decide_eq_true_eq, Nat.not_lt.2 ht]
  split <;> rfl

theorem find_flow {f n : Nat} {r : Req} {rs : List Req} (hr : (rs.find? fun x => decide (x.flow = f ∧ x.seq = n)) = some r) : r.flow = f := by
  have := List.find?_some hr
  simp only [decide_eq_true_eq] at this
  exact this.1

/-- A resend keeps the request's sequence number, and everything but its record, its entry's count and the way of its packet. -/
theorem resend_again {r : Req} {e : Flow} (since : Nat) (hc : s.cached r.flow = some e) (h : r.resend < e.resendMax) :
    (s.resend r since).fab.reqs = reqsWith s r { r with resend := r.resend + 1, parts := [], sentAt := s.time, delayFrom := some since }
      ∧ (s.resend r since).tiles = s.tiles ∧ (s.resend r since).mem = s.mem ∧ (s.resend r since).fab.unsent = s.fab.unsent := by
  unfold State.resend
  simp only [hc, Nat.not_le.2 h, if_false]
  have ht (s : State) := transmit_carried s
  refine ⟨(ht ..).reqs.trans ?_, (ht ..).tiles.trans ?_, (ht ..).mem.trans ?_, (ht ..).unsent.trans ?_⟩ <;>
    split <;> simp [State.setFlow, reqsWith]

/-- After its last resend a request is given up as Step-fatal (R272). -/
theorem resend_gives_up {r : Req} {e : Flow} (since : Nat) (hc : s.cached r.flow = some e) (h : e.resendMax ≤ r.resend) :
    ∃ x, x ∈ (s.resend r since).bur.fatals ∧ x.page = r.page ∧ x.code = 0x093 ∧ x.sev = 3 := by
  unfold State.resend
  simp only [hc, h, if_true]
  exact ⟨_, endReq_reports r 3 0x093 [] (by decide) (by decide), rfl, rfl, rfl⟩

/-- A request of a base die that is issued again takes a new sequence number at once where its window is open. -/
theorem reissue_sent {r : Req} {e : Flow} (hu : s.fab.unsent = []) (hc : s.cached r.flow = some e)
    (hw : (e.next + 2 ^ 32 - e.low) % 2 ^ 32 < 64) (ho : ∀ t i, r.owner ≠ .tile t i) (hk : (s.keyOf e).isSome = true) :
    (s.reissue r).fab.reqs = reqsBut s r ++ [reqSent s e r] ∧ (s.reissue r).fab.unsent = [] ∧ (s.reissue r).tiles = s.tiles
      ∧ (s.reissue r).mem = s.mem := by
  unfold State.reissue
  dsimp only
  split
  · rename_i t i hi
    exact absurd hi (ho t i)
  · have hs := pump_single (u := { req := r, again := true }) (s := s.modFab fun f =>
        { f with reqs := f.reqs.filter (fun x => !(decide (x.flow = r.flow) && decide (x.seq = r.seq)))
                 unsent := f.unsent ++ [{ req := r, again := true }] }) (by simp [hu]) hc hw ho hk
    exact ⟨hs.reqs, hs.unsent, hs.tiles, hs.mem⟩

end Sys2Proof.Machine
end

section
/-! Flow entries: a filled miss, the write of FLT.CMD, and an entry that leaves the cache for its table (R22, R275, R276, R280). -/

namespace Sys2Proof.Machine

open Sys2Proof Sys2Proof.Spec

variable {s : State}

/-! ## A missing entry is filled (R22, R275) -/

/-- The state in which flow f's entry has been read from memory and cached, its miss ended. -/
def State.filled (s : State) (f : Nat) : State :=
  let e := flowOfWords (wordsOf 8 (s.peek (s.flowAddr f) 64))
  (((s.memRead none (s.flowAddr f) 64 0 true).2.setFlow f e).modFab fun x =>
    { x with missing := x.missing.filter fun g => decide (g ≠ f) }).count (fltPage (f % 4)) 1 (some e.ctx)

section filled

variable (s : State) (f : Nat)

@[simp] theorem filled_fab : (s.filled f).fab = { s.fab with
    cache := Tab.set none s.fab.cache f (some (flowOfWords (wordsOf 8 (s.peek (s.flowAddr f) 64))))
    missing := s.fab.missing.filter fun g => decide (g ≠ f) } := by
  simp [State.filled, State.setFlow, (memRead_frame s none 0 true (s.flowAddr f) 64).fab]

@[simp] theorem filled_time : (s.filled f).time = s.time := by
  simp [State.filled, State.setFlow, (memRead_frame s none 0 true (s.flowAddr f) 64).time]

@[simp] theorem filled_tiles : (s.filled f).tiles = s.tiles := by
  simp [State.filled, State.setFlow, (memRead_frame s none 0 true (s.flowAddr f) 64).tiles]

@[simp] theorem filled_key : (s.filled f).key = s.key := by
  simp [State.filled, State.setFlow, (memRead_frame s none 0 true (s.flowAddr f) 64).key]

theorem filled_byte (a : Nat) : (s.filled f).mem.byte a = s.mem.byte a := by
  have h := memRead_byte s none (s.flowAddr f) 64 0 true a (by decide)
  simpa [State.filled, State.setFlow] using h

theorem filled_cached (g : Nat) : (s.filled f).cached g =
    if g = f then some (flowOfWords (wordsOf 8 (s.peek (s.flowAddr f) 64))) else s.cached g := by
  simp [State.cached, Tab.get_set]

end filled

/-- A die with room fills the entry, and what it lets go, goes. -/
theorem flowFill_clean {f : BitVec 20} (ha : Awake s) (hm : f.toNat ∈ s.fab.missing) (hw : s.mem.writes = [])
    (hd : (s.dieFlows (f.toNat % 4)).length < 16384) : exec (.flowFill f .clean) s = .next (s.filled f.toNat).pump := by
  have hb := memRead_bytes s none (s.flowAddr f.toNat) 64 0 true hw
  show execFlowFill f .clean s = _
  simp only [execFlowFill, awake_of_Awake ha, List.contains_iff_mem.2 hm, State.eccMem, Nat.not_le.2 hd, decide_false, Bool.not_true, Bool.or_self,
    Bool.false_eq_true, Bool.false_and, if_false, hb]
  rfl

/-- An entry that cannot be read stays missing, and its slice reports the loss (R22). -/
theorem flowFill_uncorrectable {f : BitVec 20} (a : Nat) (ha : Awake s) (hm : f.toNat ∈ s.fab.missing) :
    exec (.flowFill f (.uncorrectable a)) s = .next ((s.eccMem none (.uncorrectable a)).2.stepFatal (fltPage (f.toNat % 4)) 0x0F0) := by
  show execFlowFill f (.uncorrectable a) s = _
  simp only [execFlowFill, awake_of_Awake ha, List.contains_iff_mem.2 hm, Bool.not_true, Bool.or_self, Bool.false_eq_true, if_false]

/-! ## Invalidation (R276, R280) -/

/-- The word that a write of FLT.CMD with GO carries. -/
def invalWord (f : BitVec 20) (c : Fin 256) (byCtx : Bool) : Word :=
  BitVec.ofNat 64 (f.toNat + c.val * 2 ^ 20 + flag byCtx * 2 ^ 28 + 2 ^ 29)

section invalWord

variable (f : BitVec 20) (c : Fin 256) (byCtx : Bool)

theorem invalWord_toNat : (invalWord f c byCtx).toNat = f.toNat + c.val * 2 ^ 20 + flag byCtx * 2 ^ 28 + 2 ^ 29 := by
  have hf := f.isLt
  have hc := c.isLt
  have hb : flag byCtx ≤ 1 := by cases byCtx <;> decide
  rw [invalWord, BitVec.toNat_ofNat]
  exact Nat.mod_eq_of_lt (by omega)

theorem invalWord_flow : bits (invalWord f c byCtx) 0 20 = f.toNat := by
  have hf := f.isLt
  simp only [bits, invalWord_toNat]
  omega

theorem invalWord_ctx : bits (invalWord f c byCtx) 20 8 = c.val := by
  have hf := f.isLt
  have hc := c.isLt
  simp only [bits, invalWord_toNat]
  omega

theorem invalWord_byCtx : (invalWord f c byCtx).getLsbD 28 = byCtx := by
  have hf := f.isLt
  have hc := c.isLt
  rw [BitVec.getLsbD, invalWord_toNat, Nat.testBit_eq_decide_div_mod_eq]
  cases byCtx <;> simp only [flag, Bool.false_eq_true, if_true, if_false, decide_eq_true_eq, decide_eq_false_iff_not] <;> omega

theorem invalWord_go : (invalWord f c byCtx).getLsbD 29 = true := by
  have hf := f.isLt
  have hc := c.isLt
  have hb : flag byCtx ≤ 1 := by cases byCtx <;> decide
  rw [BitVec.getLsbD, invalWord_toNat, Nat.testBit_eq_decide_div_mod_eq, decide_eq_true_eq]
  omega

end invalWord

/-- FLT.CMD holds plain fields only: a write of it sets its word, whether the page is busy or not. -/
theorem writeFields_fltCmd (val : Word) : ∃ w, s.writeFields (fltPage 0) 0x108 val 0 = (false, s.setRaw (fltPage 0) 0x108 w) := by
  have hl : classMask (fltPage 0) 0x108 (fun x => decide (x = .rwl)) &&& ~~~(0 : Word) = 0 := by decide
  have hs : classMask (fltPage 0) 0x108 (fun x => decide (x = .rws)) &&& ~~~(0 : Word) = 0 := by decide
  simp only [State.writeFields, hl, hs, ne_eq, not_true_eq_false, decide_false, Bool.and_false, if_true]
  exact ⟨_, rfl⟩

/-- The Bureau's write of FLT.CMD with GO sets the word and acts. -/
theorem fltInval_acts {a : Access} (f : BitVec 20) (c : Fin 256) (byCtx : Bool) (ha : ByBureau s a (fltPage 0)) :
    ∃ w, exec (.fltInval a f c byCtx) s = .next ((s.setRaw (fltPage 0) 0x108 w).fltAct f.toNat c.val byCtx) := by
  obtain ⟨hawake, hsrc, -⟩ := ha
  obtain ⟨w, hw⟩ := writeFields_fltCmd (s := s) (invalWord f c byCtx)
  have hreach : s.reaches a = true := by simp [State.reaches, awake_of_Awake hawake, hsrc]
  have hrole : s.roleOf a = none := by simp [State.roleOf, hsrc]
  have haddr : s.accessAt (pageAddr (fltPage 0) 0x108) = some (fltPage 0, 0x108) := by
    have hp : pageAt (pageAddr (fltPage 0) 0x108) = some (fltPage 0, 0x108) := by decide
    simp only [State.accessAt, hp]
    rfl
  have hact : s.regWriteAt none (fltPage 0) 0x108 (invalWord f c byCtx) = (s.setRaw (fltPage 0) 0x108 w).fltAct f.toNat c.val byCtx := by
    have he : elsewhere (fltPage 0) 0x108 = false := by decide
    have hblock : blockOf (fltPage 0) = .flt := by decide
    have hdie : dieOf (fltPage 0) = 0 := by decide
    have hp : fltPage 0 ≠ pwrPage := by decide
    simp [State.regWriteAt, he, hblock, hp, State.blockAct, hdie, -BitVec.getLsbD_eq_getElem, invalWord_go, invalWord_flow, invalWord_ctx,
      invalWord_byCtx, show s.writeFields (fltPage 0) 264 (invalWord f c byCtx) 0#64 = _ from hw]
  refine ⟨w, ?_⟩
  show Host.Outcome.next (s.rowWrite a (pageAddr (fltPage 0) 0x108) (invalWord f c byCtx)) = _
  simp only [State.rowWrite, hreach, hrole, State.regWrite, State.writeAt, haddr, State.mayWrite, if_true, hact]

/-! ### Events -/

/-- An event sets its bit of the page's causes, and clears none. -/
theorem event_cause (n b : Nat) : ((s.event n b).page n).cause = (s.page n).cause ||| (1#48 <<< b) := by
  unfold State.event
  dsimp only
  split <;> simp

theorem event_raised (n b : Nat) (hb : b < 48) : Raised n b (s.event n b) := by
  unfold Raised
  rw [event_cause]
  simp [hb]

theorem drained_raised (n b : Nat) (h : Raised n b s) : Raised n b (s.drained n) := by
  unfold State.drained
  split
  · unfold Raised at *
    rw [event_cause]
    simp [h]
  · exact h

theorem reject_rejected (n o : Nat) (ho : o / 8 < 512) : Rejected n o s (s.reject n o) := by
  refine ⟨?_, event_raised n 1 (by decide), fun h => ?_⟩
  · simp [State.reject]
  · simp [State.reject, h, Nat.mod_eq_of_lt ho]

@[simp] theorem drained_tiles (n : Nat) : (s.drained n).tiles = s.tiles := by unfold State.drained; split <;> simp
@[simp] theorem drained_mem (n : Nat) : (s.drained n).mem = s.mem := by unfold State.drained; split <;> simp
@[simp] theorem drained_fab (n : Nat) : (s.drained n).fab = s.fab := by unfold State.drained; split <;> simp

/-! ### An entry goes back to its table (R275) -/

theorem bytesOf_length (ws : List Word) : (bytesOf ws).length = 8 * ws.length := by
  induction ws with
  | nil => rfl
  | cons w ws ih =>
    rw [bytesOf] at ih ⊢
    rw [List.flatMap_cons, List.length_append, ih, toBytes_length, List.length_cons]
    omega

/-- Bytes of memory that a write has just laid there. -/
theorem bytes_of_laid {m : Mem} {a : Nat} {d : List Byte} (h : ∀ i, i < d.length → m.byte (a + i) = d.getD i 0) : m.bytes a d.length = d := by
  refine List.ext_getElem (by simp) fun i _ hi => ?_
  simp [Mem.bytes, h i hi, List.getD_eq_getElem?_getD, hi]

section writeBackFlow

variable (s : State) (f : Nat) (e : Flow)

theorem writeBackFlow_frame : MemFrame s (s.writeBackFlow f e) := by
  unfold State.writeBackFlow
  split
  · exact .refl s
  · exact (memWrite_frame ..).trans (memWrite_frame ..)

/-- An invalid copy is not written back (R276). -/
theorem writeBackFlow_invalid (h : e.valid = false) : s.writeBackFlow f e = s := by simp [State.writeBackFlow, h]

/-- Words 1 to 4 and 6 of a valid entry, and nothing else. -/
theorem writeBackFlow_byte (h : e.valid = true) (x : Nat) : (s.writeBackFlow f e).mem.byte x =
    if s.flowAddr f + 48 ≤ x ∧ x < s.flowAddr f + 56 then (bytesOf [e.w6]).getD (x - (s.flowAddr f + 48)) 0
    else if s.flowAddr f + 8 ≤ x ∧ x < s.flowAddr f + 40 then (bytesOf [e.w1, e.w2, e.w3, e.w4]).getD (x - (s.flowAddr f + 8)) 0
    else s.mem.byte x := by
  simp only [State.writeBackFlow, h, Bool.not_true, Bool.false_eq_true, if_false, memWrite_byte, bytesOf_length, List.length_cons, List.length_nil]

theorem writeBackFlow_words (h : e.valid = true) :
    (s.writeBackFlow f e).mem.bytes (s.flowAddr f + 8) 32 = bytesOf [e.w1, e.w2, e.w3, e.w4]
      ∧ (s.writeBackFlow f e).mem.bytes (s.flowAddr f + 48) 8 = bytesOf [e.w6] := by
  have h4 := bytesOf_length [e.w1, e.w2, e.w3, e.w4]
  have h1 := bytesOf_length [e.w6]
  simp only [List.length_cons, List.length_nil, Nat.reduceAdd, Nat.reduceMul] at h4 h1
  constructor
  · refine h4 ▸ bytes_of_laid fun i hi => ?_
    rw [writeBackFlow_byte s f e h, if_neg (by omega), if_pos (by omega), Nat.add_sub_cancel_left]
  · refine h1 ▸ bytes_of_laid fun i hi => ?_
    rw [writeBackFlow_byte s f e h, if_pos (by omega), Nat.add_sub_cancel_left]

theorem writeBackFlow_byte_other (x : Nat) (h₁ : ¬ (s.flowAddr f + 8 ≤ x ∧ x < s.flowAddr f + 40))
    (h₂ : ¬ (s.flowAddr f + 48 ≤ x ∧ x < s.flowAddr f + 56)) : (s.writeBackFlow f e).mem.byte x = s.mem.byte x := by
  by_cases h : e.valid = true
  · rw [writeBackFlow_byte s f e h, if_neg h₂, if_neg h₁]
  · rw [writeBackFlow_invalid s f e (by simpa using h)]

end writeBackFlow

/-- INVAL_DONE waits while a named entry is pinned (R276). -/
theorem invalDone_pinned {x : Option Nat × Nat} (ha : Awake s) (hx : s.fab.invalid = some x) (hp : ∃ y, y ∈ s.namedFlows x ∧ y.2.pinned = true) :
    exec .invalDone s = .next s := by
  have hany : ((s.namedFlows x).any fun e => e.2.pinned) = true := List.any_eq_true.2 hp
  show execInvalDone s = _
  simp only [execInvalDone, awake_of_Awake ha, hx, hany, Bool.not_true, Bool.false_eq_true, if_false, if_true]

/-- The state in which flow f's entry has left the cache and the invalidation has ended. -/
def State.invalidated (s : State) (f : Nat) : State :=
  (((s.dropFlow f).modFab fun x => { x with invalid := none }).event (fltPage 0) 4).drained (fltPage 0)

theorem invalDone_single {x : Option Nat × Nat} {f : Nat} {e : Flow} (ha : Awake s) (hx : s.fab.invalid = some x) (hn : s.namedFlows x = [(f, e)])
    (hp : e.pinned = false) : exec .invalDone s = .next (s.invalidated f) := by
  show execInvalDone s = _
  simp only [execInvalDone, awake_of_Awake ha, hx, hn, hp, List.any_cons, List.any_nil, Bool.or_self, Bool.not_true, Bool.false_eq_true, if_false,
    List.foldl_cons, List.foldl_nil]
  rfl

section invalidated

variable {f : Nat} {e : Flow}

theorem invalidated_fab (hc : s.cached f = some e) :
    (s.invalidated f).fab = { s.fab with cache := Tab.set none s.fab.cache f none, invalid := none } := by
  simp [State.invalidated, State.dropFlow, hc, (writeBackFlow_frame s f e).fab]

theorem invalidated_mem (hc : s.cached f = some e) : (s.invalidated f).mem = (s.writeBackFlow f e).mem := by
  simp [State.invalidated, State.dropFlow, hc]

theorem invalidated_tiles (hc : s.cached f = some e) : (s.invalidated f).tiles = s.tiles := by
  simp [State.invalidated, State.dropFlow, hc, (writeBackFlow_frame s f e).tiles]

theorem invalidated_cached (hc : s.cached f = some e) (g : Nat) : (s.invalidated f).cached g = if g = f then none else s.cached g := by
  simp only [State.cached, invalidated_fab hc, Tab.get_set]

theorem invalidated_raised : Raised (fltPage 0) 4 (s.invalidated f) := drained_raised _ _ (event_raised _ _ (by decide))

end invalidated

end Sys2Proof.Machine
end

section
/-! RESEND_TIMEOUT, FLOW_FILL, FAB_BUDGET_PERIOD, FLT_INVAL and INVAL_DONE (R22, R272 to R276, R330): O31. -/

namespace Sys2Proof.Machine

open Sys2Proof Sys2Proof.Spec

variable {s s' : State}

theorem tilesSame_of_eq (h : s'.tiles = s.tiles) : TilesSame s s' := fun u => by simp [State.tile, h]

theorem memSame_of_eq (h : s'.mem = s.mem) : MemSame s s' := fun a => by rw [h]

/-! ## RESEND_TIMEOUT -/

section resendTimeout

variable {f : BitVec 20} {e : Flow} {r : Req} (ha : Awake s)
  (hr : (s.fab.reqs.find? fun x => decide (x.flow = f.toNat ∧ x.seq = r.seq % 2 ^ 32)) = some r) (hc : s.cached f.toNat = some e)
  (ht : r.sentAt + e.timeoutNs ≤ s.time)
include ha hr hc ht

theorem resendTimeout_resends (hw : r.waiting = false) (h : r.resend < e.resendMax) : Answers (.resendTimeout f (BitVec.ofNat 32 r.seq)) s fun s' =>
    s'.fab.reqs = reqsWith s r { r with resend := r.resend + 1, parts := [], sentAt := s.time, delayFrom := some r.firstAt }
      ∧ TilesSame s s' ∧ MemSame s s' ∧ s'.fab.unsent = s.fab.unsent := by
  have hrun := resendTimeout_due ha hr hc ht
  rw [← find_flow hr] at hc
  obtain ⟨hreqs, htiles, hmem, hunsent⟩ := resend_again r.firstAt hc h
  exact ⟨_, by rw [hrun, hw]; rfl, hreqs, tilesSame_of_eq htiles, memSame_of_eq hmem, hunsent⟩

theorem resendTimeout_gives_up (hw : r.waiting = false) (h : e.resendMax ≤ r.resend) : Answers (.resendTimeout f (BitVec.ofNat 32 r.seq)) s fun s' =>
    ∃ x, x ∈ s'.bur.fatals ∧ x.page = r.page ∧ x.code = 0x093 ∧ x.sev = 3 := by
  have hrun := resendTimeout_due ha hr hc ht
  rw [← find_flow hr] at hc
  exact ⟨_, by rw [hrun, hw]; rfl, resend_gives_up r.firstAt hc h⟩

theorem resendTimeout_reissues (hw : r.waiting = true) (hu : s.fab.unsent = []) (ho : ∀ t i, r.owner ≠ .tile t i)
    (hwin : (e.next + 2 ^ 32 - e.low) % 2 ^ 32 < 64) (hk : (s.keyOf e).isSome = true) :
    Answers (.resendTimeout f (BitVec.ofNat 32 r.seq)) s fun s' =>
      s'.fab.reqs = reqsBut s r ++ [reqSent s e r] ∧ s'.fab.unsent = [] ∧ TilesSame s s' ∧ MemSame s s' := by
  have hrun := resendTimeout_due ha hr hc ht
  rw [← find_flow hr] at hc
  obtain ⟨hreqs, hunsent, htiles, hmem⟩ := reissue_sent hu hc hwin ho hk
  exact ⟨_, by rw [hrun, hw]; rfl, hreqs, hunsent, tilesSame_of_eq htiles, memSame_of_eq hmem⟩

end resendTimeout

/-! ## FLOW_FILL and FAB_BUDGET_PERIOD -/

section flowFill

variable {f : BitVec 20} {e : Flow} (ha : Awake s) (hm : f.toNat ∈ s.fab.missing)
include ha hm

theorem flowFill_lost (a : Nat) : Answers (.flowFill f (.uncorrectable a)) s fun s' => f.toNat ∈ s'.fab.missing ∧ s'.fab.cache = s.fab.cache
    ∧ ∃ x, x ∈ s'.bur.fatals ∧ x.page = fltPage (f.toNat % 4) ∧ x.code = 0x0F0 ∧ x.sev = 3 :=
  ⟨_, flowFill_uncorrectable a ha hm, by simpa [State.stepFatal] using hm, by simp [State.stepFatal],
    _, mem_fatals_raise _ _ 3 _ _ _ (by decide), rfl, rfl, rfl⟩

variable (hw : s.mem.writes = []) (hd : (s.dieFlows (f.toNat % 4)).length < 16384)
  (he : e = flowOfWords (wordsOf 8 (s.peek (s.flowAddr f.toNat) 64)))
include hw hd he

theorem flowFill_fills (hu : s.fab.unsent = []) : Answers (.flowFill f .clean) s fun s' => s'.cached f.toNat = some e
    ∧ (∀ g, g ≠ f.toNat → s'.cached g = s.cached g) ∧ f.toNat ∉ s'.fab.missing ∧ TilesSame s s' ∧ MemSame s s' := by
  have hpump : (s.filled f.toNat).pump = s.filled f.toNat := pump_nil (by simpa using hu)
  refine ⟨s.filled f.toNat, by rw [flowFill_clean ha hm hw hd, hpump], ?_, fun g hg => ?_, by simp, tilesSame_of_eq (filled_tiles ..),
    filled_byte s _⟩
  · rw [filled_cached, if_pos rfl, he]
  · rw [filled_cached, if_neg hg]

theorem flowFill_sends {r : Req} (hu : s.fab.unsent = [{ req := r }]) (hf : r.flow = f.toNat) (ho : ∀ t i, r.owner ≠ .tile t i)
    (hwin : (e.next + 2 ^ 32 - e.low) % 2 ^ 32 < 64) (hk : (s.keyOf e).isSome = true) : Answers (.flowFill f .clean) s fun s' =>
      s'.fab.unsent = [] ∧ s'.fab.reqs = s.fab.reqs ++ [reqSent s e r]
      ∧ (∃ e', s'.cached f.toNat = some e' ∧ e'.next = (e.next + 1) % 2 ^ 32 ∧ e'.issued = (e.issued + 1) % 2 ^ 32
        ∧ e'.completed = e.completed ∧ e'.w0 = e.w0) ∧ TilesSame s s' ∧ MemSame s s' := by
  have hcached : (s.filled f.toNat).cached r.flow = some e := by rw [filled_cached, if_pos hf, he]
  have hs : Sent (s.filled f.toNat) { req := r } e (s.filled f.toNat).pump :=
    pump_single (by simpa using hu) hcached hwin ho (by simpa [State.keyOf] using hk)
  refine ⟨_, flowFill_clean ha hm hw hd, hs.unsent, ?_, ⟨e.taken false, ?_, by simp⟩, tilesSame_of_eq ?_, fun x => ?_⟩
  · simpa [reqSent] using hs.reqs
  · rw [cached_congr hs.cache, cached_setFlow, if_pos hf.symm]
  · simpa using hs.tiles
  · rw [hs.mem, filled_byte]

end flowFill

theorem fabBudgetPeriod_clears (ha : Awake s) : exec .fabBudgetPeriod s = .next { s with fab := { s.fab with spent := [] } } := by
  show execFabBudgetPeriod s = _
  simp only [execFabBudgetPeriod, awake_of_Awake ha, Bool.not_true, Bool.false_eq_true, if_false]
  rfl

/-! ## FLT_INVAL -/

section fltInval

variable {a : Access} (f : BitVec 20) (c : Fin 256) (byCtx : Bool) (hb : ByBureau s a (fltPage 0))
include hb

theorem fltInval_begins (h : s.fab.invalid = none) : Answers (.fltInval a f c byCtx) s fun s' =>
    s'.fab = { s.fab with invalid := some (if byCtx then none else some f.toNat, c.val) } ∧ TilesSame s s' ∧ s'.mem = s.mem := by
  obtain ⟨w, hrun⟩ := fltInval_acts f c byCtx hb
  have hact : (s.setRaw (fltPage 0) 0x108 w).fltAct f.toNat c.val byCtx =
      (s.setRaw (fltPage 0) 0x108 w).modFab fun x => { x with invalid := some (if byCtx then none else some f.toNat, c.val) } := by
    simp [State.fltAct, h]
  exact ⟨_, hrun.trans (congrArg _ hact), rfl, tilesSame_of_eq rfl, rfl⟩

theorem fltInval_rejected (h : s.fab.invalid ≠ none) : Answers (.fltInval a f c byCtx) s fun s' =>
    Rejected (fltPage 0) 0x108 s s' ∧ s'.fab = s.fab ∧ TilesSame s s' ∧ s'.mem = s.mem := by
  obtain ⟨w, hrun⟩ := fltInval_acts f c byCtx hb
  have hact : (s.setRaw (fltPage 0) 0x108 w).fltAct f.toNat c.val byCtx = (s.setRaw (fltPage 0) 0x108 w).reject (fltPage 0) 0x108 := by
    simp [State.fltAct, Option.isSome_iff_ne_none.2 h]
  obtain ⟨hrej, hraised, hword⟩ := reject_rejected (s := s.setRaw (fltPage 0) 0x108 w) (fltPage 0) 0x108 (by decide)
  exact ⟨_, hrun.trans (congrArg _ hact), ⟨hrej, hraised, fun hn => hword (by simpa [State.setRaw] using hn)⟩, by simp,
    tilesSame_of_eq (by simp), by simp⟩

end fltInval

/-! ## INVAL_DONE -/

theorem invalDone_drops {x : Option Nat × Nat} {f : Nat} {e : Flow} (ha : Awake s) (hx : s.fab.invalid = some x) (hn : s.namedFlows x = [(f, e)])
    (hp : e.pinned = false) (hc : s.cached f = some e) : Answers .invalDone s fun s' =>
      s'.fab.invalid = none ∧ s'.cached f = none ∧ (∀ g, g ≠ f → s'.cached g = s.cached g) ∧ Raised (fltPage 0) 4 s'
      ∧ s'.mem = (s.writeBackFlow f e).mem ∧ TilesSame s s' := by
  refine ⟨_, invalDone_single ha hx hn hp, ?_, ?_, fun g hg => ?_, invalidated_raised, invalidated_mem hc, tilesSame_of_eq (invalidated_tiles hc)⟩
  · rw [invalidated_fab hc]
  · rw [invalidated_cached hc, if_pos rfl]
  · rw [invalidated_cached hc, if_neg hg]

/-- Settles O31, command by command. -/
theorem flows : Obligations.Flows := by
  intro s f e ha
  refine ⟨fun r hr hc ht => ⟨?resends, ?givesUp, ?reissues⟩, fun hm hw he => ⟨?fills, ?sends, ?lost⟩, ?budget,
    fun a c byCtx hb => ⟨?begins, ?rejected⟩, ?pinned, ?drops⟩
  case resends => exact resendTimeout_resends ha hr hc ht
  case givesUp => exact resendTimeout_gives_up ha hr hc ht
  case reissues => exact resendTimeout_reissues ha hr hc ht
  case fills => exact flowFill_fills ha hm hw (he := he)
  case sends => exact fun r hd => flowFill_sends ha hm hw hd he
  case lost => exact flowFill_lost ha hm
  case budget => exact ⟨_, fabBudgetPeriod_clears ha, rfl⟩
  case begins => exact fltInval_begins f c byCtx hb
  case rejected => exact fltInval_rejected f c byCtx hb
  case pinned => exact fun x hx hp => ⟨s, invalDone_pinned ha hx hp, rfl⟩
  case drops =>
    rintro x _ hx hn hp hc rfl
    obtain ⟨s', hrun, hdone, hgone, hothers, hevent, hmem, htiles⟩ := invalDone_drops ha hx hn hp hc
    refine ⟨s', hrun, hdone, hgone, hothers, hevent, ?_⟩
    rw [hmem]
    exact ⟨writeBackFlow_words s _ e, fun hv => by rw [writeBackFlow_invalid s _ e hv], writeBackFlow_byte_other s _ e, htiles⟩

end Sys2Proof.Machine
end

section
/-! Frames: what holds of nothing changed, of two changes one after the other, and of each operation over the control pages (R36, R37, R39, R343). -/

namespace Sys2Proof.Spec

open Sys2Proof Sys2Proof.Machine

variable {s s₁ s₂ : State} {t : Nat}

theorem PageFrame.refl (s : State) : PageFrame s s := ⟨fun _ => rfl, fun _ => rfl, by simp [BaseSame]⟩

theorem PageFrame.trans (h₁ : PageFrame s s₁) (h₂ : PageFrame s₁ s₂) : PageFrame s s₂ := by
  obtain ⟨ht₁, hm₁, hb₁⟩ := h₁
  obtain ⟨ht₂, hm₂, hb₂⟩ := h₂
  refine ⟨fun t => (ht₂ t).trans (ht₁ t), fun a => (hm₂ a).trans (hm₁ a), ?_⟩
  simp_all [BaseSame]

theorem TileFrame.trans (h₁ : TileFrame t s s₁) (h₂ : TileFrame t s₁ s₂) : TileFrame t s s₂ := by
  obtain ⟨ht₁, hm₁, hb₁⟩ := h₁
  obtain ⟨ht₂, hm₂, hb₂⟩ := h₂
  refine ⟨fun u hu => (ht₂ u hu).trans (ht₁ u hu), fun a => (hm₂ a).trans (hm₁ a), ?_⟩
  simp_all [BaseSame]

theorem PageFrame.tileFrame (h : PageFrame s s₁) : TileFrame t s s₁ := ⟨fun u _ => h.1 u, h.2⟩

end Sys2Proof.Spec

namespace Sys2Proof.Machine

open Sys2Proof Sys2Proof.Spec

variable {s s₁ s₂ : State}

/-! ## Pages and the host's channels only -/

theorem pageFrame_of_eq (ht : s₁.tiles = s.tiles) (hb : BaseSame s s₁) : PageFrame s s₁ :=
  ⟨tilesSame_of_eq ht, memSame_of_eq hb.1, hb⟩

variable (s)

theorem modPage_pageFrame (n : Nat) (f : Page → Page) : PageFrame s (s.modPage n f) := pageFrame_of_eq rfl (by simp [BaseSame])
theorem setRaw_pageFrame (n o : Nat) (w : Word) : PageFrame s (s.setRaw n o w) := modPage_pageFrame ..
theorem event_pageFrame (n b : Nat) : PageFrame s (s.event n b) := pageFrame_of_eq (by simp) (by simp [BaseSame])
theorem reject_pageFrame (n o : Nat) : PageFrame s (s.reject n o) := pageFrame_of_eq (by simp) (by simp [BaseSame])

/-- An error report changes nothing of the base dies but what the Bureau is told. -/
theorem raise_pageFrame_but_bur (n sev code : Nat) (c : Option Nat) (loc : Word) :
    PageFrame s { s.raise n sev code c loc with bur := s.bur } := by
  refine pageFrame_of_eq ?_ ?_
  · simp
  · simp [BaseSame]

/-- An error below Step-fatal does not reach the Bureau. -/
theorem raise_pageFrame {n sev code : Nat} {c : Option Nat} {loc : Word} (h : sev < 3) : PageFrame s (s.raise n sev code c loc) :=
  pageFrame_of_eq (by simp) (by simp [BaseSame, raise_bur, Nat.not_le.2 h])

theorem contained_pageFrame (n code : Nat) (c : Option Nat) : PageFrame s (s.contained n code c) := raise_pageFrame s (by decide)

theorem drained_pageFrame (n : Nat) : PageFrame s (s.drained n) := by
  unfold State.drained
  split
  · exact (modPage_pageFrame ..).trans (event_pageFrame ..)
  · exact .refl s

/-! ## Words, staged writes and control bits -/

variable {s}

theorem raw_modPage {n : Nat} {f : Page → Page} (hf : ∀ p, (f p).words = p.words) (m o : Nat) : (s.modPage n f).raw m o = s.raw m o := by
  have hw : ((s.modPage n f).page m).words = (s.page m).words := modPage_keeps s Page.words n m f hf
  simp only [State.raw, hw]

theorem event_wordsSame (n b : Nat) : WordsSame s (s.event n b) := fun _ => by simp
theorem reject_wordsSame (n o : Nat) : WordsSame s (s.reject n o) := fun _ => by simp
theorem contained_wordsSame (n code : Nat) (c : Option Nat) : WordsSame s (s.contained n code c) := fun _ => by simp [State.contained]

/-! ## One tile and pages -/

theorem modTile_tileFrame (t : Nat) (f : Tile → Tile) : TileFrame t s (s.modTile t f) :=
  ⟨fun u hu => tile_modTile_other s t u f hu, memSame_of_eq rfl, by simp [BaseSame]⟩

/-! ## A page but for its counters -/

/-- Nothing of a page changes but its counters. -/
def SameButCounts (p p' : Page) : Prop := { p' with counts := p.counts } = p

theorem SameButCounts.refl (p : Page) : SameButCounts p p := rfl

theorem SameButCounts.trans {p p₁ p₂ : Page} (h₁ : SameButCounts p p₁) (h₂ : SameButCounts p₁ p₂) : SameButCounts p p₂ := by
  unfold SameButCounts at *
  rw [← h₁, ← h₂]

theorem count_page (s : State) (n i : Nat) (c : Option Nat) (k m : Nat) : SameButCounts (s.page m) ((s.count n i c k).page m) := page_count ..

theorem queueRec_page (s : State) (c : Nat) (ty : BitVec 4) (sev : Nat) (b : List Word) (m : Nat) :
    SameButCounts (s.page m) ((s.queueRec c ty sev b).page m) := by
  have dropped (i : Nat) (f : Chan → Chan) : SameButCounts (s.page m) (((s.modChan c f).count telPage i).page m) := count_page ..
  unfold State.queueRec
  dsimp only
  split
  · exact dropped ..
  split
  · exact .refl _
  split
  · exact dropped ..
  split
  · split
    · exact (dropped ..).trans (count_page ..)
    · exact dropped ..
  · exact dropped ..

theorem errorRecord_page (s : State) (n sev : Nat) (p : Bool) (code : Nat) (c : Option Nat) (loc : Word) (m : Nat) :
    SameButCounts (s.page m) ((s.errorRecord n sev p code c loc).page m) := by
  unfold State.errorRecord
  split
  · exact .refl _
  dsimp only
  split
  · exact queueRec_page ..
  · exact (queueRec_page ..).trans (queueRec_page ..)

end Sys2Proof.Machine
end

section
/-! ERR_FIRST, ERR_COUNT, the Bureau's reports and the event channels (R36, R37, R343, R344, R390, R392, R393): O58. -/

namespace Sys2Proof.Machine

open Sys2Proof Sys2Proof.Spec

variable {s : State}

/-! ## Event channels (R393) -/

/-- The record that arrives at channel c now. -/
def State.arriving (s : State) (c : Nat) (type : BitVec 4) (sev : Nat) (body : List Word) : EvRec :=
  { type := type, seqno := (s.chan c).recSeq, body := body, fatal := decide (3 ≤ sev), sev := sev, at' := s.time }

@[simp] theorem chan_modPage (n c : Nat) (f : Page → Page) : (s.modPage n f).chan c = s.chan c := rfl
@[simp] theorem chan_count (n i : Nat) (ctx : Option Nat) (k c : Nat) : (s.count n i ctx k).chan c = s.chan c := by simp [State.chan]

section queueRec

variable (c : Nat) (type : BitVec 4) (sev : Nat) (body : List Word)

theorem queueRec_chan_other (m : Nat) (h : m ≠ c) : (s.queueRec c type sev body).chan m = s.chan m := by
  unfold State.queueRec
  dsimp only
  split
  · simp [h]
  split
  · simp [h]
  split
  · simp [h]
  split
  · split <;> simp [h]
  · simp [h]

/-- An unbound or a stalled channel drops the record and counts it. -/
theorem queueRec_chan_shut (h : (s.chan c).bound = false ∨ (s.chan c).stalled = true) :
    (s.queueRec c type sev body).chan c = { s.chan c with dropped := (s.chan c).dropped + 1 } := by
  unfold State.queueRec
  obtain hb | hs := h
  · simp [hb]
  · by_cases hb : (s.chan c).bound = true <;> simp [hb, hs]

variable (hb : (s.chan c).bound = true) (hs : (s.chan c).stalled = false)
include hb hs

theorem queueRec_chan_queued (hl : (s.chan c).queue.length < 64) : (s.queueRec c type sev body).chan c =
    { s.chan c with queue := (s.chan c).queue ++ [s.arriving c type sev body], recSeq := (s.chan c).recSeq + 1 } := by
  simp [State.queueRec, hb, hs, hl, State.arriving]

/-- A full queue drops a record that is not Step-fatal, or that nothing queued is less severe than. -/
theorem queueRec_chan_dropped (hl : 64 ≤ (s.chan c).queue.length) (hx : sev < 3 ∨ ∀ r, r ∈ (s.chan c).queue → sev ≤ r.sev) :
    (s.queueRec c type sev body).chan c = { s.chan c with dropped := (s.chan c).dropped + 1 } := by
  have hfind : 3 ≤ sev → (s.chan c).queue.findIdx? (fun e => decide (e.sev < sev)) = none := fun h3 => by
    rw [List.findIdx?_eq_none_iff]
    intro r hr
    simpa using (hx.resolve_left (Nat.not_lt.2 h3)) r hr
  by_cases h3 : 3 ≤ sev
  · simp [State.queueRec, hb, hs, Nat.not_lt.2 hl, h3, hfind h3]
  · simp [State.queueRec, hb, hs, Nat.not_lt.2 hl, h3]

/-- A full queue loses its oldest less severe record to one of severity Step-fatal or more. -/
theorem queueRec_chan_displaced {pre post : List EvRec} {x : EvRec} (hl : 64 ≤ (s.chan c).queue.length) (h3 : 3 ≤ sev)
    (hq : (s.chan c).queue = pre ++ x :: post) (hx : x.sev < sev) (hpre : ∀ r, r ∈ pre → sev ≤ r.sev) :
    (s.queueRec c type sev body).chan c = { s.chan c with
      queue := pre ++ post ++ [s.arriving c type sev body], recSeq := (s.chan c).recSeq + 1, dropped := (s.chan c).dropped + 1 } := by
  have hfind : (s.chan c).queue.findIdx? (fun e => decide (e.sev < sev)) = some pre.length := by
    rw [hq, List.findIdx?_append, List.findIdx?_eq_none_iff.2 fun r hr => by simpa using hpre r hr]
    simp [List.findIdx?_cons, hx]
  have herase : (s.chan c).queue.eraseIdx pre.length = pre ++ post := by simp [hq, List.eraseIdx_append_of_length_le]
  simp [State.queueRec, hb, hs, Nat.not_lt.2 hl, h3, hfind, herase, State.arriving]

end queueRec

/-! ## Events (R36, R392) -/

/-- The bit of the event joins the page's causes. -/
theorem event_cause_bit {n b : Nat} (hb : b < 48) (i : Nat) :
    ((s.event n b).page n).cause.getLsbD i = ((s.page n).cause.getLsbD i || decide (i = b)) := by
  have hbit : (1#48 <<< b).getLsbD i = decide (i = b) := by
    rw [BitVec.getLsbD_shiftLeft, BitVec.getLsbD_one, Bool.eq_iff_iff]
    simp
    omega
  rw [event_cause, BitVec.getLsbD_or, hbit]

theorem event_chan_masked (n b : Nat) (h : (s.raw n 0x028).getLsbD b = true) (c : Nat) : (s.event n b).chan c = s.chan c := by
  unfold State.event
  simp [raw_modPage, h]

theorem event_chan_queued (n b : Nat) (h : (s.raw n 0x028).getLsbD b = false) (hb : (s.chan n).bound = true) (hs : (s.chan n).stalled = false)
    (hl : (s.chan n).queue.length < 64) : ∃ w r, ((s.event n b).chan n).queue = (s.chan n).queue ++ [r] ∧ r.type = 1 ∧ r.fatal = false
      ∧ r.seqno = (s.chan n).recSeq ∧ r.body = [w, BitVec.ofNat 64 s.time, BitVec.ofNat 64 (2 ^ b), 0] := by
  unfold State.event
  dsimp only
  rw [if_neg (by simp [raw_modPage, h]), queueRec_chan_queued]
  exacts [⟨_, _, rfl, rfl, rfl, rfl, rfl⟩, hb, hs, hl]

@[simp] theorem raw_modBur (f : Bureau → Bureau) (m o : Nat) : (s.modBur f).raw m o = s.raw m o := rfl

/-! ## Error reports (R36, R37, R343, R344) -/

section raise

variable {n sev code : Nat} {ctx : Option Nat} {loc : Word}

/-- Something no less severe is captured already: the report is counted, and changes no more of the page. -/
theorem raise_page_counted (h : (s.page n).err.valid = true ∧ sev ≤ (s.page n).err.severity.toNat) :
    (s.raise n sev code ctx loc).page n =
      { s.page n with errCount := if (s.page n).errCount = 0xFFFFFFFF then (s.page n).errCount else (s.page n).errCount + 1 } := by
  unfold State.raise
  simp only [h.1, h.2, decide_true, Bool.and_self, if_true]
  split <;> exact page_modPage_same ..

/-- The record that a report puts in ERR_FIRST. -/
def State.captured (s : State) (n sev code : Nat) (ctx : Option Nat) : ErrFirst :=
  { severity := BitVec.ofNat 3 sev, valid := true, code := BitVec.ofNat 12 code, context := BitVec.ofNat 8 (ctx.getD 0)
    contextValid := ctx.isSome, preempted := (s.page n).err.valid, time := BitVec.ofNat 32 (s.time / 1000) }

/-- A capturing report, as the state with its capture that sends the record. -/
theorem raise_eq_captured (h : ¬ ((s.page n).err.valid = true ∧ sev ≤ (s.page n).err.severity.toNat)) :
    ∃ b loc', s.raise n sev code ctx loc = ((s.modBur fun _ => b).modPage n fun p =>
      { p with err := s.captured n sev code ctx, cause := p.cause ||| 1 }).errorRecord n sev (s.page n).err.valid code ctx loc' := by
  have h' : ((s.page n).err.valid && decide (sev ≤ (s.page n).err.severity.toNat)) = false := by simpa using h
  unfold State.raise
  simp only [h', Bool.false_eq_true, if_false]
  split
  · exact ⟨_, _, rfl⟩
  · exact ⟨s.bur, _, rfl⟩

theorem raise_err_captured (h : ¬ ((s.page n).err.valid = true ∧ sev ≤ (s.page n).err.severity.toNat)) :
    ((s.raise n sev code ctx loc).page n).err = s.captured n sev code ctx
      ∧ ((s.raise n sev code ctx loc).page n).cause = (s.page n).cause ||| 1 := by
  obtain ⟨b, loc', hr⟩ := raise_eq_captured (code := code) (ctx := ctx) (loc := loc) h
  rw [hr]
  simp

theorem raise_reported (hsev : sev < 8) : Reported n sev code s (s.raise n sev code ctx loc) := by
  unfold Reported
  split
  · rename_i h
    rw [raise_page_counted h]
    refine ⟨rfl, ?_⟩
    dsimp only
    split <;> simp_all
  · rename_i h
    obtain ⟨herr, hcause⟩ := raise_err_captured (code := code) (ctx := ctx) (loc := loc) h
    rw [herr, hcause]
    exact ⟨rfl, by simp [State.captured, Nat.mod_eq_of_lt hsev], rfl, by simp⟩

/-- A report clears no event of its page. -/
theorem raise_raised {b : Nat} (h : Raised n b s) : Raised n b (s.raise n sev code ctx loc) := by
  unfold Raised at *
  by_cases hc : (s.page n).err.valid = true ∧ sev ≤ (s.page n).err.severity.toNat
  · rw [raise_page_counted hc]
    exact h
  · rw [(raise_err_captured hc).2, BitVec.getLsbD_or, h, Bool.true_or]

theorem raise_page_other (m : Nat) (hm : m ≠ n) : SameButCounts (s.page m) ((s.raise n sev code ctx loc).page m) := by
  by_cases h : (s.page n).err.valid = true ∧ sev ≤ (s.page n).err.severity.toNat
  · unfold State.raise
    simp only [h.1, h.2, decide_true, Bool.and_self, if_true]
    split <;> simp [hm, SameButCounts]
  · obtain ⟨b, loc', hr⟩ := raise_eq_captured (code := code) (ctx := ctx) (loc := loc) h
    rw [hr]
    have hp : ((s.modBur fun _ => b).modPage n fun p => { p with err := s.captured n sev code ctx, cause := p.cause ||| 1 }).page m = s.page m := by
      simp [hm]
    exact hp ▸ errorRecord_page ..

/-- The copy of an error record that goes to the context's channel 0, without LOC (R390). -/
theorem raise_chan_context {c : Nat} (hv : (s.page n).err.valid = false) (hm : (s.raw n 0x028).getLsbD 0 = false) (hn : n < 2048)
    (h8 : code ≠ 0x158) (h9 : code ≠ 0x159) (hb : (s.chan (2048 + 8 * c)).bound = true) (hs : (s.chan (2048 + 8 * c)).stalled = false)
    (hl : (s.chan (2048 + 8 * c)).queue.length < 64) :
    ∃ r, ((s.raise n sev code (some c) loc).chan (2048 + 8 * c)).queue = (s.chan (2048 + 8 * c)).queue ++ [r] ∧ r.type = 0
      ∧ r.seqno = (s.chan (2048 + 8 * c)).recSeq ∧ r.body.length = 4 ∧ r.body.getD 3 0 = 0 := by
  obtain ⟨b, loc', hr⟩ := raise_eq_captured (s := s) (n := n) (sev := sev) (code := code) (ctx := some c) (loc := loc) (by simp [hv])
  have hchan : ((s.modBur fun _ => b).modPage n fun p => { p with err := s.captured n sev code (some c), cause := p.cause ||| 1 }).chan
      (2048 + 8 * c) = s.chan (2048 + 8 * c) := rfl
  rw [hr]
  unfold State.errorRecord
  rw [if_neg (by simpa [raw_modPage] using hm)]
  simp only [h8, h9, or_self, if_false, Nat.add_zero]
  have hother := fun s' w => queueRec_chan_other (s := s') n 0 sev w (2048 + 8 * c) (by omega)
  rw [queueRec_chan_queued, hother, hchan]
  · refine ⟨_, rfl, rfl, ?_, rfl, rfl⟩
    simp only [State.arriving, hother, hchan]
  all_goals rw [hother, hchan]; assumption

end raise

/-- Settles O58, operation by operation. -/
theorem errorsAndEvents : Obligations.ErrorsAndEvents := by
  intro s n hn
  refine ⟨?raise, ?event, ?queueRec⟩
  case raise =>
    rintro sev code ctx loc hsev - - _ rfl
    refine ⟨raise_reported (by omega), raise_pageFrame_but_bur .., raise_page_other, fun hv hlt => ?_, fun hv => ?_, fun h3 => ?_, fun h3 => ?_, ?_⟩
    · rw [(raise_err_captured (by omega)).1]
      exact hv
    · rw [(raise_err_captured (by simp [hv])).1, State.captured, hv]
    · rw [raise_bur, if_pos h3]
    · rw [raise_bur, if_neg (by omega)]
    · rintro hv hm c rfl _ _ rfl rfl h8 h9 hb hs hl
      exact raise_chan_context hv hm (by omega) h8 h9 hb hs hl
  case event =>
    rintro b hb48 _ _ _ rfl rfl rfl
    refine ⟨event_cause_bit hb48, event_pageFrame .., event_wordsSame n b, fun h => event_chan_masked n b h n, fun h hb hs hl => ?_⟩
    · obtain ⟨w, r, hq, htype, hfatal, hseq, hbody⟩ := event_chan_queued n b h hb hs hl
      exact ⟨r, hq, htype, hfatal, hseq, by rw [hbody]; rfl⟩
  case queueRec =>
    rintro c type sev body _ _ _ rfl rfl rfl
    refine ⟨queueRec_chan_shut c type sev body, fun hb hs hl => ?_, fun hb hs hl hx => queueRec_chan_dropped c type sev body hb hs hl hx,
      fun pre x post hb hs hl h3 hq hx hpre => ?_⟩
    · exact ⟨_, queueRec_chan_queued c type sev body hb hs hl, rfl, rfl, rfl, by simp [State.arriving]⟩
    · exact ⟨_, queueRec_chan_displaced c type sev body hb hs hl h3 hq hx hpre, rfl, by simp [State.arriving, h3]⟩

end Sys2Proof.Machine
end

section
/-! Accesses to the control window by the Bureau: which page and offset an address names, and the rows that reach theirs (R27, R28, R30, R32). -/

namespace Sys2Proof.Machine

open Sys2Proof Sys2Proof.Spec

variable {s : State} {a : Access} {n o : Nat}

/-! ## Addresses (R32) -/

theorem pageAt_tile {d m p : Nat} (hd : d < 4) (hm : m < 48) (hp : p < 9) (ho : o < 0x1000) :
    pageAt (0x00F000000000 + d * 0x01000000 + m * 0x10000 + p * 0x1000 + o) = some (tilePage (d * 48 + m) p, o) := by
  have hoff : 0x00F000000000 + d * 0x01000000 + m * 0x10000 + p * 0x1000 + o - 0x00F000000000 = d * 0x01000000 + m * 0x10000 + p * 0x1000 + o := by
    omega
  have hdie : (d * 0x01000000 + m * 0x10000 + p * 0x1000 + o) / 0x01000000 = d := by omega
  have hnode : (d * 0x01000000 + m * 0x10000 + p * 0x1000 + o) % 0x01000000 / 0x10000 = m := by omega
  have hpage : (d * 0x01000000 + m * 0x10000 + p * 0x1000 + o) % 0x10000 / 0x1000 = p := by omega
  have hreg : (d * 0x01000000 + m * 0x10000 + p * 0x1000 + o) % 0x1000 = o := by omega
  simp only [pageAt, hoff, hdie, hnode, hpage, hreg]
  rw [if_neg (by omega), if_pos (by omega), if_pos (by omega)]

theorem pageAt_base {d p : Nat} (hd : d < 4) (hp : p < 11) (ho : o < 0x1000) :
    pageAt (0x00F080000000 + d * 0x01000000 + p * 0x1000 + o) = some (basePage d p, o) := by
  have hoff : 0x00F080000000 + d * 0x01000000 + p * 0x1000 + o - 0x00F000000000 = 0x80000000 + d * 0x01000000 + p * 0x1000 + o := by omega
  have hdie : (0x80000000 + d * 0x01000000 + p * 0x1000 + o - 0x80000000) / 0x01000000 = d := by omega
  have hpage : (0x80000000 + d * 0x01000000 + p * 0x1000 + o) % 0x01000000 / 0x1000 = p := by omega
  have hreg : (0x80000000 + d * 0x01000000 + p * 0x1000 + o) % 0x1000 = o := by omega
  simp only [pageAt, hoff, hdie, hpage, hreg]
  rw [if_neg (by omega), if_neg (by omega), if_pos (by omega), if_pos (by omega)]

theorem pageAt_pkg {p : Nat} (hp : p < 9) (ho : o < 0x1000) : pageAt (0x00F0FF000000 + p * 0x1000 + o) = some (pkgPage p, o) := by
  have hoff : 0x00F0FF000000 + p * 0x1000 + o - 0x00F000000000 = 0xFF000000 + p * 0x1000 + o := by omega
  have hpage : (0xFF000000 + p * 0x1000 + o - 0xFF000000) / 0x1000 = p := by omega
  have hreg : (0xFF000000 + p * 0x1000 + o) % 0x1000 = o := by omega
  simp only [pageAt, hoff, hpage, hreg]
  rw [if_neg (by omega), if_neg (by omega), if_neg (by omega), if_pos (by omega), if_pos (by omega)]

/-- The address of an offset of a page names that page and offset. -/
theorem pageAt_pageAddr (hn : n < 1781) (ho : o < 0x1000) : pageAt (pageAddr n o) = some (n, o) := by
  unfold pageAddr
  split
  · rw [pageAt_tile (by omega) (by omega) (by omega) ho, show tilePage (n / 9 / 48 * 48 + n / 9 % 48) (n % 9) = n by unfold tilePage; omega]
  split
  · rw [pageAt_base (by omega) (by omega) ho, show basePage ((n - 1728) / 11) ((n - 1728) % 11) = n by unfold basePage; omega]
  · rw [pageAt_pkg (by omega) ho, show pkgPage (n - 1772) = n by unfold pkgPage; omega]

theorem pageAddr_aligned (h8 : o % 8 = 0) : pageAddr n o % 8 = 0 := by
  unfold pageAddr
  split
  · omega
  · split <;> omega

theorem accessAt_pageAddr (hp : n < 1728 → s.pkg.powered.getLsbD (quadOf (n / 9)) = true) (hn : n < 1781) (ho : o < 0x1000) (h8 : o % 8 = 0) :
    s.accessAt (pageAddr n o) = some (n, o) := by
  unfold State.accessAt
  rw [if_neg (by simpa using pageAddr_aligned h8), pageAt_pageAddr hn ho]
  dsimp only
  rw [if_neg]
  rintro ⟨htile, hoff⟩
  rw [hp htile] at hoff
  cases hoff

/-! ## The Bureau's rows (R28, R30) -/

theorem reaches_bureau (hb : ByBureau s a n) : s.reaches a = true := by
  obtain ⟨hawake, hsrc, -⟩ := hb
  simp [State.reaches, awake_of_Awake hawake, hsrc]

theorem roleOf_bureau (hb : ByBureau s a n) : s.roleOf a = none := by
  obtain ⟨-, hsrc, -⟩ := hb
  simp [State.roleOf, hsrc]

theorem accessAt_bureau (hb : ByBureau s a n) (hn : n < 1781) (ho : o < 0x1000) (h8 : o % 8 = 0) :
    s.accessAt (pageAddr n o) = some (n, o) := accessAt_pageAddr hb.2.2 hn ho h8

/-- The Bureau's write of a write-one bit has its effect. -/
theorem rowDo_bureau (hb : ByBureau s a n) (hn : n < 1781) (ho : o < 0x1000) (h8 : o % 8 = 0) (f : State → State) : s.rowDo a n o f = f s := by
  have hat : s.writeAt (s.roleOf a) (pageAddr n o) (s.raw n o) = some (n, o) := by
    simp [State.writeAt, State.mayWrite, roleOf_bureau hb, accessAt_bureau hb hn ho h8]
  unfold State.rowDo
  rw [if_pos (reaches_bureau hb), hat]

/-- The Bureau's read of a word has the read's side effects. -/
theorem rowRead_bureau (hb : ByBureau s a n) (hn : n < 1781) (ho : o < 0x1000) (h8 : o % 8 = 0) : s.rowRead a n o = s.readSide n o := by
  have hat : s.readAt (s.roleOf a) (pageAddr n o) = some (n, o) := by
    simp [State.readAt, State.mayRead, roleOf_bureau hb, accessAt_bureau hb hn ho h8]
  unfold State.rowRead State.regRead
  rw [if_pos (reaches_bureau hb), hat]

/-- The Bureau's write of a word is accepted. -/
theorem rowWrite_bureau (hb : ByBureau s a n) (hn : n < 1781) (ho : o < 0x1000) (h8 : o % 8 = 0) (val : Word) :
    s.rowWrite a (pageAddr n o) val = s.regWriteAt none n o val := by
  have hat : s.writeAt none (pageAddr n o) val = some (n, o) := by
    simp [State.writeAt, State.mayWrite, accessAt_bureau hb hn ho h8]
  unfold State.rowWrite State.regWrite
  rw [if_pos (reaches_bureau hb), roleOf_bureau hb, hat]

end Sys2Proof.Machine
end

section
/-! RUN.START, RUN.HALT and the stall watchdog (R41, R93, R96): O9. -/

namespace Sys2Proof.Machine

open Sys2Proof Sys2Proof.Spec

variable {s : State}

/-! ## The SEQ page of a tile -/

theorem seqPage_div (t : Nat) : seqPage t / 9 = t := by unfold seqPage tilePage; omega

theorem byBureau_seqPage {a : Access} {t : Fin 192} (ha : a.source = .bureau) (hw : Works s t) : ByBureau s a (seqPage t) := by
  obtain ⟨hquad, hawake⟩ := hw
  exact ⟨hawake, ha, fun _ => by rwa [seqPage_div]⟩

theorem seqPage_lt (t : Fin 192) : seqPage t < 1781 := by unfold seqPage tilePage; omega

theorem tileRuns_of_Works {t : Nat} (hw : Works s t) : s.tileRuns t = true := by
  obtain ⟨hquad, hawake⟩ := hw
  simp [State.tileRuns, hquad, awake_of_Awake hawake]

/-! ## The operations of the sequencer (R93, R96) -/

theorem modTile_seqFrame {t : Nat} {f : Tile → Tile} (hf : BytesSame (s.tile t) (f (s.tile t))) : SeqFrame t s (s.modTile t f) := by
  obtain ⟨hother, hmem, hbase⟩ := modTile_tileFrame (s := s) t f
  exact ⟨hother, by rwa [tile_modTile_same], hmem, fun _ _ => rfl, rfl, hbase, rfl, rfl⟩

@[simp] theorem tile_drained (n t : Nat) : (s.drained n).tile t = s.tile t := (drained_pageFrame s n).1 t

theorem tile_haltSeq (t : Nat) : (s.haltSeq t).tile t = { s.tile t with seq := .halted, stall := .none, haltDue := false, stopped := false } := by
  simp [State.haltSeq]

theorem haltSeq_tileFrame (t : Nat) : TileFrame t s (s.haltSeq t) := (modTile_tileFrame t _).trans (drained_pageFrame ..).tileFrame

@[simp] theorem drained_heldGo (n m : Nat) : ((s.drained n).page m).heldGo = (s.page m).heldGo := by
  unfold State.drained
  split
  · rw [page_event_heldGo]
    exact modPage_keeps s Page.heldGo n m _ fun _ => rfl
  · rfl

@[simp] theorem haltSeq_heldGo (t m : Nat) : ((s.haltSeq t).page m).heldGo = (s.page m).heldGo := by simp [State.haltSeq]

/-- What a page has reported stands when it is then found drained. -/
theorem drained_reported {s₁ : State} {n sev code : Nat} (h : Reported n sev code s s₁) : Reported n sev code s (s₁.drained n) := by
  have herr : ((s₁.drained n).page n).err = (s₁.page n).err := by
    unfold State.drained
    split <;> simp
  have hcount : ((s₁.drained n).page n).errCount = (s₁.page n).errCount := by
    unfold State.drained
    split <;> simp
  unfold Reported at *
  rw [herr, hcount]
  split at h
  · rwa [if_pos (by assumption)]
  · rw [if_neg (by assumption)]
    obtain ⟨hvalid, hsev, hcode, hcause⟩ := h
    exact ⟨hvalid, hsev, hcode, drained_raised n 0 hcause⟩

theorem haltSeq_reported {s₁ : State} {t sev code : Nat} (h : Reported (seqPage t) sev code s s₁) :
    Reported (seqPage t) sev code s (s₁.haltSeq t) := drained_reported (s₁ := s₁.modTile t _) h

section rows

variable {a : Access} {t : Fin 192} (ha : a.source = .bureau) (hw : Works s t)
include ha hw

theorem runStart_eq : exec (.runStart a t) s = .next (s.runStartAct t) :=
  congrArg Host.Outcome.next (rowDo_bureau (byBureau_seqPage ha hw) (seqPage_lt t) (by decide) (by decide) _)

theorem runHalt_eq : exec (.runHalt a t) s = .next (s.runHaltAct t) :=
  congrArg Host.Outcome.next (rowDo_bureau (byBureau_seqPage ha hw) (seqPage_lt t) (by decide) (by decide) _)

/-! ## RUN.START -/

section admitted

variable (hadm : s.admits (seqPage t) = true) (hgood : s.startBad t = false)
include hadm hgood

theorem runStart_from_entry (hidle : (s.tile t).seq = .idle) : Answers (.runStart a t) s fun s' =>
    (s'.tile t).seq = .running ∧ (s'.tile t).stall = .none ∧ (s'.tile t).pc.toNat = s.fld (seqPage t) 0x108 0 32
    ∧ (∀ i, (s'.tile t).tok i = (s.tile t).tok i) ∧ (∀ i, (s'.tile t).reg i = (s.tile t).reg i) ∧ SeqFrame t s s' := by
  refine ⟨_, runStart_eq ha hw, ?_⟩
  have hpc : s.fld (seqPage t) 0x108 0 32 < 4294967296 := Nat.mod_lt _ (by decide)
  simp only [State.runStartAct, State.startSeq, hadm, hgood, Bool.false_eq_true, if_true, if_false]
  refine ⟨?_, ?_, ?_, fun i => ?_, fun i => ?_, modTile_seqFrame ?_⟩ <;> simp [hidle, Tile.tok, Tile.reg, BytesSame, hpc]

theorem runStart_from_pc (hhalt : (s.tile t).seq = .halted) : Answers (.runStart a t) s fun s' =>
    (s'.tile t).seq = .running ∧ (s'.tile t).pc = (s.tile t).pc ∧ SeqFrame t s s' := by
  refine ⟨_, runStart_eq ha hw, ?_⟩
  simp only [State.runStartAct, State.startSeq, hadm, hgood, Bool.false_eq_true, if_true, if_false]
  refine ⟨?_, ?_, modTile_seqFrame ?_⟩ <;> simp [hhalt, BytesSame]

end admitted

theorem runStart_refused (hadm : s.admits (seqPage t) = true) (hbad : s.startBad t = true) : Answers (.runStart a t) s fun s' =>
    s'.tile t = s.tile t ∧ Reported (seqPage t) 2 0x014 s s' ∧ TileFrame t s s' := by
  refine ⟨_, runStart_eq ha hw, ?_⟩
  simp only [State.runStartAct, State.startSeq, hadm, hbad, if_true]
  exact ⟨(contained_pageFrame ..).1 t, raise_reported (by decide), (contained_pageFrame ..).tileFrame⟩

theorem runStart_held (hadm : s.admits (seqPage t) = false) : Answers (.runStart a t) s fun s' =>
    s'.tile t = s.tile t ∧ (s'.page (seqPage t)).heldGo = true ∧ TileFrame t s s' := by
  refine ⟨_, runStart_eq ha hw, ?_⟩
  simp only [State.runStartAct, hadm, Bool.false_eq_true, if_false]
  exact ⟨rfl, by simp, (modPage_pageFrame ..).tileFrame⟩

/-! ## RUN.HALT -/

section running

variable (hrun : (s.tile t).seq = .running)
include hrun

theorem runHalt_halts (hstall : (s.tile t).stall = .none) : Answers (.runHalt a t) s fun s' =>
    (s'.tile t).seq = .halted ∧ (s'.tile t).pc = (s.tile t).pc ∧ (s'.page (seqPage t)).heldGo = false ∧ TileFrame t s s' := by
  refine ⟨_, runHalt_eq ha hw, ?_⟩
  simp only [State.runHaltAct, tile_modPage, hrun, hstall, if_true]
  exact ⟨by rw [tile_haltSeq], by rw [tile_haltSeq]; rfl, by simp, (modPage_pageFrame ..).tileFrame.trans (haltSeq_tileFrame ..)⟩

theorem runHalt_waits (hstall : (s.tile t).stall ≠ .none) : Answers (.runHalt a t) s fun s' =>
    (s'.tile t).seq = .running ∧ (s'.tile t).haltDue = true ∧ (s'.page (seqPage t)).heldGo = false ∧ TileFrame t s s' := by
  refine ⟨_, runHalt_eq ha hw, ?_⟩
  simp only [State.runHaltAct, tile_modPage, hrun, hstall, if_false]
  exact ⟨by simp [hrun], by simp, by simp, (modPage_pageFrame ..).tileFrame.trans (modTile_tileFrame ..)⟩

end running

end rows

/-! ## STALL_WATCHDOG -/

/-- The state after a watchdog halt. -/
def State.watchdogHalted (s : State) (t : Nat) : State :=
  (((s.event (seqPage t) 4).contained (seqPage t) 0x011 (s.ctxOf t)).modTile t fun ti => { ti with held := true }).haltSeq t

theorem stallWatchdog_eq {t : Fin 192} (hw : Works s t) (hstop : (s.tile t).stopped = false)
    (hstuck : (s.tile t).seq = .waiting ∨ ((s.tile t).seq = .running ∧ (s.tile t).stall ≠ .none)) (hlimit : s.fld (seqPage t) 0x120 0 6 ≠ 0) :
    exec (.stallWatchdog t) s = .next (s.watchdogHalted t) := by
  have hs : s.seqStuck t = true := by
    obtain hwait | ⟨hrun, hstall⟩ := hstuck
    · simp [State.seqStuck, tileRuns_of_Works hw, hstop, hwait]
    · simp [State.seqStuck, tileRuns_of_Works hw, hstop, hrun, hstall]
  show execStallWatchdog t s = _
  unfold execStallWatchdog
  rw [if_pos (by simp [hs, hlimit])]
  rfl

theorem tile_watchdogHalted (t : Nat) : (s.watchdogHalted t).tile t =
    { s.tile t with seq := .halted, stall := .none, haltDue := false, stopped := false, held := true } := by
  simp [State.watchdogHalted, tile_haltSeq, State.contained]

theorem watchdogHalted_raised (t : Nat) : Raised (seqPage t) 4 (s.watchdogHalted t) :=
  drained_raised _ _ (raise_raised (event_raised _ _ (by decide)))

theorem watchdogHalted_reported (t : Nat) : Reported (seqPage t) 2 0x011 (s.event (seqPage t) 4) (s.watchdogHalted t) :=
  haltSeq_reported (s₁ := ((s.event (seqPage t) 4).contained (seqPage t) 0x011 (s.ctxOf t)).modTile t _) (raise_reported (by decide))

theorem watchdogHalted_tileFrame (t : Nat) : TileFrame t s (s.watchdogHalted t) :=
  (((event_pageFrame ..).trans (contained_pageFrame ..)).tileFrame.trans (modTile_tileFrame ..)).trans (haltSeq_tileFrame ..)

/-- Settles O9, row by row. -/
theorem runControl : Obligations.RunControl := by
  intro s t a ha hw
  refine ⟨runStart_from_entry ha hw, runStart_from_pc ha hw, runStart_refused ha hw, runStart_held ha hw, runHalt_halts ha hw, runHalt_waits ha hw,
    fun hstop hstuck hlimit => ⟨_, stallWatchdog_eq hw hstop hstuck hlimit, ?_⟩⟩
  have htile := tile_watchdogHalted (s := s) t
  exact ⟨by rw [htile], by rw [htile], by rw [htile], watchdogHalted_raised _, watchdogHalted_reported _, fun _ => by rw [htile]; rfl,
    by rw [htile], watchdogHalted_tileFrame _⟩

end Sys2Proof.Machine
end

section
/-! Fields and words of a control page: a field that is set, the bits of a field class, and what a block reset makes of a word (R38, R40). -/

namespace Sys2Proof.Machine

open Sys2Proof Sys2Proof.Spec

variable {s : State}

/-! ## A field that is set -/

theorem getLsbD_shifted (x lo i : Nat) : (BitVec.ofNat 64 (x <<< lo)).getLsbD i = (decide (i < 64) && (decide (lo ≤ i) && x.testBit (i - lo))) := by
  rw [BitVec.getLsbD_ofNat, Nat.testBit_shiftLeft]

/-- A bit of a word with a field set: the value's inside the field, as before outside. -/
theorem getLsbD_putBits (w : Word) (lo n v i : Nat) (hi : i < 64) :
    (putBits w lo n v).getLsbD i = if lo ≤ i ∧ i < lo + n then v.testBit (i - lo) else w.getLsbD i := by
  simp only [putBits, BitVec.getLsbD_or, BitVec.getLsbD_and, BitVec.getLsbD_not, getLsbD_shifted, Nat.testBit_two_pow_sub_one, Nat.testBit_mod_two_pow,
    hi, decide_true, Bool.true_and]
  by_cases hlo : lo ≤ i
  · by_cases hn : i - lo < n
    · rw [if_pos ⟨hlo, by omega⟩]; simp [hlo, hn]
    · rw [if_neg (by omega)]; simp [hn]
  · rw [if_neg (by omega)]; simp [hlo]

theorem bits_putBits_same (w : Word) (lo n v : Nat) (h : lo + n ≤ 64) : bits (putBits w lo n v) lo n = v % 2 ^ n := by
  refine Nat.eq_of_testBit_eq fun i => ?_
  rw [bits, Nat.testBit_mod_two_pow, Nat.testBit_mod_two_pow, Nat.testBit_div_two_pow]
  by_cases hi : i < n
  · have hb := getLsbD_putBits w lo n v (i + lo) (by omega)
    rw [if_pos (by omega), Nat.add_sub_cancel] at hb
    rw [BitVec.getLsbD] at hb
    simp [hi, hb]
  · simp [hi]

/-! ## The bits of field classes -/

theorem foldl_mask_or (p q : Acc → Bool) (fs : List Field) : ∀ a b : Word,
    fs.foldl (fun w f => if (p f.acc || q f.acc) = true then w ||| f.mask else w) (a ||| b) =
      fs.foldl (fun w f => if p f.acc = true then w ||| f.mask else w) a ||| fs.foldl (fun w f => if q f.acc = true then w ||| f.mask else w) b := by
  induction fs with
  | nil => exact fun _ _ => rfl
  | cons f fs ih =>
    intro a b
    simp only [List.foldl_cons]
    rw [← ih]
    congr 1
    cases p f.acc <;> cases q f.acc <;> simp only [Bool.or_self, Bool.or_true, Bool.or_false, Bool.false_eq_true, if_true, if_false]
    · ac_rfl
    · ac_rfl
    · rw [show a ||| f.mask ||| (b ||| f.mask) = a ||| b ||| (f.mask ||| f.mask) by ac_rfl, BitVec.or_self]

theorem classMask_or (n o : Nat) (p q : Acc → Bool) : classMask n o (fun x => p x || q x) = classMask n o p ||| classMask n o q := by
  unfold classMask
  rw [← foldl_mask_or, BitVec.or_self]

/-- The fields that a block reset returns to their reset values are those that software writes (R40). -/
theorem classMask_not_kept (n o : Nat) : classMask n o (fun x => !isKept x) = ofClass n o .rw ||| ofClass n o .rws ||| ofClass n o .rwl := by
  have h : (fun x => !isKept x) = fun x : Acc => (decide (x = .rw) || decide (x = .rws)) || decide (x = .rwl) := by
    funext x
    cases x <;> rfl
  rw [h, classMask_or, classMask_or]
  rfl

/-! ## The words of a page that is reset (R40) -/

/-- A key reads as the default or as an entry that lists it. -/
theorem get_eq_or_mem {α : Type} (d : α) (m : Tab α) (k : Nat) : Tab.get d m k = d ∨ (k, Tab.get d m k) ∈ m := by
  induction m with
  | nil => exact .inl rfl
  | cons e m ih =>
    obtain ⟨j, v⟩ := e
    by_cases hj : j = k
    · subst hj; right; simp [Tab.get]
    · simp only [Tab.get, hj, if_false, List.mem_cons]
      exact ih.imp_right .inr

/-- A reset word differs from its reset value at most in fields that a reset keeps, and on a Footstool's or a Trestle's own words nowhere. -/
theorem get_resetWords (n : Nat) (ws : Tab Word) (k : Nat) : Tab.get 0 (resetWords n ws) k = 0
    ∨ ((blockOf n = .fts ∨ blockOf n = .trs) → k < 0x20) ∧ ∃ x, Tab.get 0 (resetWords n ws) k = x &&& ~~~(classMask n (8 * k) fun a => !isKept a) := by
  obtain h | h := get_eq_or_mem 0 (resetWords n ws) k
  · exact .inl h
  generalize Tab.get 0 (resetWords n ws) k = y at h ⊢
  unfold resetWords at h
  obtain ⟨⟨j, x⟩, -, he⟩ := List.mem_filterMap.1 h
  by_cases hall : ((decide (blockOf n = .fts) || decide (blockOf n = .trs)) && decide (0x100 / 8 ≤ j)) = true
  · simp [hall] at he
  simp only [hall, Bool.false_eq_true, if_false] at he
  split at he
  · cases he
  obtain ⟨rfl, rfl⟩ := Prod.mk.inj (Option.some.inj he)
  refine .inr ⟨fun hb => ?_, x, rfl⟩
  simpa [hb] using hall

/-- The fields of a page that is reset are at their reset values. -/
theorem raw_reset {s₁ : State} {n o : Nat} (hw : (s₁.page n).words = resetWords n (s.page n).words) (h8 : o % 8 = 0) :
    s₁.raw n o &&& (ofClass n o .rw ||| ofClass n o .rws ||| ofClass n o .rwl)
      = resetWord n o &&& (ofClass n o .rw ||| ofClass n o .rws ||| ofClass n o .rwl) := by
  have ho : 8 * (o / 8) = o := by omega
  unfold State.raw
  rw [hw]
  obtain h | ⟨-, x, h⟩ := get_resetWords n (s.page n).words (o / 8) <;> rw [h]
  · simp
  · rw [ho, classMask_not_kept]
    ext i
    simp
    grind

/-- Every word of a Footstool or a Trestle page that is reset is at its reset value (R183, R211). -/
theorem raw_reset_all {s₁ : State} {n o : Nat} (hw : (s₁.page n).words = resetWords n (s.page n).words)
    (hn : blockOf n = .fts ∨ blockOf n = .trs) (ho : 0x100 ≤ o) : s₁.raw n o = resetWord n o := by
  unfold State.raw
  rw [hw]
  obtain h | ⟨hk, -⟩ := get_resetWords n (s.page n).words (o / 8)
  · rw [h]; simp
  · have := hk hn
    omega

end Sys2Proof.Machine
end

section
/-! ENABLE_WRITE, QUIESCE, BLOCK_RESET, CNT_CLEAR, ERR_FIRST_CLEAR, ERR_COUNT_READ and P_MAX_READ (R36, R40, R41, R418, R437): O23. -/

namespace Sys2Proof.Machine

open Sys2Proof Sys2Proof.Spec

variable {s : State}

/-! ## What the pages say -/

theorem page_congr {s' : State} (h : s'.pages = s.pages) (n : Nat) : s'.page n = s.page n := by
  unfold State.page
  rw [h]

theorem raw_congr {s' : State} (h : s'.pages = s.pages) (n o : Nat) : s'.raw n o = s.raw n o := by
  unfold State.raw
  rw [page_congr h]

theorem admits_congr {s' : State} (h : s'.pages = s.pages) (n : Nat) : s'.admits n = s.admits n := by
  unfold State.admits State.enabled
  rw [raw_congr h, page_congr h]

/-! ## Words that hardware sets -/

theorem setRaw_otherPages (n o : Nat) (w : Word) : OtherPages n s (s.setRaw n o w) := fun m hm => by simp [State.setRaw, hm]

theorem setRaw_otherWords (n o : Nat) (w : Word) : OtherWords n o s (s.setRaw n o w) := fun m p h => raw_setRaw_other s n m o p w h

theorem page_setRaw_but_words (n o : Nat) (w : Word) : { (s.setRaw n o w).page n with words := (s.page n).words } = s.page n := by
  simp [State.setRaw]

theorem modPage_otherPages (n : Nat) (f : Page → Page) : OtherPages n s (s.modPage n f) := fun m hm => by simp [hm]

theorem setEnable_enabled (n : Nat) (en : Bool) : (s.setEnable n en).enabled n = en := by
  unfold State.enabled State.setEnable State.setFld
  rw [raw_setRaw_same, getLsbD_putBits _ _ _ _ _ (by decide)]
  cases en <;> rfl

/-! ## Admission (R41, R437) -/

/-- A quiesce-stopped sequencer continues unless its quad is being switched, and nothing else happens. -/
theorem continueSeq_eq (t : Nat) : ∃ ts, s.continueSeq t = { s with tiles := ts }
    ∧ (s.key.switch = none → Tab.get {} ts t = { s.tile t with stopped := false }) := by
  unfold State.continueSeq
  cases s.key.switch with
  | none => exact ⟨_, rfl, fun _ => Tab.get_mod_same ..⟩
  | some w =>
    dsimp only
    split
    · exact ⟨_, rfl, nofun⟩
    · exact ⟨_, rfl, nofun⟩

/-- With no start held, no flow told to wait and no request waiting, a block that admits again has nothing to let go. -/
theorem releaseHeld_none {n : Nat} (hgo : (s.page n).heldGo = false) (hready : (s.page n).readyFlows = []) (hu : s.fab.unsent = []) :
    ((s.releaseHeld n).sendReady n).pump = s.modPage n fun p => { p with readyFlows := [] } := by
  have hrel : s.releaseHeld n = s := by simp [State.releaseHeld, hgo]
  have hsend : s.sendReady n = s.modPage n fun p => { p with readyFlows := [] } := by simp [State.sendReady, hready]
  rw [hrel, hsend]
  exact pump_nil hu

theorem retryHeld_nil (hh : s.fab.held = []) : s.retryHeld = s.modFab fun f => { f with held := [] } := by
  simp only [State.retryHeld, hh, List.filter_nil]
  rfl

/-- All that comes of it when a block admits again with nothing held: a stopped sequencer continues, and no flow is left to be told. -/
structure Resumed (n : Nat) (s s' : State) : Prop where
  pages : s'.pages = (s.modPage n fun p => { p with readyFlows := [] }).pages
  mem   : s'.mem = s.mem
  tiles : blockOf n ≠ .seq → s'.tiles = s.tiles
  seq   : blockOf n = .seq → s.key.switch = none → s'.tile (n / 9) = { s.tile (n / 9) with stopped := false }

theorem resume_idle {n : Nat} (hgo : (s.page n).heldGo = false) (hready : (s.page n).readyFlows = []) (hu : s.fab.unsent = []) (hh : s.fab.held = []) :
    Resumed n s (s.resume n) := by
  unfold State.resume
  by_cases hseq : blockOf n = .seq
  · obtain ⟨ts, hcont, hstop⟩ := continueSeq_eq (s := s) (n / 9)
    simp only [hseq, hcont]
    rw [releaseHeld_none (s := { s with tiles := ts }) hgo hready hu]
    exact ⟨rfl, rfl, fun h => absurd hseq h, fun _ => hstop⟩
  · split
    · exact absurd ‹_› hseq
    dsimp only
    rw [releaseHeld_none hgo hready hu]
    split
    · unfold State.sbdFill
      split <;> exact ⟨rfl, rfl, fun _ => rfl, fun h => absurd h hseq⟩
    · rw [retryHeld_nil (by exact hh)]
      exact ⟨rfl, rfl, fun _ => rfl, fun h => absurd h hseq⟩
    · exact ⟨rfl, rfl, fun _ => rfl, fun h => absurd h hseq⟩

/-- The page of a block that is enabled: whatever quiesce there was has ended. -/
def State.reopened (s : State) (n : Nat) : State :=
  (s.modPage n fun p => { p with quiesceBit := false, quiescing := false, quiesced := false }).setEnable n true

theorem page_reopened (n : Nat) : (s.reopened n).page n =
    { s.page n with words := ((s.reopened n).page n).words, quiesceBit := false, quiescing := false, quiesced := false } := by
  simp [State.reopened, State.setEnable, State.setFld, State.setRaw]

theorem reopened_otherPages (n : Nat) : OtherPages n s (s.reopened n) := fun m hm =>
  (setRaw_otherPages _ _ _ m hm).trans (modPage_otherPages _ _ m hm)

theorem reopened_otherWords (n : Nat) : OtherWords n 0x010 s (s.reopened n) := fun m p h => by
  rw [State.reopened, State.setEnable, State.setFld, setRaw_otherWords _ _ _ m p h, raw_modPage]
  exact fun _ => rfl

theorem reopened_admits (n : Nat) : (s.reopened n).admits n = true := by
  have hen : (s.reopened n).enabled n = true := setEnable_enabled ..
  rw [State.admits, hen, page_reopened]
  rfl

theorem admits_modPage {n : Nat} {f : Page → Page} (hw : ∀ p, (f p).words = p.words)
    (hq : ∀ p, (f p).quiesceBit = p.quiesceBit ∧ (f p).quiescing = p.quiescing ∧ (f p).quiesced = p.quiesced) (m : Nat) :
    (s.modPage n f).admits m = s.admits m := by
  simp only [State.admits, State.enabled, raw_modPage hw, modPage_keeps s Page.quiesceBit n m f fun p => (hq p).1,
    modPage_keeps s Page.quiescing n m f fun p => (hq p).2.1, modPage_keeps s Page.quiesced n m f fun p => (hq p).2.2]

/-! ## Quiesce (R437) -/

/-- A block that has begun to quiesce holds admitted work still: nothing more happens. -/
theorem drained_busy {n : Nat} (hbusy : s.busy n = true) : s.drained n = s := by simp [State.drained, hbusy]

/-- A quiescing block without admitted work is quiesced. -/
theorem drained_idle {n : Nat} (hq : (s.page n).quiescing = true) (hbusy : s.busy n = false) :
    s.drained n = (s.modPage n fun p => { p with quiescing := false, quiesced := true }).event n 3 := by
  simp [State.drained, hq, hbusy]

/-- The state in which a block's quiesce has begun. -/
def State.quiescing (s : State) (n : Nat) : State := s.modPage n fun p => { p with quiesceBit := true, quiescing := true }

theorem page_quiescing (n : Nat) : (s.quiescing n).page n = { s.page n with quiesceBit := true, quiescing := true } := page_modPage_same ..

theorem startQuiesce_engine {n : Nat} (hseq : blockOf n ≠ .seq) (hq : (s.page n).quiesced = false) :
    s.startQuiesce n = (s.quiescing n).drained n := by
  unfold State.startQuiesce
  rw [if_neg (by simp [hq])]
  dsimp only
  split
  · exact absurd ‹_› hseq
  · rfl

/-- A running or waiting sequencer is stopped. -/
def Tile.stopSeq (t : Tile) : Tile := if t.seq = .running ∨ t.seq = .waiting then { t with stopped := true } else t

theorem startQuiesce_seq {n : Nat} (hseq : blockOf n = .seq) (hq : (s.page n).quiesced = false) :
    s.startQuiesce n = ((s.quiescing n).modTile (n / 9) Tile.stopSeq).drained n := by
  unfold State.startQuiesce
  rw [if_neg (by simp [hq]), hseq]
  rfl

/-- A stopped sequencer holds no admitted work. -/
theorem busy_stopSeq {n : Nat} (hseq : blockOf n = .seq) : (s.modTile (n / 9) Tile.stopSeq).busy n = false := by
  simp only [State.busy, hseq, tile_modTile_same, Tile.stopSeq]
  split
  · simp
  · rename_i h
    simp only [not_or] at h
    simp [h]

theorem stopSeq_keeps (t : Tile) : t.stopSeq.pc = t.pc ∧ t.stopSeq.seq = t.seq ∧ (t.seq = .running ∨ t.seq = .waiting → t.stopSeq.stopped = true)
    ∧ ∀ r, t.stopSeq.reg r = t.reg r := by
  unfold Tile.stopSeq
  split
  · exact ⟨rfl, rfl, fun _ => rfl, fun _ => rfl⟩
  · exact ⟨rfl, rfl, fun h => absurd h ‹_›, fun _ => rfl⟩

/-- A drained block is quiesced, says so, and admits nothing. -/
theorem drained_quiesced {n : Nat} (hbit : (s.page n).quiesceBit = true) (hq : (s.page n).quiescing = true) (hbusy : s.busy n = false) :
    ((s.drained n).page n).quiesced = true ∧ ((s.drained n).page n).quiescing = false ∧ Raised n 3 (s.drained n) ∧ (s.drained n).admits n = false := by
  rw [drained_idle hq hbusy]
  exact ⟨by simp, by simp, event_raised n 3 (by decide), by simp [State.admits, hbit]⟩

/-! ## Block reset (R40) -/

/-- CTL.ENABLE is a plain field with reset value 0 on every page. -/
theorem ctl_enable {n : Nat} (h : blockOf n ≠ .rtr) : (ofClass n 0x010 .rw).getLsbD 0 = true ∧ (resetWord n 0x010).getLsbD 0 = false := by
  unfold ofClass classMask resetWord wordFields allFields fieldsOf
  cases hb : blockOf n
  case rtr => exact absurd hb h
  all_goals (dsimp only; decide)
/-- A block that keeps nothing beyond its page in a reset: its page is reset, and of the rest at most its tile changes. -/
theorem blockReset_plain {n : Nat} (hrtr : blockOf n ≠ .rtr) (hmsc : blockOf n ≠ .msc) (hpwr : blockOf n ≠ .pwr) (hhen : blockOf n ≠ .hen) :
    ∃ f, s.blockReset n = (s.modPage n (Page.reset n)).modTile (n / 9) f ∨ s.blockReset n = s.modPage n (Page.reset n) := by
  simp only [State.blockReset, State.keepDomains, State.keepNet, hpwr, hhen, if_false]
  unfold State.resetSides
  split
  · exact ⟨_, .inl rfl⟩
  · exact ⟨_, .inl rfl⟩
  · exact ⟨_, .inl rfl⟩
  · exact absurd ‹_› hrtr
  · exact absurd ‹_› hmsc
  · exact ⟨id, .inr rfl⟩

/-- What a reset of such a block makes of its page and leaves of the rest. -/
structure WasReset (n : Nat) (s s' : State) : Prop where
  page  : s'.page n = (s.page n).reset n
  pages : OtherPages n s s'
  frame : TileFrame (n / 9) s s'

theorem blockReset_wasReset {n : Nat} (hrtr : blockOf n ≠ .rtr) (hmsc : blockOf n ≠ .msc) (hpwr : blockOf n ≠ .pwr) (hhen : blockOf n ≠ .hen) :
    WasReset n s (s.blockReset n) := by
  have hp : TileFrame (n / 9) s (s.modPage n (Page.reset n)) := (modPage_pageFrame ..).tileFrame
  obtain ⟨f, h | h⟩ := blockReset_plain (s := s) hrtr hmsc hpwr hhen <;> rw [h]
  · exact ⟨page_modPage_same .., modPage_otherPages _ _, hp.trans (modTile_tileFrame ..)⟩
  · exact ⟨page_modPage_same .., modPage_otherPages _ _, hp⟩

theorem WasReset.words {n : Nat} {s' : State} (h : WasReset n s s') : (s'.page n).words = resetWords n (s.page n).words := congrArg Page.words h.page

/-- A block that is reset is disabled. -/
theorem WasReset.disabled {n : Nat} {s' : State} (h : WasReset n s s') (hrtr : blockOf n ≠ .rtr) : s'.enabled n = false := by
  obtain ⟨hclass, hreset⟩ := ctl_enable hrtr
  have hbit := congrArg (BitVec.getLsbD · 0) (raw_reset (o := 0x010) h.words (by decide))
  simpa only [State.enabled, BitVec.getLsbD_and, BitVec.getLsbD_or, hclass, hreset, Bool.true_or, Bool.and_true] using hbit

theorem blockReset_mxe {n : Nat} (h : blockOf n = .mxe) : (s.blockReset n).tile (n / 9) = { s.tile (n / 9) with chk0 := {}, chk1 := {} } := by
  simp [State.blockReset, State.keepDomains, State.keepNet, State.resetSides, h]

theorem blockReset_vxe {n : Nat} (h : blockOf n = .vxe) : (s.blockReset n).tile (n / 9) = { s.tile (n / 9) with slots := [] } := by
  simp [State.blockReset, State.keepDomains, State.keepNet, State.resetSides, h]

theorem blockReset_fts {n : Nat} (h : blockOf n = .fts) : ((s.blockReset n).tile (n / 9)).sel = {} := by
  simp [State.blockReset, State.keepDomains, State.keepNet, State.resetSides, h]

/-- Words, events, staged writes and control bits of a page that is reset; its errors and counters stay, as does all else. -/
theorem blockReset_common {n : Nat} (hrtr : blockOf n ≠ .rtr) (hmsc : blockOf n ≠ .msc) (hpwr : blockOf n ≠ .pwr) (hhen : blockOf n ≠ .hen) :
    ∀ s', s' = s.blockReset n →
      (∀ o, o % 8 = 0 → s'.raw n o &&& (ofClass n o .rw ||| ofClass n o .rws ||| ofClass n o .rwl)
        = resetWord n o &&& (ofClass n o .rw ||| ofClass n o .rws ||| ofClass n o .rwl))
      ∧ (s'.page n).cause = 0 ∧ (s'.page n).quiesceBit = false ∧ (s'.page n).quiescing = false ∧ (s'.page n).quiesced = false
      ∧ s'.enabled n = false ∧ (s'.page n).pendMask = [] ∧ (s'.page n).err = (s.page n).err ∧ (s'.page n).errCount = (s.page n).errCount
      ∧ (s'.page n).counts = (s.page n).counts ∧ OtherPages n s s' ∧ MemSame s s' ∧ BaseSame s s' ∧ OtherTiles (n / 9) s s' := by
  rintro _ rfl
  have h := blockReset_wasReset (s := s) hrtr hmsc hpwr hhen
  obtain ⟨hother, hmem, hbase⟩ := h.frame
  refine ⟨fun o h8 => raw_reset h.words h8, ?_⟩
  rw [h.page]
  exact ⟨rfl, rfl, rfl, rfl, h.disabled hrtr, rfl, rfl, rfl, rfl, h.pages, hmem, hbase, hother⟩

/-- On a Footstool's and a Trestle's page every word returns to its reset value. -/
theorem blockReset_words {n : Nat} (hn : blockOf n = .fts ∨ blockOf n = .trs) (o : Nat) (ho : 0x100 ≤ o) : (s.blockReset n).raw n o = resetWord n o := by
  have h : WasReset n s (s.blockReset n) := by
    refine blockReset_wasReset ?_ ?_ ?_ ?_ <;> rintro hb <;> rw [hb] at hn <;> simp at hn
  exact raw_reset_all h.words hn ho

/-! ### STS.EPOCH counts every reset -/

/-- Page n's reset count is e. -/
def HasEpoch (n : Nat) (e : BitVec 32) (s : State) : Prop := (s.page n).epoch = e

section epoch

variable {n : Nat} {e : BitVec 32} (h : HasEpoch n e s)
include h

theorem setRaw_epoch (m o : Nat) (w : Word) : HasEpoch n e (s.setRaw m o w) := by
  unfold HasEpoch State.setRaw
  rw [modPage_keeps s Page.epoch]
  · exact h
  · exact fun _ => rfl

theorem rejectCount_epoch (m o i : Nat) : HasEpoch n e ((s.reject m o).count pwrPage i) := by
  unfold HasEpoch
  rw [page_count_epoch, page_reject_epoch]
  exact h

theorem switchDom_epoch (dom : Nat) (on : Bool) : HasEpoch n e (s.switchDom dom on) := by
  unfold HasEpoch State.switchDom
  rw [page_count_epoch]
  exact setRaw_epoch h ..

theorem onWrite_epoch (doms : List Nat) (want : Nat → Bool) (off : Nat) : HasEpoch n e (s.onWrite doms want off) := by
  unfold State.onWrite
  split
  · exact rejectCount_epoch h ..
  · refine foldl_keeps (HasEpoch n e) _ (fun s' d h' => ?_) _ _ h
    split
    · exact h'
    cases if want d = true then s'.mayOn d else s'.mayOff d with
    | true => exact switchDom_epoch h' ..
    | false => exact rejectCount_epoch h' ..

theorem halfAct_epoch (die half : Nat) (off : Bool) : HasEpoch n e (s.halfAct die half off) := by
  unfold State.halfAct
  dsimp only
  split
  · exact h
  split
  · exact (page_count_epoch ..).trans h
  · exact h

theorem halfOffAct_epoch (die : Nat) : HasEpoch n e (s.halfOffAct die) := by
  unfold State.halfOffAct
  split
  · exact h
  · exact halfAct_epoch (halfAct_epoch h ..) ..

theorem resetSides_epoch (m : Nat) : HasEpoch n e (s.resetSides m) := by
  unfold State.resetSides
  split
  · exact h
  · exact h
  · exact h
  · refine foldl_keeps (HasEpoch n e) _ (fun s' k h' => ?_) _ _ h
    unfold State.portEnable
    rw [if_pos rfl]
    split
    · exact h'
    · exact h'
  · exact halfOffAct_epoch (setRaw_epoch h ..) _
  · exact h

end epoch

/-- Whatever the block, a reset counts in its page's EPOCH. -/
theorem blockReset_epoch (n : Nat) : HasEpoch n ((s.page n).epoch + 1) (s.blockReset n) := by
  have hpage : HasEpoch n ((s.page n).epoch + 1) (s.modPage n (Page.reset n)) := congrArg Page.epoch (page_modPage_same s n (Page.reset n))
  have hnet : HasEpoch n ((s.page n).epoch + 1) (s.keepNet n fun s => s.modPage n (Page.reset n)) := by
    unfold State.keepNet
    split
    · exact setRaw_epoch (setRaw_epoch (setRaw_epoch hpage ..) ..) ..
    · exact hpage
  refine resetSides_epoch ?_ n
  unfold State.keepDomains
  split
  · exact onWrite_epoch (setRaw_epoch (setRaw_epoch hnet ..) ..) ..
  · exact hnet

section rows

variable {a : Access} {n : Fin 1781} (hb : ByBureau s a n)
include hb

/-! ## ENABLE_WRITE -/

theorem enableWrite_eq (en : Bool) : exec (.enableWrite a n en) s = .next (s.enableAct n en) :=
  congrArg Host.Outcome.next (rowDo_bureau hb n.isLt (by decide) (by decide) _)

theorem enableWrite_disables : Answers (.enableWrite a n false) s fun s' => s'.enabled n = false
    ∧ { s'.page n with words := (s.page n).words } = s.page n ∧ OtherWords n 0x010 s s' ∧ OtherPages n s s' ∧ PageFrame s s' :=
  ⟨_, enableWrite_eq hb false, setEnable_enabled .., page_setRaw_but_words .., setRaw_otherWords _ _ _, setRaw_otherPages _ _ _, setRaw_pageFrame ..⟩

theorem enableWrite_enables (hgo : (s.page n).heldGo = false) (hready : (s.page n).readyFlows = []) (hu : s.fab.unsent = [])
    (hh : s.fab.held = []) : Answers (.enableWrite a n true) s fun s' =>
      s'.admits n = true ∧ OtherPages n s s' ∧ OtherWords n 0x010 s s' ∧ MemSame s s' ∧ (blockOf n ≠ .seq → TilesSame s s')
      ∧ (blockOf n = .seq → s.key.switch = none → (s'.tile (n / 9)).stopped = false ∧ (s'.tile (n / 9)).pc = (s.tile (n / 9)).pc
        ∧ (s'.tile (n / 9)).seq = (s.tile (n / 9)).seq) := by
  have hpage := page_reopened (s := s) n
  have hr : Resumed n (s.reopened n) ((s.reopened n).resume n) :=
    resume_idle (by rw [hpage]; exact hgo) (by rw [hpage]; exact hready) hu hh
  refine ⟨_, enableWrite_eq hb true, ?_, fun m hm => ?_, fun m p h => ?_, memSame_of_eq hr.mem, fun hseq => tilesSame_of_eq (hr.tiles hseq),
    fun hseq hswitch => ?_⟩
  · refine (admits_congr hr.pages n).trans ?_
    rw [admits_modPage, reopened_admits]
    · exact fun _ => rfl
    · exact fun _ => ⟨rfl, rfl, rfl⟩
  · exact (page_congr hr.pages m).trans ((modPage_otherPages _ _ m hm).trans (reopened_otherPages n m hm))
  · refine (raw_congr hr.pages m p).trans ?_
    rw [raw_modPage, reopened_otherWords n m p h]
    exact fun _ => rfl
  · have htile : ((s.reopened n).resume n).tile (n / 9) = { s.tile (n / 9) with stopped := false } := hr.seq hseq hswitch
    exact ⟨(congrArg Tile.stopped htile :), (congrArg Tile.pc htile :), (congrArg Tile.seq htile :)⟩

/-! ## QUIESCE -/

theorem quiesce_eq : exec (.quiesce a n) s = .next (s.startQuiesce n) :=
  congrArg Host.Outcome.next (rowDo_bureau hb n.isLt (by decide) (by decide) _)

theorem quiesce_waits (hseq : blockOf n ≠ .seq) (hq : (s.page n).quiesced = false) (hbusy : s.busy n = true) :
    Answers (.quiesce a n) s fun s' => s'.page n = { s.page n with quiesceBit := true, quiescing := true } ∧ s'.admits n = false
      ∧ OtherPages n s s' ∧ PageFrame s s' := by
  have hd : (s.quiescing n).drained n = s.quiescing n := drained_busy hbusy
  refine ⟨_, quiesce_eq hb, ?_⟩
  rw [startQuiesce_engine hseq hq, hd]
  exact ⟨page_quiescing n, by simp [State.admits, page_quiescing], modPage_otherPages _ _, modPage_pageFrame ..⟩

theorem quiesce_done (hseq : blockOf n ≠ .seq) (hq : (s.page n).quiesced = false) (hbusy : s.busy n = false) :
    Answers (.quiesce a n) s fun s' => (s'.page n).quiesced = true ∧ (s'.page n).quiescing = false ∧ Raised n 3 s' ∧ s'.admits n = false
      ∧ PageFrame s s' := by
  have hpage := page_quiescing (s := s) n
  obtain ⟨hdone, hended, hevent, hshut⟩ := drained_quiesced (s := s.quiescing n) (n := n) (by rw [hpage]) (by rw [hpage]) hbusy
  refine ⟨_, quiesce_eq hb, ?_⟩
  rw [startQuiesce_engine hseq hq]
  exact ⟨hdone, hended, hevent, hshut, (modPage_pageFrame ..).trans (drained_pageFrame ..)⟩

theorem quiesce_seq (hseq : blockOf n = .seq) (hq : (s.page n).quiesced = false) : Answers (.quiesce a n) s fun s' =>
    (s'.page n).quiesced = true ∧ Raised n 3 s' ∧ OtherTiles (n / 9) s s' ∧ (s'.tile (n / 9)).pc = (s.tile (n / 9)).pc
    ∧ (s'.tile (n / 9)).seq = (s.tile (n / 9)).seq ∧ ((s.tile (n / 9)).seq = .running ∨ (s.tile (n / 9)).seq = .waiting → (s'.tile (n / 9)).stopped = true)
    ∧ (∀ r, (s'.tile (n / 9)).reg r = (s.tile (n / 9)).reg r) ∧ MemSame s s' := by
  have hpage : ((s.quiescing n).modTile (n / 9) Tile.stopSeq).page n = { s.page n with quiesceBit := true, quiescing := true } := page_quiescing n
  obtain ⟨hdone, -, hevent, -⟩ := drained_quiesced (n := n) (by rw [hpage]) (by rw [hpage]) (busy_stopSeq (s := s.quiescing n) hseq)
  have htile : (((s.quiescing n).modTile (n / 9) Tile.stopSeq).drained n).tile (n / 9) = (s.tile (n / 9)).stopSeq := by
    rw [tile_drained, tile_modTile_same]
    rfl
  obtain ⟨hother, hmem, -⟩ : TileFrame (n / 9) s (((s.quiescing n).modTile (n / 9) Tile.stopSeq).drained n) :=
    ((modPage_pageFrame ..).tileFrame.trans (modTile_tileFrame ..)).trans (drained_pageFrame ..).tileFrame
  obtain ⟨hpc, hrun, hstop, hreg⟩ := stopSeq_keeps (s.tile (n / 9))
  rw [← htile] at hpc hrun hstop hreg
  refine ⟨_, quiesce_eq hb, ?_⟩
  rw [startQuiesce_seq hseq hq]
  exact ⟨hdone, hevent, hother, hpc, hrun, hstop, hreg, hmem⟩

/-! ## BLOCK_RESET -/

theorem blockReset_eq : exec (.blockReset a n) s = .next (s.resetAct n) :=
  congrArg Host.Outcome.next (rowDo_bureau hb n.isLt (by decide) (by decide) _)

theorem blockReset_rejected (hq : (s.page n).quiesced = false) : Answers (.blockReset a n) s fun s' =>
    Rejected n 0x010 s s' ∧ WordsSame s s' ∧ (s'.page n).epoch = (s.page n).epoch ∧ PageFrame s s' := by
  refine ⟨_, blockReset_eq hb, ?_⟩
  rw [State.resetAct, hq, if_neg (by decide)]
  exact ⟨reject_rejected n 0x010 (by decide), reject_wordsSame _ _, page_reject_epoch .., reject_pageFrame ..⟩

/-! ## Counters and captured errors -/

/-- CNT_CLEAR clears the counters of the view that CTL selects, and nothing else. -/
theorem cntClear_clears : Answers (.cntClear a n) s fun s' =>
    (∀ v i, i < 128 → Tab.get 0 (s'.page n).counts (v * 128 + i)
      = if v = min 256 ((s.raw n 0x010).toNat / 2 ^ 8 % 2 ^ 9) then 0 else Tab.get 0 (s.page n).counts (v * 128 + i))
    ∧ { s'.page n with counts := (s.page n).counts } = s.page n ∧ OtherPages n s s' ∧ PageFrame s s' := by
  have hrun : exec (.cntClear a n) s = .next (s.clearCounts n (s.viewOf (s.roleOf a) n)) :=
    congrArg Host.Outcome.next (rowDo_bureau hb n.isLt (by decide) (by decide) _)
  rw [roleOf_bureau hb] at hrun
  refine ⟨_, hrun, fun v i hi => ?_, ?_, modPage_otherPages _ _, modPage_pageFrame ..⟩
  · have hview : (v * 128 + i) / 128 = v := by omega
    rw [State.clearCounts, page_modPage_same, Tab.get_filter 0 fun k => decide (k / 128 ≠ s.viewOf none n)]
    simp only [hview, State.viewOf, bits, ne_eq, decide_not, Bool.not_eq_true', decide_eq_false_iff_not, ite_not]
  · rw [State.clearCounts, page_modPage_same]

theorem errFirstClear_clears : Answers (.errFirstClear a n) s fun s' => (s'.page n).err.valid = false
    ∧ { s'.page n with err := (s.page n).err } = s.page n ∧ OtherPages n s s' ∧ PageFrame s s' := by
  have hrun : exec (.errFirstClear a n) s = .next (s.modPage n fun p => { p with err := {} }) :=
    congrArg Host.Outcome.next (rowDo_bureau hb n.isLt (by decide) (by decide) _)
  exact ⟨_, hrun, by simp, by simp, modPage_otherPages _ _, modPage_pageFrame ..⟩

theorem errCountRead_clears : Answers (.errCountRead a n) s fun s' => (s'.page n).errCount = 0
    ∧ { s'.page n with errCount := (s.page n).errCount } = s.page n ∧ OtherPages n s s' ∧ PageFrame s s' := by
  have hrun : exec (.errCountRead a n) s = .next (s.modPage n fun p => { p with errCount := 0 }) :=
    congrArg Host.Outcome.next (rowRead_bureau hb n.isLt (by decide) (by decide))
  exact ⟨_, hrun, by simp, by simp, modPage_otherPages _ _, modPage_pageFrame ..⟩

theorem pMaxRead_clears : Answers (.pMaxRead a) s fun s' => (s'.raw pwrPage 0x118).toNat / 2 ^ 16 % 2 ^ 12 = 0
    ∧ (∀ i, i < 16 ∨ 28 ≤ i → (s'.raw pwrPage 0x118).getLsbD i = (s.raw pwrPage 0x118).getLsbD i)
    ∧ OtherWords pwrPage 0x118 s s' ∧ OtherPages pwrPage s s' ∧ PageFrame s s' := by
  obtain ⟨hawake, hsrc, -⟩ := hb
  have hpwr : ByBureau s a pwrPage := ⟨hawake, hsrc, fun h => absurd h (by decide)⟩
  have hrun : exec (.pMaxRead a) s = .next (s.setFld pwrPage 0x118 16 12 0) :=
    congrArg Host.Outcome.next (rowRead_bureau hpwr (by decide) (by decide) (by decide))
  refine ⟨_, hrun, ?_, fun i hi => ?_, setRaw_otherWords _ _ _, setRaw_otherPages _ _ _, setRaw_pageFrame ..⟩
  · rw [State.setFld, raw_setRaw_same]
    exact bits_putBits_same _ 16 12 0 (by decide)
  · rw [State.setFld, raw_setRaw_same]
    by_cases h64 : i < 64
    · rw [getLsbD_putBits _ _ _ _ _ h64, if_neg (by omega)]
    · rw [BitVec.getLsbD_of_ge _ _ (by omega), BitVec.getLsbD_of_ge _ _ (by omega)]

end rows

/-- Settles O23, control by control. -/
theorem pageControls : Obligations.PageControls := by
  intro s a n hb
  refine ⟨enableWrite_disables hb, enableWrite_enables hb, quiesce_waits hb, quiesce_done hb, quiesce_seq hb, blockReset_rejected hb, fun hq => ?reset,
    cntClear_clears hb, errFirstClear_clears hb, errCountRead_clears hb, pMaxRead_clears hb⟩
  case reset =>
    have hrun : s.resetAct n = s.blockReset n := if_pos hq
    exact ⟨_, (blockReset_eq hb).trans (congrArg _ hrun), blockReset_epoch n, fun hrtr hmsc hpwr hhen => blockReset_common hrtr hmsc hpwr hhen _ rfl,
      blockReset_mxe, blockReset_vxe, blockReset_fts, fun hn o ho _ _ => blockReset_words hn o ho⟩

end Sys2Proof.Machine
end

section
/-! REGISTER_WRITE on the pages whose words only hold their fields (R30, R38, R39, R108): O24. -/

namespace Sys2Proof.Machine

open Sys2Proof Sys2Proof.Spec

variable {s : State} {n o : Nat}

/-! ## An accepted write (R38, R39) -/

/-- A page whose words do nothing beyond holding their fields. -/
def IsPlain (n : Nat) : Prop := blockOf n ∈ [Block.lde, .mxe, .vxe, .ste, .xce, .tmon, .thm, .tel]

section plain

variable (hp : IsPlain n)
include hp

theorem alwaysStaged_plain : alwaysStaged n o = false := by
  unfold alwaysStaged
  split <;> simp_all [IsPlain]

theorem elsewhere_plain : elsewhere n o = false := by
  unfold elsewhere
  rw [Bool.and_eq_false_iff]
  right
  split <;> simp_all [IsPlain]

theorem blockAct_plain (val : Word) (ok : Bool) : s.blockAct n o val ok = s := by
  unfold IsPlain at hp
  simp only [List.mem_cons, List.not_mem_nil, or_false] at hp
  unfold State.blockAct
  obtain h | h | h | h | h | h | h | h := hp <;> simp only [h]

/-- A write of such a page writes fields, and rejects what is locked. -/
theorem regWriteAt_plain (role : Option Nat) (val : Word) (ho : o = 0x028 ∨ 0x100 ≤ o) (hc : o < 0xC00) :
    s.regWriteAt role n o val =
      if (s.writeFields n o val 0).1 then (s.writeFields n o val 0).2.reject n o else (s.writeFields n o val 0).2 := by
  have hpwr : n ≠ pwrPage := by rintro rfl; exact absurd hp (by unfold IsPlain; decide)
  have hmsc : ¬ (blockOf n = .msc ∧ o = 0x108) := by rintro ⟨hb, -⟩; simp [IsPlain, hb] at hp
  have hcle : ¬ (blockOf n = .cle ∧ o = 0x120) := by rintro ⟨hb, -⟩; simp [IsPlain, hb] at hp
  unfold State.regWriteAt
  rw [if_neg (by omega), if_neg (by omega), if_neg (by omega), if_neg (by omega), if_neg (by simp [elsewhere_plain hp]; omega),
    if_neg (by simp [hpwr]), if_neg (by simp [hpwr]), if_neg hmsc, if_neg hcle]
  simp only [blockAct_plain hp]

end plain

/-- The word at offset o with the fields under a mask as written, and its write-one-to-clear fields cleared where ones are written. -/
def State.fieldsSet (s : State) (n o : Nat) (val now : Word) : State :=
  s.setRaw n o (((s.raw n o &&& ~~~now) ||| (val &&& now)) &&& ~~~(val &&& ofClass n o .w1c))

/-- The staged fields of a word, where it has any, are held or released. -/
def State.withStaged (s : State) (n o : Nat) (f : Page → Page) : State := if ofClass n o .rws = 0 then s else s.modPage n f

theorem and_not_zero (w : Word) : w &&& ~~~(0 : Word) = w := BitVec.and_allOnes

theorem writeFields_idle (hp : IsPlain n) (val : Word) (hbusy : s.busy n = false) : s.writeFields n o val 0 =
    (false, (s.fieldsSet n o val (ofClass n o .rw ||| ofClass n o .rwl ||| ofClass n o .rws)).withStaged n o fun p =>
      p.unstage (o / 8) (ofClass n o .rws)) := by
  simp only [State.writeFields, and_not_zero, hbusy, alwaysStaged_plain hp, Bool.or_self, Bool.false_eq_true, if_false, Bool.false_and]
  rfl

theorem writeFields_busy (val : Word) (hbusy : s.busy n = true) : s.writeFields n o val 0 =
    (decide (ofClass n o .rwl ≠ 0), (s.fieldsSet n o val (ofClass n o .rw)).withStaged n o fun p => p.stage (o / 8) (ofClass n o .rws) val) := by
  have hor (w : Word) : w ||| (0 : Word) = w := BitVec.or_zero
  simp only [State.writeFields, and_not_zero, hbusy, Bool.true_or, if_true, hor, Bool.true_and]
  rfl

/-- An update of a page that changes only what is staged. -/
def OnlyStages (f : Page → Page) : Prop := ∀ p, { f p with pend := p.pend, pendMask := p.pendMask } = p

theorem stage_onlyStages (k : Nat) (m val : Word) : OnlyStages fun p => p.stage k m val := fun _ => rfl
theorem unstage_onlyStages (k : Nat) (m : Word) : OnlyStages fun p => p.unstage k m := fun _ => rfl

/-- What a write of a word's fields leaves alone. -/
structure Wrote (n o : Nat) (val now : Word) (s s' : State) : Prop where
  raw      : s'.raw n o = ((s.raw n o &&& ~~~now) ||| (val &&& now)) &&& ~~~(val &&& ofClass n o .w1c)
  rejected : (s'.page n).writeRejected = (s.page n).writeRejected
  words    : OtherWords n o s s'
  pages    : OtherPages n s s'
  frame    : PageFrame s s'

theorem wrote_fieldsSet (val now : Word) : Wrote n o val now s (s.fieldsSet n o val now) where
  raw := raw_setRaw_same ..
  rejected := by simp [State.fieldsSet, State.setRaw]
  words := setRaw_otherWords _ _ _
  pages := setRaw_otherPages _ _ _
  frame := setRaw_pageFrame ..

theorem wrote_withStaged {val now : Word} {f : Page → Page} (hf : OnlyStages f) :
    Wrote n o val now s ((s.fieldsSet n o val now).withStaged n o f) := by
  have h := wrote_fieldsSet (s := s) (n := n) (o := o) val now
  have hwords (p : Page) : (f p).words = p.words := (congrArg Page.words (hf p) :)
  unfold State.withStaged
  split
  · exact h
  exact ⟨(raw_modPage hwords n o).trans h.raw, (modPage_keeps _ Page.writeRejected n n f fun p => (congrArg Page.writeRejected (hf p) :)).trans h.rejected,
    fun m p hm => (raw_modPage hwords m p).trans (h.words m p hm), fun m hm => (modPage_otherPages n f m hm).trans (h.pages m hm),
    h.frame.trans (modPage_pageFrame ..)⟩

/-- Fields that are in force at once no longer wait. -/
theorem pendMask_unstaged (x : State) :
    Tab.get 0 ((x.withStaged n o fun p => p.unstage (o / 8) (ofClass n o .rws)).page n).pendMask (o / 8) &&& ofClass n o .rws = 0 := by
  unfold State.withStaged
  split
  · rename_i h
    simp [h]
  · rw [page_modPage_same]
    simp only [Page.unstage, Tab.get_set_same]
    ext i
    simp

/-- Fields that are held wait with the values written. -/
theorem pend_staged (x : State) (val : Word) (s' : State) (h : s' = x.withStaged n o fun p => p.stage (o / 8) (ofClass n o .rws) val) :
    Tab.get 0 (s'.page n).pendMask (o / 8) &&& ofClass n o .rws = ofClass n o .rws
      ∧ Tab.get 0 (s'.page n).pend (o / 8) &&& ofClass n o .rws = val &&& ofClass n o .rws := by
  subst h
  unfold State.withStaged
  split
  · rename_i h
    rw [h]
    simp
  · rw [page_modPage_same]
    simp only [Page.stage, Tab.get_set_same]
    constructor
    · ext i
      simp
      exact .inr
    · ext i
      simp
      grind

section bureau

variable {a : Access} (hn : n < 1781) (h8 : o % 8 = 0) (hc : o < 0xC00) (ho : o = 0x028 ∨ 0x100 ≤ o) (hp : IsPlain n) (hb : ByBureau s a n)
  {addr : Word} (haddr : addr.toNat = pageAddr n o) (val : Word)
include hn h8 hc ho hp hb haddr

theorem registerWrite_eq : exec (.registerWrite a addr val) s =
    .next (if (s.writeFields n o val 0).1 then (s.writeFields n o val 0).2.reject n o else (s.writeFields n o val 0).2) := by
  rw [← regWriteAt_plain hp none val ho hc, ← rowWrite_bureau hb hn (by omega) h8 val, ← haddr]
  rfl

theorem registerWrite_idle (hbusy : s.busy n = false) : Answers (.registerWrite a addr val) s fun s' =>
    s'.raw n o = ((s.raw n o &&& ~~~(ofClass n o .rw ||| ofClass n o .rwl ||| ofClass n o .rws))
      ||| (val &&& (ofClass n o .rw ||| ofClass n o .rwl ||| ofClass n o .rws))) &&& ~~~(val &&& ofClass n o .w1c)
    ∧ Tab.get 0 (s'.page n).pendMask (o / 8) &&& ofClass n o .rws = 0 ∧ (s'.page n).writeRejected = (s.page n).writeRejected
    ∧ OtherWords n o s s' ∧ OtherPages n s s' ∧ PageFrame s s' := by
  have hrun := registerWrite_eq hn h8 hc ho hp hb haddr val
  rw [writeFields_idle hp val hbusy] at hrun
  have h := wrote_withStaged (s := s) (n := n) (o := o) (val := val) (now := ofClass n o .rw ||| ofClass n o .rwl ||| ofClass n o .rws)
    (unstage_onlyStages (o / 8) (ofClass n o .rws))
  exact ⟨_, hrun, h.raw, pendMask_unstaged _, h.rejected, h.words, h.pages, h.frame⟩

theorem registerWrite_busy (hbusy : s.busy n = true) : Answers (.registerWrite a addr val) s fun s' =>
    s'.raw n o = ((s.raw n o &&& ~~~ofClass n o .rw) ||| (val &&& ofClass n o .rw)) &&& ~~~(val &&& ofClass n o .w1c)
    ∧ Tab.get 0 (s'.page n).pendMask (o / 8) &&& ofClass n o .rws = ofClass n o .rws
    ∧ Tab.get 0 (s'.page n).pend (o / 8) &&& ofClass n o .rws = val &&& ofClass n o .rws
    ∧ (ofClass n o .rwl ≠ 0 → Rejected n o s s') ∧ OtherWords n o s s' ∧ PageFrame s s' := by
  have hrun := registerWrite_eq hn h8 hc ho hp hb haddr val
  rw [writeFields_busy val hbusy] at hrun
  have h := wrote_withStaged (s := s) (n := n) (o := o) (val := val) (now := ofClass n o .rw) (stage_onlyStages (o / 8) (ofClass n o .rws) val)
  obtain ⟨hmask, hpend⟩ := pend_staged (n := n) (o := o) _ val _ rfl
  generalize (s.fieldsSet n o val (ofClass n o .rw)).withStaged n o _ = x at hrun h hmask hpend
  by_cases hl : ofClass n o .rwl = 0
  · simp only [hl, ne_eq, not_true_eq_false, decide_false, Bool.false_eq_true, if_false] at hrun
    exact ⟨x, hrun, h.raw, hmask, hpend, fun hne => absurd hl hne, h.words, h.frame⟩
  · simp only [hl, ne_eq, not_false_eq_true, decide_true, if_true] at hrun
    obtain ⟨hrej, hraised, hword⟩ := reject_rejected (s := x) n o (by omega)
    refine ⟨_, hrun, ?_, ?_, ?_, fun _ => ⟨hrej, hraised, fun hw => hword (h.rejected.trans hw)⟩, fun m p hm => ?_, h.frame.trans (reject_pageFrame ..)⟩
    · rw [raw_reject, h.raw]
    · rw [page_reject_pendMask, hmask]
    · rw [page_reject_pend, hpend]
    · rw [raw_reject, h.words m p hm]

end bureau

/-! ## A refused write (R30, R108) -/

/-- An access to an offset of a page reaches it or is refused. -/
theorem accessAt_cases (hn : n < 1781) (ho : o < 0x1000) : s.accessAt (pageAddr n o) = none ∨ s.accessAt (pageAddr n o) = some (n, o) := by
  unfold State.accessAt
  rw [pageAt_pageAddr hn ho]
  dsimp only
  split
  · exact .inl rfl
  split
  · exact .inl rfl
  · exact .inr rfl

section refused

variable {a : Access} {c : Nat} (hrole : s.roleOf a = some c) (howns : s.ownsPage c n = false) (hn : n < 1781) (h8 : o % 8 = 0) (hc : o < 0xC00)
  {addr : Word} (haddr : addr.toNat = pageAddr n o) (val : Word) (hreach : s.reaches a = true)
include hrole howns hn h8 hc haddr hreach

/-- A context's write of a page that is not its own is refused. -/
theorem registerWrite_refused : exec (.registerWrite a addr val) s = .next (s.refuseAccess a) := by
  have hat : s.writeAt (some c) addr.toNat val = none := by
    rw [haddr, State.writeAt]
    obtain h | h := accessAt_cases (s := s) hn (by omega : o < 0x1000) <;> rw [h]
    simp [State.mayWrite, howns]
  show Host.Outcome.next (s.rowWrite a addr.toNat val) = _
  unfold State.rowWrite State.regWrite
  rw [if_pos hreach, hrole, hat]

/-- A host port reports the refusal as a Contained error charged to the context; no rule names its code. -/
theorem registerWrite_refused_host (q : Fin 2) (hsrc : a.source = if q = 0 then .host0 else .host1) : Answers (.registerWrite a addr val) s fun s' =>
    WordsSame s s' ∧ PageFrame s s' ∧ ∃ code, code < 2 ^ 12 ∧ Reported (henPage q) 2 code s s'
      ∧ ((s.page (henPage q)).err.valid = false → (s'.page (henPage q)).err.contextValid = true ∧ (s'.page (henPage q)).err.context.toNat = c) := by
  have hawake : s.awake = true := by simp only [State.reaches, Bool.and_eq_true] at hreach; exact hreach.1
  have hc256 : c < 256 := by
    obtain rfl | rfl : q = 0 ∨ q = 1 := by omega
    · simp [State.roleOf, hsrc] at hrole
      omega
    · simp [State.roleOf, hsrc] at hrole
      omega
  have hrefuse : s.refuseAccess a = s.refusedAt (henPage q) (some c) := by
    rw [← hrole]
    obtain rfl | rfl : q = 0 ∨ q = 1 := by omega
    · simp [State.refuseAccess, hsrc]
    · simp [State.refuseAccess, hsrc]
  have hrun := registerWrite_refused hrole howns hn h8 hc haddr val hreach
  rw [hrefuse, State.refusedAt, if_pos hawake] at hrun
  refine ⟨_, hrun, contained_wordsSame (s := s.draw.2) _ _ _, contained_pageFrame s.draw.2 .., _, Nat.mod_lt _ (by decide),
    raise_reported (s := s.draw.2) (by decide), fun hv => ?_⟩
  have hnew : ¬ ((s.draw.2.page (henPage q)).err.valid = true ∧ 2 ≤ (s.draw.2.page (henPage q)).err.severity.toNat) := fun h =>
    absurd (hv.symm.trans h.1) (by decide)
  have herr := (raise_err_captured (s := s.draw.2) (code := (Config.freeWord s.draw.1).toNat % 2 ^ 12) (ctx := some c) (loc := 0) hnew).1
  exact ⟨(congrArg ErrFirst.contextValid herr :), (congrArg (fun e => e.context.toNat) herr :).trans (by simp [State.captured]; omega)⟩

/-- A tile's refused write is reported on its SEQ page (R108). -/
theorem registerWrite_refused_tile (t : Fin 192) (hsrc : a.source = .tile t) : Answers (.registerWrite a addr val) s fun s' =>
    Reported (seqPage t) 2 0x016 s s' ∧ WordsSame s s' ∧ PageFrame s s' := by
  have hrefuse : s.refuseAccess a = s.contained (seqPage t) 0x016 (s.ctxOf t) := by simp [State.refuseAccess, hsrc]
  have hrun := registerWrite_refused hrole howns hn h8 hc haddr val hreach
  rw [hrefuse] at hrun
  exact ⟨_, hrun, raise_reported (by decide), contained_wordsSame _ _ _, contained_pageFrame ..⟩

end refused

/-- Settles O24: accepted writes of an idle and of a busy block, and refused ones. -/
theorem fieldWrites : Obligations.FieldWrites := by
  intro s a addr val n o hn h8 hc ho haddr
  refine ⟨fun hp hb => ⟨registerWrite_idle hn h8 hc ho hp hb haddr val, registerWrite_busy hn h8 hc ho hp hb haddr val⟩, fun c hrole howns =>
    ⟨fun q hsrc hreach => registerWrite_refused_host hrole howns hn h8 hc haddr val hreach q hsrc, fun t hsrc hruns => ?_⟩⟩
  have hreach : s.reaches a = true := by simp [State.reaches, hsrc, hruns, tileRuns_awake hruns]
  exact registerWrite_refused_tile hrole howns hn h8 hc haddr val hreach t hsrc

end Sys2Proof.Machine
end

section
/-! A tile's registers, tokens, summaries, tasks, queues and bytes: what each operation of a tile sets, and what it leaves (R73, R77, R79, R86). -/

namespace Sys2Proof.Machine

open Sys2Proof Sys2Proof.Spec

variable {s : State} (ti : Tile)

/-! ## Registers and predicates (R73) -/

/-- Settles O7: the read-after-write rules of both register files, and their reset values. -/
theorem registersAndPredicates : Obligations.RegistersAndPredicates := by
  intro ti t
  refine ⟨rfl, fun v j _ => rfl, fun i v hi _ j hj => ?_, fun i v _ j _ => reg_setReg ti i j v, fun i => rfl, fun i hi hi8 => ?_⟩
  · rw [pred_setPred ti i j v hj]
    by_cases h0 : j = 0
    · subst h0
      rw [if_pos rfl, if_neg (by omega)]
      rfl
    · rw [if_neg h0]
  · show (i == 0 || (1#8).getLsbD i) = false
    rw [BitVec.getLsbD_one]
    simp
    omega

/-! ## Token counters (R79) -/

theorem tok_lt (i : Nat) : ti.tok i < 2 ^ 16 := (Tab.get 0 ti.k i).isLt

theorem tok_setTok (i v j : Nat) : (ti.setTok i v).tok j = if j = i then v % 2 ^ 16 else ti.tok j := by
  unfold Tile.tok Tile.setTok
  rw [Tab.get_set]
  split <;> simp

/-- A counter that loses an amount stays within its 16 bits. -/
theorem tok_setTok_sub (i n j : Nat) : (ti.setTok i (ti.tok i - n)).tok j = if j = i then ti.tok i - n else ti.tok j := by
  have hlt := tok_lt ti i
  rw [tok_setTok, Nat.mod_eq_of_lt (by omega)]

/-- The tests of R79 as the model makes them. -/
theorem waitsHold_iff (ka na kb nb : Nat) : ti.waitsHold ka na kb nb = true ↔ WaitsHold ti ka na kb nb := by
  unfold Tile.waitsHold WaitsHold
  by_cases ha : na = 0
  · simp [ha]
  by_cases hb : nb = 0
  · simp [ha, hb]
  by_cases hk : ka = kb
  · subst hk
    simp [ha, hb]
    omega
  · simp [ha, hb, hk]

theorem takeWaits_tok (ka na kb nb k : Nat) : (ti.takeWaits ka na kb nb).tok k
    = ti.tok k - (if k = ka then na else 0) - (if k = kb then nb else 0) := by
  have take (ti : Tile) (i n : Nat) : (if n = 0 then ti else ti.setTok i (ti.tok i - n)).tok k = ti.tok k - if k = i then n else 0 := by
    by_cases hn : n = 0
    · simp [hn]
    · rw [if_neg hn, tok_setTok_sub]
      split
      · simp [*]
      · rfl
  unfold Tile.takeWaits
  rw [take, take]

/-- Waits that are taken change the counters only. -/
theorem takeWaits_eq (ka na kb nb : Nat) : ∃ k, ti.takeWaits ka na kb nb = { ti with k := k } := by
  have take (ti : Tile) (i n : Nat) : ∃ k, (if n = 0 then ti else ti.setTok i (ti.tok i - n)) = { ti with k := k } := by
    split
    · exact ⟨_, rfl⟩
    · exact ⟨_, rfl⟩
  unfold Tile.takeWaits
  obtain ⟨k₁, h₁⟩ := take ti ka na
  rw [h₁]
  exact take { ti with k := k₁ } kb nb

/-! ## Summary registers (R86) -/

theorem sum_setSum (i j : Nat) (x : Summary) : (ti.setSum i x).sum j = if j = i then x else ti.sum j := by
  simp [Tile.setSum, Tile.sum, Tab.get_set]

theorem foldl_pendSum_eq (us : List Nat) : ∀ ti : Tile, ∃ u, us.foldl Tile.pendSum ti = { ti with u := u } := by
  induction us with
  | nil => exact fun ti => ⟨_, rfl⟩
  | cons x us ih => exact fun ti => ih (ti.pendSum x)

theorem foldl_unpendSum_eq (us : List Nat) : ∀ ti : Tile, ∃ u, us.foldl Tile.unpendSum ti = { ti with u := u } := by
  induction us with
  | nil => exact fun ti => ⟨_, rfl⟩
  | cons x us ih => exact fun ti => ih (ti.unpendSum x)

/-! ## Queues (R77) -/

theorem engOf_engNum (e : Eng) : engOf (engNum e) = some e := by cases e <;> rfl

theorem engNum_inj {e f : Eng} (h : engNum e = engNum f) : e = f :=
  Option.some.inj (by rw [← engOf_engNum, h, engOf_engNum])

theorem queue_setQueue (e f : Eng) (q : List Desc) : (ti.setQueue e q).queue f = if f = e then q else ti.queue f := by
  unfold Tile.queue Tile.setQueue
  rw [Tab.get_set]
  by_cases h : f = e
  · simp [h]
  · rw [if_neg h, if_neg fun hn => h (engNum_inj hn)]

/-! ## Bytes -/

theorem get_putBytes (d : List Byte) : ∀ (m : Tab Byte) (a x : Nat),
    Tab.get 0 (putBytes m a d) x = if a ≤ x ∧ x < a + d.length then d.getD (x - a) 0 else Tab.get 0 m x := by
  induction d with
  | nil => intro m a x; rw [if_neg (by simp)]; rfl
  | cons b d ih =>
    intro m a x
    show Tab.get 0 (putBytes (Tab.set 0 m a b) (a + 1) d) x = _
    rw [ih, Tab.get_set, List.length_cons]
    by_cases hx : x = a
    · subst hx
      rw [if_neg (by omega), if_pos rfl, if_pos (by omega), Nat.sub_self]
      rfl
    by_cases hin : a + 1 ≤ x ∧ x < a + 1 + d.length
    · rw [if_pos hin, if_pos (by omega), show x - a = x - (a + 1) + 1 by omega]
      rfl
    · rw [if_neg hin, if_neg hx, if_neg (by omega)]

/-- Bytes just written to a space read back. -/
theorem bytes_write_same (rf : Bool) (a : Nat) (d : List Byte) : (ti.write rf a d).bytes rf a d.length = d := by
  have h (m : Tab Byte) : getBytes (putBytes m a d) a d.length = d := by
    refine List.ext_getElem (by simp [getBytes]) fun i _ hi => ?_
    simp only [getBytes, List.getElem_map, List.getElem_range]
    rw [get_putBytes, if_pos (by omega), Nat.add_sub_cancel_left, List.getD_eq_getElem _ _ hi]
  cases rf
  · exact h _
  · exact h _

theorem write_bytesBut (rf : Bool) (a : Nat) (d : List Byte) : BytesBut ti (ti.write rf a d) rf a d.length := by
  have h (m : Tab Byte) (x : Nat) : a ≤ x ∧ x < a + d.length ∨ Tab.get 0 (putBytes m a d) x = Tab.get 0 m x := by
    rw [get_putBytes]
    split
    · exact .inl ‹_›
    · exact .inr rfl
  cases rf
  · exact ⟨fun x _ => h _ x, nofun, nofun, fun _ _ => rfl⟩
  · exact ⟨nofun, fun x _ => h _ x, fun _ _ => rfl, nofun⟩

/-- A write changes the two spaces only. -/
theorem write_eq (rf : Bool) (a : Nat) (d : List Byte) : ∃ st r, ti.write rf a d = { ti with store := st, rf := r } := by
  cases rf
  · exact ⟨_, _, rfl⟩
  · exact ⟨_, _, rfl⟩

theorem foldl_write_eq (ws : List LWrite) : ∀ ti : Tile, ∃ st r,
    ws.foldl (fun ti w => ti.write w.rf w.addr w.data) ti = { ti with store := st, rf := r } := by
  induction ws with
  | nil => exact fun ti => ⟨_, _, rfl⟩
  | cons w ws ih =>
    intro ti
    obtain ⟨st, r, h⟩ := write_eq ti w.rf w.addr w.data
    rw [List.foldl_cons, h]
    exact ih { ti with store := st, rf := r }

/-- Bytes are the same where both spaces are. -/
theorem bytesSame_of_eq {ti ti' : Tile} (hst : ti'.store = ti.store) (hrf : ti'.rf = ti.rf) : BytesSame ti ti' :=
  fun a => by rw [hst, hrf]; exact ⟨rfl, rfl⟩

end Sys2Proof.Machine
end

section
/-! One instruction of the sequencer: where it runs, what its fetch leaves, and how it ends or stalls (R82, R86, R92, R96, R100, R108). -/

namespace Sys2Proof.Spec

open Sys2Proof Sys2Proof.Machine

variable {s s₁ s₂ : State} {t : Nat}

theorem Answers.imp {c : Instr} {P Q : State → Prop} (h : Answers c s P) (hpq : ∀ s', P s' → Q s') : Answers c s Q := by
  obtain ⟨s', hrun, hp⟩ := h
  exact ⟨s', hrun, hpq s' hp⟩

theorem BytesSame.refl (ti : Tile) : BytesSame ti ti := fun _ => ⟨rfl, rfl⟩

theorem BytesSame.trans {ti ti₁ ti₂ : Tile} (h₁ : BytesSame ti ti₁) (h₂ : BytesSame ti₁ ti₂) : BytesSame ti ti₂ :=
  fun a => ⟨(h₂ a).1.trans (h₁ a).1, (h₂ a).2.trans (h₁ a).2⟩

theorem SeqFrame.tileFrame (h : SeqFrame t s s₁) : TileFrame t s s₁ := by
  obtain ⟨hother, -, hmem, -, -, hbase, -, -⟩ := h
  exact ⟨hother, hmem, hbase⟩

theorem SeqFrame.bytes (h : SeqFrame t s s₁) : BytesSame (s.tile t) (s₁.tile t) := h.2.1

theorem SeqFrame.trans (h₁ : SeqFrame t s s₁) (h₂ : SeqFrame t s₁ s₂) : SeqFrame t s s₂ := by
  have htile : TileFrame t s s₂ := h₁.tileFrame.trans h₂.tileFrame
  obtain ⟨-, hbytes₁, -, hpages₁, hcounts₁, -, hhost₁, hdraws₁⟩ := h₁
  obtain ⟨-, hbytes₂, -, hpages₂, hcounts₂, -, hhost₂, hdraws₂⟩ := h₂
  obtain ⟨hother, hmem, hbase⟩ := htile
  exact ⟨hother, hbytes₁.trans hbytes₂, hmem, fun m hm => (hpages₂ m hm).trans (hpages₁ m hm), SameButCounts.trans hcounts₁ hcounts₂, hbase,
    hhost₂.trans hhost₁, hdraws₂.trans hdraws₁⟩

theorem TileFrame.refl (s : State) : TileFrame t s s := (PageFrame.refl s).tileFrame

end Sys2Proof.Spec

namespace Sys2Proof.Machine

open Sys2Proof Sys2Proof.Spec

variable {s : State} {t opc : Nat} {w : Word} {run : Word → State → State} {g : Tile → Tile}

/-! ## The fields of an instruction (R100) -/

theorem imm_toNat (w : Word) : (imm w).toNat = w.toNat / 2 ^ 32 := by
  have hw := w.isLt
  rw [imm, BitVec.toNat_ofNat]
  exact Nat.mod_eq_of_lt (by omega)

theorem insImm_eq (w : Word) : insImm w = imm w := by
  have hw := w.isLt
  rw [insImm, imm, bits, Nat.mod_eq_of_lt (by omega)]

/-- The low bits of IMM. -/
theorem bits_imm (w : Word) (n : Nat) : bits w 32 n = (imm w).toNat % 2 ^ n := by rw [imm_toNat]; rfl

theorem insX_eq (w : Word) : insX w = xf w := rfl
theorem insRa_eq (w : Word) : insRa w = ra w := rfl
theorem insOpc_eq (w : Word) : insOpc w = w.toNat % 2 ^ 8 := by rw [insOpc, bits, pow_zero, Nat.div_one]

/-! ## Reports and events of a page, from one state to the next -/

/-- A report since a state in which the page's record was as before. -/
theorem reported_from {s s₁ s₂ : State} {n sev code : Nat} (herr : (s₁.page n).err = (s.page n).err)
    (hcount : (s₁.page n).errCount = (s.page n).errCount) (h : Reported n sev code s₁ s₂) : Reported n sev code s s₂ := by
  unfold Reported at *
  rwa [herr, hcount] at h

@[simp] theorem fetched_err (s : State) (t n : Nat) : ((s.fetched t).page n).err = (s.page n).err := by simp [State.fetched, State.touchLine]
@[simp] theorem fetched_errCount (s : State) (t n : Nat) : ((s.fetched t).page n).errCount = (s.page n).errCount := by
  simp [State.fetched, State.touchLine]

/-! ## A running instruction -/

theorem seqReady_of_Ready (h : Ready s t) : s.seqReady t = true ∧ s.pcInside t = true := by
  obtain ⟨hw, hseq, hstop, hstall, hpc⟩ := h
  exact ⟨by simp [State.seqReady, tileRuns_of_Works hw, hseq, hstop, hstall], by simpa [State.pcInside] using hpc⟩

theorem seqRow_of_Runs (h : Runs s t opc w) : s.seqRow t opc run = run w (s.fetched t) := by
  obtain ⟨hready, rfl, hlegal, hopc, hguard⟩ := h
  obtain ⟨hr, hp⟩ := seqReady_of_Ready hready
  exact seqRow_runs hr hp hlegal ((insOpc_eq _).trans hopc) hguard

/-- A fetch changes nothing of the tile but the lines of the instruction buffer. -/
theorem tile_fetched (s : State) (t : Nat) : ∃ l, (s.fetched t).tile t = { s.tile t with tileLine := l } := ⟨_, tile_fetched_same⟩

theorem fetched_seqFrame (s : State) (t : Nat) : SeqFrame t s (s.fetched t) := by
  have hbytes : BytesSame (s.tile t) ((s.fetched t).tile t) := by
    obtain ⟨l, hl⟩ := tile_fetched s t
    rw [hl]
    exact bytesSame_of_eq rfl rfl
  exact ⟨fun u hu => tile_fetched_other u hu, hbytes, memSame_of_eq (by simp), fun m hm => fetched_page m hm, fetched_counts, by simp [BaseSame],
    by simp, by simp⟩

/-- An instruction whose effect g is on the tile only, and on none of its bytes. -/
theorem runs_acts {c : Instr} (h : Runs s t opc w) (hc : exec c s = .next (s.seqRow t opc run))
    (htile : (run w (s.fetched t)).tile t = g ((s.fetched t).tile t)) (hframe : SeqFrame t (s.fetched t) (run w (s.fetched t))) :
    Answers c s fun s' => (∃ l, s'.tile t = g { s.tile t with tileLine := l }) ∧ SeqFrame t s s' := by
  obtain ⟨l, hl⟩ := tile_fetched s t
  exact ⟨_, hc.trans (congrArg _ (seqRow_of_Runs h)), ⟨l, by rw [htile, hl]⟩, (fetched_seqFrame s t).trans hframe⟩

/-- An instruction that changes the tile and goes on to the next. -/
theorem runs_acts_seqRegs {c : Instr} {f : Word → Tile → Tile} (h : Runs s t opc w) (hc : exec c s = .next (s.seqRow t opc (seqRegs t f)))
    (hf : ∀ ti, BytesSame ti (f w ti)) :
    Answers c s fun s' => (∃ l, s'.tile t = (f w { s.tile t with tileLine := l }).step) ∧ SeqFrame t s s' :=
  runs_acts (g := fun ti => (f w ti).step) h hc (tile_modTile_same ..) (modTile_seqFrame (hf _))

theorem stepPc_seqFrame (s : State) (t : Nat) : SeqFrame t s (s.stepPc t) := modTile_seqFrame (bytesSame_of_eq rfl rfl)

theorem stallOn_seqFrame (s : State) (t : Nat) (x : Stall) : SeqFrame t s (s.stallOn t x) := modTile_seqFrame (bytesSame_of_eq rfl rfl)

theorem tile_stepPc (s : State) (t : Nat) : (s.stepPc t).tile t = (s.tile t).step := tile_modTile_same ..

theorem tile_stallOn (s : State) (t : Nat) (x : Stall) : (s.stallOn t x).tile t = { s.tile t with stall := x } := tile_modTile_same ..

/-- An instruction that stalls: nothing of the tile changes but what it waits for. -/
theorem runs_stalls {c : Instr} {x : Stall} (h : Runs s t opc w) (hc : exec c s = .next (s.seqRow t opc run))
    (hrun : run w (s.fetched t) = (s.fetched t).stallOn t x) :
    Answers c s fun s' => (∃ l, s'.tile t = { s.tile t with tileLine := l, stall := x }) ∧ SeqFrame t s s' :=
  runs_acts (g := fun ti => { ti with stall := x }) h hc (by rw [hrun, tile_stallOn]) (hrun ▸ stallOn_seqFrame ..)

theorem runs_opcode (h : Runs s t opc w) : w.toNat % 2 ^ 8 = opc := h.2.2.2.1

/-! ## The end of a stall (R96) -/

theorem stalledOn_of_Stalled {x : Stall} (h : Stalled s t x) : s.stalledOn t x = true := by
  obtain ⟨hw, hseq, hstop, hstall⟩ := h
  simp [State.stalledOn, tileRuns_of_Works hw, hseq, hstop, hstall]

/-- A stalled instruction that ends: the next one follows, unless a halt was due. -/
theorem tile_endStall (s : State) (t : Nat) : ∃ stopped, (s.endStall t).tile t = { s.tile t with
    pc := (s.tile t).pc + 1, stall := .none, haltDue := false, stopped := stopped
    seq := if (s.tile t).haltDue then .halted else (s.tile t).seq } := by
  unfold State.endStall
  by_cases hdue : (s.tile t).haltDue = true
  · exact ⟨false, by simp [hdue, tile_haltSeq, Tile.step]⟩
  · rw [Bool.not_eq_true] at hdue
    refine ⟨(s.tile t).stopped, ?_⟩
    simp only [hdue, Bool.false_eq_true, if_false, tile_modTile_same, Tile.step]

/-- A running instruction's effect, then the end of its stall. -/
theorem endStall_ended {s s₁ : State} {t : Nat} (hseq : (s₁.tile t).seq = .running) (hdue : (s₁.tile t).haltDue = (s.tile t).haltDue)
    (hpc : (s₁.tile t).pc = (s.tile t).pc) : Ended (s.tile t) ((s₁.endStall t).tile t) := by
  obtain ⟨st, h⟩ := tile_endStall s₁ t
  rw [h]
  exact ⟨rfl, by rw [hpc], by rw [hdue, hseq]⟩

theorem endStall_reg (s : State) (t i : Nat) : ((s.endStall t).tile t).reg i = (s.tile t).reg i := by
  obtain ⟨st, h⟩ := tile_endStall s t
  rw [h]
  rfl

theorem endStall_sum (s : State) (t i : Nat) : ((s.endStall t).tile t).sum i = (s.tile t).sum i := by
  obtain ⟨st, h⟩ := tile_endStall s t
  rw [h]
  rfl

theorem endStall_tok (s : State) (t i : Nat) : ((s.endStall t).tile t).tok i = (s.tile t).tok i := by
  obtain ⟨st, h⟩ := tile_endStall s t
  rw [h]
  rfl

theorem endStall_tileFrame (s : State) (t : Nat) : TileFrame t s (s.endStall t) := by
  unfold State.endStall
  dsimp only
  split
  · exact (modTile_tileFrame ..).trans (haltSeq_tileFrame ..)
  · exact modTile_tileFrame ..

end Sys2Proof.Machine
end

section
/-! UCLR, URD, TSET, TSIG, TRD, TWAIT and the ends of their stalls (R79 to R82, R86, R109, R110): O4. -/

namespace Sys2Proof.Machine

open Sys2Proof Sys2Proof.Spec

variable {s : State} {t : Fin 192} {w : Word}

/-- An effect f on a stalled tile, and the end of its stall. -/
theorem stalled_ends {x : Stall} {f : Tile → Tile} (h : Stalled s t x)
    (hf : (f (s.tile t)).seq = (s.tile t).seq ∧ (f (s.tile t)).haltDue = (s.tile t).haltDue ∧ (f (s.tile t)).pc = (s.tile t).pc) :
    Ended (s.tile t) (((s.modTile t f).endStall t).tile t) ∧ TileFrame t s ((s.modTile t f).endStall t) := by
  obtain ⟨-, hrun, -, -⟩ := h
  obtain ⟨hseq, hdue, hpc⟩ := hf
  refine ⟨endStall_ended ?_ ?_ ?_, (modTile_tileFrame ..).trans (endStall_tileFrame ..)⟩ <;> rw [tile_modTile_same]
  · exact hseq.trans hrun
  · exact hdue
  · exact hpc

/-! ## Summary registers (R86, R109) -/

theorem sumKindOf_eq (n : Nat) : (sumKindOf (n % 4)).getD .empty = kindOf (n % 4) := by
  obtain h | h | h | h : n % 4 = 0 ∨ n % 4 = 1 ∨ n % 4 = 2 ∨ n % 4 = 3 := by omega
  all_goals rw [h]; rfl

/-- UCLR on the tile: the kind that IMM names, what is pending as before (R109). -/
theorem sumEffect_uclr (ti : Tile) (hopc : w.toNat % 2 ^ 8 = 0x40) : sumEffect w ti =
    ti.setSum (xf w) { kind := kindOf ((imm w).toNat % 4), val := 0, pending := (ti.sum (xf w)).pending } := by
  rw [sumEffect, if_pos ((insOpc_eq w).trans hopc), bits_imm, ← sumKindOf_eq]
  rfl

/-- URD on the tile (R109). -/
theorem sumEffect_urd (ti : Tile) (hopc : w.toNat % 2 ^ 8 = 0x41) : sumEffect w ti = ti.setReg (rd w) (ti.sum (xf w)).val := by
  rw [sumEffect, if_neg (by rw [insOpc_eq, hopc]; decide)]
  rfl

theorem sumEffect_bytes (ti : Tile) : BytesSame ti (sumEffect w ti) := by
  unfold sumEffect
  split <;> exact bytesSame_of_eq rfl rfl

theorem cleared_setSum (ti : Tile) (x : Nat) (k : SumKind) (n : Nat) : Cleared ti (ti.setSum x { kind := k, val := 0, pending := n }) x k := by
  refine ⟨fun i hi => ?_, ?_, ?_, fun i => rfl⟩
  · rw [sum_setSum, if_neg hi]
  · rw [sum_setSum, if_pos rfl]
  · rw [sum_setSum, if_pos rfl]

theorem sum_fetched (s : State) (t i : Nat) : ((s.fetched t).tile t).sum i = (s.tile t).sum i := by
  obtain ⟨l, hl⟩ := tile_fetched s t
  rw [hl]
  rfl

section row

variable {c : Instr} {opc : Nat} (h : Runs s t opc w) (hc : exec c s = .next (s.seqRow t opc (State.sumRun t)))
include h hc

/-- UCLR and URD with nothing pending act at once. -/
theorem sumRun_acts (hp : ((s.tile t).sum (xf w)).pending = 0) :
    Answers c s fun s' => (∃ l, s'.tile t = (sumEffect w { s.tile t with tileLine := l }).step) ∧ SeqFrame t s s' := by
  have hrun : State.sumRun t w (s.fetched t) = ((s.fetched t).modTile t (sumEffect w)).stepPc t := by
    rw [State.sumRun, insX_eq, sum_fetched, if_pos hp]
  refine runs_acts (g := fun ti => (sumEffect w ti).step) h hc ?_ ?_ <;> rw [hrun]
  · rw [tile_stepPc, tile_modTile_same]
  · exact (modTile_seqFrame (sumEffect_bytes _)).trans (stepPc_seqFrame ..)

/-- UCLR and URD with contributions pending stall (R86). -/
theorem sumRun_stalls (hp : ((s.tile t).sum (xf w)).pending ≠ 0) :
    Answers c s fun s' => (∃ l, s'.tile t = { s.tile t with tileLine := l, stall := .summary }) ∧ SeqFrame t s s' :=
  runs_stalls h hc (by rw [State.sumRun, insX_eq, sum_fetched, if_neg hp])

end row

/-- A stalled UCLR or URD that finds nothing pending ends. -/
theorem summaryResume_eq (h : Stalled s t .summary) (hw : s.insAt t = w) (hopc : w.toNat % 2 ^ 8 = 0x40 ∨ w.toNat % 2 ^ 8 = 0x41)
    (hp : ((s.tile t).sum (xf w)).pending = 0) : exec (.summaryResume t) s = .next ((s.modTile t (sumEffect w)).endStall t) := by
  show execSummaryResume t s = _
  simp only [execSummaryResume, hw, stalledOn_of_Stalled h, insOpc_eq, insX_eq, Bool.not_true, Bool.false_eq_true, if_false]
  rw [if_neg (by omega), if_pos hp]

theorem summaries : Spec.Summaries := by
  intro s t w
  refine ⟨fun h hp => ?uclr, fun h hp => ?urd, fun h hp => ?stall, fun h hp => ?stall', fun h hw hopc hp => ?resumeClear, fun h hw hopc hp => ?resumeRead⟩
  case uclr =>
    refine (sumRun_acts h rfl hp).imp fun s' ⟨⟨l, hl⟩, hframe⟩ => ?_
    rw [hl, sumEffect_uclr _ (runs_opcode h)]
    exact ⟨cleared_setSum (s.tile t) .., rfl, hframe⟩
  case urd =>
    refine (sumRun_acts h rfl hp).imp fun s' ⟨⟨l, hl⟩, hframe⟩ => ?_
    rw [hl, sumEffect_urd _ (runs_opcode h)]
    exact ⟨fun i => reg_setReg (s.tile t) .., fun _ => rfl, rfl, rfl, hframe⟩
  case stall =>
    refine (sumRun_stalls h rfl hp).imp fun s' ⟨⟨l, hl⟩, hframe⟩ => ?_
    rw [hl]
    exact ⟨rfl, rfl, fun _ => rfl, hframe⟩
  case stall' =>
    refine (sumRun_stalls h rfl hp).imp fun s' ⟨⟨l, hl⟩, hframe⟩ => ?_
    rw [hl]
    exact ⟨rfl, rfl, fun _ => rfl, hframe⟩
  case resumeClear =>
    have heff := sumEffect_uclr (s.tile t) hopc
    obtain ⟨hended, hframe⟩ := stalled_ends (f := sumEffect w) h (by rw [heff]; exact ⟨rfl, rfl, rfl⟩)
    refine ⟨_, summaryResume_eq h hw (.inl hopc) hp, hended, ?_, hframe⟩
    have hclear := cleared_setSum (s.tile t) (xf w) (kindOf ((imm w).toNat % 4)) ((s.tile t).sum (xf w)).pending
    simpa only [Cleared, endStall_sum, endStall_reg, tile_modTile_same, heff] using hclear
  case resumeRead =>
    have heff := sumEffect_urd (s.tile t) hopc
    obtain ⟨hended, hframe⟩ := stalled_ends (f := sumEffect w) h (by rw [heff]; exact ⟨rfl, rfl, rfl⟩)
    refine ⟨_, summaryResume_eq h hw (.inr hopc) hp, hended, fun i => ?_, hframe⟩
    rw [endStall_reg, tile_modTile_same, heff, reg_setReg]

/-! ## Token counters (R79, R80, R82, R110) -/

theorem tok_fetched (s : State) (t i : Nat) : ((s.fetched t).tile t).tok i = (s.tile t).tok i := by
  obtain ⟨l, hl⟩ := tile_fetched s t
  rw [hl]
  rfl

theorem takeToken_eq (ti : Tile) : takeToken w ti = ti.setTok (xf w) (ti.tok (xf w) - (imm w).toNat % 16) := by
  rw [takeToken, bits_imm]
  rfl

theorem tokIs_setTok (ti : Tile) (x v : Nat) : TokIs ti (ti.setTok x v) x (v % 2 ^ 16) := ⟨fun _ => tok_setTok .., fun _ => rfl⟩

theorem tokIs_takeToken (ti : Tile) : TokIs ti (takeToken w ti) (xf w) (ti.tok (xf w) - (imm w).toNat % 16) := by
  rw [takeToken_eq]
  exact ⟨fun _ => tok_setTok_sub .., fun _ => rfl⟩

theorem takeToken_bytes (ti : Tile) : BytesSame ti (takeToken w ti) := bytesSame_of_eq rfl rfl

/-- A signal below the limit counts (R80). -/
theorem signal_counts {s : State} {t k : Nat} (h : (s.tile t).tok k < 0xFFFF) :
    s.signal t k = s.modTile t fun ti => ti.setTok k ((s.tile t).tok k + 1) := by
  rw [State.signal]
  exact if_neg (by omega)

/-- A signal at the limit is lost, and reported (R79, R80). -/
theorem signal_saturates {s : State} {t k : Nat} (h : (s.tile t).tok k = 0xFFFF) :
    s.signal t k = (s.event (seqPage t) 6).contained (seqPage t) 0x010 (s.ctxOf t) := by
  rw [State.signal]
  exact if_pos h.ge

/-- TWAIT whose amount is there. -/
theorem twait_acts (h : Runs s t 0x49 w) (hk : (imm w).toNat % 16 ≤ (s.tile t).tok (xf w)) : Answers (.twait t) s fun s' =>
    (∃ l, s'.tile t = (takeToken w { s.tile t with tileLine := l }).step) ∧ SeqFrame t s s' := by
  have hk' : bits w 32 4 ≤ ((s.fetched t).tile t).tok (insX w) := by rwa [bits_imm, insX_eq, tok_fetched]
  refine runs_acts (g := fun ti => (takeToken w ti).step) h rfl ?_ ?_ <;> rw [if_pos hk']
  · rw [tile_stepPc, tile_modTile_same]
  · exact (modTile_seqFrame (takeToken_bytes _)).trans (stepPc_seqFrame ..)

/-- TWAIT whose amount is not there stalls (R82). -/
theorem twait_stalls (h : Runs s t 0x49 w) (hk : (s.tile t).tok (xf w) < (imm w).toNat % 16) : Answers (.twait t) s fun s' =>
    (∃ l, s'.tile t = { s.tile t with tileLine := l, stall := .token }) ∧ SeqFrame t s s' := by
  have hk' : ¬ bits w 32 4 ≤ ((s.fetched t).tile t).tok (insX w) := by rw [bits_imm, insX_eq, tok_fetched]; exact Nat.not_le.2 hk
  exact runs_stalls h rfl (if_neg hk')

theorem twaitResume_eq (h : Stalled s t .token) (hw : s.insAt t = w) (hopc : w.toNat % 2 ^ 8 = 0x49)
    (hk : (imm w).toNat % 16 ≤ (s.tile t).tok (xf w)) : exec (.twaitResume t) s = .next ((s.modTile t (takeToken w)).endStall t) := by
  have hk' : bits w 32 4 ≤ (s.tile t).tok (insX w) := by rwa [bits_imm]
  show execTwaitResume t s = _
  simp only [execTwaitResume, hw, stalledOn_of_Stalled h, insOpc_eq, hopc, hk', ne_eq, not_true_eq_false, Bool.not_true, Bool.false_eq_true, if_true,
    if_false]

/-- TSIG below the limit. -/
theorem tsig_counts (h : Runs s t 0x4A w) (hk : (s.tile t).tok (xf w) < 0xFFFF) : Answers (.tsig t) s fun s' =>
    (∃ l, s'.tile t = (({ s.tile t with tileLine := l } : Tile).setTok (xf w) ((s.tile t).tok (xf w) + 1)).step) ∧ SeqFrame t s s' := by
  have hrun := signal_counts (s := s.fetched t) (t := t) (k := xf w) (by rwa [tok_fetched])
  rw [tok_fetched] at hrun
  refine runs_acts (g := fun ti => (ti.setTok (xf w) ((s.tile t).tok (xf w) + 1)).step) h rfl ?_ ?_ <;> rw [insX_eq, hrun]
  · rw [tile_stepPc, tile_modTile_same]
  · exact (modTile_seqFrame (bytesSame_of_eq rfl rfl)).trans (stepPc_seqFrame ..)

/-- TSIG at the limit (R80). -/
theorem tsig_saturates (h : Runs s t 0x4A w) (hk : (s.tile t).tok (xf w) = 0xFFFF) : Answers (.tsig t) s fun s' =>
    TokIs (s.tile t) (s'.tile t) (xf w) 0xFFFF ∧ (s'.tile t).pc = (s.tile t).pc + 1
    ∧ Reported (seqPage t) 2 0x010 s s' ∧ Raised (seqPage t) 6 s' ∧ TileFrame t s s' := by
  have hrun := signal_saturates (s := s.fetched t) (t := t) (k := xf w) (by rwa [tok_fetched])
  obtain ⟨l, hl⟩ := tile_fetched s t
  have htile : (((s.fetched t).signal t (xf w)).stepPc t).tile t = ({ s.tile t with tileLine := l } : Tile).step := by
    rw [tile_stepPc, hrun, (contained_pageFrame ..).1, (event_pageFrame ..).1, hl]
  refine ⟨_, congrArg Host.Outcome.next (seqRow_of_Runs h), ?_⟩
  dsimp only
  rw [insX_eq, htile, hrun]
  refine ⟨⟨fun i => ?_, fun _ => rfl⟩, rfl, reported_from (s₁ := (s.fetched t).event (seqPage t) 6) (by simp) (by simp) (raise_reported (by decide)),
    raise_raised (event_raised _ _ (by decide)),
    (fetched_seqFrame s t).tileFrame.trans (((event_pageFrame ..).trans (contained_pageFrame ..)).tileFrame.trans (modTile_tileFrame ..))⟩
  split
  · subst i; exact hk
  · rfl

theorem tokens : Spec.Tokens := by
  intro s t w
  refine ⟨fun h => ?tset, fun h hk => ?tsig, tsig_saturates, fun h => ?trd, fun h hk => ?twait, fun h hk => ?stall, fun h hw hopc hk => ?resume⟩
  case tset =>
    refine (runs_acts_seqRegs h rfl fun _ => bytesSame_of_eq rfl rfl).imp fun s' ⟨⟨l, hl⟩, hframe⟩ => ?_
    have hv : bits w 32 16 % 2 ^ 16 = (imm w).toNat % 2 ^ 16 := by rw [bits_imm, Nat.mod_mod]
    have htok := tokIs_setTok (s.tile t) (xf w) (bits w 32 16)
    rw [hv] at htok
    rw [hl]
    exact ⟨htok, rfl, hframe⟩
  case tsig =>
    refine (tsig_counts h hk).imp fun s' ⟨⟨l, hl⟩, hframe⟩ => ?_
    have htok := tokIs_setTok (s.tile t) (xf w) ((s.tile t).tok (xf w) + 1)
    rw [Nat.mod_eq_of_lt (by omega)] at htok
    rw [hl]
    exact ⟨htok, rfl, hframe⟩
  case trd =>
    refine (runs_acts_seqRegs h rfl fun _ => bytesSame_of_eq rfl rfl).imp fun s' ⟨⟨l, hl⟩, hframe⟩ => ?_
    rw [hl]
    exact ⟨fun i => reg_setReg (s.tile t) .., fun _ => rfl, rfl, rfl, hframe⟩
  case twait =>
    refine (twait_acts h hk).imp fun s' ⟨⟨l, hl⟩, hframe⟩ => ?_
    rw [hl]
    exact ⟨tokIs_takeToken (s.tile t), rfl, hframe⟩
  case stall =>
    refine (twait_stalls h hk).imp fun s' ⟨⟨l, hl⟩, hframe⟩ => ?_
    rw [hl]
    exact ⟨rfl, rfl, fun _ => rfl, hframe⟩
  case resume =>
    obtain ⟨hended, hframe⟩ := stalled_ends (f := takeToken w) h ⟨rfl, rfl, rfl⟩
    refine ⟨_, twaitResume_eq h hw hopc hk, hended, ?_, hframe⟩
    simpa only [TokIs, endStall_tok, endStall_reg, tile_modTile_same] using tokIs_takeToken (w := w) (s.tile t)

/-- Settles O4, row by row. -/
theorem summariesAndTokens : Obligations.SummariesAndTokens := ⟨summaries, tokens⟩

end Sys2Proof.Machine
end

section
/-! TARM, TDIS, TEND, TASK_PICK, ISSUE and SPILL_REFILL (R77, R86, R88, R89, R96, R111, R112): O5. -/

namespace Sys2Proof.Machine

open Sys2Proof Sys2Proof.Spec

variable {s : State} {t : Fin 192} {w : Word}

/-! ## The task table (R88, R111) -/

theorem bits_zero (v : Word) (n : Nat) : bits v 0 n = v.toNat % 2 ^ n := by rw [bits, pow_zero, Nat.div_one]

theorem ofNat_bits (v : Word) (lo n : Nat) : BitVec.ofNat n (bits v lo n) = BitVec.ofNat n (v.toNat / 2 ^ lo) := by
  apply BitVec.eq_of_toNat_eq
  rw [bits, BitVec.toNat_ofNat, BitVec.toNat_ofNat, Nat.mod_mod]

theorem taskAt_set (ti : Tile) (i : Nat) (x : Task) (j : Nat) : Tile.taskAt { ti with tasks := Tab.set {} ti.tasks i x } j
    = if j = i then x else ti.taskAt j := Tab.get_set ..

/-! ## The pick (R79, R89, R96) -/

theorem ready_iff (ti : Tile) (x : Task) : x.ready ti = true ↔ TaskReady ti x := by
  have hk : x.ka = x.kb ↔ x.ka.toNat = x.kb.toNat := BitVec.toNat_inj.symm
  rw [Task.ready, Bool.and_eq_true, waitsHold_iff, WaitsHold, TaskReady, hk]
  refine and_congr_right fun _ => and_congr_right fun ha => and_congr_right fun hb => ⟨fun h hkk => ?_, fun h _ _ hkk => h hkk⟩
  rw [← hkk] at hb
  by_cases hna : x.amtA.toNat = 0
  · omega
  by_cases hnb : x.amtB.toNat = 0
  · omega
  exact h hna hnb hkk

/-- Every class has its place in the order. -/
theorem firsts_mem {c : Nat} : ∀ xs acc : List Nat, c ∈ xs ∨ c ∈ acc → c ∈ firsts xs acc := by
  intro xs
  induction xs with
  | nil => exact fun acc h => h.resolve_left List.not_mem_nil
  | cons x xs ih =>
    intro acc h
    rw [firsts]
    refine ih _ ?_
    by_cases hx : acc.contains x = true
    · rw [if_pos hx]
      obtain h | h := h
      · obtain rfl | h := List.mem_cons.1 h
        · exact .inr (List.contains_iff_mem.1 hx)
        · exact .inl h
      · exact .inr h
    · rw [if_neg hx]
      obtain h | h := h
      · obtain rfl | h := List.mem_cons.1 h
        · exact .inr (List.mem_append_right _ (List.mem_singleton_self _))
        · exact .inl h
      · exact .inr (List.mem_append_left _ h)

theorem mem_pickOrder (order : Nat) (cls : BitVec 2) : cls.toNat ∈ pickOrder order := by
  have hlt := cls.isLt
  refine firsts_mem _ _ (.inl ?_)
  simp only [List.mem_cons, List.not_mem_nil, or_false]
  omega

/-- A search by place in a list finds what the first successful entry gives. -/
theorem findSome?_of_first {β : Type} {f : Nat → Option β} {c : Nat} {b : β} : ∀ {l : List Nat}, c ∈ l → f c = some b →
    (∀ x, l.idxOf x < l.idxOf c → f x = none) → l.findSome? f = some b := by
  intro l
  induction l with
  | nil => exact fun h => absurd h List.not_mem_nil
  | cons y l ih =>
    intro hc hf hfirst
    by_cases hy : y = c
    · rw [List.findSome?_cons, hy, hf]
    have hplace : ∀ x, List.idxOf x (y :: l) = if y = x then 0 else l.idxOf x + 1 := fun x => by
      rw [List.idxOf_cons]
      by_cases hx : y = x
      · simp [hx]
      · simp [hx, beq_false_of_ne hx]
    have hnone : f y = none := hfirst y (by rw [hplace, hplace, if_pos rfl, if_neg hy]; omega)
    rw [List.findSome?_cons, hnone]
    refine ih ((List.mem_cons.1 hc).resolve_left (Ne.symm hy)) hf fun x hx => ?_
    by_cases hyx : y = x
    · exact hyx ▸ hnone
    · exact hfirst x (by rw [hplace, hplace, if_neg hyx, if_neg hy]; omega)

theorem pickSlot_none {ti : Tile} (order : Nat) (h : ∀ i, i < 64 → ¬ TaskReady ti (ti.taskAt i)) : ti.pickSlot order = none := by
  refine List.findSome?_eq_none_iff.2 fun c _ => List.find?_eq_none.2 fun i hi => ?_
  have hr : (ti.taskAt i).ready ti = false := by rw [← Bool.not_eq_true, ready_iff]; exact h i (List.mem_range.1 hi)
  simp [hr]

/-- The pick takes the ready slot that no other comes before, by class and then by number. -/
theorem pickSlot_some {ti : Tile} {order i : Nat} (hi : i < 64) (hr : TaskReady ti (ti.taskAt i))
    (hfirst : ∀ j, j < 64 → TaskReady ti (ti.taskAt j) →
      rank order (ti.taskAt i).cls.toNat < rank order (ti.taskAt j).cls.toNat ∨ ((ti.taskAt i).cls = (ti.taskAt j).cls ∧ i ≤ j)) :
    ti.pickSlot order = some i := by
  refine findSome?_of_first (mem_pickOrder order (ti.taskAt i).cls) ?_ fun c hc => ?_
  · refine List.find?_range_eq_some.2 ⟨?_, List.mem_range.2 hi, fun j hj => ?_⟩
    · simpa [ready_iff] using hr
    · by_contra hj'
      simp only [Bool.not_eq_eq_eq_not, Bool.not_true, Bool.not_eq_false, Bool.and_eq_true, ready_iff, decide_eq_true_eq] at hj'
      obtain ⟨hjr, hcls⟩ := hj'
      obtain hlt | ⟨-, hle⟩ := hfirst j (by omega) hjr
      · rw [hcls] at hlt
        omega
      · omega
  · refine List.find?_eq_none.2 fun j hj hjc => ?_
    simp only [Bool.and_eq_true, ready_iff, decide_eq_true_eq] at hjc
    obtain ⟨hjr, rfl⟩ := hjc
    obtain hlt | ⟨hcls, -⟩ := hfirst j (List.mem_range.1 hj) hjr
    · exact absurd hlt (Nat.not_lt.2 hc.le)
    · rw [hcls] at hc
      exact absurd hc (lt_irrefl _)

/-! ### What a pick does -/

theorem applyStaged_pageFrame (s : State) (n : Nat) : PageFrame s (s.applyStaged n) := by
  unfold State.applyStaged
  split
  · exact .refl s
  · have hset := foldl_keeps (PageFrame s) (fun s k => s.setRaw n (8 * k) (s.written n (8 * k))) (fun _ _ h => h.trans (setRaw_pageFrame ..))
      ((s.page n).pendMask.map Prod.fst) s (.refl s)
    exact (hset.trans (modPage_pageFrame ..)).trans (event_pageFrame ..)

theorem count_pageFrame (s : State) (n i : Nat) (c : Option Nat) (k : Nat) : PageFrame s (s.count n i c k) :=
  pageFrame_of_eq (by simp) (by simp [BaseSame])

/-- The tile whose pick takes slot i, which holds the task x. -/
def Tile.picked (ti : Tile) (i : Nat) (x : Task) (bad : Bool) : Tile :=
  { (ti.takeWaits x.ka.toNat x.amtA.toNat x.kb.toNat x.amtB.toNat) with
    tasks := Tab.set {} ti.tasks i { x with armed := false }
    pc := x.entry, task := BitVec.ofNat 6 i, seq := .running, ringBad := bad }

/-- No byte of the tile has changed, and nothing outside it but pages and the host's channels. -/
def TileOnly (t : Nat) (s s' : State) : Prop := BytesSame (s.tile t) (s'.tile t) ∧ TileFrame t s s'

theorem TileOnly.trans {t : Nat} {s s₁ s₂ : State} (h₁ : TileOnly t s s₁) (h₂ : TileOnly t s₁ s₂) : TileOnly t s s₂ :=
  ⟨h₁.1.trans h₂.1, h₁.2.trans h₂.2⟩

theorem tileOnly_of_pageFrame {s' : State} (t : Nat) (h : PageFrame s s') : TileOnly t s s' :=
  ⟨bytesSame_of_eq (congrArg Tile.store (h.1 t)) (congrArg Tile.rf (h.1 t)), h.tileFrame⟩

theorem modTile_tileOnly (s : State) (t : Nat) {f : Tile → Tile} (hst : (f (s.tile t)).store = (s.tile t).store)
    (hrf : (f (s.tile t)).rf = (s.tile t).rf) : TileOnly t s (s.modTile t f) :=
  ⟨by rw [tile_modTile_same]; exact bytesSame_of_eq hst hrf, modTile_tileFrame ..⟩

section pick

variable {t : Nat}

/-- With nothing armed the program ends (R89). -/
theorem pick_ends (h : ∀ i, i < 64 → ((s.tile t).taskAt i).armed = false) :
    ((s.pick t).tile t).seq = .idle ∧ Raised (seqPage t) 5 (s.pick t) ∧ TileOnly t s (s.pick t) := by
  have hnone : ((List.range 64).any fun i => ((s.tile t).taskAt i).armed) = false :=
    List.any_eq_false.2 fun i hi => by simp [h i (List.mem_range.1 hi)]
  unfold State.pick
  simp only [hnone, Bool.not_false, if_true]
  refine ⟨?_, drained_raised _ _ (event_raised _ _ (by decide)), ?_⟩
  · rw [tile_drained, (event_pageFrame ..).1, tile_modTile_same]
  · exact (modTile_tileOnly s t (by rfl) (by rfl)).trans (tileOnly_of_pageFrame t ((event_pageFrame ..).trans (drained_pageFrame ..)))

theorem any_armed (h : ∃ i, i < 64 ∧ ((s.tile t).taskAt i).armed = true) : ((List.range 64).any fun i => ((s.tile t).taskAt i).armed) = true := by
  obtain ⟨i, hi, ha⟩ := h
  exact List.any_eq_true.2 ⟨i, List.mem_range.2 hi, ha⟩

/-- With nothing ready the sequencer waits (R89). -/
theorem pick_waits (harmed : ∃ i, i < 64 ∧ ((s.tile t).taskAt i).armed = true)
    (h : (s.tile t).pickSlot (bits (s.written (seqPage t) 0x118) 0 8) = none) :
    s.pick t = s.modTile t fun ti => { ti with seq := .waiting } := by
  unfold State.pick
  simp only [any_armed harmed, h, Bool.not_true, Bool.false_eq_true, if_false]

/-- A pick that takes a slot. -/
theorem pick_takes {i : Nat} (harmed : ∃ i, i < 64 ∧ ((s.tile t).taskAt i).armed = true)
    (h : (s.tile t).pickSlot (bits (s.written (seqPage t) 0x118) 0 8) = some i) :
    ∃ s₁ bad n, PageFrame s s₁ ∧ s.pick t = (s₁.modTile t fun ti => ti.picked i ((s.tile t).taskAt i) bad).count (seqPage t) n := by
  have hframe := (applyStaged_pageFrame s (seqPage t)).trans (applyStaged_pageFrame _ (tmonPage t))
  unfold State.pick
  simp only [any_armed harmed, h, Bool.not_true, Bool.false_eq_true, if_false]
  split
  · exact ⟨_, _, _, hframe.trans (contained_pageFrame ..), rfl⟩
  · exact ⟨_, _, _, hframe, rfl⟩

theorem picked_pick (s : State) (t : Nat) : Picked t s (s.pick t) ∧ TileOnly t s (s.pick t) := by
  have horder : bits (s.written (seqPage t) 0x118) 0 8 = (s.written (seqPage t) 0x118).toNat % 2 ^ 8 := bits_zero ..
  by_cases hnone : ∀ i, i < 64 → ((s.tile t).taskAt i).armed = false
  · obtain ⟨hseq, hevent, honly⟩ := pick_ends hnone
    have hoff : ∀ i, i < 64 → ((s.tile t).taskAt i).armed ≠ true := fun i hi => by rw [hnone i hi]; decide
    exact ⟨⟨fun _ => ⟨hseq, hevent⟩, fun ⟨i, hi, ha⟩ => absurd ha (hoff i hi), fun i hi hr => absurd hr.1 (hoff i hi)⟩, honly⟩
  have harmed : ∃ i, i < 64 ∧ ((s.tile t).taskAt i).armed = true := by simpa using hnone
  cases hslot : (s.tile t).pickSlot (bits (s.written (seqPage t) 0x118) 0 8) with
  | none =>
    rw [pick_waits harmed hslot]
    refine ⟨⟨fun h => absurd h hnone, fun _ _ => ?_, fun i hi hr hfirst => ?_⟩, modTile_tileOnly s t (by rfl) (by rfl)⟩
    · rw [tile_modTile_same]
      exact ⟨rfl, rfl⟩
    · rw [horder, pickSlot_some hi hr hfirst] at hslot
      cases hslot
  | some i =>
    obtain ⟨s₁, bad, n, hframe, hpick⟩ := pick_takes harmed hslot
    obtain ⟨k, hk⟩ := takeWaits_eq (s.tile t) ((s.tile t).taskAt i).ka.toNat ((s.tile t).taskAt i).amtA.toNat ((s.tile t).taskAt i).kb.toNat
      ((s.tile t).taskAt i).amtB.toNat
    have htile : (s.pick t).tile t = (s.tile t).picked i ((s.tile t).taskAt i) bad := by
      rw [hpick, tile_count, tile_modTile_same, hframe.1]
    refine ⟨⟨fun h => absurd h hnone, fun _ hall => ?_, fun j hj hr hfirst => ?_⟩, ?_⟩
    · rw [pickSlot_none _ hall] at hslot
      cases hslot
    · rw [horder, pickSlot_some hj hr hfirst] at hslot
      obtain rfl := Option.some.inj hslot
      rw [htile]
      refine ⟨rfl, rfl, Nat.mod_eq_of_lt hj, ?_, fun m hm => ?_, fun _ => takeWaits_tok .., fun r => ?_⟩
      · exact congrArg Task.armed ((taskAt_set (s.tile t) j _ j).trans (if_pos rfl))
      · exact (taskAt_set (s.tile t) j _ m).trans (if_neg hm)
      · rw [Tile.picked, hk]
        rfl
    · refine (tileOnly_of_pageFrame t hframe).trans ?_
      rw [hpick]
      refine (modTile_tileOnly s₁ t ?_ ?_).trans (tileOnly_of_pageFrame t (count_pageFrame ..)) <;> rw [hframe.1, Tile.picked, hk]

end pick

/-! ## TARM, TDIS, TEND and TASK_PICK -/

theorem written_fetched (s : State) (t n o : Nat) : (s.fetched t).written n o = s.written n o := by
  unfold State.fetched
  rw [written_count]
  rfl

/-- A pick after the fetch of the TEND is a pick from where the TEND found the tile. -/
theorem picked_of_fetched {s' : State} {t : Nat} (h : Picked t (s.fetched t) s') : Picked t s s' := by
  obtain ⟨l, hl⟩ := tile_fetched s t
  unfold Picked at h
  rw [hl, written_fetched] at h
  exact h

theorem taskOf_eq (v : Word) (entry : BitVec 32) : taskOf v entry =
    { armed := true, entry := entry, cls := BitVec.ofNat 2 (v.toNat / 2 ^ 6), ka := BitVec.ofNat 5 (v.toNat / 2 ^ 8)
      amtA := BitVec.ofNat 4 (v.toNat / 2 ^ 13), kb := BitVec.ofNat 5 (v.toNat / 2 ^ 17), amtB := BitVec.ofNat 4 (v.toNat / 2 ^ 22) } := by
  simp only [taskOf, ofNat_bits]

theorem tasks : Spec.Tasks := by
  intro s t w
  refine ⟨fun h v hv => ?tarm, fun h => ?tdis, fun h => ?tend, fun hw hseq hstop => ?pick⟩
  case tarm =>
    refine (runs_acts_seqRegs h rfl fun _ => bytesSame_of_eq rfl rfl).imp fun s' ⟨⟨l, hl⟩, hframe⟩ => ?_
    subst hv
    have htask (i : Nat) := taskAt_set (s.tile t) (((s.tile t).reg (ra w)).toNat % 2 ^ 6) (taskOf ((s.tile t).reg (ra w)) ((s.tile t).pc + imm w)) i
    rw [← bits_zero, ← insImm_eq] at htask
    rw [hl, ← bits_zero, ← taskOf_eq, ← insImm_eq]
    exact ⟨fun i hi => (htask i).trans (if_neg hi), (htask _).trans (if_pos rfl), fun _ => rfl, fun _ => rfl, rfl, hframe⟩
  case tdis =>
    refine (runs_acts_seqRegs h rfl fun _ => bytesSame_of_eq rfl rfl).imp fun s' ⟨⟨l, hl⟩, hframe⟩ => ?_
    rw [hl, ← bits_imm]
    refine ⟨fun i => (taskAt_set (s.tile t) _ _ i).trans ?_, fun _ => rfl, fun _ => rfl, rfl, hframe⟩
    split
    · subst i; rfl
    · rfl
  case tend =>
    have hfetch := fetched_seqFrame s t
    obtain ⟨hpick, hbytes, hframe⟩ := picked_pick (s.fetched t) t
    exact ⟨_, congrArg Host.Outcome.next (seqRow_of_Runs h), picked_of_fetched hpick, hfetch.bytes.trans hbytes, hfetch.tileFrame.trans hframe⟩
  case pick =>
    refine ⟨_, congrArg Host.Outcome.next (if_pos ?_), picked_pick s t⟩
    simp [tileRuns_of_Works hw, hseq, hstop]

/-! ## ISSUE (R77, R86, R112) -/

theorem desc_bytes_length (d : Desc) : d.bytes.length = 32 := bytesOf_length _

/-- The slot of engine e's spill ring that the next descriptor goes to. -/
def State.spillSlot (s : State) (t : Nat) (e : Eng) : Nat :=
  (s.spillRing t e).base + 32 * ((Tab.get 0 (s.tile t).ringHead (engNum e) + (s.tile t).ringCount e) % (s.spillRing t e).size)

section place

variable {t : Nat} {e : Eng} {d : Desc}

/-- A queue with room takes the descriptor. -/
theorem place_queued (h : (s.tile t).ringCount e = 0 ∧ ((s.tile t).queue e).length < 64) :
    ∃ u, s.place t e d = s.modTile t fun _ => ({ s.tile t with u := u } : Tile).setQueue e ((s.tile t).queue e ++ [d]) := by
  obtain ⟨u, hu⟩ := foldl_pendSum_eq (d.sums e) (s.tile t)
  refine ⟨u, ?_⟩
  unfold State.place
  simp only [hu]
  exact if_pos h

/-- Else it goes to the tail of the spill ring. -/
theorem place_spilled (h : ¬ ((s.tile t).ringCount e = 0 ∧ ((s.tile t).queue e).length < 64)) :
    ∃ u, s.place t e d = (s.modTile t fun _ => { (({ s.tile t with u := u } : Tile).write false (s.spillSlot t e) d.bytes) with
      ringLen := Tab.set 0 (s.tile t).ringLen (engNum e) ((s.tile t).ringCount e + 1) }).count (seqPage t) 5 := by
  obtain ⟨u, hu⟩ := foldl_pendSum_eq (d.sums e) (s.tile t)
  refine ⟨u, ?_⟩
  unfold State.place
  simp only [hu]
  exact if_neg h

theorem endStall_queue (s : State) (t : Nat) (e : Eng) : ((s.endStall t).tile t).queue e = (s.tile t).queue e := by
  obtain ⟨st, h⟩ := tile_endStall s t
  rw [h]
  rfl

theorem endStall_ringCount (s : State) (t : Nat) (e : Eng) : ((s.endStall t).tile t).ringCount e = (s.tile t).ringCount e := by
  obtain ⟨st, h⟩ := tile_endStall s t
  rw [h]
  rfl

theorem endStall_store (s : State) (t : Nat) : ((s.endStall t).tile t).store = (s.tile t).store ∧ ((s.endStall t).tile t).rf = (s.tile t).rf := by
  obtain ⟨st, h⟩ := tile_endStall s t
  rw [h]
  exact ⟨rfl, rfl⟩

/-- A descriptor that has entered its queue, and the end of the ISSUE. -/
theorem issued_queued (hseq : (s.tile t).seq = .running) (h : (s.tile t).ringCount e = 0 ∧ ((s.tile t).queue e).length < 64) :
    (((s.place t e d).endStall t).tile t).queue e = (s.tile t).queue e ++ [d]
    ∧ (∀ f, f ≠ e → (((s.place t e d).endStall t).tile t).queue f = (s.tile t).queue f)
    ∧ (∀ i, (((s.place t e d).endStall t).tile t).reg i = (s.tile t).reg i)
    ∧ Ended (s.tile t) (((s.place t e d).endStall t).tile t) ∧ TileOnly t s ((s.place t e d).endStall t) := by
  obtain ⟨u, hu⟩ := place_queued (d := d) h
  have htile : (s.place t e d).tile t = ({ s.tile t with u := u } : Tile).setQueue e ((s.tile t).queue e ++ [d]) := by rw [hu, tile_modTile_same]
  obtain ⟨hst, hrf⟩ := endStall_store (s.place t e d) t
  refine ⟨?_, fun f hf => ?_, fun i => ?_, endStall_ended ?_ ?_ ?_, bytesSame_of_eq ?_ ?_, ?_⟩
  · rw [endStall_queue, htile, queue_setQueue, if_pos rfl]
  · rw [endStall_queue, htile, queue_setQueue, if_neg hf]
    rfl
  · rw [endStall_reg, htile]
    rfl
  · rw [htile]; exact hseq
  · rw [htile]; rfl
  · rw [htile]; rfl
  · rw [hst, htile]; rfl
  · rw [hrf, htile]; rfl
  · rw [hu]
    exact (modTile_tileFrame ..).trans (endStall_tileFrame ..)

/-- A descriptor that has gone to the spill ring, and the end of the ISSUE. -/
theorem issued_spilled (hseq : (s.tile t).seq = .running) (h : ¬ ((s.tile t).ringCount e = 0 ∧ ((s.tile t).queue e).length < 64)) :
    (((s.place t e d).endStall t).tile t).ringCount e = (s.tile t).ringCount e + 1
    ∧ (∀ f, (((s.place t e d).endStall t).tile t).queue f = (s.tile t).queue f)
    ∧ (((s.place t e d).endStall t).tile t).bytes false (s.spillSlot t e) 32 = d.bytes
    ∧ BytesBut (s.tile t) (((s.place t e d).endStall t).tile t) false (s.spillSlot t e) 32
    ∧ Ended (s.tile t) (((s.place t e d).endStall t).tile t) ∧ TileFrame t s ((s.place t e d).endStall t) := by
  obtain ⟨u, hu⟩ := place_spilled (d := d) h
  have htile : (s.place t e d).tile t = { (({ s.tile t with u := u } : Tile).write false (s.spillSlot t e) d.bytes) with
      ringLen := Tab.set 0 (s.tile t).ringLen (engNum e) ((s.tile t).ringCount e + 1) } := by rw [hu, tile_count, tile_modTile_same]
  obtain ⟨hst, hrf⟩ := endStall_store (s.place t e d) t
  have hsame := bytes_write_same ({ s.tile t with u := u } : Tile) false (s.spillSlot t e) d.bytes
  have hbut := write_bytesBut (s.tile t) false (s.spillSlot t e) d.bytes
  rw [desc_bytes_length] at hsame hbut
  refine ⟨?_, fun f => ?_, ?_, ?_, endStall_ended ?_ ?_ ?_, ?_⟩
  · rw [endStall_ringCount, htile]
    exact Tab.get_set_same 0 (s.tile t).ringLen (engNum e) ((s.tile t).ringCount e + 1)
  · rw [endStall_queue, htile]
    rfl
  · rw [← hsame, Tile.bytes, hst, htile]
    rfl
  · unfold BytesBut
    rw [hst, hrf, htile]
    exact hbut
  · rw [htile]; exact hseq
  · rw [htile]; rfl
  · rw [htile]; rfl
  · rw [hu]
    exact ((modTile_tileFrame ..).trans (count_pageFrame ..).tileFrame).trans (endStall_tileFrame ..)

/-- A ring entry that moves into its queue (R77). -/
theorem refill_moves (hcount : 0 < (s.tile t).ringCount e) (hroom : ((s.tile t).queue e).length < 64) (hsize : 0 < (s.spillRing t e).size) :
    s.refill t e = (s.modTile t fun ti => { (ti.setQueue e ((s.tile t).queue e ++ [Desc.ofBytes ((s.tile t).bytes false ((s.spillRing t e).base
        + 32 * (Tab.get 0 (s.tile t).ringHead (engNum e) % (s.spillRing t e).size)) 32)])) with
      ringHead := Tab.set 0 ti.ringHead (engNum e) ((Tab.get 0 (s.tile t).ringHead (engNum e) + 1) % (s.spillRing t e).size)
      ringLen := Tab.set 0 ti.ringLen (engNum e) ((s.tile t).ringCount e - 1) }).count (seqPage t) 6 := by
  unfold State.refill
  exact if_neg (by omega)

end place

section issueRun

variable {t : Nat} {e : Eng} (he : (issued w (s.tile t)).w0.toNat % 8 = engNum e)
include he

theorem issueRun_places (hcan : s.canPlace t e = true) : State.issueRun t w s = (s.place t e (issued w (s.tile t))).endStall t := by
  have heng : engOf ((issued w (s.tile t)).f 0 0 3) = some e := by rw [← engOf_engNum, ← he]; exact congrArg engOf (bits_zero _ 3)
  simp only [State.issueRun, heng, hcan, if_true]

theorem issueRun_stalls (hcan : s.canPlace t e = false) : State.issueRun t w s = s.stallOn t .queue := by
  have heng : engOf ((issued w (s.tile t)).f 0 0 3) = some e := by rw [← engOf_engNum, ← he]; exact congrArg engOf (bits_zero _ 3)
  simp only [State.issueRun, heng, hcan, Bool.false_eq_true, if_false]

end issueRun

theorem engOf_undefined {n : Nat} (h : 5 ≤ n) : engOf n = none := by
  obtain ⟨m, rfl⟩ := Nat.exists_eq_add_of_le' h
  rfl

theorem issueRun_invalid {t : Nat} (h : 5 ≤ (issued w (s.tile t)).w0.toNat % 8) : State.issueRun t w s = s.haltWith t 0x017 := by
  have heng : engOf ((issued w (s.tile t)).f 0 0 3) = none := engOf_undefined (h.trans (bits_zero _ 3).ge)
  simp only [State.issueRun, heng]

theorem issued_fetched (s : State) (t : Nat) (w : Word) : issued w ((s.fetched t).tile t) = issued w (s.tile t) := by simp only [issued, reg_fetched]

theorem canPlace_eq (s : State) (t : Nat) (e : Eng) : s.canPlace t e
    = (decide ((s.tile t).ringCount e = 0 ∧ ((s.tile t).queue e).length < 64) || decide ((s.tile t).ringCount e < (s.spillRing t e).size)) := by
  unfold State.canPlace
  dsimp only
  split
  · simp [*]
  · simp only [*, decide_false, Bool.false_or]

theorem spillRing_fetched (s : State) (t u : Nat) (e : Eng) : (s.fetched t).spillRing u e = s.spillRing u e := by
  have hraw : ∀ n o, (s.fetched t).raw n o = s.raw n o := fun n o => by rw [State.fetched, raw_count]; rfl
  unfold State.spillRing State.inForce State.expertEn
  rw [hraw, hraw]

/-! ### Halting with an error -/

theorem tile_haltWith (s : State) (t code : Nat) : (s.haltWith t code).tile t =
    { s.tile t with seq := .halted, stall := .none, haltDue := false, stopped := false } := by
  rw [State.haltWith, tile_haltSeq, (contained_pageFrame ..).1]

theorem haltWith_reported (s : State) (t : Nat) {code : Nat} : Reported (seqPage t) 2 code s (s.haltWith t code) :=
  haltSeq_reported (raise_reported (by decide))

theorem haltWith_tileOnly (s : State) (t code : Nat) : TileOnly t s (s.haltWith t code) :=
  ⟨by rw [tile_haltWith]; exact bytesSame_of_eq rfl rfl, (contained_pageFrame ..).tileFrame.trans (haltSeq_tileFrame ..)⟩

/-! ### The rows -/

/-- An ISSUE that runs stands in no stall. -/
theorem issue_runs {s' : State} (h : Runs s t 0x58 w) (hrun : State.issueRun t w (s.fetched t) = s') : exec (.issue t) s = .next s' := by
  have hstall : s.stalledOn t .queue = false := by
    obtain ⟨⟨-, -, -, hstall, -⟩, -⟩ := h
    simp [State.stalledOn, hstall]
  show execIssue t s = _
  rw [execIssue, if_neg (by rw [hstall]; decide), seqRow_of_Runs h, hrun]

/-- A stalled ISSUE that finds a place (R77). -/
theorem issue_retries {s' : State} (h : Stalled s t .queue) (hw : s.insAt t = w) (hopc : w.toNat % 2 ^ 8 = 0x58) (hra : ra w % 4 = 0)
    (hrun : State.issueRun t w s = s') : exec (.issue t) s = .next s' := by
  show execIssue t s = _
  simp only [execIssue, stalledOn_of_Stalled h, if_true, hw, insOpc_eq, insRa_eq, hopc, hra, and_self, hrun]

section rows

variable {e : Eng} {d : Desc} (hd : issued w (s.tile t) = d)
include hd

/-- The descriptor and the tile that an ISSUE finds after its fetch. -/
theorem fetched_issue (h : Runs s t 0x58 w) : issued w ((s.fetched t).tile t) = d ∧ ((s.fetched t).tile t).seq = .running := by
  obtain ⟨⟨-, hseq, -⟩, -⟩ := h
  obtain ⟨l, hl⟩ := tile_fetched s t
  refine ⟨by rw [issued_fetched, hd], ?_⟩
  rw [hl]
  exact hseq

theorem issue_queued (h : Runs s t 0x58 w) (he : d.w0.toNat % 8 = engNum e) (hroom : (s.tile t).ringCount e = 0 ∧ ((s.tile t).queue e).length < 64) :
    Answers (.issue t) s fun s' => (s'.tile t).queue e = (s.tile t).queue e ++ [d]
      ∧ (∀ f, f ≠ e → (s'.tile t).queue f = (s.tile t).queue f) ∧ (∀ i, (s'.tile t).reg i = (s.tile t).reg i)
      ∧ Ended (s.tile t) (s'.tile t) ∧ BytesSame (s.tile t) (s'.tile t) ∧ TileFrame t s s' := by
  obtain ⟨hissued, hseq⟩ := fetched_issue hd h
  obtain ⟨l, hl⟩ := tile_fetched s t
  have hroom' : ((s.fetched t).tile t).ringCount e = 0 ∧ (((s.fetched t).tile t).queue e).length < 64 := by rw [hl]; exact hroom
  have hrun := issueRun_places (s := s.fetched t) (t := t) (by rwa [hissued]) (by rw [canPlace_eq, decide_eq_true hroom', Bool.true_or])
  obtain ⟨hqueue, hother, hreg, hended, hbytes, hframe⟩ := issued_queued (d := d) hseq hroom'
  have hfetch := fetched_seqFrame s t
  rw [hl] at hqueue hother hreg hended
  rw [hissued] at hrun
  exact ⟨_, issue_runs h hrun, hqueue, hother, hreg, hended, hfetch.bytes.trans hbytes, hfetch.tileFrame.trans hframe⟩

theorem issue_spilled (h : Runs s t 0x58 w) (he : d.w0.toNat % 8 = engNum e)
    (hfull : ¬ ((s.tile t).ringCount e = 0 ∧ ((s.tile t).queue e).length < 64)) (hring : (s.tile t).ringCount e < (s.spillRing t e).size) :
    Answers (.issue t) s fun s' => (s'.tile t).ringCount e = (s.tile t).ringCount e + 1 ∧ (∀ f, (s'.tile t).queue f = (s.tile t).queue f)
      ∧ (s'.tile t).bytes false (s.spillSlot t e) 32 = d.bytes ∧ BytesBut (s.tile t) (s'.tile t) false (s.spillSlot t e) 32
      ∧ Ended (s.tile t) (s'.tile t) ∧ TileFrame t s s' := by
  obtain ⟨hissued, hseq⟩ := fetched_issue hd h
  obtain ⟨l, hl⟩ := tile_fetched s t
  have hfull' : ¬ (((s.fetched t).tile t).ringCount e = 0 ∧ (((s.fetched t).tile t).queue e).length < 64) := by rw [hl]; exact hfull
  have hring' : ((s.fetched t).tile t).ringCount e < ((s.fetched t).spillRing t e).size := by rw [hl, spillRing_fetched]; exact hring
  have hslot : (s.fetched t).spillSlot t e = s.spillSlot t e := by
    unfold State.spillSlot
    rw [spillRing_fetched, hl]
    rfl
  have hrun := issueRun_places (s := s.fetched t) (t := t) (by rwa [hissued]) (by rw [canPlace_eq, decide_eq_true hring', Bool.or_true])
  obtain ⟨hcount, hqueue, hbytes, hbut, hended, hframe⟩ := issued_spilled (d := d) hseq hfull'
  rw [hslot] at hbytes hbut
  rw [hl] at hcount hqueue hbut hended
  rw [hissued] at hrun
  exact ⟨_, issue_runs h hrun, hcount, hqueue, hbytes, hbut, hended, (fetched_seqFrame s t).tileFrame.trans hframe⟩

theorem issue_stalls (h : Runs s t 0x58 w) (he : d.w0.toNat % 8 = engNum e)
    (hfull : ¬ ((s.tile t).ringCount e = 0 ∧ ((s.tile t).queue e).length < 64)) (hring : (s.spillRing t e).size ≤ (s.tile t).ringCount e) :
    Answers (.issue t) s fun s' => (s'.tile t).stall = .queue ∧ (s'.tile t).pc = (s.tile t).pc
      ∧ (∀ f, (s'.tile t).queue f = (s.tile t).queue f) ∧ SeqFrame t s s' := by
  obtain ⟨hissued, hseq⟩ := fetched_issue hd h
  obtain ⟨l, hl⟩ := tile_fetched s t
  have hfull' : ¬ (((s.fetched t).tile t).ringCount e = 0 ∧ (((s.fetched t).tile t).queue e).length < 64) := by rw [hl]; exact hfull
  have hring' : ¬ ((s.fetched t).tile t).ringCount e < ((s.fetched t).spillRing t e).size := by
    rw [hl, spillRing_fetched]
    exact Nat.not_lt.2 hring
  have hrun := issueRun_stalls (s := s.fetched t) (t := t) (by rwa [hissued]) (by rw [canPlace_eq, decide_eq_false hfull', decide_eq_false hring']; rfl)
  refine ⟨_, issue_runs h hrun, ?_⟩
  dsimp only
  rw [tile_stallOn, hl]
  exact ⟨rfl, rfl, fun _ => rfl, (fetched_seqFrame s t).trans (stallOn_seqFrame ..)⟩

theorem issue_invalid (h : Runs s t 0x58 w) (he : 5 ≤ d.w0.toNat % 8) : Answers (.issue t) s fun s' =>
    (s'.tile t).seq = .halted ∧ (s'.tile t).pc = (s.tile t).pc ∧ Reported (seqPage t) 2 0x017 s s'
      ∧ (∀ f, (s'.tile t).queue f = (s.tile t).queue f) ∧ BytesSame (s.tile t) (s'.tile t) ∧ TileFrame t s s' := by
  obtain ⟨hissued, hseq⟩ := fetched_issue hd h
  obtain ⟨l, hl⟩ := tile_fetched s t
  obtain ⟨hbytes, hframe⟩ := haltWith_tileOnly (s.fetched t) t 0x017
  have hfetch := fetched_seqFrame s t
  refine ⟨_, issue_runs h (issueRun_invalid (by rwa [hissued])), ?_, ?_, reported_from (fetched_err ..) (fetched_errCount ..) (haltWith_reported ..),
    fun f => ?_, hfetch.bytes.trans hbytes, hfetch.tileFrame.trans hframe⟩ <;> rw [tile_haltWith]
  · rw [hl]
  · rw [hl]
    rfl

theorem issue_retried (h : Stalled s t .queue) (hw : s.insAt t = w) (hopc : w.toNat % 2 ^ 8 = 0x58) (hra : ra w % 4 = 0)
    (he : d.w0.toNat % 8 = engNum e) (hroom : (s.tile t).ringCount e = 0 ∧ ((s.tile t).queue e).length < 64) :
    Answers (.issue t) s fun s' => (s'.tile t).queue e = (s.tile t).queue e ++ [d] ∧ Ended (s.tile t) (s'.tile t) ∧ TileFrame t s s' := by
  obtain ⟨-, hseq, -, -⟩ := id h
  have hrun := issueRun_places (s := s) (t := t) (by rwa [hd]) (by rw [canPlace_eq, decide_eq_true hroom, Bool.true_or])
  obtain ⟨hqueue, -, -, hended, -, hframe⟩ := issued_queued (d := d) hseq hroom
  rw [hd] at hrun
  exact ⟨_, issue_retries h hw hopc hra hrun, hqueue, hended, hframe⟩

end rows

theorem spillRefill_moves {e : Eng} (hw : Works s t) (hcount : 0 < (s.tile t).ringCount e) (hroom : ((s.tile t).queue e).length < 64)
    (hsize : 0 < (s.spillRing t e).size) : Answers (.spillRefill t e) s fun s' =>
    (s'.tile t).queue e = (s.tile t).queue e ++ [Desc.ofBytes ((s.tile t).bytes false ((s.spillRing t e).base
        + 32 * (Tab.get 0 (s.tile t).ringHead (engNum e) % (s.spillRing t e).size)) 32)]
    ∧ (s'.tile t).ringCount e = (s.tile t).ringCount e - 1 ∧ (∀ f, f ≠ e → (s'.tile t).queue f = (s.tile t).queue f)
    ∧ (∀ i, (s'.tile t).reg i = (s.tile t).reg i) ∧ BytesSame (s.tile t) (s'.tile t) ∧ TileFrame t s s' := by
  refine ⟨_, congrArg Host.Outcome.next ((if_pos (tileRuns_of_Works hw)).trans (refill_moves hcount hroom hsize)), ?_⟩
  dsimp only
  rw [tile_count, tile_modTile_same]
  refine ⟨(queue_setQueue (s.tile t) e e _).trans (if_pos rfl), Tab.get_set_same 0 (s.tile t).ringLen (engNum e) ((s.tile t).ringCount e - 1),
    fun f hf => (queue_setQueue (s.tile t) e f _).trans (if_neg hf), fun _ => rfl, bytesSame_of_eq rfl rfl,
    (modTile_tileFrame ..).trans (count_pageFrame ..).tileFrame⟩

theorem issueAndSpill : Spec.IssueAndSpill := by
  intro s t w e d hd
  have hd' : issued w (s.tile t) = d := hd.symm
  exact ⟨fun h he hcount hroom => issue_queued hd' h he ⟨hcount, hroom⟩, issue_spilled hd', issue_stalls hd', issue_invalid hd',
    fun h hw hopc hra he hcount hroom => issue_retried hd' h hw hopc hra he ⟨hcount, hroom⟩, spillRefill_moves⟩

/-- Settles O5, row by row. -/
theorem tasksAndIssue : Obligations.TasksAndIssue := ⟨tasks, issueAndSpill⟩

end Sys2Proof.Machine
end

section
/-! The start of a descriptor: when the head of a queue can start, what it takes with it, and its refusal for an undefined OP (R79, R83, R84,
R114, R130, R131): O10. -/

namespace Sys2Proof.Machine

open Sys2Proof Sys2Proof.Spec

variable {s : State} {t : Nat} {e : Eng} {d : Desc}

/-! ## When the head of a queue can start (R79, R83, R84) -/

theorem tileRuns_iff (s : State) (t : Nat) : s.tileRuns t = true ↔ Works s t := by
  simp only [State.tileRuns, State.awake, Works, Bool.and_eq_true, Bool.not_eq_true']
  tauto

/-- What R79, R83 and R84 ask of the head d of engine e's queue. -/
def CanStart (s : State) (t : Nat) (e : Eng) (d : Desc) : Prop :=
  Works s t ∧ s.admits (engPage t e) = true ∧ s.enginesHeld t = false
    ∧ ((s.tile t).flights.filter fun f => decide (f.eng = e)).length < s.inflightMax t e
    ∧ (∀ f ∈ (s.tile t).flights, f.eng = e → f.unsent = 0 ∨ e = .xce)
    ∧ WaitsHold (s.tile t) (waitAK d) (waitA d) (waitBK d) (waitB d)
    ∧ (d.w0.getLsbD 8 = true → e = .lde → ((s.tile t).fl - (s.tile t).fm).toNat < max 1 (s.fld (engPage t .lde) 0x100 0 4))

theorem allIssued_iff (ti : Tile) (e : Eng) : ((ti.flightsOf e).all fun f => decide (f.unsent = 0) || decide (e = .xce)) = true
    ↔ ∀ f ∈ ti.flights, f.eng = e → f.unsent = 0 ∨ e = .xce := by
  simp only [Tile.flightsOf, List.all_eq_true, List.mem_filter, decide_eq_true_eq, Bool.or_eq_true, and_imp]

theorem inWindow_iff (s : State) (t : Nat) (e : Eng) (d : Desc) :
    (!(d.feed && decide (e = .lde)) || decide (((s.tile t).fl - (s.tile t).fm).toNat < s.window t)) = true
      ↔ (d.w0.getLsbD 8 = true → e = .lde → ((s.tile t).fl - (s.tile t).fm).toNat < max 1 (s.fld (engPage t .lde) 0x100 0 4)) := by
  rw [Bool.or_eq_true, Bool.not_eq_true', ← Bool.not_eq_true, Bool.and_eq_true, decide_eq_true_eq, decide_eq_true_eq, ← imp_iff_not_or, and_imp]
  rfl

theorem startable_cons {q : List Desc} (hq : (s.tile t).queue e = d :: q) (d' : Desc) : s.startable t e = some d' ↔ d = d' ∧ CanStart s t e d := by
  have hcan : (s.tileRuns t && s.admits (engPage t e) && !s.enginesHeld t && decide (((s.tile t).flightsOf e).length < s.inflightMax t e)
      && ((s.tile t).flightsOf e).all (fun f => decide (f.unsent = 0) || decide (e = .xce))
      && (s.tile t).waitsHold d.waK d.waAmt d.wbK d.wbAmt
      && (!(d.feed && decide (e = .lde)) || decide (((s.tile t).fl - (s.tile t).fm).toNat < s.window t))) = true ↔ CanStart s t e d := by
    rw [Bool.and_eq_true, Bool.and_eq_true, Bool.and_eq_true, Bool.and_eq_true, Bool.and_eq_true, Bool.and_eq_true, tileRuns_iff, allIssued_iff,
      waitsHold_iff, inWindow_iff, Bool.not_eq_true', decide_eq_true_eq]
    simp only [and_assoc]
    rfl
  unfold State.startable
  simp only [hq]
  split
  next h => simp [hcan.1 h]
  next h => exact ⟨nofun, fun ⟨_, hc⟩ => absurd (hcan.2 hc) h⟩

theorem startable_iff (s : State) (t : Nat) (e : Eng) (d : Desc) :
    s.startable t e = some d ↔ ((s.tile t).queue e).head? = some d ∧ CanStart s t e d := by
  cases hq : (s.tile t).queue e with
  | nil => simp [State.startable, hq]
  | cons d₀ q =>
    rw [startable_cons hq, List.head?_cons, Option.some_inj]
    refine and_congr_right fun h => ?_
    rw [h]

/-! ## The commands of the engines -/

/-- Each of these commands is the engine's meeting with the head of its queue. -/
theorem engineRow_starts {c : Fin 192 → Instr} {op : Nat} (h : (c, e, op) ∈ engineRows) (s : State) (t : Fin 192) :
    ∃ extra bad run, exec (c t) s = .next (s.engineStart t e (opsOf e) op extra bad run) := by
  simp only [engineRows, List.mem_cons, List.not_mem_nil, or_false, Prod.mk.injEq] at h
  rcases h with h | h | h | h | h | h | h | h | h | h | h | h | h | h | h | h | h <;>
    (obtain ⟨rfl, rfl, rfl⟩ := h; exact ⟨_, _, _, rfl⟩)

section engineStart

variable {ops : List Nat} {op : Nat} {extra : Desc → Bool} {bad : Desc → State → Option Nat} {run : Desc → State → State}

theorem engineStart_none (h : s.startable t e = none) : s.engineStart t e ops op extra bad run = s := by
  simp only [State.engineStart, h]

/-- An OP the engine does not define (R131). -/
theorem engineStart_undefined (h : s.startable t e = some d) (hop : d.op ∉ ops) :
    s.engineStart t e ops op extra bad run = s.refuseDesc t e d (if d.commonBad e (d.ownZero e) then 0x040 else 0x041) := by
  simp [State.engineStart, h, hop]

end engineStart

theorem descriptorsStartInOrder : Spec.DescriptorsStartInOrder := by
  refine ⟨startable_iff, fun c e op hc s t hnone => ?_⟩
  obtain ⟨extra, bad, run, hrun⟩ := engineRow_starts hc s t
  rw [hrun, engineStart_none hnone]

/-! ## What a started descriptor takes (R79, R83) -/

/-- No page's record of its errors has changed. -/
def ErrSame (s s' : State) : Prop := ∀ m, (s'.page m).err = (s.page m).err ∧ (s'.page m).errCount = (s.page m).errCount

theorem ErrSame.trans {s s₁ s₂ : State} (h₁ : ErrSame s s₁) (h₂ : ErrSame s₁ s₂) : ErrSame s s₂ :=
  fun m => ⟨(h₂ m).1.trans (h₁ m).1, (h₂ m).2.trans (h₁ m).2⟩

theorem modPage_errSame (s : State) (n : Nat) {f : Page → Page} (herr : ∀ p, (f p).err = p.err) (hcount : ∀ p, (f p).errCount = p.errCount) :
    ErrSame s (s.modPage n f) :=
  fun m => ⟨modPage_keeps s Page.err n m f herr, modPage_keeps s Page.errCount n m f hcount⟩

theorem setRaw_errSame (s : State) (n o : Nat) (w : Word) : ErrSame s (s.setRaw n o w) := modPage_errSame s n (fun _ => rfl) fun _ => rfl

theorem event_errSame (s : State) (n b : Nat) : ErrSame s (s.event n b) := fun _ => ⟨page_event_err .., page_event_errCount ..⟩

theorem applyStaged_errSame (s : State) (n : Nat) : ErrSame s (s.applyStaged n) := by
  unfold State.applyStaged
  split
  · exact fun _ => ⟨rfl, rfl⟩
  · have hset := foldl_keeps (ErrSame s) (fun s k => s.setRaw n (8 * k) (s.written n (8 * k))) (fun _ _ h => h.trans (setRaw_errSame _ _ _ _))
      ((s.page n).pendMask.map Prod.fst) s fun _ => ⟨rfl, rfl⟩
    refine (hset.trans (modPage_errSame _ n ?_ ?_)).trans (event_errSame _ _ _)
    · exact fun _ => rfl
    · exact fun _ => rfl

/-- The tile after a descriptor has left its queue and started as the flight f. -/
def Tile.started (ti : Tile) (e : Eng) (d : Desc) (f : Flight) : Tile :=
  { ((ti.setQueue e (ti.queue e).tail).takeWaits d.waK d.waAmt d.wbK d.wbAmt) with
    fl := ti.fl + if d.w0.getLsbD 8 = true ∧ e = .lde then 1 else 0
    fm := ti.fm + if d.w0.getLsbD 8 = true ∧ e = .mxe then 1 else 0
    serial := ti.serial + 1
    flights := ti.flights ++ [f] }

/-- FL or FM counts a FEED descriptor (R83). -/
theorem feed_counted (ti : Tile) (e : Eng) (d : Desc) :
    (if d.feed ∧ e = .lde then { ti with fl := ti.fl + 1 } else if d.feed ∧ e = .mxe then { ti with fm := ti.fm + 1 } else ti)
      = { ti with fl := ti.fl + if d.feed ∧ e = .lde then 1 else 0, fm := ti.fm + if d.feed ∧ e = .mxe then 1 else 0 } := by
  by_cases hlde : d.feed ∧ e = .lde
  · simp [hlde]
  · by_cases hmxe : d.feed ∧ e = .mxe
    · simp [hmxe]
    · simp [hlde, hmxe]

theorem tile_takeDesc (s : State) (t : Nat) (e : Eng) (d : Desc) (f : Flight → Flight) : (s.takeDesc t e d f).tile t =
    (s.tile t).started e d (f { id := (s.tile t).serial, eng := e, desc := d, pends := d.sums e }) := by
  have htile : (s.applyStaged (engPage t e)).tile t = s.tile t := (applyStaged_pageFrame ..).1 t
  obtain ⟨k, hk⟩ := takeWaits_eq ((s.tile t).setQueue e ((s.tile t).queue e).tail) d.waK d.waAmt d.wbK d.wbAmt
  simp only [State.takeDesc, feed_counted]
  rw [tile_modTile_same, htile, Tile.started, hk]
  rfl

theorem started_took {s' : State} {f : Flight} {P : Flight → Prop} (h : s'.tile t = (s.tile t).started e d f) (hid : f.id = (s.tile t).serial)
    (heng : f.eng = e) (hdesc : f.desc = d) (hP : P f) : Took t e d s s' P := by
  have htok (k : Nat) : ((s.tile t).started e d f).tok k = afterWaits (s.tile t) d k :=
    takeWaits_tok ((s.tile t).setQueue e ((s.tile t).queue e).tail) d.waK d.waAmt d.wbK d.wbAmt k
  obtain ⟨k, hk⟩ := takeWaits_eq ((s.tile t).setQueue e ((s.tile t).queue e).tail) d.waK d.waAmt d.wbK d.wbAmt
  have hqueue (g : Eng) : ((s.tile t).started e d f).queue g = if g = e then ((s.tile t).queue e).tail else (s.tile t).queue g := by
    rw [Tile.started, hk]
    exact queue_setQueue ..
  unfold Took
  rw [h]
  refine ⟨(hqueue e).trans (if_pos rfl), fun g hg => (hqueue g).trans (if_neg hg), htok, rfl, rfl, rfl, fun i => ?_, ?_, ?_,
    (s.tile t).flights, f, rfl, rfl, hid, heng, hdesc, hP⟩ <;> rw [Tile.started, hk] <;> rfl

/-- A start changes no byte of either space, and no accumulator. -/
theorem started_keeps (ti : Tile) (e : Eng) (d : Desc) (f : Flight) : BytesSame ti (ti.started e d f) ∧ AccSame ti (ti.started e d f) := by
  obtain ⟨k, hk⟩ := takeWaits_eq (ti.setQueue e (ti.queue e).tail) d.waK d.waAmt d.wbK d.wbAmt
  rw [Tile.started, hk]
  exact ⟨bytesSame_of_eq rfl rfl, rfl, rfl, rfl⟩

theorem takeDesc_tileFrame (s : State) (t : Nat) (e : Eng) (d : Desc) (f : Flight → Flight) : TileFrame t s (s.takeDesc t e d f) :=
  (applyStaged_pageFrame s (engPage t e)).tileFrame.trans (modTile_tileFrame ..)

theorem takeDesc_errSame (s : State) (t : Nat) (e : Eng) (d : Desc) (f : Flight → Flight) : ErrSame s (s.takeDesc t e d f) :=
  applyStaged_errSame s (engPage t e)

/-! ## The refusal of an undefined OP (R130, R131) -/

/-- A refused descriptor, as R130 has it. -/
theorem refuseDesc_refuses (s : State) (t : Nat) (e : Eng) (d : Desc) (code : Nat) :
    Took t e d s (s.refuseDesc t e d code) (fun f => f.refused = true ∧ f.sev = 2 ∧ f.code = code ∧ f.writes = [] ∧ f.sums = [])
      ∧ Reported (engPage t e) 2 code s (s.refuseDesc t e d code) ∧ AccSame (s.tile t) ((s.refuseDesc t e d code).tile t)
      ∧ EngFrame t s (s.refuseDesc t e d code) ∧ (s.refuseDesc t e d code).mem = s.mem ∧ (s.refuseDesc t e d code).fab = s.fab := by
  have htile : (s.refuseDesc t e d code).tile t = (s.tile t).started e d
      { id := (s.tile t).serial, eng := e, desc := d, pends := d.sums e, refused := true, sev := 2, code := code } :=
    ((contained_pageFrame ..).1 t).trans (tile_takeDesc ..)
  have hframe : TileFrame t s (s.refuseDesc t e d code) := (takeDesc_tileFrame ..).trans (contained_pageFrame ..).tileFrame
  obtain ⟨herr, hcount⟩ := takeDesc_errSame s t e d (fun f => { f with refused := true, sev := 2, code := code }) (engPage t e)
  obtain ⟨hbytes, hacc⟩ := started_keeps (s.tile t) e d
    { id := (s.tile t).serial, eng := e, desc := d, pends := d.sums e, refused := true, sev := 2, code := code }
  obtain ⟨hother, hsame, hmem, hfab, hsbd, hupe, hcle, hkey, -, hsync, hpkg, htime, -⟩ := hframe
  rw [← htile] at hbytes hacc
  exact ⟨started_took htile rfl rfl rfl ⟨rfl, rfl, rfl, rfl, rfl⟩, reported_from herr hcount (raise_reported (by decide)), hacc,
    ⟨hother, hsame, hbytes, hsbd, hupe, hcle, hkey, hsync, hpkg, htime⟩, hmem, hfab⟩

theorem undefinedOpcodesRefused : Spec.UndefinedOpcodesRefused := by
  intro c e op hc s t d hd hop
  obtain ⟨extra, bad, run, hrun⟩ := engineRow_starts hc s t
  rw [engineStart_undefined hd hop] at hrun
  refine ⟨if d.commonBad e (d.ownZero e) then 0x040 else 0x041, ?_, _, hrun, refuseDesc_refuses ..⟩
  split
  · exact .inr rfl
  · exact .inl rfl

/-- Settles O10: the conditions of a start, and the refusal of an undefined OP. -/
theorem descriptorStarts : Obligations.DescriptorStarts := ⟨descriptorsStartInOrder, undefinedOpcodesRefused⟩

end Sys2Proof.Machine
end

section
/-! DESCRIPTOR_COMPLETE: the writes, the record and the signal of a descriptor that completes (R80, R81, R84, R85, R94, R277): O17. -/

namespace Sys2Proof.Spec

open Sys2Proof Sys2Proof.Machine

theorem WordsSame.refl (s : State) : WordsSame s s := fun _ => ⟨rfl, rfl, rfl, rfl⟩

theorem WordsSame.trans {s s₁ s₂ : State} (h₁ : WordsSame s s₁) (h₂ : WordsSame s₁ s₂) : WordsSame s s₂ := fun n =>
  have ⟨hwords₁, hpend₁, hmask₁, hbit₁⟩ := h₁ n
  have ⟨hwords₂, hpend₂, hmask₂, hbit₂⟩ := h₂ n
  ⟨hwords₂.trans hwords₁, hpend₂.trans hpend₁, hmask₂.trans hmask₁, hbit₂.trans hbit₁⟩

end Sys2Proof.Spec

namespace Sys2Proof.Machine

open Sys2Proof Sys2Proof.Spec

variable {s : State} {t : Nat} {e : Eng} {f : Flight}

/-! ## The memory writes of a flight (R84) -/

theorem count_wordsSame (s : State) (n i : Nat) (c : Option Nat) (k : Nat) : WordsSame s (s.count n i c k) := fun _ => by simp

section memory

variable (s : State) (ctx : Option Nat) (hint : Nat) (alloc : Bool)

theorem lineWrite_wordsSame (l : Nat) : WordsSame s (s.lineWrite ctx hint alloc l) := by
  have hmem (s : State) (m : Mem) : WordsSame s { s with mem := m } := .refl s
  unfold State.lineWrite
  dsimp only
  split
  · exact (hmem s _).trans (count_wordsSame _ _ _ _ _)
  · have hmiss := count_wordsSame s (mscPage (lineDie l)) 3 ctx 1
    split
    · exact (hmiss.trans (hmem _ _)).trans (count_wordsSame _ _ _ _ _)
    · exact hmiss.trans (hmem _ _)

theorem memWrite_wordsSame (a : Nat) (d : List Byte) : WordsSame s (s.memWrite ctx a d hint alloc) := by
  have hlines := foldl_keeps (WordsSame s) _ (fun s' l h => h.trans (lineWrite_wordsSame s' ctx hint alloc l)) (linesOf a d.length) s (.refl s)
  have hput (s : State) : WordsSame s { s with mem := s.mem.put a d } := .refl s
  exact (hlines.trans (hput _)).trans (count_wordsSame _ _ _ _ _)

/-- Writes made good change memory, the cache and counters only. -/
theorem flushWrites_frame (id : Nat) : MemFrame s (s.flushWrites ctx id) ∧ WordsSame s (s.flushWrites ctx id) := by
  unfold State.flushWrites
  refine foldl_keeps (fun s' => MemFrame s s' ∧ WordsSame s s') _ (fun s' w h => ?_) _ _ ⟨.setMem s _, .refl s⟩
  exact ⟨h.1.trans (memWrite_frame s' ctx _ _ w.addr w.data), h.2.trans (memWrite_wordsSame s' ctx _ _ w.addr w.data)⟩

/-- The bytes of a flight's only write. -/
theorem flushWrites_byte_one {id : Nat} {w : MWrite} (h : (s.mem.writes.filter fun w => decide (w.id = id)) = [w]) (a : Nat) :
    (s.flushWrites ctx id).mem.byte a = if w.addr ≤ a ∧ a < w.addr + w.data.length then w.data.getD (a - w.addr) 0 else s.mem.byte a := by
  simp only [State.flushWrites, h, List.foldl_cons, List.foldl_nil]
  exact memWrite_byte ..

end memory

/-! ## The tile of a completing flight (R81, R84, R94) -/

theorem foldl_slots_eq (ps : List (Nat × List Word)) : ∀ ti : Tile, ∃ sl,
    ps.foldl (fun ti p => { ti with slots := Tab.set [] ti.slots p.1 p.2 }) ti = { ti with slots := sl } := by
  induction ps with
  | nil => exact fun ti => ⟨_, rfl⟩
  | cons p ps ih => exact fun ti => ih { ti with slots := Tab.set [] ti.slots p.1 p.2 }

theorem foldl_write_flights (fs : List Flight) (ws : List LWrite) : ∀ ti : Tile,
    ws.foldl (fun ti w => ti.write w.rf w.addr w.data) { ti with flights := fs } =
      { ws.foldl (fun ti w => ti.write w.rf w.addr w.data) ti with flights := fs } := by
  have hwrite (ti : Tile) (w : LWrite) : ({ ti with flights := fs } : Tile).write w.rf w.addr w.data
      = { ti.write w.rf w.addr w.data with flights := fs } := by
    unfold Tile.write
    split <;> rfl
  induction ws with
  | nil => exact fun ti => rfl
  | cons w ws ih =>
    intro ti
    rw [List.foldl_cons, hwrite, ih, List.foldl_cons]

/-- The tile that a flight f leaves: its local writes are visible, and its parameter slots and pending counts are as it made them. -/
def Tile.without (ti : Tile) (f : Flight) : Tile :=
  f.pends.foldl Tile.unpendSum (f.slots.foldl (fun ti p => { ti with slots := Tab.set [] ti.slots p.1 p.2 })
    (f.writes.foldl (fun ti w => ti.write w.rf w.addr w.data) { ti with flights := ti.flights.filter fun x => decide (x.id ≠ f.id) }))

/-- A completion record in the ring's next slot. -/
def Tile.recorded (ti : Tile) (e : Eng) (ring : RingAt) (record : List Byte) : Tile :=
  let pos := Tab.get 0 ti.crecPos (engNum e) % ring.size
  { (ti.write false (ring.base + 16 * pos) record) with crecPos := Tab.set 0 ti.crecPos (engNum e) ((pos + 1) % ring.size) }

theorem without_eq (ti : Tile) (f : Flight) : ∃ st r sl u,
    ti.without f = { ti with flights := ti.flights.filter fun x => decide (x.id ≠ f.id), store := st, rf := r, slots := sl, u := u }
      ∧ BytesSame (f.writes.foldl (fun ti w => ti.write w.rf w.addr w.data) ti) (ti.without f) := by
  obtain ⟨st, r, hw⟩ := foldl_write_eq f.writes ti
  obtain ⟨sl, hsl⟩ := foldl_slots_eq f.slots { ti with store := st, rf := r, flights := ti.flights.filter fun x => decide (x.id ≠ f.id) }
  obtain ⟨u, hu⟩ := foldl_unpendSum_eq f.pends
    { ti with store := st, rf := r, flights := ti.flights.filter fun x => decide (x.id ≠ f.id), slots := sl }
  have h : ti.without f = { ti with flights := ti.flights.filter fun x => decide (x.id ≠ f.id), store := st, rf := r, slots := sl, u := u } := by
    rw [Tile.without, foldl_write_flights, hw, hsl, hu]
  exact ⟨st, r, sl, u, h, by rw [h, hw]; exact bytesSame_of_eq rfl rfl⟩

/-- The record reads back, and nothing but the bytes and the ring's place has changed. -/
theorem recorded_eq (ti : Tile) (e : Eng) (ring : RingAt) (record : List Byte) : ∃ st r c,
    ti.recorded e ring record = { ti with store := st, rf := r, crecPos := c }
      ∧ (ti.recorded e ring record).bytes false (ring.base + 16 * (Tab.get 0 ti.crecPos (engNum e) % ring.size)) record.length = record := by
  obtain ⟨st, r, h⟩ := write_eq ti false (ring.base + 16 * (Tab.get 0 ti.crecPos (engNum e) % ring.size)) record
  exact ⟨st, r, _, by rw [Tile.recorded, h], bytes_write_same ti false _ record⟩

/-- A signal raises its counter, unless it is at the limit (R80). -/
theorem tile_signal (s : State) (t k : Nat) : ∃ ks, (s.signal t k).tile t = { s.tile t with k := ks }
    ∧ ∀ i, ((s.signal t k).tile t).tok i = (s.tile t).tok i + if i = k ∧ (s.tile t).tok i < 0xFFFF then 1 else 0 := by
  have hlt := tok_lt (s.tile t) k
  by_cases h : (s.tile t).tok k < 0xFFFF
  · rw [signal_counts h, tile_modTile_same]
    refine ⟨_, rfl, fun i => ?_⟩
    rw [tok_setTok]
    by_cases hi : i = k
    · subst hi
      rw [if_pos rfl, if_pos ⟨rfl, h⟩]
      omega
    · simp [hi]
  · have hmax : (s.tile t).tok k = 0xFFFF := by omega
    have htile : (s.signal t k).tile t = s.tile t := by
      rw [signal_saturates hmax]
      exact ((event_pageFrame ..).trans (contained_pageFrame ..)).1 t
    rw [htile]
    refine ⟨_, rfl, fun i => ?_⟩
    rw [if_neg (by rintro ⟨rfl, hi⟩; omega)]
    rfl

theorem signal_tileFrame (s : State) (t k : Nat) : TileFrame t s (s.signal t k) := by
  unfold State.signal
  dsimp only
  split
  · exact ((event_pageFrame ..).trans (contained_pageFrame ..)).tileFrame
  · exact modTile_tileFrame ..

/-! ## Completion -/

theorem crecRing_of_wordsSame {s' : State} (h : WordsSame s s') (t : Nat) (e : Eng) : s'.crecRing t e = s.crecRing t e := by
  have hraw (n o : Nat) : s'.raw n o = s.raw n o := by simp only [State.raw, (h n).1]
  unfold State.crecRing State.inForce State.expertEn
  rw [hraw, hraw]

/-- What a completion leaves of the state around tile t. -/
def DoneFrame (s s' : State) : Prop := s'.tiles = s.tiles ∧ s'.mem = s.mem ∧ s'.fab = s.fab ∧ s'.key = s.key ∧ s'.pkg = s.pkg ∧ s'.time = s.time

theorem DoneFrame.trans {s s₁ s₂ : State} (h₁ : DoneFrame s s₁) (h₂ : DoneFrame s₁ s₂) : DoneFrame s s₂ := by
  obtain ⟨ht₁, hm₁, hf₁, hk₁, hp₁, hn₁⟩ := h₁
  obtain ⟨ht₂, hm₂, hf₂, hk₂, hp₂, hn₂⟩ := h₂
  exact ⟨ht₂.trans ht₁, hm₂.trans hm₁, hf₂.trans hf₁, hk₂.trans hk₁, hp₂.trans hp₁, hn₂.trans hn₁⟩

theorem DoneFrame.refl (s : State) : DoneFrame s s := ⟨rfl, rfl, rfl, rfl, rfl, rfl⟩

theorem count_doneFrame (s : State) (n i : Nat) (c : Option Nat) (k : Nat) : DoneFrame s (s.count n i c k) := by simp [DoneFrame]
theorem event_doneFrame (s : State) (n b : Nat) : DoneFrame s (s.event n b) := by simp [DoneFrame]
theorem drained_doneFrame (s : State) (n : Nat) : DoneFrame s (s.drained n) := by
  unfold State.drained
  split
  · simp [DoneFrame]
  · exact .refl s

/-- The engine counts a completion of its own (R94, R277). -/
def State.engineCounted (s : State) (t : Nat) (e : Eng) (f : Flight) (status heldNs : Nat) : State :=
  match e with
  | .mxe => s.count (engPage t e) (16 + status)
  | .vxe => s.count (engPage t e) (9 + status)
  | .xce => (s.count (engPage t e) status).count (engPage t e) 15 none (if f.desc.op = 6 then 0 else heldNs)
  | _ => s

/-- The engine's event for a refused completion. -/
def State.refusalRaised (s : State) (t : Nat) (e : Eng) (f : Flight) : State :=
  if f.refused then (match e with | .lde | .ste | .xce => s.event (engPage t e) 4 | _ => s) else s

/-- A refused completion is charged to the tile's context (R350, R351). -/
def State.refusalCharged (s : State) (t : Nat) (f : Flight) : State :=
  match s.ctxOf t with
  | some c => if f.refused then s.chargeRefusal c f.code else s
  | none => s

/-- What follows the signal of a completion: counters, events, the charge of a refusal, and the quiesce of the blocks. -/
def State.completionCounted (s : State) (t : Nat) (e : Eng) (f : Flight) (status heldNs : Nat) : State :=
  ((((((s.count (seqPage t) (11 + 3 * (engNum e) + status)).engineCounted t e f status heldNs).refusalRaised t e f).refusalCharged t f).drained
    (engPage t e)).drained (trsPage t))

theorem engineCounted_doneFrame (s : State) (t : Nat) (e : Eng) (f : Flight) (status heldNs : Nat) :
    DoneFrame s (s.engineCounted t e f status heldNs) := by
  cases e
  case mxe => exact count_doneFrame ..
  case vxe => exact count_doneFrame ..
  case xce => exact (count_doneFrame ..).trans (count_doneFrame ..)
  all_goals exact .refl s

theorem refusalRaised_doneFrame (s : State) (t : Nat) (e : Eng) (f : Flight) : DoneFrame s (s.refusalRaised t e f) := by
  unfold State.refusalRaised
  split
  · cases e
    case mxe => exact .refl s
    case vxe => exact .refl s
    all_goals exact event_doneFrame ..
  · exact .refl s

theorem refusalCharged_doneFrame (s : State) (t : Nat) (f : Flight) : DoneFrame s (s.refusalCharged t f) := by
  unfold State.refusalCharged
  split
  · split
    · exact .refl s
    · exact .refl s
  · exact .refl s

theorem completionCounted_doneFrame (s : State) (t : Nat) (e : Eng) (f : Flight) (status heldNs : Nat) :
    DoneFrame s (s.completionCounted t e f status heldNs) :=
  (((((count_doneFrame ..).trans (engineCounted_doneFrame ..)).trans (refusalRaised_doneFrame ..)).trans (refusalCharged_doneFrame ..)).trans
    (drained_doneFrame ..)).trans (drained_doneFrame ..)

/-- The status of a completion (R94). -/
def Flight.status (f : Flight) (e : Eng) (heldNs : Nat) : Nat :=
  if f.refused then 2 else if e = .xce ∧ f.desc.op = 6 then 0 else if 1000 ≤ heldNs then 1 else 0

/-- The tile's record of a completion, where the descriptor asks for one and the ring has room. -/
def State.recordDone (s : State) (t : Nat) (e : Eng) (f : Flight) (heldNs : Nat) : State :=
  if f.desc.crec && decide ((s.crecRing t e).size ≠ 0) then
    s.modTile t fun ti => ti.recorded e (s.crecRing t e) (crecBytes f (f.status e heldNs) (waitBucket (heldNs + f.delay)))
  else s

/-- The signal of a completion, where the descriptor asks for one (R80). -/
def State.signalDone (s : State) (t : Nat) (d : Desc) : State := if d.sigEn then s.signal t d.sigK else s

/-- A completion step by step. -/
theorem completeFlight_eq (heldNs : Nat) (hsums : f.sums = []) : s.completeFlight t e f heldNs =
    ((((s.flushWrites (s.ctxOf t) (memId t f.id)).modTile t fun ti => ti.without f).recordDone t e f heldNs).signalDone t f.desc).completionCounted
      t e f (f.status e heldNs) heldNs := by
  unfold State.completeFlight
  rw [hsums]
  rfl

/-! ### The tile after a completion -/

theorem tile_signalDone (s : State) (t : Nat) (d : Desc) : ∃ ks, (s.signalDone t d).tile t = { s.tile t with k := ks }
    ∧ (∀ i, ((s.signalDone t d).tile t).tok i = (s.tile t).tok i + if d.sigEn = true ∧ i = d.sigK ∧ (s.tile t).tok i < 0xFFFF then 1 else 0)
    ∧ TileFrame t s (s.signalDone t d) := by
  unfold State.signalDone
  split
  next h =>
    obtain ⟨ks, htile, htok⟩ := tile_signal s t d.sigK
    refine ⟨ks, htile, fun i => ?_, signal_tileFrame ..⟩
    rw [htok]
    simp only [h, true_and]
  next h => exact ⟨_, rfl, fun i => by rw [if_neg fun hi => h hi.1]; rfl, .refl s⟩

/-- The tile with its record: nothing but bytes and the ring's place has changed, and no byte where no record is asked for. -/
theorem tile_recordDone (s : State) (t : Nat) (e : Eng) (f : Flight) (heldNs : Nat) : ∃ st r c,
    (s.recordDone t e f heldNs).tile t = { s.tile t with store := st, rf := r, crecPos := c }
      ∧ (f.desc.crec = false → (s.recordDone t e f heldNs).tile t = s.tile t)
      ∧ (f.desc.crec = true → (s.crecRing t e).size ≠ 0 → ((s.recordDone t e f heldNs).tile t).bytes false
          ((s.crecRing t e).base + 16 * (Tab.get 0 (s.tile t).crecPos (engNum e) % (s.crecRing t e).size)) 16
        = crecBytes f (f.status e heldNs) (waitBucket (heldNs + f.delay)))
      ∧ TileFrame t s (s.recordDone t e f heldNs) := by
  unfold State.recordDone
  split
  next h =>
    obtain ⟨st, r, c, hrec, hbytes⟩ := recorded_eq (s.tile t) e (s.crecRing t e) (crecBytes f (f.status e heldNs) (waitBucket (heldNs + f.delay)))
    have hlen : (crecBytes f (f.status e heldNs) (waitBucket (heldNs + f.delay))).length = 16 := by
      rw [crecBytes, List.length_append, toBytes_length, toBytes_length]
    rw [hlen] at hbytes
    rw [Bool.and_eq_true] at h
    rw [tile_modTile_same]
    exact ⟨st, r, c, hrec, fun hno => absurd (h.1.symm.trans hno) (by decide), fun _ _ => hbytes, modTile_tileFrame ..⟩
  next h =>
    refine ⟨_, _, _, rfl, fun _ => rfl, fun hcrec hsize => absurd ?_ h, .refl s⟩
    rw [hcrec, decide_eq_true hsize]
    rfl

/-- What a completed descriptor leaves, where it contributes to no summary. -/
theorem completeFlight_completes (s : State) (t : Nat) (e : Eng) (heldNs : Nat) (hsums : f.sums = []) :
    (∀ g, g ∈ ((s.completeFlight t e f heldNs).tile t).flights ↔ g ∈ (s.tile t).flights ∧ g.id ≠ f.id)
    ∧ (∀ g, ((s.completeFlight t e f heldNs).tile t).queue g = (s.tile t).queue g)
    ∧ (∀ i, ((s.completeFlight t e f heldNs).tile t).reg i = (s.tile t).reg i)
    ∧ (f.desc.crec = false →
        BytesSame (f.writes.foldl (fun ti w => ti.write w.rf w.addr w.data) (s.tile t)) ((s.completeFlight t e f heldNs).tile t))
    ∧ (f.desc.crec = true → (s.crecRing t e).size ≠ 0 → ((s.completeFlight t e f heldNs).tile t).bytes false
          ((s.crecRing t e).base + 16 * (Tab.get 0 (s.tile t).crecPos (engNum e) % (s.crecRing t e).size)) 16
        = crecBytes f (f.status e heldNs) (waitBucket (heldNs + f.delay)))
    ∧ (∀ k, ((s.completeFlight t e f heldNs).tile t).tok k
        = (s.tile t).tok k + if f.desc.sigEn = true ∧ k = f.desc.sigK ∧ (s.tile t).tok k < 0xFFFF then 1 else 0)
    ∧ (s.completeFlight t e f heldNs).mem = (s.flushWrites (s.ctxOf t) (memId t f.id)).mem
    ∧ OtherTiles t s (s.completeFlight t e f heldNs) ∧ (s.completeFlight t e f heldNs).fab = s.fab ∧ (s.completeFlight t e f heldNs).key = s.key
    ∧ (s.completeFlight t e f heldNs).pkg = s.pkg ∧ (s.completeFlight t e f heldNs).time = s.time := by
  obtain ⟨hflush, hwords⟩ := flushWrites_frame s (s.ctxOf t) (memId t f.id)
  have hring := crecRing_of_wordsSame hwords t e
  rw [completeFlight_eq heldNs hsums]
  generalize s.flushWrites (s.ctxOf t) (memId t f.id) = s₁ at *
  have hpkg₁ : s₁.pkg = s.pkg := by obtain ⟨_, _, _, rfl⟩ := hflush; rfl
  have htile₁ (v : Nat) : s₁.tile v = s.tile v := by simp only [State.tile, hflush.tiles]
  have hring₂ : (s₁.modTile t fun ti => ti.without f).crecRing t e = s.crecRing t e := hring
  obtain ⟨st, r, sl, u, hwithout, hwrites⟩ := without_eq (s.tile t) f
  obtain ⟨st', r', c, hrecord, hno, hyes, hframe₂⟩ := tile_recordDone (s₁.modTile t fun ti => ti.without f) t e f heldNs
  rw [tile_modTile_same, htile₁, hwithout] at hrecord hno hyes
  rw [hring₂] at hyes
  have hframe₁ : TileFrame t s₁ (s₁.modTile t fun ti => ti.without f) := modTile_tileFrame ..
  generalize (s₁.modTile t fun ti => ti.without f).recordDone t e f heldNs = s₂ at *
  obtain ⟨ks, hsignal, htok, hframe₃⟩ := tile_signalDone s₂ t f.desc
  generalize s₂.signalDone t f.desc = s₃ at *
  obtain ⟨htiles, hmem, hfab, hkey, hpkg, htime⟩ := completionCounted_doneFrame s₃ t e f (f.status e heldNs) heldNs
  generalize s₃.completionCounted t e f (f.status e heldNs) heldNs = s₄ at *
  obtain ⟨hother, -, hmem', hfab', -, -, -, hkey', -, -, hpkg', htime', -⟩ := (hframe₁.trans hframe₂).trans hframe₃
  have htile (v : Nat) : s₄.tile v = s₃.tile v := by simp only [State.tile, htiles]
  rw [htile]
  refine ⟨fun g => ?flights, fun g => ?queue, fun i => ?reg, fun h => ?writes, fun h hsize => ?record, fun k => ?tok, hmem.trans hmem',
    fun v hv => ?other, hfab.trans (hfab'.trans hflush.fab), hkey.trans (hkey'.trans hflush.key), hpkg.trans (hpkg'.trans hpkg₁),
    htime.trans (htime'.trans hflush.time)⟩
  case flights => rw [hsignal, hrecord, List.mem_filter, decide_eq_true_eq]
  case queue => rw [hsignal, hrecord]; rfl
  case reg => rw [hsignal, hrecord]; rfl
  case writes => rw [hsignal, hno h, ← hwithout]; exact hwrites
  case record => rw [hsignal]; exact hyes h hsize
  case tok => rw [htok, hrecord]; rfl
  case other => rw [htile, hother v hv, htile₁]

/-- The oldest flight of an engine, with nothing outstanding, completes (R81). -/
theorem descriptorComplete_completes {t : Fin 192} (hw : Works s t) (hhead : ((s.tile t).flightsOf e).head? = some f)
    (hfind : (s.tile t).flights.find? (fun g => decide (g.id = f.id)) = some f)
    (hdone : f.left = 0 ∧ f.unsent = 0 ∧ f.waitFor = none ∧ f.flag = none) (hphase : f.phase ≠ 1)
    (hgroup : e = .mxe → f.desc.op = 3 → f.phase = 3 ∨ f.refused = true) (heldNs : Nat) :
    exec (.descriptorComplete t e heldNs) s = .next (s.completeFlight t e f heldNs) := by
  obtain ⟨hleft, hunsent, hwait, hflag⟩ := hdone
  obtain ⟨fs, hfs⟩ := List.head?_eq_some_iff.1 hhead
  have heng : f.eng = e := by
    have hmem : f ∈ (s.tile t).flightsOf e := List.mem_of_head? hhead
    exact of_decide_eq_true (List.mem_filter.1 hmem).2
  have hruns := tileRuns_of_Works hw
  have hfinished : f.finished = true := by simp [Flight.finished, hleft, hunsent, hwait, hflag]
  have hcomputed : (decide (f.eng = .mxe ∧ f.desc.op = 3 ∧ f.phase ≠ 3) && !f.refused) = false := by
    by_contra h
    simp only [Bool.not_eq_false, Bool.and_eq_true, decide_eq_true_eq, Bool.not_eq_true'] at h
    obtain ⟨⟨hmxe, hop, hnot⟩, href⟩ := h
    obtain h3 | hrefused := hgroup (heng.symm.trans hmxe) hop
    · exact hnot h3
    · exact absurd (href.symm.trans hrefused) (by decide)
  have hload : ¬ (e = .lde ∧ f.phase = 1 ∧ f.refused = false) := fun h => hphase h.2.1
  show execDescriptorComplete t e heldNs s = _
  simp only [execDescriptorComplete, hruns, hfs, hfinished, hcomputed, if_neg hload, hfind, Bool.not_true, Bool.or_self, Bool.false_eq_true, if_false]

/-- Settles O17, by the steps of a completion in turn. -/
theorem descriptorsComplete : Obligations.DescriptorsComplete := by
  intro s t e f heldNs hw hhead hfind hleft hunsent hwait hflag hphase hgroup hsums
  obtain ⟨hflights, hqueue, hreg, hwrites, hrecord, htok, hmem, hother, hfab, hkey, hpkg, htime⟩ := completeFlight_completes s t e heldNs hsums
  have hrun : exec (.descriptorComplete t e heldNs) s = .next (s.completeFlight t e f heldNs) := by
    exact descriptorComplete_completes hw hhead hfind ⟨hleft, hunsent, hwait, hflag⟩ hphase hgroup heldNs
  refine ⟨_, hrun, hflights, hqueue, hreg, hwrites, fun h hsize => ⟨f.status e heldNs, fun href => ?_, hrecord h hsize⟩, htok, fun h a => ?_,
    fun w h a => ?_, hother, hfab, hkey, hpkg, htime⟩
  · rw [Flight.status, if_pos href]
  · rw [hmem, flushWrites_byte_none _ _ _ _ h]
  · rw [hmem, flushWrites_byte_one _ _ h]

end Sys2Proof.Machine
end

section
/-! The KEY page's rows (R326, R327, R329, R339): a switch that begins or is refused, RELOAD, ERASE and the expiry of sessions. -/

namespace Sys2Proof.Spec

open Sys2Proof Sys2Proof.Machine

/-- A switch that has begun since a state with the same tiles, memory and owners. -/
theorem SwitchBegun.of_same {s s₁ s₂ : State} {q : Nat} (h : SwitchBegun q s₁ s₂) (htiles : s₁.tiles = s.tiles) (hmem : s₁.mem = s.mem)
    (howner : s₁.key.owner = s.key.owner) : SwitchBegun q s s₂ := by
  have htile (t : Nat) : s₁.tile t = s.tile t := by simp only [State.tile, htiles]
  obtain ⟨hrefused, howner₂, hmem₂, hstopped, hother⟩ := h
  refine ⟨hrefused, howner₂.trans howner, fun x => (hmem₂ x).trans (by rw [hmem]), fun t ht => ?_, fun t ht => (hother t ht).trans (htile t)⟩
  rw [hstopped t ht, htile]

end Sys2Proof.Spec

namespace Sys2Proof.Machine

open Sys2Proof Sys2Proof.Spec

variable {s : State} {a : Access}

/-! ## A write of SWITCH, RELOAD or ERASE -/

/-- Bits that two words have in common below k are fields in common. -/
theorem bits_congr {v w : Word} {k lo n : Nat} (h : ∀ i, i < k → v.getLsbD i = w.getLsbD i) (hk : lo + n ≤ k) : bits v lo n = bits w lo n := by
  refine Nat.eq_of_testBit_eq fun i => ?_
  rw [bits, bits, Nat.testBit_mod_two_pow, Nat.testBit_mod_two_pow, Nat.testBit_div_two_pow, Nat.testBit_div_two_pow]
  by_cases hi : i < n
  · have hbit := h (i + lo) (by omega)
    rw [BitVec.getLsbD, BitVec.getLsbD] at hbit
    rw [hbit]
  · simp [hi]

/-- A word whose written fields are plain: the written bits are the value's, the others are as before. -/
theorem writeFields_plain {n o : Nat} {mask : Word} (hrw : classMask n o (fun x => decide (x = .rw)) = mask)
    (hrwl : classMask n o (fun x => decide (x = .rwl)) = 0) (hrws : classMask n o (fun x => decide (x = .rws)) = 0)
    (hw1c : classMask n o (fun x => decide (x = .w1c)) = 0) (val : Word) :
    s.writeFields n o val 0 = (false, s.setRaw n o ((s.raw n o &&& ~~~mask) ||| (val &&& mask))) := by
  have hnot (x : Word) : x &&& ~~~(0 : Word) = x := by
    show x &&& ~~~0#64 = x
    rw [BitVec.not_zero, BitVec.and_allOnes]
  have hzero (x : Word) : x &&& (0 : Word) = 0 ∧ x ||| (0 : Word) = x := ⟨BitVec.and_zero, BitVec.or_zero⟩
  simp only [State.writeFields, hrw, hrwl, hrws, hw1c, hnot, (hzero _).1, (hzero _).2, ite_self, ne_eq, not_true_eq_false, decide_false,
    Bool.and_false, if_true]

theorem getLsbD_merged (v w mask : Word) {i : Nat} (hm : mask.getLsbD i = true) : ((v &&& ~~~mask) ||| (w &&& mask)).getLsbD i = w.getLsbD i := by
  simp only [BitVec.getLsbD_or, BitVec.getLsbD_and, BitVec.getLsbD_not, hm]
  simp

/-- A write of a word of KEY whose low k bits are plain fields sets those bits, and acts. -/
theorem keyWrite_acts {o k : Nat} {mask : Word} (ho : o = 0x108 ∨ o = 0x110 ∨ o = 0x118)
    (hmask : classMask (keyPage 0) o (fun x => decide (x = .rw)) = mask) (hk : ∀ i, i < k → mask.getLsbD i = true) (val : Word) :
    ∃ w, (∀ i, i < k → w.getLsbD i = val.getLsbD i)
      ∧ s.regWriteAt none (keyPage 0) o val = (s.setRaw (keyPage 0) o w).blockAct (keyPage 0) o val true := by
  have hblock : blockOf (keyPage 0) = .key := by decide
  have hpwr : keyPage 0 ≠ pwrPage := by decide
  refine ⟨_, fun i hi => getLsbD_merged (s.raw (keyPage 0) o) val mask (hk i hi), ?_⟩
  have hplain : classMask (keyPage 0) o (fun x => decide (x = .rwl)) = 0 ∧ classMask (keyPage 0) o (fun x => decide (x = .rws)) = 0
      ∧ classMask (keyPage 0) o (fun x => decide (x = .w1c)) = 0 ∧ elsewhere (keyPage 0) o = false := by
    rcases ho with rfl | rfl | rfl <;> decide
  obtain ⟨hrwl, hrws, hw1c, helse⟩ := hplain
  have hoff : o ≠ 0x010 ∧ o ≠ 0x018 ∧ o ≠ 0x020 ∧ o ≠ 0x030 ∧ o < 0xC00 := by omega
  obtain ⟨h1, h2, h3, h4, h5⟩ := hoff
  have hwrite := writeFields_plain (s := s) hmask hrwl hrws hw1c val
  simp only [State.regWriteAt, h1, h2, h3, h4, Nat.not_le.2 h5, helse, hpwr, hblock, false_and, if_false, Bool.false_eq_true, or_self, reduceCtorEq,
    hwrite, Bool.not_false]

/-! ### The words of the rows -/

section switchWord

variable {q c mode : Nat} (hq : q < 64) (hc : c < 256) (hm : mode < 4)
include hq hc hm

theorem switchWord_toNat : (switchWord q c mode).toNat = q + c * 2 ^ 6 + mode * 2 ^ 14 + 2 ^ 16 := by
  rw [switchWord, BitVec.toNat_ofNat]
  exact Nat.mod_eq_of_lt (by omega)

theorem switchWord_fields : bits (switchWord q c mode) 0 6 = q ∧ bits (switchWord q c mode) 6 8 = c ∧ bits (switchWord q c mode) 14 2 = mode := by
  simp only [bits, switchWord_toNat hq hc hm]
  omega

theorem switchWord_go : (switchWord q c mode).getLsbD 16 = true := by
  rw [BitVec.getLsbD, switchWord_toNat hq hc hm, Nat.testBit_eq_decide_div_mod_eq, decide_eq_true_eq]
  omega

end switchWord

theorem reloadWord_fields (c : Fin 256) : bits (BitVec.ofNat 64 (c.val + 2 ^ 8)) 0 8 = c.val ∧ (BitVec.ofNat 64 (c.val + 2 ^ 8)).getLsbD 8 = true := by
  have hc := c.isLt
  have h : (BitVec.ofNat 64 (c.val + 2 ^ 8)).toNat = c.val + 2 ^ 8 := by
    rw [BitVec.toNat_ofNat]
    exact Nat.mod_eq_of_lt (by omega)
  rw [bits, BitVec.getLsbD, h, Nat.testBit_eq_decide_div_mod_eq, decide_eq_true_eq]
  omega

/-- The word that ERASE writes. -/
def eraseWord (c : Fin 256) (mgmt : Bool) : Word := BitVec.ofNat 64 (c.val + flag mgmt * 2 ^ 8 + 2 ^ 9)

theorem eraseWord_fields (c : Fin 256) (mgmt : Bool) :
    bits (eraseWord c mgmt) 0 8 = c.val ∧ (eraseWord c mgmt).getLsbD 8 = mgmt ∧ (eraseWord c mgmt).getLsbD 9 = true := by
  have hc := c.isLt
  have hb : flag mgmt ≤ 1 := by cases mgmt <;> decide
  have h : (eraseWord c mgmt).toNat = c.val + flag mgmt * 2 ^ 8 + 2 ^ 9 := by
    rw [eraseWord, BitVec.toNat_ofNat]
    exact Nat.mod_eq_of_lt (by omega)
  rw [bits, BitVec.getLsbD, BitVec.getLsbD, h, Nat.testBit_eq_decide_div_mod_eq, Nat.testBit_eq_decide_div_mod_eq]
  cases mgmt <;> simp only [flag, Bool.false_eq_true, if_true, if_false, decide_eq_true_eq, decide_eq_false_iff_not] <;> omega

/-! ### The rows -/

/-- What a write of the KEY page does beyond its fields (R326, R327, R339). -/
theorem keyAct_eq (s : State) (o : Nat) (val : Word) (ok : Bool) : s.blockAct (keyPage 0) o val ok =
    if o = 0x108 ∧ val.getLsbD 16 then s.switchAct else if o = 0x110 ∧ val.getLsbD 8 then s.reloadAct
    else if o = 0x118 ∧ val.getLsbD 9 then s.eraseAct else s := rfl

/-- The commands that write SWITCH.GO, with their modes (R327). -/
def IsSwitch (a : Access) (i : Instr) (q : Fin 64) (c : Fin 256) (mode : Nat) : Prop :=
  (i = .switchRestore a q c ∧ mode = 0) ∨ (i = .switchClear a q c ∧ mode = 1) ∨ (i = .switchVacate a q ∧ c = 0 ∧ mode = 2)

theorem switch_acts {i : Instr} {q : Fin 64} {c : Fin 256} {mode : Nat} (hb : ByBureau s a (keyPage 0)) (hi : IsSwitch a i q c mode) :
    ∃ w, (bits w 0 6 = q ∧ bits w 6 8 = c ∧ bits w 14 2 = mode) ∧ exec i s = .next (s.setRaw (keyPage 0) 0x108 w).switchAct := by
  have hmode : mode < 4 := by
    rcases hi with ⟨-, rfl⟩ | ⟨-, rfl⟩ | ⟨-, -, rfl⟩ <;> decide
  have hrow : exec i s = .next (s.rowWrite a (pageAddr (keyPage 0) 0x108) (switchWord q c mode)) := by
    rcases hi with ⟨rfl, rfl⟩ | ⟨rfl, rfl⟩ | ⟨rfl, rfl, rfl⟩ <;> rfl
  obtain ⟨hquad, hctx, hm⟩ := switchWord_fields q.isLt c.isLt hmode
  obtain ⟨w, hw, hact⟩ := keyWrite_acts (s := s) (o := 0x108) (k := 16) (.inl rfl) rfl (by decide) (switchWord q c mode)
  refine ⟨w, ⟨(bits_congr hw (by decide)).trans hquad, (bits_congr hw (by decide)).trans hctx, (bits_congr hw (by decide)).trans hm⟩, ?_⟩
  rw [hrow, rowWrite_bureau hb (by decide) (by decide) (by decide), hact]
  rw [keyAct_eq, if_pos ⟨rfl, switchWord_go q.isLt c.isLt hmode⟩]

theorem reload_acts (hb : ByBureau s a (keyPage 0)) (c : Fin 256) :
    ∃ w, bits w 0 8 = c ∧ exec (.reload a c) s = .next (s.setRaw (keyPage 0) 0x110 w).reloadAct := by
  obtain ⟨hctx, hgo⟩ := reloadWord_fields c
  obtain ⟨w, hw, hact⟩ := keyWrite_acts (s := s) (o := 0x110) (k := 8) (.inr (.inl rfl)) rfl (by decide) (BitVec.ofNat 64 (c.val + 2 ^ 8))
  refine ⟨w, (bits_congr hw (by decide)).trans hctx, ?_⟩
  show Host.Outcome.next (s.rowWrite a (pageAddr (keyPage 0) 0x110) (BitVec.ofNat 64 (c.val + 2 ^ 8))) = _
  rw [rowWrite_bureau hb (by decide) (by decide) (by decide), hact]
  rw [keyAct_eq, if_neg (by simp), if_pos ⟨rfl, hgo⟩]

theorem erase_acts (hb : ByBureau s a (keyPage 0)) (c : Fin 256) (mgmt : Bool) :
    ∃ w, (bits w 0 8 = c ∧ w.getLsbD 8 = mgmt) ∧ exec (.erase a c mgmt) s = .next (s.setRaw (keyPage 0) 0x118 w).eraseAct := by
  obtain ⟨hctx, hmgmt, hgo⟩ := eraseWord_fields c mgmt
  obtain ⟨w, hw, hact⟩ := keyWrite_acts (s := s) (o := 0x118) (k := 9) (.inr (.inr rfl)) rfl (by decide) (eraseWord c mgmt)
  refine ⟨w, ⟨(bits_congr hw (by decide)).trans hctx, (hw 8 (by decide)).trans hmgmt⟩, ?_⟩
  show Host.Outcome.next (s.rowWrite a (pageAddr (keyPage 0) 0x118) (eraseWord c mgmt)) = _
  rw [rowWrite_bureau hb (by decide) (by decide) (by decide), hact]
  rw [keyAct_eq, if_neg (by simp), if_neg (by simp), if_pos ⟨rfl, hgo⟩]

/-! ## Descriptors (R326) -/

/-- A field that ends with the word is a plain quotient. -/
theorem bits_top (w : Word) {lo n : Nat} (h : lo + n = 64) : bits w lo n = w.toNat / 2 ^ lo := by
  have hw := w.isLt
  have hpow : 2 ^ 64 = 2 ^ lo * 2 ^ n := by rw [← h, Nat.pow_add]
  exact Nat.mod_eq_of_lt (Nat.div_lt_of_lt_mul (by omega))

/-- The checks of R326 as the model makes them. -/
theorem bad_iff (d : CtxDesc) : d.bad = false ↔ GoodDesc d := by
  simp only [CtxDesc.bad, Bool.or_eq_false_iff, Bool.not_eq_false', decide_eq_false_iff_not, not_or, ne_eq, not_not, Nat.not_lt, and_assoc,
    bits_top d.w0 (lo := 52) (n := 12) rfl, bits_top d.w1 (lo := 48) (n := 16) rfl, bits_top d.w4 (lo := 4) (n := 60) rfl, bits_zero]
  exact Iff.rfl

theorem cdBase_eq (s : State) : s.fld (keyPage 0) 0x100 0 52 = (s.raw (keyPage 0) 0x100).toNat % 2 ^ 52 := by
  rw [State.fld, State.inForce, if_neg fun h => absurd h.1 (by decide), bits_zero]

theorem readDesc_eq (s : State) (c : Nat) : s.readDesc ((s.raw (keyPage 0) 0x100).toNat % 2 ^ 52 + 64 * c) = descIn s c := rfl

theorem checkDesc_some {c : Nat} (hbase : (s.raw (keyPage 0) 0x100).toNat % 2 ^ 52 + 256 * 64 ≤ hbmBytes) (hgood : GoodDesc (descIn s c)) :
    s.checkDesc c = some (descIn s c) := by
  simp only [State.checkDesc, cdBase_eq, readDesc_eq, Nat.not_lt.2 hbase, if_false, (bad_iff _).2 hgood, Bool.false_eq_true]

theorem checkDesc_none {c : Nat} (h : hbmBytes < (s.raw (keyPage 0) 0x100).toNat % 2 ^ 52 + 256 * 64 ∨ ¬ GoodDesc (descIn s c)) :
    s.checkDesc c = none := by
  simp only [State.checkDesc, cdBase_eq, readDesc_eq]
  split
  · rfl
  next hbase =>
    have hbad : (descIn s c).bad = true := by
      rw [← Bool.not_eq_false, bad_iff]
      exact h.resolve_left hbase
    rw [if_pos hbad]

/-! ## A state with one word of the KEY page rewritten -/

section written

variable {o : Nat} {w : Word}

/-- A word of KEY other than CD_BASE has no part in a descriptor. -/
theorem checkDesc_setRaw (ho : o / 8 ≠ 0x100 / 8) (c : Nat) : (s.setRaw (keyPage 0) o w).checkDesc c = s.checkDesc c := by
  have hbase := raw_setRaw_other s (keyPage 0) (keyPage 0) o 0x100 w (.inr ho.symm)
  simp only [State.checkDesc, cdBase_eq, hbase]
  rfl

theorem rejected_setRaw (n : Nat) (ho : o / 8 < 512) : Rejected n o s ((s.setRaw n o w).reject n o) := by
  obtain ⟨hbit, hevent, hword⟩ := reject_rejected (s := s.setRaw n o w) n o ho
  refine ⟨hbit, hevent, fun h => hword ?_⟩
  rw [← h]
  exact modPage_keeps s Page.writeRejected n n _ fun _ => rfl

/-- A Contained error since the word was written. -/
theorem contained_setRaw (n code : Nat) (c : Option Nat) (f : Keys → Keys) :
    Reported n 2 code s (((s.setRaw n o w).modKey f).contained n code c) := by
  obtain ⟨herr, hcount⟩ := setRaw_errSame s n o w n
  exact reported_from (s₁ := (s.setRaw n o w).modKey f) herr hcount (raise_reported (by decide))

end written

/-! ## The start of a switch (R95, R327, R329) -/

theorem foldl_modTile (f : Tile → Tile) : ∀ (ts : List Nat) (s : State), ts.Nodup →
    (∀ u, (ts.foldl (fun s t => s.modTile t f) s).tile u = if u ∈ ts then f (s.tile u) else s.tile u)
      ∧ ∃ tiles, ts.foldl (fun s t => s.modTile t f) s = { s with tiles := tiles } := by
  intro ts
  induction ts with
  | nil => exact fun s _ => ⟨fun _ => rfl, _, rfl⟩
  | cons t ts ih =>
    intro s hnodup
    obtain ⟨ht, hts⟩ := List.nodup_cons.1 hnodup
    obtain ⟨htile, tiles, hrest⟩ := ih (s.modTile t f) hts
    refine ⟨fun u => ?_, tiles, hrest⟩
    rw [List.foldl_cons, htile]
    by_cases hu : u = t
    · subst hu
      rw [if_neg ht, tile_modTile_same, if_pos List.mem_cons_self]
    · simp [tile_modTile_other _ _ _ _ hu, hu]

theorem quadTiles_nodup (q : Nat) : (quadTiles q).Nodup := by
  simp only [quadTiles, List.nodup_cons, List.mem_cons, List.not_mem_nil, or_false, not_or, List.nodup_nil, not_false_eq_true, and_true]
  omega

/-- A tile's sequencer stops issuing. -/
def Tile.stop (ti : Tile) : Tile := if ti.seq = .running ∨ ti.seq = .waiting then { ti with stopped := true } else ti

theorem stop_eq (ti : Tile) : ti.stop = { ti with stopped := ti.stopped || decide (ti.seq = .running ∨ ti.seq = .waiting) } := by
  unfold Tile.stop
  split
  · simp [*]
  · simp [*]

/-- A switch that the quad's tiles stop for. -/
def State.beginSwitch (s : State) (w : Switch) : State :=
  (quadTiles w.quad).foldl (fun s t => s.modTile t Tile.stop) (s.modKey fun k => { k with switch := some w, refused := false })

theorem beginSwitch_begins (s : State) (w : Switch) : (s.beginSwitch w).key = { s.key with switch := some w, refused := false }
    ∧ SwitchBegun w.quad s (s.beginSwitch w) := by
  obtain ⟨htile, tiles, hrest⟩ := foldl_modTile Tile.stop (quadTiles w.quad) (s.modKey fun k => { k with switch := some w, refused := false })
    (quadTiles_nodup _)
  have hkey : (s.beginSwitch w).key = { s.key with switch := some w, refused := false } := by
    rw [State.beginSwitch, hrest]
    rfl
  have hmem : (s.beginSwitch w).mem = s.mem := by
    rw [State.beginSwitch, hrest]
    rfl
  refine ⟨hkey, by rw [hkey], by rw [hkey], memSame_of_eq hmem, fun t ht => ?_, fun t ht => (htile t).trans (if_neg ht)⟩
  exact (htile t).trans ((if_pos ht).trans (stop_eq _))

section switchAct

variable {w : Word} {q c mode : Nat} (hw : bits w 0 6 = q ∧ bits w 6 8 = c ∧ bits w 14 2 = mode)
  (hraw : s.raw (keyPage 0) 0x108 = w)

theorem switchAct_rejects {x : Switch} (h : s.key.switch = some x) : s.switchAct = s.reject (keyPage 0) 0x108 := by
  simp only [State.switchAct, h, Option.isSome_some, if_true]

include hw hraw

theorem switchAct_refuses (h : s.key.switch = none) (hq : 48 ≤ q ∨ s.pkg.powered.getLsbD q = false) :
    s.switchAct = s.switchRefused 0x101 none := by
  obtain ⟨hquad, -, -⟩ := hw
  simp only [State.switchAct, hraw, hquad, h, Option.isSome_none, Bool.false_eq_true, if_false]
  split
  · rfl
  next hno => rw [if_pos (by simp [hq.resolve_left fun hge => hno (.inr hge)])]

variable (h : s.key.switch = none) (hq : q < 48) (hp : s.pkg.powered.getLsbD q = true)
include h hq hp

theorem switchAct_vacates (hm : mode = 2) : s.switchAct = s.beginSwitch { quad := q, ctx := c, mode := mode } := by
  obtain ⟨hquad, hctx, hmode⟩ := hw
  subst hm
  simp only [State.switchAct, hraw, hquad, hctx, hmode, h, hp, Option.isSome_none, Bool.false_eq_true, if_false, Nat.not_le.2 hq, or_false,
    Bool.not_true, if_true, show ¬ 2 = 3 by decide]
  rfl

theorem switchAct_begins (hm : mode < 2) {d : CtxDesc} (hd : s.checkDesc c = some d) (hlist : d.w1.getLsbD q = true) :
    s.switchAct = (s.setDesc c d).beginSwitch { quad := q, ctx := c, mode := mode } := by
  obtain ⟨hquad, hctx, hmode⟩ := hw
  simp only [State.switchAct, hraw, hquad, hctx, hmode, h, hp, Option.isSome_none, Bool.false_eq_true, if_false, Nat.not_le.2 hq, or_false,
    Bool.not_true, show ¬ mode = 3 by omega, show ¬ mode = 2 by omega, hd, hlist, if_true]
  rfl

theorem switchAct_bad (hm : mode < 2) (hd : ∀ d, s.checkDesc c = some d → d.w1.getLsbD q = false) :
    s.switchAct = s.switchRefused 0x100 (some c) := by
  obtain ⟨hquad, hctx, hmode⟩ := hw
  simp only [State.switchAct, hraw, hquad, hctx, hmode, h, hp, Option.isSome_none, Bool.false_eq_true, if_false, Nat.not_le.2 hq, or_false,
    Bool.not_true, show ¬ mode = 3 by omega, show ¬ mode = 2 by omega]
  cases hcheck : s.checkDesc c with
  | none => rfl
  | some d => simp only [hd d hcheck, Bool.false_eq_true, if_false]

end switchAct

theorem switchRefused_refused (s : State) (code : Nat) (ctx : Option Nat) (w : Word) :
    SwitchRefused code s ((s.setRaw (keyPage 0) 0x108 w).switchRefused code ctx) := by
  obtain ⟨htiles, hmem, hbase⟩ := contained_pageFrame ((s.setRaw (keyPage 0) 0x108 w).modKey fun k => { k with refused := true }) (keyPage 0) code ctx
  obtain ⟨-, -, -, -, -, hkey, -⟩ := hbase
  exact ⟨hkey, contained_setRaw .., htiles, hmem⟩

/-! ### The rows of a switch -/

section switchRows

variable {i : Instr} {q : Fin 64} {c : Fin 256} {mode : Nat} (hb : ByBureau s a (keyPage 0)) (hi : IsSwitch a i q c mode)
include hb hi

theorem switch_rejects {x : Switch} (h : s.key.switch = some x) :
    Answers i s fun s' => Rejected (keyPage 0) 0x108 s s' ∧ s'.key = s.key ∧ TilesSame s s' ∧ MemSame s s' := by
  obtain ⟨w, -, hrun⟩ := switch_acts hb hi
  refine ⟨_, hrun, ?_⟩
  rw [switchAct_rejects (s := s.setRaw (keyPage 0) 0x108 w) h]
  obtain ⟨htiles, hmem, hbase⟩ := (setRaw_pageFrame s (keyPage 0) 0x108 w).trans (reject_pageFrame _ (keyPage 0) 0x108)
  obtain ⟨-, -, -, -, -, hkey, -⟩ := hbase
  exact ⟨rejected_setRaw _ (by decide), hkey, htiles, hmem⟩

theorem switch_refuses (h : s.key.switch = none) (hq : 48 ≤ q.val ∨ s.pkg.powered.getLsbD q = false) :
    Answers i s (SwitchRefused 0x101 s) := by
  obtain ⟨w, hw, hrun⟩ := switch_acts hb hi
  refine ⟨_, hrun, ?_⟩
  rw [switchAct_refuses hw (raw_setRaw_same ..) h hq]
  exact switchRefused_refused ..

variable (h : s.key.switch = none) (hq : q.val < 48) (hp : s.pkg.powered.getLsbD q = true)
include h hq hp

theorem switch_vacates (hm : mode = 2) :
    Answers i s fun s' => s'.key.switch = some { quad := q, ctx := 0, mode := 2 } ∧ s'.key.descs = s.key.descs ∧ SwitchBegun q s s' := by
  have hc : c = 0 := by
    rcases hi with ⟨-, rfl⟩ | ⟨-, rfl⟩ | ⟨-, rfl, -⟩
    · cases hm
    · cases hm
    · rfl
  subst hm hc
  obtain ⟨w, hw, hrun⟩ := switch_acts hb hi
  obtain ⟨hkey, hbegun⟩ := beginSwitch_begins (s.setRaw (keyPage 0) 0x108 w) { quad := q, ctx := (0 : Fin 256), mode := 2 }
  refine ⟨_, hrun, ?_⟩
  rw [switchAct_vacates hw (raw_setRaw_same ..) h hq hp rfl]
  dsimp only
  rw [hkey]
  exact ⟨rfl, rfl, hbegun.of_same rfl rfl rfl⟩

theorem switch_begins (hm : mode < 2) (hbase : (s.raw (keyPage 0) 0x100).toNat % 2 ^ 52 + 256 * 64 ≤ hbmBytes) (hgood : GoodDesc (descIn s c))
    (hlist : (descIn s c).w1.getLsbD q = true) :
    Answers i s fun s' => s'.key.switch = some { quad := q, ctx := c, mode := mode }
      ∧ (∀ d, s'.desc d = if d = c.val then descIn s c else s.desc d) ∧ SwitchBegun q s s' := by
  obtain ⟨w, hw, hrun⟩ := switch_acts hb hi
  have hcheck := checkDesc_some hbase hgood
  rw [← checkDesc_setRaw (o := 0x108) (w := w) (by decide)] at hcheck
  obtain ⟨hkey, hbegun⟩ := beginSwitch_begins ((s.setRaw (keyPage 0) 0x108 w).setDesc c (descIn s c)) { quad := q, ctx := c, mode := mode }
  refine ⟨_, hrun, ?_⟩
  rw [switchAct_begins hw (raw_setRaw_same ..) h hq hp hm hcheck hlist]
  refine ⟨?_, fun d => ?_, hbegun.of_same (by simp [State.setDesc]) (by simp [State.setDesc]) (by simp [State.setDesc])⟩
  · rw [hkey]
  · rw [State.desc, hkey]
    simp [State.setDesc, Tab.get_set, State.desc]

theorem switch_bad (hm : mode < 2) (hbad : hbmBytes < (s.raw (keyPage 0) 0x100).toNat % 2 ^ 52 + 256 * 64 ∨ ¬ GoodDesc (descIn s c)
      ∨ (descIn s c).w1.getLsbD q = false) : Answers i s (SwitchRefused 0x100 s) := by
  obtain ⟨w, hw, hrun⟩ := switch_acts hb hi
  have hcheck (d : CtxDesc) (hd : (s.setRaw (keyPage 0) 0x108 w).checkDesc c = some d) : d.w1.getLsbD q = false := by
    rw [checkDesc_setRaw (by decide)] at hd
    by_cases hok : hbmBytes < (s.raw (keyPage 0) 0x100).toNat % 2 ^ 52 + 256 * 64 ∨ ¬ GoodDesc (descIn s c)
    · rw [checkDesc_none hok] at hd
      cases hd
    · obtain ⟨hbase, hgood⟩ := not_or.1 hok
      rw [checkDesc_some (Nat.not_lt.1 hbase) (not_not.1 hgood)] at hd
      obtain rfl := Option.some.inj hd
      exact (hbad.resolve_left hbase).resolve_left hgood
  refine ⟨_, hrun, ?_⟩
  rw [switchAct_bad hw (raw_setRaw_same ..) h hq hp hm hcheck]
  exact switchRefused_refused ..

end switchRows

/-! ## RELOAD (R326) -/

section reloadAct

variable {c : Nat} (hc : bits (s.raw (keyPage 0) 0x110) 0 8 = c)
include hc

theorem reloadAct_rejects {x : Switch} (h : s.key.switch = some x) (hctx : x.ctx = c) (hm : x.mode < 2) :
    s.reloadAct = s.reject (keyPage 0) 0x110 := by
  simp only [State.reloadAct, hc, h, hctx, hm, and_self, decide_true, if_true]

variable (hfree : ∀ x, s.key.switch = some x → x.ctx ≠ c ∨ 2 ≤ x.mode)
include hfree

theorem reloadAct_copies {d : CtxDesc} (hd : s.checkDesc c = some d) : s.reloadAct = s.setDesc c d := by
  cases hx : s.key.switch with
  | none => simp only [State.reloadAct, hc, hx, Bool.false_eq_true, if_false, hd]
  | some x =>
    have hnot : ¬ (x.ctx = c ∧ x.mode < 2) := by have := hfree x hx; omega
    simp only [State.reloadAct, hc, hx, decide_eq_true_eq, hnot, if_false, hd]

theorem reloadAct_refuses (hd : s.checkDesc c = none) : s.reloadAct = s.contained (keyPage 0) 0x100 (some c) := by
  cases hx : s.key.switch with
  | none => simp only [State.reloadAct, hc, hx, Bool.false_eq_true, if_false, hd]
  | some x =>
    have hnot : ¬ (x.ctx = c ∧ x.mode < 2) := by have := hfree x hx; omega
    simp only [State.reloadAct, hc, hx, decide_eq_true_eq, hnot, if_false, hd]

end reloadAct

section reload

variable (hb : ByBureau s a (keyPage 0)) (c : Fin 256)
include hb

theorem reload_rejects {x : Switch} (h : s.key.switch = some x) (hctx : x.ctx = c.val) (hm : x.mode < 2) :
    Answers (.reload a c) s fun s' => Rejected (keyPage 0) 0x110 s s' ∧ s'.key = s.key ∧ TilesSame s s' ∧ MemSame s s' := by
  obtain ⟨w, hw, hrun⟩ := reload_acts hb c
  refine ⟨_, hrun, ?_⟩
  rw [reloadAct_rejects ((congrArg (bits · 0 8) (raw_setRaw_same ..)).trans hw) h hctx hm]
  obtain ⟨htiles, hmem, hbase⟩ := (setRaw_pageFrame s (keyPage 0) 0x110 w).trans (reject_pageFrame _ (keyPage 0) 0x110)
  obtain ⟨-, -, -, -, -, hkey, -⟩ := hbase
  exact ⟨rejected_setRaw _ (by decide), hkey, htiles, hmem⟩

variable (hfree : ∀ x, s.key.switch = some x → x.ctx ≠ c.val ∨ 2 ≤ x.mode)
include hfree

theorem reload_copies (hbase : (s.raw (keyPage 0) 0x100).toNat % 2 ^ 52 + 256 * 64 ≤ hbmBytes) (hgood : GoodDesc (descIn s c)) :
    Answers (.reload a c) s fun s' => (∀ d, s'.desc d = if d = c.val then descIn s c else s.desc d)
      ∧ { s'.key with descs := s.key.descs } = s.key ∧ TilesSame s s' ∧ MemSame s s' := by
  obtain ⟨w, hw, hrun⟩ := reload_acts hb c
  have hcheck := checkDesc_some hbase hgood
  rw [← checkDesc_setRaw (o := 0x110) (w := w) (by decide)] at hcheck
  refine ⟨_, hrun, ?_⟩
  rw [reloadAct_copies ((congrArg (bits · 0 8) (raw_setRaw_same ..)).trans hw) hfree hcheck]
  refine ⟨fun d => ?_, ?_, fun t => ?_, memSame_of_eq ?_⟩
  · simp [State.setDesc, Tab.get_set, State.desc]
  · simp [State.setDesc]
  · simp [State.setDesc, State.tile]
  · simp [State.setDesc]

theorem reload_refuses (hbad : hbmBytes < (s.raw (keyPage 0) 0x100).toNat % 2 ^ 52 + 256 * 64 ∨ ¬ GoodDesc (descIn s c)) :
    Answers (.reload a c) s fun s' => s'.key = s.key ∧ Reported (keyPage 0) 2 0x100 s s' ∧ TilesSame s s' ∧ MemSame s s' := by
  obtain ⟨w, hw, hrun⟩ := reload_acts hb c
  have hcheck := checkDesc_none hbad
  rw [← checkDesc_setRaw (o := 0x110) (w := w) (by decide)] at hcheck
  refine ⟨_, hrun, ?_⟩
  rw [reloadAct_refuses ((congrArg (bits · 0 8) (raw_setRaw_same ..)).trans hw) hfree hcheck]
  obtain ⟨htiles, hmem, hbase⟩ := (setRaw_pageFrame s (keyPage 0) 0x110 w).trans (contained_pageFrame _ (keyPage 0) 0x100 (some c.val))
  obtain ⟨-, -, -, -, -, hkey, -⟩ := hbase
  exact ⟨hkey, contained_setRaw (o := 0x110) (keyPage 0) 0x100 (some c.val) id, htiles, hmem⟩

end reload

/-! ## ERASE and the expiry of sessions (R339) -/

/-- An erasure changes its word of the KEY page and the keys, and nothing else. -/
theorem modKey_setRaw_frame (s : State) (n o : Nat) (w : Word) (f : Keys → Keys) : OtherWords n o s ((s.setRaw n o w).modKey f)
    ∧ OtherPages n s ((s.setRaw n o w).modKey f) ∧ TilesSame s ((s.setRaw n o w).modKey f) ∧ MemSame s ((s.setRaw n o w).modKey f) :=
  ⟨setRaw_otherWords n o w, setRaw_otherPages n o w, fun _ => rfl, memSame_of_eq rfl⟩

theorem erase_job (hb : ByBureau s a (keyPage 0)) (c : Fin 256) : Answers (.erase a c false) s fun s' =>
    (∀ d, Tab.get none s'.key.keys d = if d = c.val then none else Tab.get none s.key.keys d) ∧ { s'.key with keys := s.key.keys } = s.key
      ∧ OtherWords (keyPage 0) 0x118 s s' ∧ OtherPages (keyPage 0) s s' ∧ TilesSame s s' ∧ MemSame s s' := by
  obtain ⟨w, ⟨hctx, hmgmt⟩, hrun⟩ := erase_acts hb c false
  refine ⟨_, hrun, ?_⟩
  simp only [State.eraseAct, raw_setRaw_same, hctx, hmgmt, Bool.false_eq_true, if_false]
  exact ⟨fun d => Tab.get_set none s.key.keys c d none, rfl, modKey_setRaw_frame ..⟩

theorem erase_mgmt (hb : ByBureau s a (keyPage 0)) (c : Fin 256) : Answers (.erase a c true) s fun s' => s'.key = { s.key with mgmt := none }
    ∧ OtherWords (keyPage 0) 0x118 s s' ∧ OtherPages (keyPage 0) s s' ∧ TilesSame s s' ∧ MemSame s s' := by
  obtain ⟨w, ⟨-, hmgmt⟩, hrun⟩ := erase_acts hb c true
  refine ⟨_, hrun, ?_⟩
  simp only [State.eraseAct, raw_setRaw_same, hmgmt, if_true]
  exact ⟨rfl, modKey_setRaw_frame ..⟩

theorem attSessionExpiry_removes (h : Awake s) (n : BitVec 256) : Answers (.attSessionExpiry n) s fun s' =>
    (∀ x, x ∈ s'.key.sessions ↔ x ∈ s.key.sessions ∧ ¬ (x.nonce = n ∧ x.opened + 60000000000 < s.time))
      ∧ { s with key := { s.key with sessions := s'.key.sessions } } = s' := by
  have hrun : exec (.attSessionExpiry n) s = .next (s.modKey fun k =>
      { k with sessions := k.sessions.filter fun x => !decide (x.nonce = n ∧ sessionNs < s.time - x.opened) }) := if_pos (awake_of_Awake h)
  refine ⟨_, hrun, fun x => ?_, rfl⟩
  have hns : sessionNs < s.time - x.opened ↔ x.opened + 60000000000 < s.time := by
    unfold sessionNs
    omega
  show x ∈ s.key.sessions.filter (fun x => !decide (x.nonce = n ∧ sessionNs < s.time - x.opened)) ↔ _
  rw [List.mem_filter, Bool.not_eq_true', decide_eq_false_iff_not, hns]

end Sys2Proof.Machine
end

section
/-! SWITCH_DONE (R95, R327, R328, R329): the tiles saved, cleared and restored, and the records that a context's inboxes receive. -/

namespace Sys2Proof.Machine

open Sys2Proof Sys2Proof.Spec

variable {s s₁ s₂ : State}

/-! ## What saving, clearing and restoring leave -/

/-- Nothing but tiles, pages, the numbers drawn and what contexts have saved changes. -/
def SwitchMoves (s s' : State) : Prop := ∃ ds ts ps sv kp,
  s' = { s with draws := ds, tiles := ts, pages := ps, key := { s.key with saved := sv, pages := kp } }

theorem SwitchMoves.refl (s : State) : SwitchMoves s s := ⟨_, _, _, _, _, rfl⟩

theorem SwitchMoves.trans (h₁ : SwitchMoves s s₁) (h₂ : SwitchMoves s₁ s₂) : SwitchMoves s s₂ := by
  obtain ⟨_, _, _, _, _, rfl⟩ := h₁
  obtain ⟨ds, ts, ps, sv, kp, rfl⟩ := h₂
  exact ⟨ds, ts, ps, sv, kp, rfl⟩

theorem SwitchMoves.mem (h : SwitchMoves s s₁) : s₁.mem = s.mem := by obtain ⟨_, _, _, _, _, rfl⟩ := h; rfl
theorem SwitchMoves.bur (h : SwitchMoves s s₁) : s₁.bur = s.bur := by obtain ⟨_, _, _, _, _, rfl⟩ := h; rfl
theorem SwitchMoves.owner (h : SwitchMoves s s₁) : s₁.key.owner = s.key.owner := by obtain ⟨_, _, _, _, _, rfl⟩ := h; rfl
theorem SwitchMoves.inbox (h : SwitchMoves s s₁) : s₁.key.inbox = s.key.inbox := by obtain ⟨_, _, _, _, _, rfl⟩ := h; rfl

theorem count_moves (s : State) (n i : Nat) (c : Option Nat) (k : Nat) : SwitchMoves s (s.count n i c k) := by
  unfold State.count
  split
  · exact .refl s
  · exact ⟨_, _, _, _, _, rfl⟩

/-- No page's record of errors, and no QUIESCE bit, has changed. -/
def PagesKept (s s' : State) : Prop := ErrSame s s' ∧ ∀ m, (s'.page m).quiesceBit = (s.page m).quiesceBit

theorem PagesKept.refl (s : State) : PagesKept s s := ⟨fun _ => ⟨rfl, rfl⟩, fun _ => rfl⟩

theorem PagesKept.trans (h₁ : PagesKept s s₁) (h₂ : PagesKept s₁ s₂) : PagesKept s s₂ :=
  ⟨h₁.1.trans h₂.1, fun m => (h₂.2 m).trans (h₁.2 m)⟩

theorem count_pagesKept (s : State) (n i : Nat) (c : Option Nat) (k : Nat) : PagesKept s (s.count n i c k) :=
  ⟨fun _ => ⟨by simp, by simp⟩, fun _ => by simp⟩

/-- A context's part of pages is replaced. -/
theorem withCtxPart_fold (part : State → Nat → Page) (ns : List Nat) (s : State) :
    (∃ ps, ns.foldl (fun s n => s.modPage n fun p => p.withCtxPart (part s n)) s = { s with pages := ps })
      ∧ PagesKept s (ns.foldl (fun s n => s.modPage n fun p => p.withCtxPart (part s n)) s) := by
  refine foldl_keeps (fun s' => (∃ ps, s' = { s with pages := ps }) ∧ PagesKept s s') _ (fun s' n h => ?_) ns s ⟨⟨_, rfl⟩, .refl s⟩
  obtain ⟨⟨ps, hps⟩, hkept⟩ := h
  refine ⟨⟨_, by rw [hps]; rfl⟩, hkept.trans ⟨modPage_errSame s' n ?_ ?_, fun m => modPage_keeps s' Page.quiesceBit n m _ ?_⟩⟩
  · exact fun _ => rfl
  · exact fun _ => rfl
  · exact fun _ => rfl

/-! ## Saving (R95) -/

theorem saveTile_fold (o : Nat) (ts : List Nat) : ∀ s : State, SwitchMoves s (ts.foldl (fun s t => s.saveTile o t) s)
    ∧ PagesKept s (ts.foldl (fun s t => s.saveTile o t) s) ∧ TilesSame s (ts.foldl (fun s t => s.saveTile o t) s)
    ∧ (∀ t, t ∈ ts → Tab.get {} (ts.foldl (fun s t => s.saveTile o t) s).key.saved (o * 192 + t) = s.tile t)
    ∧ ∀ i, (∀ t, t ∈ ts → i ≠ o * 192 + t) → Tab.get {} (ts.foldl (fun s t => s.saveTile o t) s).key.saved i = Tab.get {} s.key.saved i := by
  induction ts with
  | nil => exact fun s => ⟨.refl s, .refl s, fun _ => rfl, fun t ht => absurd ht List.not_mem_nil, fun _ _ => rfl⟩
  | cons t ts ih =>
    intro s
    have hmoves : SwitchMoves s (s.saveTile o t) := ⟨_, _, _, _, _, rfl⟩
    have hkept : PagesKept s (s.saveTile o t) := .refl s
    obtain ⟨hmoves', hkept', htiles', hsaved', hother'⟩ := ih (s.saveTile o t)
    have hfirst (i : Nat) : Tab.get {} (s.saveTile o t).key.saved i = if i = o * 192 + t then s.tile t else Tab.get {} s.key.saved i :=
      Tab.get_set {} s.key.saved (o * 192 + t) i (s.tile t)
    rw [List.foldl_cons]
    refine ⟨hmoves.trans hmoves', hkept.trans hkept', htiles', fun u hu => ?_, fun i hi => ?_⟩
    · by_cases hmem : u ∈ ts
      · exact hsaved' u hmem
      · obtain rfl := (List.mem_cons.1 hu).resolve_right hmem
        rw [hother' _ (fun v hv h => hmem (by rwa [Nat.add_left_cancel h])), hfirst, if_pos rfl]
    · rw [hother' i fun v hv => hi v (List.mem_cons_of_mem _ hv), hfirst, if_neg (hi t List.mem_cons_self)]

/-! ## Clearing (R328) -/

theorem clearTile_clears (s : State) (t : Nat) : SwitchMoves s (s.clearTile t) ∧ (s.clearTile t).key = s.key ∧ PagesKept s (s.clearTile t)
    ∧ ∀ u, (s.clearTile t).tile u = if u = t then {} else s.tile u := by
  obtain ⟨⟨ps, hps⟩, hkept⟩ := withCtxPart_fold (fun _ _ => {}) (ctxPages t) (s.modTile t fun _ => {})
  unfold State.clearTile
  generalize (ctxPages t).foldl (fun s n => s.modPage n fun p => p.withCtxPart {}) (s.modTile t fun _ => {}) = s₁ at *
  subst hps
  refine ⟨⟨_, _, _, _, _, rfl⟩, rfl, hkept, fun u => ?_⟩
  show (s.modTile t fun _ => {}).tile u = _
  split
  next h => rw [h, tile_modTile_same]
  next h => exact tile_modTile_other s t u _ h

theorem clearTile_fold (ts : List Nat) : ∀ s : State, SwitchMoves s (ts.foldl State.clearTile s) ∧ (ts.foldl State.clearTile s).key = s.key
    ∧ PagesKept s (ts.foldl State.clearTile s) ∧ ∀ u, (ts.foldl State.clearTile s).tile u = if u ∈ ts then {} else s.tile u := by
  induction ts with
  | nil => exact fun s => ⟨.refl s, rfl, .refl s, fun _ => rfl⟩
  | cons t ts ih =>
    intro s
    obtain ⟨hmoves, hkey, hkept, htile⟩ := clearTile_clears s t
    obtain ⟨hmoves', hkey', hkept', htile'⟩ := ih (s.clearTile t)
    rw [List.foldl_cons]
    refine ⟨hmoves.trans hmoves', hkey'.trans hkey, hkept.trans hkept', fun u => ?_⟩
    rw [htile', htile]
    by_cases hu : u = t
    · simp [hu]
    · simp [hu]

/-! ## Restoring (R95, R437) -/

/-- The tile that context c has saved, stopped where its SEQ page is quiescing. -/
def State.restored (s : State) (c t : Nat) : Tile :=
  { Tab.get {} s.key.saved (c * 192 + t) with
    stopped := (s.page (seqPage t)).quiesceBit && decide ((Tab.get {} s.key.saved (c * 192 + t)).seq = .running
      ∨ (Tab.get {} s.key.saved (c * 192 + t)).seq = .waiting) }

theorem restoreTile_eq (s : State) (c t : Nat) : s.restoreTile c t =
    ((ctxPages t).foldl (fun s n => s.modPage n fun p => p.withCtxPart (Tab.get {} s.key.pages (c * 2048 + n)))
      (s.modTile t fun _ => s.restored c t)).modKey fun k =>
      { k with saved := Tab.set {} k.saved (c * 192 + t) {}
               pages := (ctxPages t).foldl (fun ps n => Tab.set {} ps (c * 2048 + n) {}) k.pages } := rfl

theorem restoreTile_restores (s : State) (c t : Nat) : SwitchMoves s (s.restoreTile c t) ∧ PagesKept s (s.restoreTile c t)
    ∧ (∀ u, (s.restoreTile c t).tile u = if u = t then s.restored c t else s.tile u)
    ∧ ∀ i, Tab.get {} (s.restoreTile c t).key.saved i = if i = c * 192 + t then {} else Tab.get {} s.key.saved i := by
  obtain ⟨⟨ps, hps⟩, hkept⟩ := withCtxPart_fold (fun s n => Tab.get {} s.key.pages (c * 2048 + n)) (ctxPages t)
    (s.modTile t fun _ => s.restored c t)
  rw [restoreTile_eq]
  generalize (ctxPages t).foldl (fun s n => s.modPage n fun p => p.withCtxPart (Tab.get {} s.key.pages (c * 2048 + n)))
    (s.modTile t fun _ => s.restored c t) = s₁ at *
  subst hps
  refine ⟨⟨_, _, _, _, _, rfl⟩, hkept, fun u => ?_, fun i => Tab.get_set {} s.key.saved (c * 192 + t) i {}⟩
  show (s.modTile t fun _ => s.restored c t).tile u = _
  split
  next h => rw [h, tile_modTile_same]
  next h => exact tile_modTile_other s t u _ h

theorem restoreTile_fold (c : Nat) (ts : List Nat) : ∀ s : State, ts.Nodup → SwitchMoves s (ts.foldl (fun s t => s.restoreTile c t) s)
    ∧ PagesKept s (ts.foldl (fun s t => s.restoreTile c t) s)
    ∧ (∀ u, (ts.foldl (fun s t => s.restoreTile c t) s).tile u = if u ∈ ts then s.restored c u else s.tile u)
    ∧ ∀ i, (∀ t, t ∈ ts → i ≠ c * 192 + t) → Tab.get {} (ts.foldl (fun s t => s.restoreTile c t) s).key.saved i = Tab.get {} s.key.saved i := by
  induction ts with
  | nil => exact fun s _ => ⟨.refl s, .refl s, fun _ => rfl, fun _ _ => rfl⟩
  | cons t ts ih =>
    intro s hnodup
    obtain ⟨ht, hts⟩ := List.nodup_cons.1 hnodup
    obtain ⟨hmoves, hkept, htile, hsaved⟩ := restoreTile_restores s c t
    obtain ⟨hmoves', hkept', htile', hsaved'⟩ := ih (s.restoreTile c t) hts
    rw [List.foldl_cons]
    refine ⟨hmoves.trans hmoves', hkept.trans hkept', fun u => ?_, fun i hi => ?_⟩
    · rw [htile', htile]
      by_cases hu : u = t
      · subst hu
        rw [if_neg ht, if_pos rfl, if_pos List.mem_cons_self]
      · have hsame : (s.restoreTile c t).restored c u = s.restored c u := by
          simp only [State.restored, hsaved, hkept.2, if_neg fun h => hu (Nat.add_left_cancel h)]
        simp [hu, hsame]
    · rw [hsaved' i fun u hu => hi u (List.mem_cons_of_mem _ hu), hsaved, if_neg (hi t List.mem_cons_self)]

/-! ## The end of a switch (R327, R340) -/

theorem drained_errSame (s : State) (n : Nat) : ErrSame s (s.drained n) := by
  unfold State.drained
  split
  · refine (modPage_errSame s n ?_ ?_).trans (event_errSame _ _ _)
    · exact fun _ => rfl
    · exact fun _ => rfl
  · exact fun _ => ⟨rfl, rfl⟩

theorem endSwitch_ends (s : State) (q : Nat) (owner : Option Nat) :
    (s.endSwitch q owner).key = { s.key with switch := none, owner := Tab.set none s.key.owner q owner }
      ∧ TilesSame s (s.endSwitch q owner) ∧ (s.endSwitch q owner).mem = s.mem ∧ (s.endSwitch q owner).bur = s.bur
      ∧ Raised (keyPage 0) 4 (s.endSwitch q owner) ∧ ErrSame s (s.endSwitch q owner) := by
  have hframe := (event_pageFrame (s.modKey fun k => { k with switch := none, owner := Tab.set none k.owner q owner }) (keyPage 0) 4).trans
    (drained_pageFrame _ (keyPage 0))
  have herr := (event_errSame (s.modKey fun k => { k with switch := none, owner := Tab.set none k.owner q owner }) (keyPage 0) 4).trans
    (drained_errSame _ (keyPage 0))
  obtain ⟨htiles, -, hmem, -, -, -, -, hkey, hbur, -⟩ := hframe
  exact ⟨hkey, htiles, hmem, hbur, drained_raised _ _ (event_raised _ _ (by decide)), herr⟩

/-! ## The inboxes of the arriving context (R23) -/

/-- A tile but for its bytes and its counters. -/
def ButBytes (ti ti' : Tile) : Prop := ∃ st r k, ti' = { ti with store := st, rf := r, k := k }

theorem ButBytes.refl (ti : Tile) : ButBytes ti ti := ⟨_, _, _, rfl⟩

theorem ButBytes.trans {ti ti₁ ti₂ : Tile} (h₁ : ButBytes ti ti₁) (h₂ : ButBytes ti₁ ti₂) : ButBytes ti ti₂ := by
  obtain ⟨_, _, _, rfl⟩ := h₁
  obtain ⟨st, r, k, rfl⟩ := h₂
  exact ⟨st, r, k, rfl⟩

/-- Every event that stands raised in s stands in s'. -/
def EventsKept (s s' : State) : Prop := ∀ n b, Raised n b s → Raised n b s'

theorem EventsKept.trans (h₁ : EventsKept s s₁) (h₂ : EventsKept s₁ s₂) : EventsKept s s₂ := fun n b h => h₂ n b (h₁ n b h)

theorem modPage_eventsKept (s : State) (n : Nat) {f : Page → Page} (hf : ∀ p, ∀ b, p.cause.getLsbD b = true → (f p).cause.getLsbD b = true) :
    EventsKept s (s.modPage n f) := by
  intro m b h
  unfold Raised
  by_cases hm : m = n
  · subst hm
    rw [page_modPage_same]
    exact hf _ b h
  · rw [page_modPage_other _ _ _ _ hm]
    exact h

theorem count_eventsKept (s : State) (n i : Nat) (c : Option Nat) (k : Nat) : EventsKept s (s.count n i c k) := fun m b h => by
  unfold Raised
  rw [page_count_cause]
  exact h

theorem cause_of_sameButCounts {p p' : Page} (h : SameButCounts p p') : p'.cause = p.cause := by
  unfold SameButCounts at h
  rw [← h]

/-- Pages but for their counters keep their events. -/
theorem eventsKept_of_sameButCounts {s' : State} (h : ∀ m, SameButCounts (s.page m) (s'.page m)) : EventsKept s s' := fun m b hb => by
  have hcause : (s'.page m).cause = (s.page m).cause := cause_of_sameButCounts (h m)
  unfold Raised
  rw [hcause]
  exact hb

theorem event_eventsKept (s : State) (n b : Nat) : EventsKept s (s.event n b) := by
  have hset : EventsKept s (s.modPage n fun p => { p with cause := p.cause ||| (1#48 <<< b) }) :=
    modPage_eventsKept s n fun p b h => by rw [BitVec.getLsbD_or, h, Bool.true_or]
  unfold State.event
  dsimp only
  split
  · exact hset
  · exact hset.trans (eventsKept_of_sameButCounts fun _ => queueRec_page ..)

theorem contained_eventsKept (s : State) (n code : Nat) (c : Option Nat) : EventsKept s (s.contained n code c) := by
  intro m b h
  by_cases hm : m = n
  · subst hm
    exact raise_raised h
  · have hcause : ((s.contained n code c).page m).cause = (s.page m).cause := cause_of_sameButCounts (raise_page_other m hm)
    unfold Raised
    rw [hcause]
    exact h

/-- What the delivery of inbox records does to the state: one tile's bytes and counters, pages, and nothing else. -/
def InboxSteps (t : Nat) (s s' : State) : Prop := TileFrame t s s' ∧ ButBytes (s.tile t) (s'.tile t) ∧ EventsKept s s'

theorem InboxSteps.refl (t : Nat) (s : State) : InboxSteps t s s := ⟨.refl s, .refl _, fun _ _ h => h⟩

theorem InboxSteps.trans {t : Nat} (h₁ : InboxSteps t s s₁) (h₂ : InboxSteps t s₁ s₂) : InboxSteps t s s₂ := by
  obtain ⟨hframe₁, htile₁, hevents₁⟩ := h₁
  obtain ⟨hframe₂, htile₂, hevents₂⟩ := h₂
  exact ⟨hframe₁.trans hframe₂, htile₁.trans htile₂, hevents₁.trans hevents₂⟩

theorem localWrite_inboxSteps (s : State) (t : Nat) (rf : Bool) (a : Nat) (d : List Byte) : InboxSteps t s (s.localWrite t rf a d) := by
  obtain ⟨st, r, h⟩ := write_eq (s.tile t) rf a d
  refine ⟨modTile_tileFrame .., ?_, fun _ _ h => h⟩
  rw [State.localWrite, tile_modTile_same, h]
  exact ⟨st, r, _, rfl⟩

theorem pageSteps_inboxSteps {s' : State} (t : Nat) (h : PageFrame s s') (hevents : EventsKept s s') : InboxSteps t s s' := by
  refine ⟨h.tileFrame, ?_, hevents⟩
  rw [h.1 t]
  exact .refl _

theorem signal_inboxSteps (s : State) (t k : Nat) : InboxSteps t s (s.signal t k) := by
  obtain ⟨ks, htile, -⟩ := tile_signal s t k
  refine ⟨signal_tileFrame .., by rw [htile]; exact ⟨_, _, ks, rfl⟩, ?_⟩
  unfold State.signal
  dsimp only
  split
  · exact (event_eventsKept _ _ _).trans (contained_eventsKept _ _ _ _)
  · exact fun _ _ h => h

theorem setFld_inboxSteps (s : State) (t n o lo w v : Nat) : InboxSteps t s (s.setFld n o lo w v) :=
  pageSteps_inboxSteps t (setRaw_pageFrame ..) (modPage_eventsKept s n fun _ _ h => h)

theorem count_inboxSteps (s : State) (t n i : Nat) (c : Option Nat) (k : Nat) : InboxSteps t s (s.count n i c k) :=
  pageSteps_inboxSteps t (count_pageFrame ..) (count_eventsKept _ _ _ _ _)

theorem inboxPut_inboxSteps {t src flow seq : Nat} {d : List Byte} {s' : State} (h : s.inboxPut t src flow seq d = some s') : InboxSteps t s s' := by
  have hpad (b : Prop) [Decidable b] (a : Nat) (x : List Byte) : InboxSteps t s (if b then s else s.localWrite t false a x) := by
    split
    · exact .refl t s
    · exact localWrite_inboxSteps ..
  have hsignal (b : Prop) [Decidable b] (s : State) (k : Nat) : InboxSteps t s (if b then s.signal t k else s) := by
    split
    · exact signal_inboxSteps ..
    · exact .refl t s
  unfold State.inboxPut at h
  dsimp only at h
  obtain ⟨-, h⟩ := Option.ite_none_left_eq_some.1 h
  obtain ⟨-, h⟩ := Option.ite_none_left_eq_some.1 h
  obtain rfl := Option.some.inj h
  exact ((((hpad _ _ _).trans (localWrite_inboxSteps ..)).trans (setFld_inboxSteps ..)).trans (count_inboxSteps ..)).trans (hsignal _ _ _)

/-- One waiting record: into the ring where it fits and no earlier one was left, else it stays. -/
def deliverOne (t : Nat) (acc : State × List Held) (h : Held) : State × List Held :=
  if acc.2.isEmpty then
    let w0 := BitVec.ofNat 64 (ofBytes (h.data.take 8))
    let w1 := BitVec.ofNat 64 (ofBytes ((h.data.drop 8).take 8))
    match acc.1.inboxPut t (bits w0 0 13) (bits w0 13 20) (bits w1 0 32) (h.data.drop 32) with
    | some s => (s, [])
    | none => (acc.1, [h])
  else (acc.1, acc.2 ++ [h])

theorem deliverOne_steps (t : Nat) (acc : State × List Held) (h : Held) :
    InboxSteps t acc.1 (deliverOne t acc h).1 ∧ ∀ x, x ∈ (deliverOne t acc h).2 → x ∈ acc.2 ∨ x = h := by
  unfold deliverOne
  dsimp only
  split
  · split
    next s' hput => exact ⟨inboxPut_inboxSteps hput, fun x hx => absurd hx List.not_mem_nil⟩
    next => exact ⟨.refl t _, fun x hx => .inr (List.mem_singleton.1 hx)⟩
  · exact ⟨.refl t _, fun x hx => (List.mem_append.1 hx).imp_right List.mem_singleton.1⟩

theorem deliverOne_fold (t : Nat) (hs : List Held) : ∀ acc : State × List Held,
    InboxSteps t acc.1 (hs.foldl (deliverOne t) acc).1 ∧ ∀ x, x ∈ (hs.foldl (deliverOne t) acc).2 → x ∈ acc.2 ∨ x ∈ hs := by
  induction hs with
  | nil => exact fun acc => ⟨.refl t _, fun _ hx => .inl hx⟩
  | cons h hs ih =>
    intro acc
    obtain ⟨hstep, hleft⟩ := deliverOne_steps t acc h
    obtain ⟨hsteps, hrest⟩ := ih (deliverOne t acc h)
    refine ⟨hstep.trans hsteps, fun x hx => ?_⟩
    obtain hx | hx := hrest x hx
    · exact (hleft x hx).imp_right fun hxh => List.mem_cons.2 (.inl hxh)
    · exact .inr (List.mem_cons_of_mem _ hx)

theorem deliverHeld_eq (s : State) (c t : Nat) : s.deliverHeld c t =
    ((s.key.inbox.filter fun h => decide (h.ctx = c ∧ h.tile = t)).foldl (deliverOne t) (s, [])).1.modKey fun k => { k with
      inbox := (s.key.inbox.filter fun h => !decide (h.ctx = c ∧ h.tile = t))
        ++ ((s.key.inbox.filter fun h => decide (h.ctx = c ∧ h.tile = t)).foldl (deliverOne t) (s, [])).2 } := rfl

/-- Deliveries to tiles of a context: what they leave, and the tiles for which nothing waits. -/
def Delivered (c : Nat) (ts : List Nat) (s s' : State) : Prop :=
  s'.mem = s.mem ∧ (∃ ib, s'.key = { s.key with inbox := ib } ∧ ∀ h, h ∈ ib → h ∈ s.key.inbox) ∧ EventsKept s s'
    ∧ (∀ u, u ∉ ts → s'.tile u = s.tile u)
    ∧ ∀ u, ButBytes (s.tile u) (s'.tile u) ∧ ((∀ h, h ∈ s.key.inbox → h.ctx ≠ c ∨ h.tile ≠ u) → s'.tile u = s.tile u)

theorem deliverHeld_delivers (s : State) (c t : Nat) : Delivered c [t] s (s.deliverHeld c t) := by
  obtain ⟨hsteps, hleft⟩ := deliverOne_fold t (s.key.inbox.filter fun h => decide (h.ctx = c ∧ h.tile = t)) (s, [])
  have hnone (hno : ∀ h, h ∈ s.key.inbox → h.ctx ≠ c ∨ h.tile ≠ t) : (s.key.inbox.filter fun h => decide (h.ctx = c ∧ h.tile = t)) = [] := by
    rw [List.filter_eq_nil_iff]
    intro h hh
    have := hno h hh
    simp only [decide_eq_true_eq, not_and]
    tauto
  rw [deliverHeld_eq]
  generalize hmine : (s.key.inbox.filter fun h => decide (h.ctx = c ∧ h.tile = t)) = mine at *
  obtain ⟨⟨hother, -, hbase⟩, htile, hevents⟩ := hsteps
  obtain ⟨hmem, -, -, -, -, hkey, -⟩ := hbase
  refine ⟨hmem, ⟨_, by rw [State.modKey_key, hkey], fun h hh => ?_⟩, hevents, fun u hu => hother u (by simpa using hu),
    fun u => ⟨?_, fun hno => ?_⟩⟩
  · obtain hh | hh := List.mem_append.1 hh
    · exact List.mem_of_mem_filter hh
    · have hh := (hleft h hh).resolve_left List.not_mem_nil
      rw [← hmine] at hh
      exact List.mem_of_mem_filter hh
  · by_cases hu : u = t
    · subst hu; exact htile
    · exact hother u hu ▸ .refl _
  · by_cases hu : u = t
    · subst hu
      rw [hnone hno]
      rfl
    · exact hother u hu

theorem Delivered.trans {c : Nat} {ts₁ ts₂ : List Nat} (h₁ : Delivered c ts₁ s s₁) (h₂ : Delivered c ts₂ s₁ s₂) :
    Delivered c (ts₁ ++ ts₂) s s₂ := by
  obtain ⟨hmem₁, ⟨ib₁, hkey₁, hinbox₁⟩, hevents₁, hother₁, htile₁⟩ := h₁
  obtain ⟨hmem₂, ⟨ib₂, hkey₂, hinbox₂⟩, hevents₂, hother₂, htile₂⟩ := h₂
  have hfewer (h : Held) (hh : h ∈ s₁.key.inbox) : h ∈ s.key.inbox := by
    rw [hkey₁] at hh
    exact hinbox₁ h hh
  refine ⟨hmem₂.trans hmem₁, ⟨ib₂, by rw [hkey₂, hkey₁], fun h hh => hfewer h (hinbox₂ h hh)⟩, hevents₁.trans hevents₂,
    fun u hu => ?_, fun u => ⟨?_, fun hno => ?_⟩⟩
  · rw [List.mem_append, not_or] at hu
    exact (hother₂ u hu.2).trans (hother₁ u hu.1)
  · exact (htile₁ u).1.trans (htile₂ u).1
  · exact ((htile₂ u).2 fun h hh => hno h (hfewer h hh)).trans ((htile₁ u).2 hno)

theorem deliverHeld_fold (c : Nat) (ts : List Nat) : ∀ s : State, Delivered c ts s (ts.foldl (fun s t => s.deliverHeld c t) s) := by
  induction ts with
  | nil => exact fun s => ⟨rfl, ⟨_, rfl, fun _ h => h⟩, fun _ _ h => h, fun _ _ => rfl, fun _ => ⟨.refl _, fun _ => rfl⟩⟩
  | cons t ts ih => exact fun s => (deliverHeld_delivers s c t).trans (ih (s.deliverHeld c t))

/-! ## SWITCH_DONE -/

theorem quadTiles_lt {q t : Nat} (hq : q < 48) (ht : t ∈ quadTiles q) : t < 192 := by
  simp only [quadTiles, List.mem_cons, List.not_mem_nil, or_false] at ht
  omega

/-- The tiles of a quad are saved for the context that leaves, and cleared (R95, R328). -/
def State.vacate (s : State) (old : Option Nat) (ts : List Nat) (moved : Nat) : State :=
  ts.foldl State.clearTile (match old with
    | none => s
    | some o => ((ts.foldl (fun s t => s.saveTile o t) s).count (keyPage 0) 1 (some o)).count (keyPage 0) 2 (some o) moved)

theorem vacate_vacates (s : State) (old : Option Nat) (ts : List Nat) (moved : Nat) : SwitchMoves s (s.vacate old ts moved)
    ∧ PagesKept s (s.vacate old ts moved) ∧ (∀ u, (s.vacate old ts moved).tile u = if u ∈ ts then {} else s.tile u)
    ∧ (∀ o t, old = some o → t ∈ ts → Tab.get {} (s.vacate old ts moved).key.saved (o * 192 + t) = s.tile t)
    ∧ ∀ i, (∀ o t, old = some o → t ∈ ts → i ≠ o * 192 + t) → Tab.get {} (s.vacate old ts moved).key.saved i = Tab.get {} s.key.saved i := by
  cases old with
  | none =>
    obtain ⟨hmoves, hkey, hkept, htile⟩ := clearTile_fold ts s
    exact ⟨hmoves, hkept, htile, nofun, fun i _ => congrArg (fun k : Keys => Tab.get {} k.saved i) hkey⟩
  | some o =>
    obtain ⟨hmoves₁, hkept₁, htiles₁, hsaved, hother⟩ := saveTile_fold o ts s
    unfold State.vacate
    dsimp only
    generalize ts.foldl (fun s t => s.saveTile o t) s = s₁ at *
    have hmoves₂ := (count_moves s₁ (keyPage 0) 1 (some o) 1).trans (count_moves _ (keyPage 0) 2 (some o) moved)
    have hkept₂ := (count_pagesKept s₁ (keyPage 0) 1 (some o) 1).trans (count_pagesKept _ (keyPage 0) 2 (some o) moved)
    have htiles₂ (u : Nat) : ((s₁.count (keyPage 0) 1 (some o)).count (keyPage 0) 2 (some o) moved).tile u = s₁.tile u := by simp
    have hkey₂ : ((s₁.count (keyPage 0) 1 (some o)).count (keyPage 0) 2 (some o) moved).key = s₁.key := by simp
    generalize (s₁.count (keyPage 0) 1 (some o)).count (keyPage 0) 2 (some o) moved = s₂ at *
    obtain ⟨hmoves, hkey, hkept, htile⟩ := clearTile_fold ts s₂
    have hsavedSame (i : Nat) : Tab.get {} (ts.foldl State.clearTile s₂).key.saved i = Tab.get {} s₁.key.saved i := by rw [hkey, hkey₂]
    refine ⟨(hmoves₁.trans hmoves₂).trans hmoves, (hkept₁.trans hkept₂).trans hkept, fun u => ?_, fun o' t ho ht => ?_, fun i hi => ?_⟩
    · rw [htile, htiles₂, htiles₁]
    · obtain rfl := Option.some.inj ho
      rw [hsavedSame, hsaved t ht]
    · rw [hsavedSame, hother i fun t ht => hi o t rfl ht]

/-- The saved tiles of the arriving context, where it has any. -/
def State.arrive (s : State) (w : Switch) (moved : Nat) : State :=
  if w.mode = 0 then ((quadTiles w.quad).foldl (fun s t => s.restoreTile w.ctx t) s).count (keyPage 0) 3 (some w.ctx) moved else s

theorem arrive_arrives (s : State) (w : Switch) (moved : Nat) : SwitchMoves s (s.arrive w moved) ∧ PagesKept s (s.arrive w moved)
    ∧ (∀ u, (s.arrive w moved).tile u = if w.mode = 0 ∧ u ∈ quadTiles w.quad then s.restored w.ctx u else s.tile u)
    ∧ ∀ i, (w.mode = 0 → ∀ t, t ∈ quadTiles w.quad → i ≠ w.ctx * 192 + t) →
        Tab.get {} (s.arrive w moved).key.saved i = Tab.get {} s.key.saved i := by
  unfold State.arrive
  split
  next hm =>
    obtain ⟨hmoves, hkept, htile, hsaved⟩ := restoreTile_fold w.ctx (quadTiles w.quad) s (quadTiles_nodup _)
    refine ⟨hmoves.trans (count_moves ..), hkept.trans (count_pagesKept ..), fun u => ?_, fun i hi => ?_⟩
    · rw [tile_count, htile]
      simp only [hm, true_and]
    · rw [count_key, hsaved i (hi hm)]
  next hm => exact ⟨.refl s, .refl s, fun u => by rw [if_neg fun h => hm h.1], fun _ _ => rfl⟩

/-- The arriving context has the quad, and its inboxes' records are delivered (R23, R327). -/
def State.occupy (s : State) (w : Switch) (moved : Nat) : State :=
  (quadTiles w.quad).foldl (fun s t => s.deliverHeld w.ctx t)
    (((s.arrive w moved).endSwitch w.quad (some w.ctx)).count (keyPage 0) 0 (some w.ctx))

theorem occupy_occupies (s : State) (w : Switch) (moved : Nat) : (s.occupy w moved).key.switch = none
    ∧ (s.occupy w moved).key.owner = Tab.set none s.key.owner w.quad (some w.ctx) ∧ Raised (keyPage 0) 4 (s.occupy w moved)
    ∧ (s.occupy w moved).mem = s.mem ∧ (∀ u, u ∉ quadTiles w.quad → (s.occupy w moved).tile u = s.tile u)
    ∧ (∀ i, (w.mode = 0 → ∀ t, t ∈ quadTiles w.quad → i ≠ w.ctx * 192 + t) →
        Tab.get {} (s.occupy w moved).key.saved i = Tab.get {} s.key.saved i)
    ∧ ∀ t ti, ti = (if w.mode = 0 ∧ t ∈ quadTiles w.quad then s.restored w.ctx t else s.tile t) → ButBytes ti ((s.occupy w moved).tile t)
        ∧ ((∀ h, h ∈ s.key.inbox → h.ctx ≠ w.ctx ∨ h.tile ≠ t) → (s.occupy w moved).tile t = ti) := by
  obtain ⟨hmoves, -, htile₁, hsaved₁⟩ := arrive_arrives s w moved
  unfold State.occupy
  generalize s.arrive w moved = s₁ at *
  obtain ⟨hkey₂, htiles₂, hmem₂, -, hraised₂, -⟩ := endSwitch_ends s₁ w.quad (some w.ctx)
  generalize s₁.endSwitch w.quad (some w.ctx) = s₂ at *
  obtain ⟨hmem₃, ⟨ib, hkey₃, -⟩, hevents, hother, htile₃⟩ := deliverHeld_fold w.ctx (quadTiles w.quad) (s₂.count (keyPage 0) 0 (some w.ctx))
  rw [count_key, hkey₂] at hkey₃
  generalize (quadTiles w.quad).foldl (fun s t => s.deliverHeld w.ctx t) (s₂.count (keyPage 0) 0 (some w.ctx)) = s₃ at *
  have htile (u : Nat) : (s₂.count (keyPage 0) 0 (some w.ctx)).tile u
      = if w.mode = 0 ∧ u ∈ quadTiles w.quad then s.restored w.ctx u else s.tile u := by
    rw [tile_count, htiles₂, htile₁]
  refine ⟨by rw [hkey₃], by rw [hkey₃, hmoves.owner], hevents _ _ (count_eventsKept _ _ _ _ _ _ _ hraised₂), ?_, fun u hu => ?_, fun i hi => ?_,
    fun t ti hti => ?_⟩
  · rw [hmem₃, count_mem, hmem₂, hmoves.mem]
  · rw [hother u hu, htile, if_neg fun h => hu h.2]
  · rw [hkey₃]
    exact hsaved₁ i hi
  · rw [hti, ← htile]
    refine ⟨(htile₃ t).1, fun hno => (htile₃ t).2 fun h hh => hno h ?_⟩
    rw [count_key, hkey₂] at hh
    rw [← hmoves.inbox]
    exact hh

end Sys2Proof.Machine
end

section
/-! SWITCH_DONE, by its outcomes (R95, R327 to R329). -/

namespace Sys2Proof.Machine

open Sys2Proof Sys2Proof.Spec

variable {s : State} {w : Switch} {e : Ecc}

/-! ## When it does nothing -/

theorem switchDone_idle (ha : Awake s) (h : s.key.switch = none) : exec (.switchDone e) s = .next s := by
  show execSwitchDone e s = _
  simp only [execSwitchDone, awake_of_Awake ha, h, Bool.not_true, Bool.false_eq_true, if_false]

theorem switchDone_waits (ha : Awake s) (h : s.key.switch = some w) {t : Nat} (ht : t ∈ quadTiles w.quad) (hbusy : (s.tile t).drainedFor = false) :
    exec (.switchDone e) s = .next s := by
  have hall : ((quadTiles w.quad).all fun t => (s.tile t).drainedFor) = false := by
    rw [List.all_eq_false]
    exact ⟨t, ht, by simp [hbusy]⟩
  show execSwitchDone e s = _
  simp only [execSwitchDone, awake_of_Awake ha, h, hall, Bool.not_true, Bool.not_false, Bool.or_true, Bool.false_eq_true, if_false, if_true]

/-! ## The switch comes about -/

/-- The vacated quad's new owner, or none (R327, R328). -/
def State.switched (s : State) (w : Switch) (moved : Nat) : State := if w.mode = 2 then s.endSwitch w.quad none else s.occupy w moved

theorem switched_switches (s : State) (w : Switch) (moved : Nat) : (s.switched w moved).key.switch = none
    ∧ (s.switched w moved).key.owner = Tab.set none s.key.owner w.quad (if w.mode = 2 then none else some w.ctx)
    ∧ Raised (keyPage 0) 4 (s.switched w moved) ∧ (s.switched w moved).mem = s.mem
    ∧ (∀ u, u ∉ quadTiles w.quad → (s.switched w moved).tile u = s.tile u)
    ∧ (∀ i, (w.mode = 0 → ∀ t, t ∈ quadTiles w.quad → i ≠ w.ctx * 192 + t) →
        Tab.get {} (s.switched w moved).key.saved i = Tab.get {} s.key.saved i)
    ∧ (w.mode = 2 → ∀ u, (s.switched w moved).tile u = s.tile u)
    ∧ (w.mode ≠ 2 → ∀ t ti, ti = (if w.mode = 0 ∧ t ∈ quadTiles w.quad then s.restored w.ctx t else s.tile t) →
        ButBytes ti ((s.switched w moved).tile t)
          ∧ ((∀ h, h ∈ s.key.inbox → h.ctx ≠ w.ctx ∨ h.tile ≠ t) → (s.switched w moved).tile t = ti)) := by
  unfold State.switched
  by_cases hm : w.mode = 2
  · obtain ⟨hkey, htiles, hmem, -, hraised, -⟩ := endSwitch_ends s w.quad none
    simp only [if_pos hm]
    exact ⟨by rw [hkey], by rw [hkey], hraised, hmem, fun u _ => htiles u, fun i _ => by rw [hkey], fun _ => htiles, fun hne => absurd hm hne⟩
  · obtain ⟨hswitch, howner, hraised, hmem, hother, hsaved, htile⟩ := occupy_occupies s w moved
    simp only [if_neg hm]
    exact ⟨hswitch, howner, hraised, hmem, hother, hsaved, fun h => absurd h hm, fun _ => htile⟩

/-- What a switch leaves of tile t of the quad: its saved state, and the tile itself by the switch's mode. -/
def SwitchedTile (s s' : State) (w : Switch) (old : Option Nat) (t : Nat) : Prop :=
  (∀ o, old = some o → w.mode ≠ 0 ∨ o ≠ w.ctx → Tab.get {} s'.key.saved (o * 192 + t) = s.tile t)
    ∧ (w.mode = 2 → s'.tile t = {})
    ∧ (w.mode = 1 → (∀ r, (s'.tile t).reg r = 0) ∧ (s'.tile t).seq = .idle ∧ (s'.tile t).flights = []
      ∧ ((∀ h, h ∈ s.key.inbox → h.ctx ≠ w.ctx ∨ h.tile ≠ t) → s'.tile t = {}))
    ∧ ∀ k, k = (if old = some w.ctx then s.tile t else Tab.get {} s.key.saved (w.ctx * 192 + t)) → w.mode = 0 →
      (∀ r, (s'.tile t).reg r = k.reg r) ∧ (s'.tile t).pc = k.pc ∧ (s'.tile t).seq = k.seq ∧ (s'.tile t).flights = k.flights ∧ (s'.tile t).acc = k.acc
        ∧ (s'.tile t).stopped = ((s.page (seqPage t)).quiesceBit && decide (k.seq = .running ∨ k.seq = .waiting))
        ∧ ((∀ h, h ∈ s.key.inbox → h.ctx ≠ w.ctx ∨ h.tile ≠ t) → s'.tile t = { k with stopped := (s'.tile t).stopped })

theorem switched_tiles (hq : w.quad < 48) {old : Option Nat} {moved t : Nat} (ht : t ∈ quadTiles w.quad) :
    SwitchedTile s ((s.draw.2.vacate old (quadTiles w.quad) moved).switched w moved) w old t := by
  have hlt (u : Nat) (hu : u ∈ quadTiles w.quad) : u < 192 := quadTiles_lt hq hu
  obtain ⟨hmoves, hkept, htile, hsaved, hunsaved⟩ := vacate_vacates s.draw.2 old (quadTiles w.quad) moved
  generalize s.draw.2.vacate old (quadTiles w.quad) moved = s₁ at *
  obtain ⟨-, -, -, -, -, hsaved', hvacant, hoccupied⟩ := switched_switches s₁ w moved
  have hclear : s₁.tile t = {} := (htile t).trans (if_pos ht)
  have hinbox : s₁.key.inbox = s.key.inbox := hmoves.inbox
  refine ⟨fun o ho hne => ?_, fun hm => (hvacant hm t).trans hclear, fun hm => ?_, fun k hk hm => ?_⟩
  · rw [hsaved' _ fun hm u hu heq => ?_, hsaved o t ho ht]
    · rfl
    · have := hlt t ht
      have := hlt u hu
      obtain hm' | hne := hne
      · exact hm' hm
      · omega
  · obtain ⟨⟨st, r, ks, hlike⟩, hexact⟩ := hoccupied (by omega) t {} (by rw [if_neg (by omega), hclear])
    rw [hinbox] at hexact
    refine ⟨fun r => ?_, ?_, ?_, hexact⟩ <;> rw [hlike]
    rfl
  · have hslot : Tab.get {} s₁.key.saved (w.ctx * 192 + t) = k := by
      rw [hk]
      split
      next hold => exact hsaved w.ctx t hold ht
      next hold =>
        refine hunsaved _ fun o u ho hu heq => hold ?_
        have := hlt t ht
        have := hlt u hu
        rw [ho, show o = w.ctx by omega]
    have hrestored : s₁.restored w.ctx t
        = { k with stopped := (s.page (seqPage t)).quiesceBit && decide (k.seq = .running ∨ k.seq = .waiting) } := by
      simp only [State.restored, hslot, hkept.2]
      rfl
    obtain ⟨⟨st, r, ks, hlike⟩, hexact⟩ := hoccupied (by omega) t _ (by rw [if_pos ⟨hm, ht⟩, hrestored])
    rw [hinbox] at hexact
    refine ⟨fun r => ?_, ?_, ?_, ?_, ?_, ?_, fun hno => ?_⟩
    · rw [hlike]; rfl
    · rw [hlike]
    · rw [hlike]
    · rw [hlike]
    · rw [hlike]
    · rw [hlike]
    · rw [hexact hno]

section done

variable (ha : Awake s) (h : s.key.switch = some w) (hdrained : ∀ t, t ∈ quadTiles w.quad → (s.tile t).drainedFor = true)
include ha h hdrained

theorem switchDone_moves (he : e = .clean ∨ ∃ x, e = .corrected x) : ∃ moved, exec (.switchDone e) s =
    .next ((s.draw.2.vacate (Tab.get none s.key.owner w.quad) (quadTiles w.quad) moved).switched w moved) := by
  have hall : ((quadTiles w.quad).all fun t => (s.tile t).drainedFor) = true := List.all_eq_true.2 hdrained
  refine ⟨(Config.freeWord s.draws).toNat, ?_⟩
  show execSwitchDone e s = _
  rcases he with rfl | ⟨x, rfl⟩
  all_goals
    simp only [execSwitchDone, awake_of_Awake ha, h, hall, Bool.not_true, Bool.or_self, Bool.false_eq_true, if_false]
    unfold State.switched
    split
    · rfl
    · rfl

theorem switchDone_fails (x : Nat) : exec (.switchDone (.uncorrectable x)) s = .next (s.switchFails w (Tab.get none s.key.owner w.quad) x) := by
  have hall : ((quadTiles w.quad).all fun t => (s.tile t).drainedFor) = true := List.all_eq_true.2 hdrained
  show execSwitchDone (.uncorrectable x) s = _
  simp only [execSwitchDone, awake_of_Awake ha, h, hall, Bool.not_true, Bool.or_self, Bool.false_eq_true, if_false]

theorem switchDone_switches (hq : w.quad < 48) (he : e = .clean ∨ ∃ x, e = .corrected x) {old : Option Nat}
    (hold : old = Tab.get none s.key.owner w.quad) : Answers (.switchDone e) s fun s' =>
      s'.key.switch = none ∧ Tab.get none s'.key.owner w.quad = (if w.mode = 2 then none else some w.ctx) ∧ Raised (keyPage 0) 4 s'
      ∧ (∀ q, q ≠ w.quad → Tab.get none s'.key.owner q = Tab.get none s.key.owner q) ∧ MemSame s s'
      ∧ (∀ t, t ∉ quadTiles w.quad → s'.tile t = s.tile t) ∧ ∀ t, t ∈ quadTiles w.quad → SwitchedTile s s' w old t := by
  subst hold
  obtain ⟨moved, hrun⟩ := switchDone_moves ha h hdrained he
  refine ⟨_, hrun, ?_⟩
  have htiles := fun t ht => switched_tiles (s := s) (w := w) hq (old := Tab.get none s.key.owner w.quad) (moved := moved) (t := t) ht
  obtain ⟨hmoves, -, htile, -, -⟩ := vacate_vacates s.draw.2 (Tab.get none s.key.owner w.quad) (quadTiles w.quad) moved
  generalize s.draw.2.vacate (Tab.get none s.key.owner w.quad) (quadTiles w.quad) moved = s₁ at *
  obtain ⟨hswitch, howner, hraised, hmem, hother, -, -, -⟩ := switched_switches s₁ w moved
  have howner' : (s₁.switched w moved).key.owner = Tab.set none s.key.owner w.quad (if w.mode = 2 then none else some w.ctx) := by
    rw [howner, hmoves.owner]
    rfl
  refine ⟨hswitch, by rw [howner', Tab.get_set, if_pos rfl], hraised, fun q hq => by rw [howner', Tab.get_set, if_neg hq],
    memSame_of_eq (hmem.trans hmoves.mem), fun t ht => ?_, htiles⟩
  rw [hother t ht, htile, if_neg ht]
  rfl

end done

/-! ## An uncorrectable error (R329) -/

theorem spoilWord_moves (s : State) (t : Nat) (rf : Bool) (x : Nat) : SwitchMoves s (s.spoilWord t rf x) ∧ PagesKept s (s.spoilWord t rf x)
    ∧ OtherTiles t s (s.spoilWord t rf x) :=
  ⟨⟨_, _, _, _, _, rfl⟩, .refl s, fun u hu => tile_modTile_other s.draw.2 t u _ hu⟩

theorem getD_quadTiles_mem (q n : Nat) : (quadTiles q).getD (n % 4) 0 ∈ quadTiles q := by
  have hn : n % 4 < (quadTiles q).length := Nat.mod_lt _ (by decide)
  rw [List.getD_eq_getElem _ _ hn]
  exact List.getElem_mem hn

/-- The burst lies in the save area of the context that a restore reads. -/
def State.restoring (s : State) (w : Switch) (loc : Nat) : Bool :=
  decide (w.mode = 0) && decide ((s.desc w.ctx).w2.toNat ≤ loc ∧ loc < (s.desc w.ctx).w2.toNat + (s.desc w.ctx).quads.length * 2 ^ 25)

/-- The tiles as an uncorrectable error leaves them to be saved: one word spoilt, unless the error lies in the save area read. -/
def State.spoilt (s : State) (w : Switch) (n loc : Nat) (restoring : Bool) : State :=
  if restoring then s else s.spoilWord ((quadTiles w.quad).getD (n % 4) 0) (decide (2 ^ 20 ≤ loc)) (loc % 2 ^ 20)

theorem spoilt_moves (s : State) (w : Switch) (n loc : Nat) (restoring : Bool) : SwitchMoves s (s.spoilt w n loc restoring)
    ∧ PagesKept s (s.spoilt w n loc restoring) ∧ ∀ u, u ∉ quadTiles w.quad → (s.spoilt w n loc restoring).tile u = s.tile u := by
  unfold State.spoilt
  split
  · exact ⟨.refl s, .refl s, fun _ _ => rfl⟩
  · obtain ⟨hmoves, hkept, hother⟩ := spoilWord_moves s ((quadTiles w.quad).getD (n % 4) 0) (decide (2 ^ 20 ≤ loc)) (loc % 2 ^ 20)
    exact ⟨hmoves, hkept, fun u hu => hother u fun heq => hu (heq ▸ getD_quadTiles_mem ..)⟩

/-- The quad's tiles are saved as they are found, and cleared. -/
def State.lost (s : State) (w : Switch) (old : Option Nat) (n loc : Nat) (restoring : Bool) : State :=
  (quadTiles w.quad).foldl State.clearTile (match old with
    | none => s
    | some o => (quadTiles w.quad).foldl (fun s t => s.saveTile o t) (s.spoilt w n loc restoring))

theorem lost_moves (s : State) (w : Switch) (old : Option Nat) (n loc : Nat) (restoring : Bool) : SwitchMoves s (s.lost w old n loc restoring)
    ∧ PagesKept s (s.lost w old n loc restoring)
    ∧ ∀ u, (s.lost w old n loc restoring).tile u = if u ∈ quadTiles w.quad then {} else s.tile u := by
  cases old with
  | none =>
    obtain ⟨hmoves, -, hkept, htile⟩ := clearTile_fold (quadTiles w.quad) s
    exact ⟨hmoves, hkept, htile⟩
  | some o =>
    obtain ⟨hmoves₁, hkept₁, hother⟩ := spoilt_moves s w n loc restoring
    obtain ⟨hmoves₂, hkept₂, htiles, -, -⟩ := saveTile_fold o (quadTiles w.quad) (s.spoilt w n loc restoring)
    obtain ⟨hmoves₃, -, hkept₃, htile⟩ := clearTile_fold (quadTiles w.quad)
      ((quadTiles w.quad).foldl (fun s t => s.saveTile o t) (s.spoilt w n loc restoring))
    refine ⟨(hmoves₁.trans hmoves₂).trans hmoves₃, (hkept₁.trans hkept₂).trans hkept₃, fun u => (htile u).trans ?_⟩
    split
    · rfl
    next hu => rw [htiles, hother u hu]

theorem switchFails_eq (s : State) (w : Switch) (old : Option Nat) (loc : Nat) : ∃ c, s.switchFails w old loc =
    ((s.draw.2.lost w old (Config.freeWord s.draws).toNat loc (s.restoring w loc)).stepFatal (keyPage 0) 0x106 c).endSwitch w.quad none := by
  cases old
  · exact ⟨_, rfl⟩
  · exact ⟨_, rfl⟩

/-- What a page has reported stands when it then raises an event. -/
theorem event_reported {s s₁ : State} {n sev code b : Nat} (h : Reported n sev code s s₁) : Reported n sev code s (s₁.event n b) := by
  unfold Reported at *
  rw [page_event_err, page_event_errCount]
  split
  next hold =>
    rw [if_pos hold] at h
    exact h
  next hnew =>
    rw [if_neg hnew] at h
    obtain ⟨hvalid, hsev, hcode, hcause⟩ := h
    exact ⟨hvalid, hsev, hcode, event_eventsKept s₁ n b n 0 hcause⟩

theorem endSwitch_reported {s s₁ : State} {sev code q : Nat} {owner : Option Nat} (h : Reported (keyPage 0) sev code s s₁) :
    Reported (keyPage 0) sev code s (s₁.endSwitch q owner) :=
  drained_reported (event_reported (s₁ := s₁.modKey fun k => { k with switch := none, owner := Tab.set none k.owner q owner }) h)

/-- The quad is left clear and with no owner, and the error is Step-fatal. -/
theorem switchFails_fails (s : State) (w : Switch) (old : Option Nat) (loc : Nat) : (s.switchFails w old loc).key.switch = none
    ∧ Tab.get none (s.switchFails w old loc).key.owner w.quad = none
    ∧ (∀ t, t ∈ quadTiles w.quad → (s.switchFails w old loc).tile t = {})
    ∧ (∀ t, t ∉ quadTiles w.quad → (s.switchFails w old loc).tile t = s.tile t)
    ∧ Reported (keyPage 0) 3 0x106 s (s.switchFails w old loc)
    ∧ (∃ f, (s.switchFails w old loc).bur.fatals = s.bur.fatals ++ [f] ∧ f.code = 0x106 ∧ f.sev = 3)
    ∧ Raised (keyPage 0) 4 (s.switchFails w old loc)
    ∧ MemSame s (s.switchFails w old loc) := by
  obtain ⟨c, heq⟩ := switchFails_eq s w old loc
  rw [heq]
  obtain ⟨hmoves, ⟨herrs, -⟩, htile⟩ := lost_moves s.draw.2 w old (Config.freeWord s.draws).toNat loc (s.restoring w loc)
  generalize s.draw.2.lost w old (Config.freeWord s.draws).toNat loc (s.restoring w loc) = s₁ at *
  have hreported : Reported (keyPage 0) 3 0x106 s (s₁.stepFatal (keyPage 0) 0x106 c) :=
    reported_from (herrs (keyPage 0)).1 (herrs (keyPage 0)).2 (raise_reported (by decide))
  have hfatal : (s₁.stepFatal (keyPage 0) 0x106 c).bur.fatals =
      s₁.bur.fatals ++ [{ page := keyPage 0, code := 0x106, sev := 3, ctx := c, loc := 0 }] := by
    rw [State.stepFatal, raise_bur, if_pos (by decide)]
  have htiles₂ (u : Nat) : (s₁.stepFatal (keyPage 0) 0x106 c).tile u = s₁.tile u := by simp [State.stepFatal, State.tile]
  have hmem₂ : (s₁.stepFatal (keyPage 0) 0x106 c).mem = s₁.mem := by simp [State.stepFatal]
  generalize s₁.stepFatal (keyPage 0) 0x106 c = s₂ at *
  obtain ⟨hkey, htiles, hmem, hbur, hraised, -⟩ := endSwitch_ends s₂ w.quad none
  refine ⟨by rw [hkey], ?_, fun t ht => ?_, fun t ht => ?_, endSwitch_reported hreported, ⟨_, by rw [hbur, hfatal, hmoves.bur]; rfl, rfl, rfl⟩,
    hraised, memSame_of_eq ((hmem.trans hmem₂).trans hmoves.mem)⟩
  · rw [hkey]
    exact (Tab.get_set none s₂.key.owner w.quad w.quad none).trans (if_pos rfl)
  · rw [htiles, htiles₂, htile, if_pos ht]
  · rw [htiles, htiles₂, htile, if_neg ht]
    rfl

/-- The switching of contexts. -/
theorem contextSwitches : Spec.ContextSwitches := by
  intro s a hb
  have ha : Awake s := hb.1
  refine ⟨fun i q c mode hi => ?_, fun e h => ⟨s, switchDone_idle ha h, rfl⟩, fun w h hq => ⟨fun e t ht hbusy => ?_, fun hdrained => ?_⟩⟩
  · exact ⟨fun x h => switch_rejects hb hi h, switch_refuses hb hi, fun h hq hp => ⟨switch_vacates hb hi h hq hp, switch_begins hb hi h hq hp,
      switch_bad hb hi h hq hp⟩⟩
  · exact ⟨s, switchDone_waits ha h ht hbusy, rfl⟩
  · exact ⟨fun e old he hold => switchDone_switches ha h hdrained hq he hold,
      fun x => ⟨_, switchDone_fails ha h hdrained x, switchFails_fails s w _ x⟩⟩

end Sys2Proof.Machine
end

section
/-! COARSE_RECORD (R333): where a context's records go, and the 32 bytes of one. -/

namespace Sys2Proof.Machine

open Sys2Proof Sys2Proof.Spec

variable {s : State}

/-! ## Bytes of numbers -/

theorem ofBytes_append (xs ys : List Byte) : ofBytes (xs ++ ys) = ofBytes xs + 256 ^ xs.length * ofBytes ys := by
  induction xs with
  | nil => simp [ofBytes]
  | cons x xs ih =>
    rw [List.cons_append, ofBytes, ofBytes, ih, List.length_cons, pow_succ]
    ring

theorem ofBytes_toBytes (n : Nat) : ∀ v, ofBytes (toBytes n v) = v % 256 ^ n := by
  induction n with
  | zero => intro v; simp [toBytes, ofBytes, Nat.mod_one]
  | succ n ih =>
    intro v
    rw [toBytes, ofBytes, ih, BitVec.toNat_ofNat, show 256 ^ (n + 1) = 256 * 256 ^ n from pow_succ' .., Nat.mod_mul]

/-! ## Where an address leads -/

/-- The state with other numbers of coarse records. -/
def State.withCoarse (s : State) (x : Tab (BitVec 32)) : State := s.modKey fun k => { k with coarse := x }

section reach

variable {c va n : Nat} {write : Bool} {gs : List Seg} (x : Tab (BitVec 32))

/-- A range that translates leaves the state as it was; one that does not may be reported on the MSC page. -/
theorem translate_cases (s : State) (die c va n : Nat) (write : Bool) :
    (∃ gs, s.translate die (some c) va n write = (some gs, s))
      ∨ ∃ s', s.translate die (some c) va n write = (none, s') ∧ (s' = s ∨ s' = (s.event (mscPage die) 7).contained (mscPage die) 0x0D2 (some c)) := by
  have hfold : ((s.translate die (some c) va n write).1 ≠ none → (s.translate die (some c) va n write).2 = s)
      ∧ ((s.translate die (some c) va n write).2 = s
        ∨ (s.translate die (some c) va n write).2 = (s.event (mscPage die) 7).contained (mscPage die) 0x0D2 (some c)) := by
    unfold State.translate
    refine List.foldlRecOn (motive := fun r : Option (List Seg) × State => (r.1 ≠ none → r.2 = s)
      ∧ (r.2 = s ∨ r.2 = (s.event (mscPage die) 7).contained (mscPage die) 0x0D2 (some c))) _ _ ⟨fun _ => rfl, .inl rfl⟩ fun r hr g _ => ?_
    obtain ⟨acc, s'⟩ := r
    cases acc with
    | none => exact hr
    | some segs =>
      have hs : s' = s := hr.1 (by simp)
      subst hs
      dsimp only
      split
      · exact ⟨fun _ => rfl, .inl rfl⟩
      · exact ⟨fun h => absurd rfl h, .inr rfl⟩
      · split <;> split <;> exact ⟨fun _ => rfl, .inl rfl⟩
  generalize s.translate die (some c) va n write = r at hfold ⊢
  obtain ⟨acc, s'⟩ := r
  obtain ⟨hsome, hcases⟩ := hfold
  cases acc with
  | none => exact .inr ⟨s', rfl, hcases⟩
  | some gs => exact .inl ⟨gs, by rw [show s' = s from hsome (by simp)]⟩

theorem translate_withCoarse (die : Nat) : ((s.withCoarse x).translate die (some c) va n write).1 = (s.translate die (some c) va n write).1 := by
  have hfold : ((s.withCoarse x).translate die (some c) va n write).1 = (s.translate die (some c) va n write).1
      ∧ ((s.translate die (some c) va n write).1 ≠ none → ((s.withCoarse x).translate die (some c) va n write).2 = s.withCoarse x
        ∧ (s.translate die (some c) va n write).2 = s) := by
    unfold State.translate
    refine List.foldl_rel (r := fun (r₁ r : Option (List Seg) × State) => r₁.1 = r.1 ∧ (r.1 ≠ none → r₁.2 = s.withCoarse x ∧ r.2 = s))
      ⟨rfl, fun _ => ⟨rfl, rfl⟩⟩ fun g _ r₁ r hr => ?_
    obtain ⟨acc₁, s₁⟩ := r₁
    obtain ⟨acc, s'⟩ := r
    obtain ⟨hacc, hstate⟩ := hr
    dsimp only at hacc hstate
    subst hacc
    cases acc₁ with
    | none => exact ⟨rfl, fun h => absurd rfl h⟩
    | some segs =>
      obtain ⟨rfl, rfl⟩ := hstate (by simp)
      have hwalk : (s'.withCoarse x).walk c g.1 = s'.walk c g.1 := rfl
      have hmember : (s'.withCoarse x).member = s'.member := rfl
      dsimp only
      rw [hwalk, hmember]
      split
      · exact ⟨rfl, fun h => absurd rfl h⟩
      · exact ⟨rfl, fun h => absurd rfl h⟩
      · split <;> split
        · exact ⟨rfl, fun h => absurd rfl h⟩
        · exact ⟨rfl, fun _ => ⟨rfl, rfl⟩⟩
        · exact ⟨rfl, fun h => absurd rfl h⟩
        · exact ⟨rfl, fun _ => ⟨rfl, rfl⟩⟩
  exact hfold.1

/-- An address that leads to memory does so whatever the numbers of coarse records. -/
theorem reach_withCoarse {die : Nat} (h : (s.reach die (some c) va n write).1 = .ok gs) :
    (s.withCoarse x).reach die (some c) va n write = (.ok gs, s.withCoarse x) := by
  obtain ⟨gs', ht⟩ | ⟨s', ht, -⟩ := translate_cases s die c va n write
  case inr => simp only [State.reach, ht, reduceCtorEq] at h
  have ht₁ : (s.withCoarse x).translate die (some c) va n write = (some gs', s.withCoarse x) := by
    have hsame := translate_withCoarse (s := s) (c := c) (va := va) (n := n) (write := write) x die
    rw [ht] at hsame
    obtain ⟨gs₁, h₁⟩ | ⟨s₁, h₁, -⟩ := translate_cases (s.withCoarse x) die c va n write
    · rw [h₁] at hsame ⊢
      rw [show gs₁ = gs' from Option.some.inj hsame]
    · rw [h₁] at hsame
      cases hsame
  have hhost : (s.withCoarse x).isHost = s.isHost := rfl
  have htray : (s.withCoarse x).trayOf = s.trayOf := rfl
  have hok : (s.withCoarse x).trayOk = s.trayOk := rfl
  have hlocal : (s.withCoarse x).localOf = s.localOf := rfl
  have hoff : (s.withCoarse x).homeOff = s.homeOff := rfl
  simp only [State.reach, ht] at h
  simp only [State.reach, ht₁, hhost, htray, hok, hlocal, hoff]
  split at h
  · cases h
  next hnohost =>
    split at h
    · cases h
    next hnotray =>
      split at h
      · cases h
      next hon =>
        obtain rfl := Reach.ok.inj h
        rw [if_neg hnohost, if_neg hnotray, hon]

/-- Finding where an address leads changes pages only, and of KEY's error record nothing. -/
theorem reach_frame (s : State) (c va n : Nat) (write : Bool) : PageFrame s (s.reach 3 (some c) va n write).2
    ∧ ((s.reach 3 (some c) va n write).2.page (keyPage 0)).err = (s.page (keyPage 0)).err
    ∧ ((s.reach 3 (some c) va n write).2.page (keyPage 0)).errCount = (s.page (keyPage 0)).errCount := by
  have hcontained (s : State) (m code : Nat) (hm : keyPage 0 ≠ m) : PageFrame s (s.contained m code (some c))
      ∧ ((s.contained m code (some c)).page (keyPage 0)).err = (s.page (keyPage 0)).err
      ∧ ((s.contained m code (some c)).page (keyPage 0)).errCount = (s.page (keyPage 0)).errCount := by
    have hsame : SameButCounts (s.page (keyPage 0)) ((s.contained m code (some c)).page (keyPage 0)) := raise_page_other _ hm
    unfold SameButCounts at hsame
    exact ⟨contained_pageFrame .., by rw [← hsame], by rw [← hsame]⟩
  obtain ⟨gs, ht⟩ | ⟨s', ht, hs'⟩ := translate_cases s 3 c va n write
  · simp only [State.reach, ht]
    split
    · exact ⟨.refl s, rfl, rfl⟩
    split
    · exact ⟨.refl s, rfl, rfl⟩
    split
    · exact hcontained s _ _ (by unfold keyPage hmcPage basePage; omega)
    · exact ⟨.refl s, rfl, rfl⟩
  · simp only [State.reach, ht]
    obtain rfl | rfl := hs'
    · exact ⟨.refl s', rfl, rfl⟩
    · obtain ⟨hframe, herr, hcount⟩ := hcontained (s.event (mscPage 3) 7) (mscPage 3) 0x0D2 (by decide)
      exact ⟨(event_pageFrame ..).trans hframe, herr.trans (page_event_err ..), hcount.trans (page_event_errCount ..)⟩

end reach

/-! ## A store to one piece of local memory -/

/-- A store whose range is one local piece: its bytes are written, and nothing but memory, the cache and counters changes. -/
theorem storeAny_local {die c page va hint p n : Nat} {d : List Byte} {g : Seg} (hn : d.length = n)
    (h : s.reach die (some c) va n true = (.ok [g], s)) (hlocal : s.localOf g = some p) (hlen : g.len = n)
    (hsent : s.fab.unsent = []) (hwrites : s.mem.writes = []) :
    ∃ s', s.storeAny die c page va hint d = (true, s') ∧ MemFrame s s'
      ∧ ∀ a, s'.mem.byte a = if p ≤ a ∧ a < p + n then d.getD (a - p) 0 else s.mem.byte a := by
  subst hn
  obtain ⟨w, hw⟩ : ∃ w : MWrite, w = { id := memId 201 0, addr := p, data := d, hint := BitVec.ofNat 2 hint, alloc := !g.noalloc } := ⟨_, rfl⟩
  have hreach : s.reachWrite c .bureau page die 0 (memId 201 0) hint [g] d = (0, s.modMem fun m => { m with writes := m.writes ++ [w] }) := by
    simp only [State.reachWrite, List.foldl_cons, List.foldl_nil, hlocal, hlen, List.take_length, hw]
  have hmine : ((s.modMem fun m => { m with writes := m.writes ++ [w] }).mem.writes.filter fun x => decide (x.id = memId 201 0)) = [w] := by
    simp [hwrites, hw]
  have hadded : MemFrame s (s.modMem fun m => { m with writes := m.writes ++ [w] }) := .setMem ..
  obtain ⟨hflush, -⟩ := flushWrites_frame (s.modMem fun m => { m with writes := m.writes ++ [w] }) (some c) (memId 201 0)
  have hbyte := flushWrites_byte_one (s.modMem fun m => { m with writes := m.writes ++ [w] }) (some c) hmine
  have hpump : ((s.modMem fun m => { m with writes := m.writes ++ [w] }).flushWrites (some c) (memId 201 0)).pump
      = (s.modMem fun m => { m with writes := m.writes ++ [w] }).flushWrites (some c) (memId 201 0) :=
    pump_nil (by rw [(hadded.trans hflush).fab, hsent])
  refine ⟨_, ?_, hadded.trans hflush, fun a => ?_⟩
  · simp only [State.storeAny, h, hreach, hpump]
  · rw [hbyte, hw]
    rfl

/-! ## The 32 bytes of a record -/

theorem coarseBytes_length (q : BitVec 32) (time pw te ut : Nat) : (coarseBytes q time pw te ut).length = 32 := by
  simp [coarseBytes, toBytes_length]

/-- A stretch of bytes that lies in memory. -/
theorem bytes_of_middle {m : Mem} {p : Nat} {xs ys zs : List Byte}
    (h : ∀ i, i < (xs ++ (ys ++ zs)).length → m.byte (p + i) = (xs ++ (ys ++ zs)).getD i 0) : m.bytes (p + xs.length) ys.length = ys := by
  refine bytes_of_laid fun i hi => ?_
  have hbyte := h (xs.length + i) (by simp only [List.length_append]; omega)
  rw [← Nat.add_assoc] at hbyte
  rw [hbyte, List.getD_append_right _ _ _ _ (Nat.le_add_right ..), Nat.add_sub_cancel_left, List.getD_append _ _ _ _ hi]

/-- The words of a coarse record, as memory holds it (R333). -/
theorem coarseBytes_words {m : Mem} {p : Nat} {q : BitVec 32} {time pw te ut : Nat}
    (h : ∀ i, i < 32 → m.byte (p + i) = (coarseBytes q time pw te ut).getD i 0) :
    ofBytes (m.bytes p 8) = q.toNat + time / 100000000 % 2 ^ 32 * 2 ^ 32
      ∧ ofBytes (m.bytes (p + 8) 8) = min 0xFFFF (pw / 25) + min 255 (te / 2) * 2 ^ 16 + min 16 ut * 2 ^ 24
      ∧ ofBytes (m.bytes (p + 16) 16) = 0 := by
  have hzero : toBytes 20 0 = toBytes 4 0 ++ toBytes 16 0 := rfl
  obtain ⟨head, hhead⟩ : ∃ xs, xs = toBytes 4 q.toNat ++ toBytes 4 (time / 100000000) := ⟨_, rfl⟩
  obtain ⟨load, hload⟩ : ∃ xs, xs = toBytes 2 (min 0xFFFF (pw / 25)) ++ (toBytes 1 (min 255 (te / 2)) ++ (toBytes 1 (min 16 ut) ++ toBytes 4 0)) :=
    ⟨_, rfl⟩
  have hall : coarseBytes q time pw te ut = head ++ (load ++ toBytes 16 0) := by
    simp only [coarseBytes, hzero, hhead, hload, List.append_assoc]
  have hlen₀ : head.length = 8 := by simp [hhead, toBytes_length]
  have hlen₁ : load.length = 8 := by simp [hload, toBytes_length]
  have hbytes (i : Nat) (hi : i < (head ++ (load ++ toBytes 16 0)).length) : m.byte (p + i) = (head ++ (load ++ toBytes 16 0)).getD i 0 := by
    rw [← hall] at hi ⊢
    exact h i (by rwa [coarseBytes_length] at hi)
  have hbytes₀ := bytes_of_middle (m := m) (p := p) (xs := []) hbytes
  have hbytes₁ := bytes_of_middle (m := m) (p := p) hbytes
  have hbytes₂ := bytes_of_middle (m := m) (p := p) (xs := head ++ load) (ys := toBytes 16 0) (zs := [])
    (by rw [List.append_nil, List.append_assoc]; exact hbytes)
  rw [hlen₀, List.length_nil, Nat.add_zero] at hbytes₀
  rw [hlen₀, hlen₁] at hbytes₁
  rw [List.length_append, hlen₀, hlen₁, toBytes_length] at hbytes₂
  have hq := q.isLt
  refine ⟨?_, ?_, by rw [hbytes₂, ofBytes_toBytes, Nat.zero_mod]⟩
  · rw [hbytes₀, hhead, ofBytes_append, toBytes_length, ofBytes_toBytes, ofBytes_toBytes]
    omega
  · rw [hbytes₁, hload]
    simp only [ofBytes_append, toBytes_length, ofBytes_toBytes]
    omega

/-! ## COARSE_RECORD -/

/-- A context that takes coarse records: its descriptor is valid and has an address for them. -/
abbrev State.wantsCoarse (s : State) (c : Nat) : Prop := (s.desc c).w0.getLsbD 0 = true ∧ (s.desc c).w5 ≠ 0

/-- The record of one context. -/
def State.recordCoarse (pw te ut : Nat) (s : State) (c : Nat) : State :=
  let d := s.desc c
  if d.w0.getLsbD 0 ∧ d.w5 ≠ 0 then
    let q := Tab.get 0 s.key.coarse c
    let s := s.modKey fun k => { k with coarse := Tab.set 0 k.coarse c (q + 1) }
    match s.storeAny 3 c (keyPage 0) d.w5.toNat 1 (coarseBytes q s.time pw te ut) with
    | (true, s) => s.count (keyPage 0) 7 (some c)
    | (false, s) => (s.count (keyPage 0) 8 (some c)).note (keyPage 0) 0x105 (some c)
  else s

section record

variable {pw te ut c : Nat}

theorem recordCoarse_skips (h : ¬ s.wantsCoarse c) : s.recordCoarse pw te ut c = s := if_neg h

/-- Where no subscribed context's record is held, each has its record in turn. -/
theorem coarseRecord_records (ha : Awake s) (hfree : ∀ c, c ∈ s.key.descs.map Prod.fst → s.wantsCoarse c →
    s.vaHeld 3 c (s.desc c).w5.toNat 32 true = false) :
    exec (.coarseRecord pw te ut) s = .next ((s.key.descs.map Prod.fst).foldl (State.recordCoarse pw te ut) s) := by
  have hany : ((s.key.descs.map Prod.fst).any fun c => (s.desc c).w0.getLsbD 0 && decide ((s.desc c).w5 ≠ 0)
      && s.vaHeld 3 c (s.desc c).w5.toNat 32 true) = false := by
    rw [List.any_eq_false]
    intro c hc h
    rw [Bool.and_eq_true, Bool.and_eq_true, decide_eq_true_eq] at h
    obtain ⟨hwants, hheld⟩ := h
    exact absurd (hheld.symm.trans (hfree c hc hwants)) (by decide)
  exact (if_neg (by rw [hany]; decide)).trans (if_pos (awake_of_Awake ha))

/-- Contexts without a subscription change nothing. -/
theorem foldl_recordCoarse_skips {cs : List Nat} (h : ∀ c, c ∈ cs → ¬ s.wantsCoarse c) : cs.foldl (State.recordCoarse pw te ut) s = s := by
  induction cs with
  | nil => rfl
  | cons c cs ih =>
    rw [List.foldl_cons, recordCoarse_skips (h c List.mem_cons_self)]
    exact ih fun x hx => h x (List.mem_cons_of_mem _ hx)

/-- With one subscribed context there is one record. -/
theorem foldl_recordCoarse_one {cs : List Nat} (hone : cs.filter (fun c => decide (s.wantsCoarse c)) = [c])
    (hdescs : (s.recordCoarse pw te ut c).key.descs = s.key.descs) :
    cs.foldl (State.recordCoarse pw te ut) s = s.recordCoarse pw te ut c := by
  obtain ⟨pre, post, rfl, hpre, -, hpost⟩ := List.filter_eq_cons_iff.1 hone
  have hskip (x : Nat) (hx : x ∈ pre) : ¬ s.wantsCoarse x := by simpa using hpre x hx
  have hskip' (x : Nat) (hx : x ∈ post) : ¬ (s.recordCoarse pw te ut c).wantsCoarse x := by
    have hno := List.filter_eq_nil_iff.1 hpost x hx
    rw [decide_eq_true_eq] at hno
    simpa only [State.wantsCoarse, State.desc, hdescs] using hno
  rw [List.foldl_append, foldl_recordCoarse_skips hskip, List.foldl_cons, foldl_recordCoarse_skips hskip']

/-- The state in which a record of context c is written: its number has been taken. -/
def State.counted (s : State) (c : Nat) : State := s.withCoarse (Tab.set 0 s.key.coarse c (Tab.get 0 s.key.coarse c + 1))

/-- The attempt to write a subscribed context's record. -/
def State.coarseStore (s : State) (c pw te ut : Nat) : Bool × State :=
  (s.counted c).storeAny 3 c (keyPage 0) (s.desc c).w5.toNat 1 (coarseBytes (Tab.get 0 s.key.coarse c) s.time pw te ut)

theorem recordCoarse_stored {s' : State} (h : s.wantsCoarse c) (hstore : s.coarseStore c pw te ut = (true, s')) :
    s.recordCoarse pw te ut c = s'.count (keyPage 0) 7 (some c) := by
  have hstore' : (s.modKey fun k => { k with coarse := Tab.set 0 k.coarse c (Tab.get 0 s.key.coarse c + 1) }).storeAny 3 c (keyPage 0)
      (s.desc c).w5.toNat 1 (coarseBytes (Tab.get 0 s.key.coarse c) s.time pw te ut) = (true, s') := hstore
  simp only [State.recordCoarse, if_pos h, State.modKey_time, hstore']

theorem recordCoarse_lost {s' : State} (h : s.wantsCoarse c) (hstore : s.coarseStore c pw te ut = (false, s')) :
    s.recordCoarse pw te ut c = (s'.count (keyPage 0) 8 (some c)).note (keyPage 0) 0x105 (some c) := by
  have hstore' : (s.modKey fun k => { k with coarse := Tab.set 0 k.coarse c (Tab.get 0 s.key.coarse c + 1) }).storeAny 3 c (keyPage 0)
      (s.desc c).w5.toNat 1 (coarseBytes (Tab.get 0 s.key.coarse c) s.time pw te ut) = (false, s') := hstore
  simp only [State.recordCoarse, if_pos h, State.modKey_time, hstore']

theorem counted_coarse (s : State) (c : Nat) : Tab.get 0 (s.counted c).key.coarse c = Tab.get 0 s.key.coarse c + 1 :=
  (Tab.get_set 0 s.key.coarse c c _).trans (if_pos rfl)

/-- A record whose address is one piece of local memory (R333). -/
theorem recordCoarse_writes {p : Nat} (h : s.wantsCoarse c) (hat : LocalAt s 3 c (s.desc c).w5.toNat 32 true p) (hsent : s.fab.unsent = [])
    (hwrites : s.mem.writes = []) : (s.recordCoarse pw te ut c).key = (s.counted c).key ∧ (s.recordCoarse pw te ut c).tiles = s.tiles
      ∧ ∀ a, (s.recordCoarse pw te ut c).mem.byte a = if p ≤ a ∧ a < p + 32
          then (coarseBytes (Tab.get 0 s.key.coarse c) s.time pw te ut).getD (a - p) 0 else s.mem.byte a := by
  obtain ⟨g, hreach, hlocal, hlen, -⟩ := hat
  have hd := coarseBytes_length (Tab.get 0 s.key.coarse c) s.time pw te ut
  have hreach' := reach_withCoarse (Tab.set 0 s.key.coarse c (Tab.get 0 s.key.coarse c + 1)) hreach
  obtain ⟨s', hstore, hframe, hbyte⟩ := storeAny_local (page := keyPage 0) (hint := 1) hd hreach' hlocal hlen hsent hwrites
  rw [recordCoarse_stored h hstore]
  refine ⟨by rw [count_key, hframe.key]; rfl, ?_, fun a => ?_⟩
  · rw [count_tiles, hframe.tiles]
    rfl
  · rw [count_mem, hbyte]
    rfl

/-- A record whose address leads nowhere is lost, and noted (R333). -/
theorem recordCoarse_notes {n : Nat} (h : s.wantsCoarse c) (hat : (s.reach 3 (some c) (s.desc c).w5.toNat 32 true).1 = .refused n) :
    (s.recordCoarse pw te ut c).key = (s.counted c).key ∧ Reported (keyPage 0) 0 0x105 s (s.recordCoarse pw te ut c)
      ∧ TilesSame s (s.recordCoarse pw te ut c) ∧ MemSame s (s.recordCoarse pw te ut c) := by
  have hd := coarseBytes_length (Tab.get 0 s.key.coarse c) s.time pw te ut
  obtain ⟨hframe, herr, hcount⟩ := reach_frame (s.counted c) c (s.desc c).w5.toNat 32 true
  have hrefused : ∃ k, ((s.counted c).reach 3 (some c) (s.desc c).w5.toNat 32 true).1 = .refused k := by
    cases hr : ((s.counted c).reach 3 (some c) (s.desc c).w5.toNat 32 true).1 with
    | refused k => exact ⟨k, rfl⟩
    | ok gs =>
      have hback : s.reach 3 (some c) (s.desc c).w5.toNat 32 true = (.ok gs, s) := reach_withCoarse (s := s.counted c) s.key.coarse hr
      rw [hback] at hat
      cases hat
  obtain ⟨k, hk⟩ := hrefused
  generalize hr : (s.counted c).reach 3 (some c) (s.desc c).w5.toNat 32 true = r at *
  obtain ⟨r₁, s₁⟩ := r
  dsimp only at hk
  subst hk
  have hstore : s.coarseStore c pw te ut = (false, s₁) := by
    simp only [State.coarseStore, State.storeAny, hd, hr]
  rw [recordCoarse_lost h hstore]
  have hall := (hframe.trans (count_pageFrame s₁ (keyPage 0) 8 (some c) 1)).trans
    (raise_pageFrame (s₁.count (keyPage 0) 8 (some c)) (n := keyPage 0) (sev := 0) (code := 0x105) (c := some c) (loc := 0) (by decide))
  obtain ⟨htiles, hmem, -, -, -, -, -, hkey, -⟩ := hall
  refine ⟨hkey, reported_from ?_ ?_ (raise_reported (by decide)), htiles, hmem⟩
  · rw [page_count_err]
    exact herr
  · rw [page_count_errCount]
    exact hcount

/-- With one subscribed context, COARSE_RECORD is its record. -/
theorem coarseRecord_one (ha : Awake s)
    (hone : (s.key.descs.map Prod.fst).filter (fun c => decide ((s.desc c).w0.getLsbD 0 = true ∧ (s.desc c).w5 ≠ 0)) = [c])
    (hfree : s.vaHeld 3 c (s.desc c).w5.toNat 32 true = false) (hkey : s.wantsCoarse c → (s.recordCoarse pw te ut c).key = (s.counted c).key) :
    s.wantsCoarse c ∧ exec (.coarseRecord pw te ut) s = .next (s.recordCoarse pw te ut c) := by
  have hwants : s.wantsCoarse c := by
    have hmem : c ∈ (s.key.descs.map Prod.fst).filter (fun c => decide ((s.desc c).w0.getLsbD 0 = true ∧ (s.desc c).w5 ≠ 0)) := by
      rw [hone]
      exact List.mem_singleton_self c
    exact of_decide_eq_true (List.mem_filter.1 hmem).2
  have hheld (x : Nat) (hx : x ∈ s.key.descs.map Prod.fst) (hw : s.wantsCoarse x) : s.vaHeld 3 x (s.desc x).w5.toNat 32 true = false := by
    have hmem : x ∈ (s.key.descs.map Prod.fst).filter (fun c => decide ((s.desc c).w0.getLsbD 0 = true ∧ (s.desc c).w5 ≠ 0)) :=
      List.mem_filter.2 ⟨hx, decide_eq_true hw⟩
    rw [hone, List.mem_singleton] at hmem
    rw [hmem]
    exact hfree
  refine ⟨hwants, (coarseRecord_records ha hheld).trans (congrArg _ (foldl_recordCoarse_one hone ?_))⟩
  rw [hkey hwants]
  rfl

/-- With none, it does nothing. -/
theorem coarseRecord_none (ha : Awake s)
    (hnone : (s.key.descs.map Prod.fst).filter (fun c => decide ((s.desc c).w0.getLsbD 0 = true ∧ (s.desc c).w5 ≠ 0)) = []) :
    exec (.coarseRecord pw te ut) s = .next s := by
  have hno (x : Nat) (hx : x ∈ s.key.descs.map Prod.fst) : ¬ s.wantsCoarse x := by
    have := List.filter_eq_nil_iff.1 hnone x hx
    rwa [decide_eq_true_eq] at this
  rw [coarseRecord_records ha fun x hx hw => absurd hw (hno x hx), foldl_recordCoarse_skips hno]

theorem vaHeld_local {p : Nat} {va : Nat} (hat : LocalAt s 3 c va 32 true p) : s.vaHeld 3 c va 32 true = false := by
  obtain ⟨g, hreach, -, -, hheld⟩ := hat
  simp only [State.vaHeld, hreach, hheld]

theorem vaHeld_refused {n va : Nat} (hat : (s.reach 3 (some c) va 32 true).1 = .refused n) : s.vaHeld 3 c va 32 true = false := by
  simp only [State.vaHeld, hat]

end record

/-! ## The obligation -/

/-- Descriptors, keys, sessions and coarse records. -/
theorem descriptorsAndKeys : Spec.DescriptorsAndKeys := by
  intro s a hb
  have ha : Awake s := hb.1
  refine ⟨fun c => ⟨fun x h hctx hm => reload_rejects hb c h hctx hm, fun hfree => ⟨reload_copies hb c hfree, reload_refuses hb c hfree⟩,
    erase_job hb c, erase_mgmt hb c⟩, attSessionExpiry_removes ha, fun pw te ut hnone => ⟨s, coarseRecord_none ha hnone, rfl⟩,
    fun pw te ut c hone hsent hwrites => ⟨fun p hat => ?_, fun n hat => ?_⟩⟩
  · have hrecord (hw : s.wantsCoarse c) := recordCoarse_writes (pw := pw) (te := te) (ut := ut) hw hat hsent hwrites
    obtain ⟨hwants, hrun⟩ := coarseRecord_one ha hone (vaHeld_local hat) fun hw => (hrecord hw).1
    obtain ⟨hkey, htiles, hbyte⟩ := hrecord hwants
    obtain ⟨hfirst, hsecond, hrest⟩ := coarseBytes_words (m := (s.recordCoarse pw te ut c).mem) (p := p) (q := Tab.get 0 s.key.coarse c)
      (time := s.time) (pw := pw) (te := te) (ut := ut) fun i hi => by rw [hbyte, if_pos (by omega), Nat.add_sub_cancel_left]
    refine ⟨_, hrun, hfirst, hsecond, hrest, fun x hx => by rw [hbyte, if_neg (by omega)], ?_, tilesSame_of_eq htiles⟩
    rw [hkey, counted_coarse]
  · have hrecord (hw : s.wantsCoarse c) := recordCoarse_notes (pw := pw) (te := te) (ut := ut) hw hat
    obtain ⟨hwants, hrun⟩ := coarseRecord_one ha hone (vaHeld_refused hat) fun hw => (hrecord hw).1
    obtain ⟨hkey, hreported, htiles, hmem⟩ := hrecord hwants
    refine ⟨_, hrun, ?_, hreported, htiles, hmem⟩
    rw [hkey, counted_coarse]

/-- Settles O47: the switches by their outcomes, then descriptors, keys and records row by row. -/
theorem contextsAndKeys : Obligations.ContextsAndKeys := ⟨contextSwitches, descriptorsAndKeys⟩

end Sys2Proof.Machine
end

section
/-! Scalar arithmetic, constants, field moves and compares (R73, R103 to R106): O1, O2. -/

namespace Sys2Proof.Machine

open Sys2Proof Sys2Proof.Spec

variable {s : State} {t : Fin 192} {w : Word}

/-! ## The operations of R103 -/

theorem ofInt_sub_toNat : (fun a b : Word => BitVec.ofInt 64 ((a.toNat : Int) - b.toNat)) = (· - ·) := by
  funext a b
  rw [Int.sub_eq_add_neg, BitVec.ofInt_add, BitVec.ofInt_neg, BitVec.ofInt_natCast, BitVec.ofInt_natCast, BitVec.ofNat_toNat, BitVec.ofNat_toNat,
    BitVec.setWidth_eq, BitVec.setWidth_eq, BitVec.sub_eq_add_neg]

theorem ofNat_add_toNat : (fun a b : Word => BitVec.ofNat 64 (a.toNat + b.toNat)) = (· + ·) := by
  funext a b
  rw [BitVec.ofNat_add, BitVec.ofNat_toNat, BitVec.ofNat_toNat, BitVec.setWidth_eq, BitVec.setWidth_eq]

theorem ofNat_mul_toNat : (fun a b : Word => BitVec.ofNat 64 (a.toNat * b.toNat)) = (· * ·) := by
  funext a b
  rw [BitVec.ofNat_mul, BitVec.ofNat_toNat, BitVec.ofNat_toNat, BitVec.setWidth_eq, BitVec.setWidth_eq]

theorem shamt_eq (b : Word) : shamt b = b.toNat % 64 := bits_zero b 6

theorem opShl_eq : opShl = fun a b : Word => a <<< (b.toNat % 64) := by
  funext a b
  rw [opShl, shamt_eq]

theorem opShr_eq : opShr = fun a b : Word => a >>> (b.toNat % 64) := by
  funext a b
  rw [opShr, shamt_eq]

/-- An arithmetic right shift divides by a power of two, rounding down. -/
theorem opSra_eq : opSra = fun a b => BitVec.ofInt 64 (a.toInt / 2 ^ (b.toNat % 64)) := by
  funext a b
  rw [opSra, shamt_eq, ← BitVec.ofInt_toInt (x := a.sshiftRight _), BitVec.toInt_sshiftRight, Int.shiftRight_eq_div_pow]
  norm_cast

theorem opMin_eq : opMin = fun a b => if a.toInt < b.toInt then a else b := by
  funext a b
  simp only [opMin, BitVec.slt_iff_toInt_lt]

theorem opMax_eq : opMax = fun a b => if a.toInt < b.toInt then b else a := by
  funext a b
  simp only [opMax, BitVec.slt_iff_toInt_lt]

theorem opMinu_eq : opMinu = fun a b => if a.toNat < b.toNat then a else b := by
  funext a b
  simp only [opMinu, BitVec.ult_iff_toNat_lt]

theorem opMaxu_eq : opMaxu = fun a b => if a.toNat < b.toNat then b else a := by
  funext a b
  simp only [opMaxu, BitVec.ult_iff_toNat_lt]

/-- The register forms with the model's own operations. -/
def aluOps : List ((Fin 192 → Instr) × Nat × (Word → Word → Word)) :=
  [(.add, 0x01, (· + ·)), (.sub, 0x02, (· - ·)), (.mul, 0x03, (· * ·)), (.and, 0x04, (· &&& ·)), (.or, 0x05, (· ||| ·)), (.xor, 0x06, (· ^^^ ·)),
   (.shl, 0x07, opShl), (.shr, 0x08, opShr), (.sra, 0x09, opSra), (.min, 0x0A, opMin), (.max, 0x0B, opMax), (.minu, 0x0C, opMinu),
   (.maxu, 0x0D, opMaxu)]

theorem aluRows_eq : aluRows = aluOps := by
  rw [aluRows, aluOps, ofNat_add_toNat, ofInt_sub_toNat, ofNat_mul_toNat, opShl_eq, opShr_eq, opSra_eq, opMin_eq, opMax_eq, opMinu_eq, opMaxu_eq]

section rows

variable {c : Fin 192 → Instr} {opc : Nat} {f : Word → Word → Word}

theorem aluRow_runs (h : (c, opc, f) ∈ aluRows) : exec (c t) s = .next (s.seqRow t opc (seqRegs t (aluReg f))) := by
  rw [aluRows_eq] at h
  simp only [aluOps, List.mem_cons, List.not_mem_nil, or_false, Prod.mk.injEq] at h
  rcases h with h | h | h | h | h | h | h | h | h | h | h | h | h <;> (obtain ⟨rfl, rfl, rfl⟩ := h; rfl)

theorem aluImmRow_runs (h : (c, opc, f) ∈ aluImmRows) : exec (c t) s = .next (s.seqRow t opc (seqRegs t (aluImm f))) := by
  rw [aluImmRows, aluRows_eq] at h
  simp only [aluOps, List.zipWith, List.mem_cons, List.not_mem_nil, or_false, Prod.mk.injEq] at h
  rcases h with h | h | h | h | h | h | h | h | h | h | h | h | h <;> (obtain ⟨rfl, rfl, rfl⟩ := h; rfl)

end rows

/-! ## One register is written -/

theorem insSimm_eq (w : Word) : insSimm w = simm w := by
  rw [insSimm, insImm_eq, simm, BitVec.signExtend]

/-- An instruction that writes s[RD] and goes on to the next. -/
theorem runs_sets_reg {c : Instr} {opc : Nat} (v : Word → Tile → Word) (h : Runs s t opc w)
    (hc : exec c s = .next (s.seqRow t opc (seqRegs t fun w ti => ti.setReg (rd w) (v w ti))))
    (hv : ∀ l, v w { s.tile t with tileLine := l } = v w (s.tile t)) :
    Answers c s fun s' => RegIs (s.tile t) (s'.tile t) (rd w) (v w (s.tile t)) ∧ (s'.tile t).pc = (s.tile t).pc + 1
      ∧ OnlyRegs (s.tile t) (s'.tile t) ∧ SeqFrame t s s' := by
  refine (runs_acts_seqRegs h hc fun _ => bytesSame_of_eq rfl rfl).imp fun s' ⟨⟨l, hl⟩, hframe⟩ => ?_
  rw [hl, hv]
  exact ⟨fun i => reg_setReg (s.tile t) .., rfl, rfl, hframe⟩

theorem registerArithmetic : Spec.RegisterArithmetic := fun _ _ f hrow _ _ _ h =>
  runs_sets_reg (fun w ti => f (ti.reg (ra w)) (ti.reg (rb w))) h (aluRow_runs hrow) fun _ => rfl

theorem immediateArithmetic : Spec.ImmediateArithmetic := fun _ _ f hrow _ _ w h =>
  insSimm_eq w ▸ runs_sets_reg (fun w ti => f (ti.reg (ra w)) (insSimm w)) h (aluImmRow_runs hrow) fun _ => rfl

/-! ## Constants and field moves (R103, R104) -/

theorem insPos_eq (w : Word) : insPos w = (imm w).toNat % 64 := bits_imm w 6

theorem insWidth_eq (w : Word) : insWidth w = (imm w).toNat / 64 % 128 := by
  rw [imm_toNat, Nat.div_div_eq_div_mul]
  rfl

theorem getLsbD_imm_high {b : Nat} (hlo : 32 ≤ b) : (insImm w).toNat.testBit (b - 32) = w.getLsbD b := by
  rw [insImm_eq, imm_toNat, Nat.testBit_div_two_pow, Nat.sub_add_cancel hlo]
  rfl

theorem moves : Spec.Moves := by
  intro s t w
  refine ⟨fun h => ?nop, fun h => ?movi, fun h => ?movhi, fun h => ?ins, fun h => ?ext⟩
  case nop =>
    refine (runs_acts_seqRegs h rfl fun _ => BytesSame.refl _).imp fun s' ⟨⟨l, hl⟩, hframe⟩ => ?_
    rw [hl]
    exact ⟨fun _ => rfl, rfl, rfl, hframe⟩
  case movi => exact insSimm_eq w ▸ runs_sets_reg (fun w _ => insSimm w) h rfl fun _ => rfl
  case movhi =>
    refine (runs_sets_reg (fun w ti => putBits (ti.reg (rd w)) 32 32 (insImm w).toNat) h rfl fun _ => rfl).imp fun s' hs' => ⟨_, fun b hb => ?_, hs'⟩
    rw [getLsbD_putBits _ _ _ _ _ hb]
    by_cases hlo : 32 ≤ b
    · rw [if_pos ⟨hlo, hb⟩, if_pos hlo, getLsbD_imm_high hlo]
    · rw [if_neg fun hin => hlo hin.1, if_neg hlo]
  case ins =>
    refine (runs_sets_reg (fun w ti => insField w (ti.reg (rd w)) (ti.reg (ra w))) h rfl fun _ => rfl).imp fun s' hs' => ⟨_, fun b hb => ?_, hs'⟩
    rw [insField, getLsbD_putBits _ _ _ _ _ hb, insPos_eq, insWidth_eq]
    split
    next hin =>
      rw [Nat.testBit_mod_two_pow, decide_eq_true (by omega), Bool.true_and]
      rfl
    next => rfl
  case ext =>
    refine (runs_sets_reg (fun w ti => BitVec.ofNat 64 (bits (ti.reg (ra w)) (insPos w) (insWidth w))) h rfl fun _ => rfl).imp
      fun s' hs' => ⟨_, fun b hb => ?_, hs'⟩
    rw [BitVec.getLsbD_ofNat, decide_eq_true hb, Bool.true_and, bits, Nat.testBit_mod_two_pow, Nat.testBit_div_two_pow, insPos_eq, insWidth_eq]
    by_cases hin : b < (imm w).toNat / 64 % 128
    · rw [decide_eq_true hin, if_pos hin, Bool.true_and]
      rfl
    · rw [decide_eq_false hin, if_neg hin, Bool.false_and]

/-- Settles O1: both forms of the operations row by row, and the moves. -/
theorem arithmeticAndMoves : Obligations.ArithmeticAndMoves := ⟨registerArithmetic, immediateArithmetic, moves⟩

/-! ## Which words are legal (R102) -/

section legal

variable {ti : Tile} {hasRd hasRa hasRb hasX : Bool} {used : Nat}

/-- The fields that an opcode does not use are 0, and its codes have a meaning. -/
theorem insLegal_iff (hu : insUses (w.toNat % 2 ^ 8) = some (hasRd, hasRa, hasRb, hasX, used)) : insLegal ti w = true ↔
    (hasRd = true ∨ rd w = 0) ∧ (hasRa = true ∨ ra w = 0) ∧ (hasRb = true ∨ rb w = 0) ∧ (hasX = true ∨ xf w = 0)
      ∧ (imm w).toNat &&& (2 ^ 32 - 1 - used) = 0 ∧ insCodes ti w = true := by
  rw [insLegal, insOpc_eq, hu]
  simp only [Bool.and_eq_true, Bool.or_eq_true, decide_eq_true_eq, and_assoc]
  rw [insImm_eq]
  exact Iff.rfl

theorem insCodes_of_legal (h : insLegal ti w = true) : insCodes ti w = true := by
  unfold insLegal at h
  split at h
  · cases h
  · exact (Bool.and_eq_true_iff.1 h).2

end legal

theorem insCodes_of_Runs {opc : Nat} (h : Runs s t opc w) : insCodes (s.tile t) w = true := by
  obtain ⟨-, -, hlegal, -, -⟩ := h
  exact insCodes_of_legal hlegal

section codes

variable {ti : Tile}

theorem insCodes_compare (h : w.toNat % 2 ^ 8 = 0x28 ∨ w.toNat % 2 ^ 8 = 0x29) : insCodes ti w = true ↔ rd w < 10 ∧ xf w < 8 := by
  obtain h | h := h <;> (simp only [insCodes, insOpc_eq, h, decide_eq_true_eq]; exact Iff.rfl)

theorem insCodes_plog (h : w.toNat % 2 ^ 8 = 0x2A) : insCodes ti w = true ↔ rd w < 4 ∧ ra w < 8 ∧ rb w < 8 ∧ xf w < 8 := by
  simp only [insCodes, insOpc_eq, h, decide_eq_true_eq]
  exact Iff.rfl

end codes

/-! ## One predicate is written -/

/-- An instruction that writes p[X] and goes on to the next. -/
theorem runs_sets_pred {c : Instr} {opc : Nat} (v : Word → Tile → Bool) (h : Runs s t opc w)
    (hc : exec c s = .next (s.seqRow t opc (seqRegs t fun w ti => ti.setPred (xf w) (v w ti))))
    (hv : ∀ l, v w { s.tile t with tileLine := l } = v w (s.tile t)) :
    Answers c s fun s' => PredIs (s.tile t) (s'.tile t) (xf w) (v w (s.tile t)) ∧ (s'.tile t).pc = (s.tile t).pc + 1
      ∧ OnlyPreds (s.tile t) (s'.tile t) ∧ SeqFrame t s s' := by
  have hset (ti : Tile) (i : Nat) (b : Bool) : ∃ p, ti.setPred i b = { ti with p := p } := by
    unfold Tile.setPred
    split <;> exact ⟨_, rfl⟩
  refine (runs_acts_seqRegs h hc fun ti => ?_).imp fun s' ⟨⟨l, hl⟩, hframe⟩ => ?_
  · obtain ⟨p, hp⟩ := hset ti (xf w) (v w ti)
    rw [hp]
    exact bytesSame_of_eq rfl rfl
  · have hpred := fun i hi => pred_setPred { s.tile t with tileLine := l } (xf w) i (v w (s.tile t)) hi
    obtain ⟨p, hp⟩ := hset { s.tile t with tileLine := l } (xf w) (v w (s.tile t))
    rw [hp] at hpred
    rw [hl, hv, hp]
    exact ⟨hpred, rfl, rfl, hframe⟩

/-! ## Compares and predicate logic (R105, R106) -/

theorem cmpCond_iff {cc : Nat} (h : cc < 10) (a b : Word) : cmpCond cc a b = true ↔ condition cc a b := by
  interval_cases cc <;> simp [cmpCond, condition, BitVec.slt, BitVec.ult]

theorem plogOp_iff {op : Nat} (h : op < 4) (a b : Bool) : plogOp op a b = true ↔
    (op = 0 ∧ a = true ∧ b = true) ∨ (op = 1 ∧ (a = true ∨ b = true)) ∨ (op = 2 ∧ a ≠ b) ∨ (op = 3 ∧ a = true ∧ b = false) := by
  interval_cases op <;> simp [plogOp]

theorem fcmpCond_eq (cc a b : Nat) : fcmpCond cc a b = decide (fcond cc (ofF32 (a % 2 ^ 32)) (ofF32 (b % 2 ^ 32)) = some true) := by
  rw [fcmpCond]
  cases h : fcond cc (ofF32 (a % 2 ^ 32)) (ofF32 (b % 2 ^ 32)) with
  | none => rfl
  | some v => cases v <;> rfl

/-- Settles O2, row by row: codes beyond 9 have no meaning, and those that have one are the model's conditions. -/
theorem compares : Obligations.Compares := by
  intro s t w
  refine ⟨fun hcc hopc => ?illegal, fun h => ?cmp, fun h => ?cmpi, fun h => ?plog, fun h => ?fcmp, fun h => ?fcmpi⟩
  case illegal =>
    rw [← Bool.not_eq_true]
    intro hlegal
    obtain ⟨hlt, -⟩ := (insCodes_compare hopc).1 (insCodes_of_legal hlegal)
    omega
  case cmp =>
    obtain ⟨hcc, -⟩ := (insCodes_compare (.inl (runs_opcode h))).1 (insCodes_of_Runs h)
    exact (runs_sets_pred (fun w ti => cmpCond (rd w) (ti.reg (ra w)) (ti.reg (rb w))) h rfl fun _ => rfl).imp
      fun s' ⟨hpred, hs'⟩ => ⟨⟨_, cmpCond_iff hcc _ _, hpred⟩, hs'⟩
  case cmpi =>
    obtain ⟨hcc, -⟩ := (insCodes_compare (.inr (runs_opcode h))).1 (insCodes_of_Runs h)
    rw [← insSimm_eq]
    exact (runs_sets_pred (fun w ti => cmpCond (rd w) (ti.reg (ra w)) (insSimm w)) h rfl fun _ => rfl).imp
      fun s' ⟨hpred, hs'⟩ => ⟨⟨_, cmpCond_iff hcc _ _, hpred⟩, hs'⟩
  case plog =>
    obtain ⟨hop, -⟩ := (insCodes_plog (runs_opcode h)).1 (insCodes_of_Runs h)
    exact (runs_sets_pred (fun w ti => plogOp (rd w) (ti.pred (ra w)) (ti.pred (rb w))) h rfl fun _ => rfl).imp
      fun s' ⟨hpred, hs'⟩ => ⟨⟨_, plogOp_iff hop _ _, hpred⟩, hs'⟩
  case fcmp =>
    rw [← fcmpCond_eq]
    exact runs_sets_pred (fun w ti => fcmpCond (rd w) (ti.reg (ra w)).toNat (ti.reg (rb w)).toNat) h rfl fun _ => rfl
  case fcmpi =>
    have himm : (imm w).toNat % 2 ^ 32 = (insImm w).toNat % 2 ^ 32 := by rw [insImm_eq]
    rw [← Nat.mod_eq_of_lt (imm w).isLt, himm, ← fcmpCond_eq]
    exact runs_sets_pred (fun w ti => fcmpCond (rd w) (ti.reg (ra w)).toNat (insImm w).toNat) h rfl fun _ => rfl

end Sys2Proof.Machine
end

section
/-! What every row of the sequencer does at a PC outside the region, at an illegal instruction and with a guard of 0, the transfers of
control, and the words that are legal (R92, R99 to R103, R107): O6, O8. -/

namespace Sys2Proof.Machine

open Sys2Proof Sys2Proof.Spec

variable {s : State} {t : Fin 192} {w : Word}

/-! ## Every row of the sequencer -/

section rows

variable {c : Fin 192 → Instr} {opc : Nat}

/-- Each row is the meeting of its opcode with the instruction at PC; ISSUE too, where it stands in no stall. -/
theorem seqRow_runs_row (h : (c, opc) ∈ seqRows) (hstall : (s.tile t).stall = .none) : ∃ run, exec (c t) s = .next (s.seqRow t opc run) := by
  have hissue : exec (.issue t) s = .next (s.seqRow t 0x58 (State.issueRun t)) := if_neg (by simp [State.stalledOn, hstall])
  rw [seqRows, List.mem_append, List.mem_map] at h
  obtain ⟨⟨c', opc', f⟩, hrow, heq⟩ | h := h
  · obtain ⟨rfl, rfl⟩ := Prod.mk.injEq .. ▸ heq
    obtain hrow | hrow := List.mem_append.1 hrow
    · exact ⟨_, aluRow_runs hrow⟩
    · exact ⟨_, aluImmRow_runs hrow⟩
  · simp only [List.mem_cons, List.not_mem_nil, or_false, Prod.mk.injEq] at h
    rcases h with h | h | h | h | h | h | h | h | h | h | h | h | h | h | h | h | h | h | h | h | h | h | h | h | h | h | ⟨rfl, rfl⟩
    on_goal 27 => exact ⟨_, hissue⟩
    all_goals (obtain ⟨rfl, rfl⟩ := h; exact ⟨_, rfl⟩)

/-- A halt with an error answers the two limits of a fetch (R92, R102). -/
theorem haltWith_answers {c : Instr} {code : Nat} (h : exec c s = .next (s.haltWith t code)) : Answers c s fun s' =>
    (s'.tile t).seq = .halted ∧ (s'.tile t).pc = (s.tile t).pc ∧ Reported (seqPage t) 2 code s s'
      ∧ (∀ i, (s'.tile t).reg i = (s.tile t).reg i) ∧ BytesSame (s.tile t) (s'.tile t) ∧ TileFrame t s s' := by
  obtain ⟨hbytes, hframe⟩ := haltWith_tileOnly s t code
  refine ⟨_, h, ?_, ?_, haltWith_reported .., fun i => ?_, hbytes, hframe⟩ <;> rw [tile_haltWith]
  rfl

end rows

theorem fetchLimits : Spec.FetchLimits := by
  intro c opc hrow s t
  refine ⟨fun hw hseq hstop hstall hpc => ?outside, fun hready hlegal => ?illegal⟩
  case outside =>
    obtain ⟨run, hrun⟩ := seqRow_runs_row hrow hstall
    have hr : s.seqReady t = true := by simp [State.seqReady, tileRuns_of_Works hw, hseq, hstop, hstall]
    have hp : s.pcInside t = false := decide_eq_false (Nat.not_lt.2 hpc)
    exact haltWith_answers (hrun.trans (by simp [State.seqRow, hr, hp]))
  case illegal =>
    obtain ⟨-, -, -, hstall, -⟩ := id hready
    obtain ⟨run, hrun⟩ := seqRow_runs_row hrow hstall
    obtain ⟨hr, hp⟩ := seqReady_of_Ready hready
    exact haltWith_answers (hrun.trans (by simp [State.seqRow, hr, hp, hlegal]))

/-! ## A guard of 0 (R101) -/

theorem tile_touchLine (s : State) (t : Nat) : ∃ l, (s.touchLine t).tile t = { s.tile t with tileLine := l } := ⟨_, tile_modTile_same ..⟩

/-- Settles O6: a skipped instruction is a used line and the next PC, and p0 reads 1. -/
theorem guardZeroHasNoEffect : Obligations.GuardZeroHasNoEffect := by
  refine ⟨fun c opc hrow s t w hready hw hlegal hopc hguard => ?_, fun s t w hpg => ?_⟩
  · subst hw
    obtain ⟨-, -, -, hstall, -⟩ := id hready
    obtain ⟨run, hrun⟩ := seqRow_runs_row hrow hstall
    obtain ⟨hr, hp⟩ := seqReady_of_Ready hready
    have ho : insOpc (s.insAt t) = opc := (insOpc_eq _).trans hopc
    have hg : insGuard (s.tile t) (s.insAt t) = false := by rw [insGuard, Bool.bne_eq_xor]; exact hguard
    have hskip : s.seqRow t opc run = (s.touchLine t).stepPc t := by simp [State.seqRow, hr, hp, hlegal, ho, hg]
    obtain ⟨l, hl⟩ := tile_touchLine s t
    refine ⟨_, hrun.trans (congrArg _ hskip), ?_, (modTile_seqFrame (bytesSame_of_eq rfl rfl)).trans (stepPc_seqFrame ..)⟩
    rw [tile_stepPc, hl]
    rfl
  · rw [hpg]
    exact Bool.true_xor _

/-! ## Transfers of control (R103, R107) -/

theorem drained_of_not_quiescing {n : Nat} (h : (s.page n).quiescing = false) : s.drained n = s := by simp [State.drained, h]

/-- With no quiesce of SEQ waiting, a halt changes the tile only. -/
theorem haltSeq_seqFrame {t : Nat} (h : (s.page (seqPage t)).quiescing = false) : SeqFrame t s (s.haltSeq t) := by
  have hmod : ((s.modTile t fun ti => { ti with seq := .halted, stall := .none, haltDue := false, stopped := false }).page (seqPage t)).quiescing
      = false := h
  rw [State.haltSeq, drained_of_not_quiescing hmod]
  exact modTile_seqFrame (bytesSame_of_eq rfl rfl)

theorem loop_ends_iff (v : Word) : v - 1 = 0 ↔ v = 1 := sub_eq_zero

/-- A transfer of control, which changes scalar registers and the PC. -/
theorem runs_transfers {c : Instr} {opc : Nat} {g : Word → Tile → Tile} (h : Runs s t opc w)
    (hc : exec c s = .next (s.seqRow t opc fun w s => s.modTile t (g w))) (hg : ∀ ti, BytesSame ti (g w ti)) :
    Answers c s fun s' => (∃ l, s'.tile t = g w { s.tile t with tileLine := l }) ∧ SeqFrame t s s' :=
  runs_acts h hc (tile_modTile_same ..) (modTile_seqFrame (hg _))

theorem transfers : Spec.Transfers := by
  intro s t w
  refine ⟨fun h => ?br, fun h => ?jr, fun h => ?call, fun h => ?loop, fun h hq => ?halt⟩
  case br =>
    refine (runs_transfers (g := fun w ti => { ti with pc := ti.pc + insImm w }) h rfl fun _ => bytesSame_of_eq rfl rfl).imp
      fun s' ⟨⟨l, hl⟩, hframe⟩ => ?_
    rw [hl, insImm_eq]
    exact ⟨fun _ => rfl, rfl, rfl, hframe⟩
  case jr =>
    refine (runs_transfers (g := fun w ti => { ti with pc := (ti.reg (ra w)).setWidth 32 }) h rfl fun _ => bytesSame_of_eq rfl rfl).imp
      fun s' ⟨⟨l, hl⟩, hframe⟩ => ?_
    rw [hl]
    exact ⟨fun _ => rfl, BitVec.toNat_setWidth .., rfl, hframe⟩
  case call =>
    refine (runs_transfers (g := fun w ti => { ti.setReg (rd w) ((ti.pc + 1).setWidth 64) with pc := ti.pc + insImm w }) h rfl
      fun _ => bytesSame_of_eq rfl rfl).imp fun s' ⟨⟨l, hl⟩, hframe⟩ => ?_
    rw [hl, insImm_eq, BitVec.ofNat_toNat]
    exact ⟨fun i => reg_setReg (s.tile t) .., rfl, rfl, hframe⟩
  case loop =>
    refine (runs_transfers (g := fun w ti => { ti.setReg (rd w) (ti.reg (rd w) - 1) with
      pc := if ti.reg (rd w) - 1 = 0 then ti.pc + 1 else ti.pc + insImm w }) h rfl fun _ => bytesSame_of_eq rfl rfl).imp fun s' ⟨⟨l, hl⟩, hframe⟩ => ?_
    simp only [hl, insImm_eq, loop_ends_iff]
    exact ⟨fun i => reg_setReg (s.tile t) .., rfl, rfl, hframe⟩
  case halt =>
    obtain ⟨⟨-, hseq, hstop, hstall, -⟩, -⟩ := id h
    have hframe : SeqFrame t (s.fetched t) (((s.fetched t).stepPc t).haltSeq t) :=
      (stepPc_seqFrame ..).trans (haltSeq_seqFrame ((congrArg Page.quiescing (fetched_counts (s := s))).trans hq))
    refine (runs_acts (g := fun ti => { ti with pc := ti.pc + 1, seq := .halted, stall := .none, haltDue := false, stopped := false }) h rfl
      (by rw [tile_haltSeq, tile_stepPc]; rfl) hframe).imp fun s' ⟨⟨l, hl⟩, hframe⟩ => ?_
    rw [hl]
    refine ⟨rfl, rfl, fun _ => rfl, ?_, hframe⟩
    rw [← hseq, ← hstop, ← hstall]

/-! ## Legal words (R102, R103) -/

/-- The bits of IMM from k on are 0: IMM is below 2^k. -/
theorem unused_zero_iff (x : BitVec 32) {k : Nat} (hk : k ≤ 32) : x.toNat &&& (2 ^ 32 - 1 - (2 ^ k - 1)) = 0 ↔ x.toNat < 2 ^ k := by
  have hmask (i : Nat) : (2 ^ 32 - 1 - (2 ^ k - 1)).testBit i = (decide (i < 32) && decide (k ≤ i)) := by
    have hpow : 2 ^ k ≤ 2 ^ 32 := Nat.pow_le_pow_right (by decide) hk
    have hpos : 0 < 2 ^ k := Nat.two_pow_pos k
    rw [Nat.sub_sub, Nat.add_comm, Nat.testBit_two_pow_sub_succ (by omega), Nat.testBit_two_pow_sub_one, ← decide_not]
    simp only [Nat.not_lt]
  constructor
  · refine fun h => Nat.lt_pow_two_of_testBit _ fun i hi => ?_
    by_cases h32 : i < 32
    · have hbit : (x.toNat &&& (2 ^ 32 - 1 - (2 ^ k - 1))).testBit i = false := by rw [h, Nat.zero_testBit]
      rwa [Nat.testBit_and, hmask, decide_eq_true h32, decide_eq_true hi, Bool.and_true, Bool.and_true] at hbit
    · exact Nat.testBit_lt_two_pow (x.isLt.trans_le (Nat.pow_le_pow_right (by decide) (Nat.not_lt.1 h32)))
  · refine fun h => Nat.eq_of_testBit_eq fun i => ?_
    rw [Nat.testBit_and, hmask, Nat.zero_testBit]
    by_cases hi : k ≤ i
    · rw [Nat.testBit_lt_two_pow (h.trans_le (Nat.pow_le_pow_right (by decide) hi)), Bool.false_and]
    · simp [hi]

theorem imm_zero_iff (w : Word) : (imm w).toNat < 2 ^ 0 ↔ imm w = 0 := by
  rw [pow_zero, Nat.lt_one_iff]
  exact BitVec.toNat_eq (y := 0#32).symm

theorem insUses_none {opc : Nat} (h : opc ∉ ([0x00, 0x01, 0x02, 0x03, 0x04, 0x05, 0x06, 0x07, 0x08, 0x09, 0x0A, 0x0B, 0x0C, 0x0D, 0x11,
      0x12, 0x13, 0x14, 0x15, 0x16, 0x17, 0x18, 0x19, 0x1A, 0x1B, 0x1C, 0x1D, 0x1E, 0x1F, 0x20, 0x21, 0x28, 0x29, 0x2A, 0x2B, 0x2C, 0x30,
      0x31, 0x32, 0x33, 0x34, 0x38, 0x39, 0x40, 0x41, 0x48, 0x49, 0x4A, 0x4B, 0x50, 0x51, 0x52, 0x58] : List Nat)) : insUses opc = none := by
  simp only [List.mem_cons, List.not_mem_nil, or_false] at h
  simp only [insUses]
  rw [if_neg (by omega), if_neg (by omega), if_neg (by omega)]
  split
  on_goal 28 => rfl
  all_goals omega

theorem legalWords : Spec.LegalWords := by
  refine ⟨fun ti w hopc => ?none, fun ti w hopc => ?add, fun ti w hopc => ?shli, fun ti w hopc => ?ins, fun ti w hopc => ?cmp, fun ti w hopc => ?twait,
    fun ti w hopc => ?issue⟩
  case none =>
    rw [insLegal, insOpc_eq, insUses_none hopc]
  case add =>
    have hcodes : insCodes ti w = true := by simp only [insCodes, insOpc_eq, hopc]
    rw [insLegal_iff (used := 2 ^ 0 - 1) (by rw [hopc]; rfl), unused_zero_iff _ (by decide), imm_zero_iff]
    simp [hcodes]
  case shli =>
    have hcodes : insCodes ti w = true := by simp only [insCodes, insOpc_eq, hopc]
    rw [insLegal_iff (used := 2 ^ 6 - 1) (by rw [hopc]; rfl), unused_zero_iff _ (by decide)]
    simp [hcodes]
  case ins =>
    have hcodes : insCodes ti w = true ↔ (imm w).toNat / 64 % 128 ≠ 0 ∧ (imm w).toNat % 64 + (imm w).toNat / 64 % 128 ≤ 64 := by
      simp only [insCodes, insOpc_eq, hopc, insPos_eq, insWidth_eq, decide_eq_true_eq]
    rw [insLegal_iff (used := 2 ^ 13 - 1) (by rw [hopc]; rfl), unused_zero_iff _ (by decide), hcodes]
    simp only [Bool.false_eq_true, false_or, true_or, true_and]
    refine and_congr_right fun _ => and_congr_right fun _ => and_congr_right fun himm => ?_
    rw [Nat.mod_eq_of_lt (a := (imm w).toNat / 64) (by omega)]
  case cmp =>
    rw [insLegal_iff (used := 2 ^ 0 - 1) (by rw [hopc]; rfl), unused_zero_iff _ (by decide), imm_zero_iff, insCodes_compare (.inl hopc), Nat.lt_succ_iff]
    simp
    tauto
  case twait =>
    have hcodes : insCodes ti w = true ↔ (imm w).toNat % 2 ^ 4 ≠ 0 := by
      simp only [insCodes, insOpc_eq, hopc, bits_imm, decide_eq_true_eq]
    rw [insLegal_iff (used := 2 ^ 4 - 1) (by rw [hopc]; rfl), unused_zero_iff _ (by decide), hcodes]
    simp
    omega
  case issue =>
    have hcodes : insCodes ti w = true ↔ ra w % 4 = 0 := by
      simp only [insCodes, insOpc_eq, hopc, decide_eq_true_eq]
      rfl
    rw [insLegal_iff (used := 2 ^ 0 - 1) (by rw [hopc]; rfl), unused_zero_iff _ (by decide), imm_zero_iff, hcodes]
    simp
    tauto

/-- Settles O8: the transfers, the limits of a fetch, and the legal words. -/
theorem transfersAndFetch : Obligations.TransfersAndFetch := ⟨transfers, fetchLimits, legalWords⟩

end Sys2Proof.Machine
end

section
/-! LDC, STC and CONTROL_REPLY (R27 to R31, R108): O3. -/

namespace Sys2Proof.Machine

open Sys2Proof Sys2Proof.Spec

variable {s : State} {t : Fin 192} {w : Word}

/-! ## The access of a tile without a context (R30) -/

theorem readSide_pageFrame (s : State) (n o : Nat) : PageFrame s (s.readSide n o) := by
  unfold State.readSide
  split
  · exact modPage_pageFrame ..
  split
  · exact setRaw_pageFrame ..
  · exact PageFrame.refl s

theorem regRead_pageFrame (s : State) (role : Option Nat) (addr : Nat) : PageFrame s (s.regRead role addr).2 := by
  unfold State.regRead
  split
  · exact readSide_pageFrame ..
  · exact PageFrame.refl s

theorem accessAt_misaligned {addr : Nat} (h : addr % 8 ≠ 0) : s.accessAt addr = none := if_pos h

theorem roleOf_tile_provider (h : s.ctxOf t = none) : s.roleOf (s.tileAccess t) = none := by
  simp [State.roleOf, State.tileAccess, h]

theorem accessAt_own {p o : Nat} (hw : Works s t) (hp : p < 9) (ho : o < 0x1000) (h8 : o % 8 = 0) :
    s.accessAt (pageAddr (tilePage t p) o) = some (tilePage t p, o) := by
  have hpage : tilePage t p = t.val * 9 + p := rfl
  have ht := t.isLt
  obtain ⟨hquad, -⟩ := hw
  refine accessAt_pageAddr (fun _ => ?_) (by omega) ho h8
  rwa [show tilePage t p / 9 = t by omega]

/-- ENTRY holds what was written to it. -/
theorem regWord_entry (role : Option Nat) : s.regWord role (seqPage t) 0x108 = s.written (seqPage t) 0x108 := by
  have hblock : blockOf (seqPage t) = .seq := by
    have ht := t.isLt
    have hmod : seqPage t % 9 = 0 := by unfold seqPage tilePage; omega
    rw [blockOf, if_pos (by unfold seqPage tilePage; omega), hmod]
    rfl
  simp [State.regWord, State.liveBits, elsewhere, hblock]

/-- INBOX.TAIL is a plain field of 23 bits. -/
theorem regWriteAt_tail (role : Option Nat) (val : Word) : s.regWriteAt role (tilePage t 5) 0x110 val =
    s.setRaw (tilePage t 5) 0x110 ((s.raw (tilePage t 5) 0x110 &&& ~~~BitVec.ofNat 64 (2 ^ 23 - 1)) ||| (val &&& BitVec.ofNat 64 (2 ^ 23 - 1))) := by
  have hblock : blockOf (tilePage t 5) = .xce := by
    have ht := t.isLt
    have hmod : tilePage t 5 % 9 = 5 := by unfold tilePage; omega
    rw [blockOf, if_pos (by unfold tilePage; omega), hmod]
    rfl
  have hmask : classMask (tilePage t 5) 0x110 (fun x => decide (x = .rw)) = BitVec.ofNat 64 (2 ^ 23 - 1)
      ∧ classMask (tilePage t 5) 0x110 (fun x => decide (x = .rwl)) = 0 ∧ classMask (tilePage t 5) 0x110 (fun x => decide (x = .rws)) = 0
      ∧ classMask (tilePage t 5) 0x110 (fun x => decide (x = .w1c)) = 0 := by
    unfold classMask wordFields allFields fieldsOf
    rw [hblock]
    dsimp only
    decide
  obtain ⟨hrw, hrwl, hrws, hw1c⟩ := hmask
  rw [regWriteAt_plain (by simp [IsPlain, hblock]) role val (by decide) (by decide), writeFields_plain hrw hrwl hrws hw1c]
  rfl

/-- What the access of LDC comes to: refused where misaligned (R27), and the value of ENTRY. -/
theorem regRead_misaligned {role : Option Nat} {addr : Nat} (h : addr % 8 ≠ 0) : s.regRead role addr = (none, s) := by
  rw [State.regRead, State.readAt, accessAt_misaligned h]

theorem regRead_entry (hw : Works s t) (hctx : s.ctxOf t = none) : s.regRead (s.roleOf (s.tileAccess t)) (pageAddr (seqPage t) 0x108)
    = (some (s.written (seqPage t) 0x108), s.readSide (seqPage t) 0x108) := by
  have hat : s.accessAt (pageAddr (seqPage t) 0x108) = some (seqPage t, 0x108) := accessAt_own hw (by decide) (by decide) (by decide)
  simp [State.regRead, State.readAt, State.mayRead, roleOf_tile_provider hctx, hat, regWord_entry]

/-- What the access of STC comes to: refused where misaligned, and INBOX.TAIL written. -/
theorem regWrite_misaligned {role : Option Nat} {addr : Nat} (val : Word) (h : addr % 8 ≠ 0) : s.regWrite role addr val = (false, s) := by
  rw [State.regWrite, State.writeAt, accessAt_misaligned h]

theorem regWrite_tail (hw : Works s t) (hctx : s.ctxOf t = none) (val : Word) :
    s.regWrite (s.roleOf (s.tileAccess t)) (pageAddr (tilePage t 5) 0x110) val = (true, s.setRaw (tilePage t 5) 0x110
      ((s.raw (tilePage t 5) 0x110 &&& ~~~BitVec.ofNat 64 (2 ^ 23 - 1)) ||| (val &&& BitVec.ofNat 64 (2 ^ 23 - 1)))) := by
  have hat : s.accessAt (pageAddr (tilePage t 5) 0x110) = some (tilePage t 5, 0x110) := accessAt_own hw (by decide) (by decide) (by decide)
  rw [← regWriteAt_tail none]
  simp only [State.regWrite, State.writeAt, State.mayWrite, roleOf_tile_provider hctx, hat, if_true]

theorem toNat_low_merged (v x : Word) :
    ((v &&& ~~~BitVec.ofNat 64 (2 ^ 23 - 1)) ||| (x &&& BitVec.ofNat 64 (2 ^ 23 - 1))).toNat % 2 ^ 23 = x.toNat % 2 ^ 23 := by
  have hbits := bits_congr (v := (v &&& ~~~BitVec.ofNat 64 (2 ^ 23 - 1)) ||| (x &&& BitVec.ofNat 64 (2 ^ 23 - 1))) (w := x) (k := 23) (lo := 0) (n := 23)
    (fun i hi => getLsbD_merged v x _ (by rw [BitVec.getLsbD_ofNat, Nat.testBit_two_pow_sub_one]; simp; omega)) (by decide)
  rwa [bits_zero, bits_zero] at hbits

/-! ## The sequencer stalls for its access -/

/-- The fetched instruction's stall, before the access is made. -/
def State.asking (s : State) (t : Nat) (rd : Option (BitVec 5)) : State := (s.fetched t).stallOn t (.control rd false 0)

theorem asking_seqFrame (s : State) (t : Nat) (r : Option (BitVec 5)) : SeqFrame t s (s.asking t r) :=
  (fetched_seqFrame s t).trans (stallOn_seqFrame ..)

theorem tile_asking (s : State) (t : Nat) (r : Option (BitVec 5)) :
    ∃ l, (s.asking t r).tile t = { s.tile t with tileLine := l, stall := .control r false 0 } := by
  obtain ⟨l, hl⟩ := tile_fetched s t
  exact ⟨l, by rw [State.asking, tile_stallOn, hl]⟩

theorem asking_key (s : State) (t : Nat) (r : Option (BitVec 5)) : (s.asking t r).key = s.key := fetched_key (s := s) (t := t)
theorem asking_pkg (s : State) (t : Nat) (r : Option (BitVec 5)) : (s.asking t r).pkg = s.pkg := fetched_pkg (s := s) (t := t)

/-- The access changes pages only, and its outcome is held for the reply. -/
theorem tile_setReply {r : Option (BitVec 5)} {s₁ : State} (hframe : PageFrame (s.asking t r) s₁) (served : Bool) (v : Word) :
    (∃ l, (s₁.setReply t served v).tile t = { s.tile t with tileLine := l, stall := .control r served v })
      ∧ TileFrame t s (s₁.setReply t served v) := by
  obtain ⟨l, hl⟩ := tile_asking s t r
  refine ⟨⟨l, ?_⟩, ((asking_seqFrame ..).tileFrame.trans hframe.tileFrame).trans (modTile_tileFrame ..)⟩
  rw [State.setReply, tile_modTile_same, hframe.1, hl]

theorem asking_provider {r : Option (BitVec 5)} (h : s.ctxOf t = none) : (s.asking t r).ctxOf t = none := by rwa [State.ctxOf, asking_key]

theorem asking_works {r : Option (BitVec 5)} (h : Works s t) : Works (s.asking t r) t := by rwa [Works, asking_pkg]

/-- LDC makes its read of the control window. -/
theorem ldc_reads (h : Runs s t 0x38 w) : Answers (.ldc t) s fun s' =>
    ∃ x : State, x = s.asking t (some (BitVec.ofNat 5 (rd w))) ∧ ∃ q, q = x.regRead (x.roleOf (x.tileAccess t)) ((s.tile t).reg (ra w) + simm w).toNat
      ∧ s' = q.2.setReply t q.1.isSome (q.1.getD 0) := by
  have haddr : ctlAddr w ((s.fetched t).tile t) = ((s.tile t).reg (ra w) + simm w).toNat := by
    rw [ctlAddr, reg_fetched, insSimm_eq]
    rfl
  refine ⟨_, congrArg Host.Outcome.next (seqRow_of_Runs h), _, rfl, _, rfl, ?_⟩
  rw [← haddr]
  rfl

/-- STC makes its write of the control window. -/
theorem stc_writes (h : Runs s t 0x39 w) : Answers (.stc t) s fun s' =>
    ∃ x : State, x = s.asking t none ∧
      ∃ q, q = x.regWrite (x.roleOf (x.tileAccess t)) ((s.tile t).reg (ra w) + simm w).toNat ((s.tile t).reg (rb w)) ∧ s' = q.2.setReply t q.1 0 := by
  have haddr : ctlAddr w ((s.fetched t).tile t) = ((s.tile t).reg (ra w) + simm w).toNat := by
    rw [ctlAddr, reg_fetched, insSimm_eq]
    rfl
  refine ⟨_, congrArg Host.Outcome.next (seqRow_of_Runs h), _, rfl, _, rfl, ?_⟩
  rw [← haddr, ← reg_fetched (t := t.val) (rb w)]
  rfl

/-! ## The reply -/

/-- The register that a reply names, if any, is filled. -/
def Tile.fillReg (ti : Tile) (r : Option (BitVec 5)) (v : Word) : Tile := match r with | some r => ti.setReg r.toNat v | none => ti

theorem fillReg_eq (ti : Tile) (r : Option (BitVec 5)) (v : Word) : ∃ sc, ti.fillReg r v = { ti with s := sc } := by
  cases r <;> exact ⟨_, rfl⟩

theorem reg_fillReg (ti : Tile) (r : Option (BitVec 5)) (v : Word) (i : Nat) :
    (ti.fillReg r v).reg i = if r = some (BitVec.ofNat 5 i) ∧ i < 32 then v else ti.reg i := by
  cases r with
  | none => rfl
  | some r =>
    have hr := r.isLt
    have hi : some r = some (BitVec.ofNat 5 i) ∧ i < 32 ↔ i = r.toNat := by
      rw [Option.some_inj, BitVec.toNat_eq, BitVec.toNat_ofNat]
      omega
    simp only [Tile.fillReg, reg_setReg, hi]

theorem controlReply_served {r : Option (BitVec 5)} {v : Word} (h : Stalled s t (.control r true v)) :
    exec (.controlReply t) s = .next ((s.modTile t fun ti => ti.fillReg r v).endStall t) := by
  obtain ⟨hw, hseq, -, hstall⟩ := h
  show execControlReply t s = _
  simp [execControlReply, tileRuns_of_Works hw, hseq, hstall]
  rfl

theorem controlReply_refused {r : Option (BitVec 5)} {v : Word} (h : Stalled s t (.control r false v)) : exec (.controlReply t) s =
    .next ((s.contained (seqPage t) 0x016 (s.ctxOf t)).endStall t) := by
  obtain ⟨hw, hseq, -, hstall⟩ := h
  show execControlReply t s = _
  simp [execControlReply, tileRuns_of_Works hw, hseq, hstall]

theorem endStall_bytes (s : State) (t : Nat) : BytesSame (s.tile t) ((s.endStall t).tile t) := by
  obtain ⟨hst, hrf⟩ := endStall_store s t
  exact bytesSame_of_eq hst hrf

/-- Settles O3: the access of each row, and the reply by what the access came to. -/
theorem controlAccess : Obligations.ControlAccess := by
  intro s t w
  refine ⟨fun h => ?ldc, fun h => ?stc, fun r v h => ?served, fun r v h => ?refused⟩
  case ldc =>
    obtain ⟨hworks, -⟩ := h.1
    refine (ldc_reads h).imp fun s' ⟨x, hx, q, hq, hs'⟩ => ?_
    have hpages : PageFrame x q.2 := hq ▸ regRead_pageFrame ..
    subst hx
    obtain ⟨⟨l, hl⟩, hframe⟩ := tile_setReply hpages q.1.isSome (q.1.getD 0)
    rw [← hs'] at hl hframe
    rw [hl]
    refine ⟨⟨_, _, rfl, fun hmis => ?_, fun haddr hctx => ?_⟩, rfl, fun _ => rfl, bytesSame_of_eq rfl rfl, hframe⟩
    · rw [hq, regRead_misaligned hmis]
      rfl
    · rw [hq, haddr, regRead_entry (asking_works hworks) (asking_provider hctx)]
      exact ⟨rfl, written_fetched s t (seqPage t) 0x108⟩
  case stc =>
    obtain ⟨hworks, -⟩ := h.1
    refine (stc_writes h).imp fun s' ⟨x, hx, q, hq, hs'⟩ => ⟨fun hmis => ?_, fun haddr hctx => ?_⟩
    · rw [regWrite_misaligned _ hmis] at hq
      subst hx
      obtain ⟨⟨l, hl⟩, hframe⟩ := tile_setReply (PageFrame.refl (s.asking t none)) false 0
      rw [hs', hq, hl]
      exact ⟨rfl, rfl, hframe⟩
    · subst hx
      rw [haddr, regWrite_tail (asking_works hworks) (asking_provider hctx)] at hq
      obtain ⟨⟨l, hl⟩, hframe⟩ := tile_setReply (s := s) (r := none) (setRaw_pageFrame (s := s.asking t none) (tilePage t 5) 0x110 _) true 0
      rw [hs', hq, hl]
      refine ⟨rfl, rfl, ?_, hframe⟩
      exact (congrArg (fun v : Word => v.toNat % 2 ^ 23) (raw_setRaw_same (s.asking t none) (tilePage t 5) 0x110 _)).trans (toNat_low_merged ..)
  case served =>
    obtain ⟨sc, hfill⟩ := fillReg_eq (s.tile t) r v
    obtain ⟨hended, hframe⟩ := stalled_ends (f := fun ti => ti.fillReg r v) h (by rw [hfill]; exact ⟨rfl, rfl, rfl⟩)
    refine ⟨_, controlReply_served h, hended, fun i => ?_, ?_, hframe⟩
    · rw [endStall_reg, tile_modTile_same, reg_fillReg]
    · refine BytesSame.trans ?_ (endStall_bytes _ _)
      rw [tile_modTile_same, hfill]
      exact bytesSame_of_eq rfl rfl
  case refused =>
    have htile : (s.contained (seqPage t) 0x016 (s.ctxOf t)).tile t = s.tile t := (contained_pageFrame ..).1 t
    obtain ⟨-, hseq, -, -⟩ := id h
    refine ⟨_, controlReply_refused h, endStall_ended (by rw [htile, hseq]) (by rw [htile]) (by rw [htile]), fun i => ?_, ?_, ?_,
      (contained_pageFrame ..).tileFrame.trans (endStall_tileFrame ..)⟩
    · rw [endStall_reg, htile]
    · unfold State.endStall
      dsimp only
      split
      · exact haltSeq_reported (s₁ := State.modTile _ _ _) (raise_reported (by decide))
      · exact raise_reported (by decide)
    · have hbytes := endStall_bytes (s.contained (seqPage t) 0x016 (s.ctxOf t)) t
      rwa [htile] at hbytes

end Sys2Proof.Machine
end

section
/-! An engine's command on a tile where nothing is in flight: its start, what it reads, and what its flight then holds (R76, R84). -/

namespace Sys2Proof.Machine

open Sys2Proof Sys2Proof.Spec

/-! ## What an engine's command leaves alone -/

/-- Nothing but tile t, pages, channels, memory that waits, the cache, the fabric and the Bureau's reports changes; every byte of memory
reads as before. -/
def EngineOnly (t : Nat) (s s' : State) : Prop :=
  OtherTiles t s s' ∧ MemSame s s' ∧ s'.sbd = s.sbd ∧ s'.upe = s.upe ∧ s'.cle = s.cle ∧ s'.key = s.key ∧ s'.sync = s.sync ∧ s'.pkg = s.pkg
    ∧ s'.time = s.time

/-- The same with no tile changed. -/
def OffTiles (s s' : State) : Prop :=
  TilesSame s s' ∧ MemSame s s' ∧ s'.sbd = s.sbd ∧ s'.upe = s.upe ∧ s'.cle = s.cle ∧ s'.key = s.key ∧ s'.sync = s.sync ∧ s'.pkg = s.pkg
    ∧ s'.time = s.time

section frame

variable {s s₁ s₂ : State} {t : Nat}

theorem EngineOnly.trans (h₁ : EngineOnly t s s₁) (h₂ : EngineOnly t s₁ s₂) : EngineOnly t s s₂ := by
  obtain ⟨htile₁, hmem₁, hsbd₁, hupe₁, hcle₁, hkey₁, hsync₁, hpkg₁, htime₁⟩ := h₁
  obtain ⟨htile₂, hmem₂, hsbd₂, hupe₂, hcle₂, hkey₂, hsync₂, hpkg₂, htime₂⟩ := h₂
  exact ⟨fun u hu => (htile₂ u hu).trans (htile₁ u hu), fun a => (hmem₂ a).trans (hmem₁ a), hsbd₂.trans hsbd₁, hupe₂.trans hupe₁,
    hcle₂.trans hcle₁, hkey₂.trans hkey₁, hsync₂.trans hsync₁, hpkg₂.trans hpkg₁, htime₂.trans htime₁⟩

theorem engineOnly_of_tileFrame (h : TileFrame t s s₁) : EngineOnly t s s₁ := by
  obtain ⟨htile, hmem, -, -, hsbd, hupe, hcle, hkey, -, hsync, hpkg, htime, -⟩ := h
  exact ⟨htile, hmem, hsbd, hupe, hcle, hkey, hsync, hpkg, htime⟩

theorem OffTiles.engineOnly (h : OffTiles s s₁) : EngineOnly t s s₁ := ⟨fun u _ => h.1 u, h.2⟩

theorem OffTiles.tile (h : OffTiles s s₁) (u : Nat) : s₁.tile u = s.tile u := h.1 u

theorem OffTiles.byte (h : OffTiles s s₁) (a : Nat) : s₁.mem.byte a = s.mem.byte a := by
  obtain ⟨-, hmem, -⟩ := h
  exact hmem a

theorem OffTiles.key (h : OffTiles s s₁) : s₁.key = s.key := by
  obtain ⟨-, -, -, -, -, hkey, -⟩ := h
  exact hkey

theorem OffTiles.refl (s : State) : OffTiles s s := ⟨fun _ => rfl, fun _ => rfl, rfl, rfl, rfl, rfl, rfl, rfl, rfl⟩

theorem OffTiles.trans (h₁ : OffTiles s s₁) (h₂ : OffTiles s₁ s₂) : OffTiles s s₂ := by
  obtain ⟨-, hmem, hrest⟩ := h₁.engineOnly.trans (t := 0) h₂.engineOnly
  exact ⟨fun u => (h₂.1 u).trans (h₁.1 u), hmem, hrest⟩

theorem offTiles_of_pageFrame (h : PageFrame s s₁) : OffTiles s s₁ := by
  obtain ⟨htile, hmem, -, -, hsbd, hupe, hcle, hkey, -, hsync, hpkg, htime, -⟩ := h
  exact ⟨htile, hmem, hsbd, hupe, hcle, hkey, hsync, hpkg, htime⟩

theorem count_offTiles (s : State) (n i : Nat) (c : Option Nat) (k : Nat) : OffTiles s (s.count n i c k) := offTiles_of_pageFrame (count_pageFrame ..)

theorem event_offTiles (s : State) (n b : Nat) : OffTiles s (s.event n b) := offTiles_of_pageFrame (event_pageFrame ..)

/-- An error, of whatever severity: the Bureau may hear of it. -/
theorem raise_offTiles (s : State) (n sev code : Nat) (c : Option Nat) (loc : Word) : OffTiles s (s.raise n sev code c loc) := by
  obtain ⟨htile, hmem, -, -, hsbd, hupe, hcle, hkey, -, hsync, hpkg, htime, -⟩ := raise_pageFrame_but_bur s n sev code c loc
  exact ⟨htile, hmem, hsbd, hupe, hcle, hkey, hsync, hpkg, htime⟩

end frame

variable {s : State} {t : Nat} {e : Eng} {d : Desc}

/-! ## The start of the head -/

/-- The head of the queue, of the row's OP and with nothing against it, runs. -/
theorem engineStart_runs {ops : List Nat} {op : Nat} {extra : Desc → Bool} {bad : Desc → State → Option Nat} {run : Desc → State → State}
    (h : s.startable t e = some d) (hop : d.op = op) (hmem : ops.contains op = true) (hextra : extra d = true)
    (hbad : bad d (s.applyStaged (engPage t e)) = none) : s.engineStart t e ops op extra bad run = run d s := by
  subst hop
  simp only [State.engineStart, h, hmem, hextra, hbad, Bool.not_true, Bool.false_eq_true, if_false, ne_eq, not_true_eq_false, or_self]

/-- A started flight, before its command has done anything. -/
def newFlight (ti : Tile) (e : Eng) (d : Desc) : Flight := { id := ti.serial, eng := e, desc := d, pends := d.sums e }

theorem tile_taken (s : State) (t : Nat) (e : Eng) (d : Desc) :
    (s.takeDesc t e d fun f => f).tile t = (s.tile t).started e d (newFlight (s.tile t) e d) := tile_takeDesc ..

theorem taken_engineOnly (s : State) (t : Nat) (e : Eng) (d : Desc) : EngineOnly t s (s.takeDesc t e d fun f => f) :=
  engineOnly_of_tileFrame (takeDesc_tileFrame ..)

/-- What a start leaves of the tile: all but its queue, counters, serial number and flights. -/
theorem started_eq (ti : Tile) (e : Eng) (d : Desc) (f : Flight) : ∃ qs k fl fm, ti.started e d f =
    { ti with queues := qs, k := k, fl := fl, fm := fm, serial := ti.serial + 1, flights := ti.flights ++ [f] } := by
  obtain ⟨k, hk⟩ := takeWaits_eq (ti.setQueue e (ti.queue e).tail) d.waK d.waAmt d.wbK d.wbAmt
  exact ⟨_, k, _, _, by rw [Tile.started, hk]; rfl⟩

theorem started_flights (ti : Tile) (e : Eng) (d : Desc) (f : Flight) : (ti.started e d f).flights = ti.flights ++ [f] := rfl

/-- The only flight of a tile takes a change. -/
theorem tile_modFlight_only {s₁ : State} {f : Flight} (g : Flight → Flight) {id : Nat} (hq : Quiet (s.tile t)) (hid : f.id = id)
    (htile : s₁.tile t = (s.tile t).started e d f) : (s₁.modFlight t id g).tile t = (s.tile t).started e d (g f) := by
  obtain ⟨hnone, -, -⟩ := hq
  rw [State.modFlight, tile_modTile_same, htile, started_flights, hnone, List.nil_append, List.map_singleton, if_pos hid]
  rw [Tile.started, Tile.started, hnone]
  rfl

theorem modFlight_engineOnly (s : State) (t id : Nat) (g : Flight → Flight) : EngineOnly t s (s.modFlight t id g) :=
  engineOnly_of_tileFrame (modTile_tileFrame ..)

/-- The command has started as the flight f, and nothing else of tiles, base-die engines and memory's bytes is changed. -/
def StartedAs (t : Nat) (e : Eng) (d : Desc) (f : Flight) (s s' : State) : Prop := s'.tile t = (s.tile t).started e d f ∧ EngineOnly t s s'

/-- A command that ends with a change g of its new flight. -/
theorem startedAs_modFlight {s₁ : State} (hq : Quiet (s.tile t)) (hframe : OffTiles (s.takeDesc t e d fun f => f) s₁) (g : Flight → Flight) :
    StartedAs t e d (g (newFlight (s.tile t) e d)) s (s₁.modFlight t (s.tile t).serial g) :=
  ⟨tile_modFlight_only g hq rfl ((hframe.tile t).trans (tile_taken s t e d)),
    ((taken_engineOnly ..).trans hframe.engineOnly).trans (modFlight_engineOnly ..)⟩

/-- What a start as the flight f says. -/
theorem started_answers {s' : State} {f : Flight} {P : Flight → Prop} (h : StartedAs t e d f s s')
    (hsame : f.id = (s.tile t).serial ∧ f.eng = e ∧ f.desc = d) (hP : P f) :
    Took t e d s s' P ∧ AccSame (s.tile t) (s'.tile t) ∧ EngFrame t s s' := by
  obtain ⟨htile, hother, hmem, hrest⟩ := h
  obtain ⟨hid, heng, hdesc⟩ := hsame
  obtain ⟨hbytes, hacc⟩ := started_keeps (s.tile t) e d f
  rw [← htile] at hbytes hacc
  exact ⟨started_took htile hid heng hdesc hP, hacc, hother, hmem, hbytes, hrest⟩

theorem started_modFlight {s₁ : State} {g : Flight → Flight} {P : Flight → Prop} (hq : Quiet (s.tile t))
    (hframe : OffTiles (s.takeDesc t e d fun f => f) s₁)
    (hsame : ∀ f, (g f).id = f.id ∧ (g f).eng = f.eng ∧ (g f).desc = f.desc) (hP : P (g (newFlight (s.tile t) e d))) :
    Took t e d s (s₁.modFlight t (s.tile t).serial g) P ∧ AccSame (s.tile t) ((s₁.modFlight t (s.tile t).serial g).tile t)
      ∧ EngFrame t s (s₁.modFlight t (s.tile t).serial g) :=
  started_answers (startedAs_modFlight hq hframe g) (hsame _) hP

/-- An error met changes only what a flight reports of it. -/
theorem meet_eq (f : Flight) (m : Met) : ∃ sev code, f.meet m = { f with sev := sev, code := code } := by
  unfold Flight.meet
  split <;> exact ⟨_, _, rfl⟩

theorem meet_same (f : Flight) (m : Met) : (f.meet m).id = f.id ∧ (f.meet m).eng = f.eng ∧ (f.meet m).desc = f.desc := by
  obtain ⟨sev, code, h⟩ := meet_eq f m
  rw [h]
  exact ⟨rfl, rfl, rfl⟩

theorem meet_waits (f : Flight) (m : Met) : (f.meet m).refused = f.refused ∧ (f.meet m).finished = f.finished ∧ (f.meet m).writes = f.writes
    ∧ (f.meet m).sums = f.sums := by
  obtain ⟨sev, code, h⟩ := meet_eq f m
  rw [h]
  exact ⟨rfl, rfl, rfl, rfl⟩

/-! ## The words of pages (R35, R38) -/

/-- The staged writes of a page change no word of another page. -/
theorem applyStaged_words_other {n m : Nat} (h : m ≠ n) : ((s.applyStaged n).page m).words = (s.page m).words := by
  have hpage (s₁ : State) (k : Nat) (w : Word) : (s₁.setRaw n k w).page m = s₁.page m := page_modPage_other _ _ _ _ h
  have hset := foldl_keeps (fun s₁ : State => s₁.page m = s.page m) (fun s k => s.setRaw n (8 * k) (s.written n (8 * k)))
    (fun _ _ hkept => (hpage ..).trans hkept) ((s.page n).pendMask.map Prod.fst) s rfl
  unfold State.applyStaged
  split
  · rfl
  · rw [page_event_words, page_modPage_other _ _ _ _ h, hset]

theorem raw_of_words {s₁ : State} {n : Nat} (h : (s₁.page n).words = (s.page n).words) : s₁.raw n = s.raw n := by
  funext o
  rw [State.raw, h, State.raw]

/-- A page with the same words has the same fields in force. -/
theorem fld_of_words {s₁ : State} {n : Nat} (h : (s₁.page n).words = (s.page n).words) (o lo w : Nat) : s₁.fld n o lo w = s.fld n o lo w := by
  have hexpert : s₁.expertEn n = s.expertEn n := by rw [State.expertEn, raw_of_words h, State.expertEn]
  rw [State.fld, State.inForce, hexpert, raw_of_words h, State.fld, State.inForce]

/-! ## Reads with no write in flight (R76) -/

/-- No write of the tile waits. -/
def Calm (ti : Tile) : Prop := (∀ f ∈ ti.flights, f.writes = []) ∧ ti.fts = none ∧ ti.route = none

theorem calm_taken (hq : Quiet (s.tile t)) : Calm ((s.takeDesc t e d fun f => f).tile t) := by
  obtain ⟨hnone, hfts, hroute⟩ := hq
  obtain ⟨qs, k, fl, fm, h⟩ := started_eq (s.tile t) e d (newFlight (s.tile t) e d)
  rw [tile_taken, h]
  refine ⟨fun f hf => ?_, hfts, hroute⟩
  rw [hnone, List.nil_append, List.mem_singleton] at hf
  rw [hf]
  rfl

theorem localRead_calm (h : Calm (s.tile t)) (rf : Bool) (a n : Nat) : s.localRead t rf a n = ((s.tile t).bytes rf a n, s) := by
  obtain ⟨hwrites, hfts, hroute⟩ := h
  have hnone : ((s.tile t).flights.flatMap fun f => f.writes) = [] := List.flatMap_eq_nil_iff.2 hwrites
  have hrace : (s.tile t).racing rf a n = [] := by
    rw [Tile.racing, hnone, hfts, hroute]
    rfl
  rw [State.localRead, hrace]

theorem calm_of_quiet {ti : Tile} (hq : Quiet ti) : Calm ti := by
  obtain ⟨hnone, hfts, hroute⟩ := hq
  exact ⟨by simp [hnone], hfts, hroute⟩

/-- A start changes no byte of the tile. -/
theorem bytes_taken (s : State) (t : Nat) (e : Eng) (d : Desc) (rf : Bool) (a n : Nat) :
    ((s.takeDesc t e d fun f => f).tile t).bytes rf a n = (s.tile t).bytes rf a n := by
  obtain ⟨qs, k, fl, fm, h⟩ := started_eq (s.tile t) e d (newFlight (s.tile t) e d)
  rw [tile_taken, h]
  rfl

/-- A fold whose steps add what they read and leave the state. -/
theorem foldl_steady {α β : Type} {step : β × State → α → β × State} {f : β → α → β} (l : List α)
    (h : ∀ k ∈ l, ∀ b, step (b, s) k = (f b k, s)) : ∀ b, l.foldl step (b, s) = (l.foldl f b, s) := by
  induction l with
  | nil => exact fun _ => rfl
  | cons k l ih =>
    intro b
    rw [List.foldl_cons, h k List.mem_cons_self, ih fun j hj => h j (List.mem_cons_of_mem k hj)]
    rfl

theorem bytes_length (ti : Tile) (rf : Bool) (a n : Nat) : (ti.bytes rf a n).length = n := by simp [Tile.bytes, getBytes]

end Sys2Proof.Machine
end

section
/-! LDE COPY and STE COPY (R76, R118, R128): O11. -/

namespace Sys2Proof.Machine

open Sys2Proof Sys2Proof.Spec

variable {s : State} {t : Nat} {x : LsF}

/-- Every row of the source lies before or after every row of the destination. -/
def RowsApart (x : LsF) : Prop := ∀ i j, i < x.rows → j < x.rows →
  x.saddr + i * x.sstride + x.rlen ≤ x.laddr + j * x.lstride ∨ x.laddr + j * x.lstride + x.rlen ≤ x.saddr + i * x.sstride

/-- The rows that a COPY reads. -/
def srcRows (ti : Tile) (x : LsF) (src : Bool) (n : Nat) : List (List Byte) :=
  (List.range n).map fun i => ti.bytes src (x.saddr + i * x.sstride) x.rlen

theorem mapIdx_map_range {α β : Type} (n : Nat) (f : Nat → α) (g : Nat → α → β) :
    ((List.range n).map f).mapIdx g = (List.range n).map fun i => g i (f i) := by
  refine List.ext_getElem (by simp) fun i h₁ h₂ => ?_
  simp

theorem overlaps_apart {a n b m : Nat} (h : a + n ≤ b ∨ b + m ≤ a) : overlaps a n b m = false := by
  rw [overlaps, Bool.and_eq_false_iff, decide_eq_false_iff_not, decide_eq_false_iff_not]
  omega

/-- Rows that meet nothing the COPY has moved are read as they stand. -/
theorem copyRows_eq (hcalm : Calm (s.tile t)) {src dst : Bool} (hapart : src = dst → RowsApart x) :
    ∀ n, n ≤ x.rows → State.copyRows t x src dst n s = (srcRows (s.tile t) x src n, s) := by
  intro n
  induction n with
  | zero => exact fun _ => rfl
  | succ n ih =>
    intro hn
    have hown : (((srcRows (s.tile t) x src n).mapIdx fun i r => (x.laddr + i * x.lstride, r)).filter fun w =>
        decide (src = dst) && overlaps (x.saddr + n * x.sstride) x.rlen w.1 w.2.length) = [] := by
      rw [srcRows, mapIdx_map_range, List.filter_eq_nil_iff]
      intro w hw
      obtain ⟨i, hi, rfl⟩ := List.mem_map.1 hw
      have hlt := List.mem_range.1 hi
      by_cases hsame : src = dst
      · rw [bytes_length, overlaps_apart (hapart hsame n i (by omega) (by omega)), Bool.and_false]
        decide
      · simp [hsame]
    rw [State.copyRows, ih (by omega)]
    simp only [localRead_calm hcalm]
    rw [hown, srcRows, srcRows, List.range_succ, List.map_append]
    rfl

/-- A COPY without block exponents writes its rows and nothing else. -/
theorem rowWrites_plain {rows : List (List Byte)} (h : x.bexp = false) :
    x.rowWrites rows = rows.mapIdx fun i r => { rf := x.lsel, addr := x.laddr + i * x.lstride, data := r } := by
  simp [LsF.rowWrites, LsF.bexpWrites, h]

section run

variable {e : Eng} {d : Desc} (hq : Quiet (s.tile t)) (hx : x = lsOf d)
include hq hx

/-- A COPY that has passed its checks. -/
theorem copyRun_copies {src dst : Bool} (hsrc : (decide (e = .ste) && x.ssel) = src) (hdst : (decide (e = .lde) && x.lsel) = dst)
    (hbexp : (decide (e = .lde) && x.bexp) = false) (hapart : src = dst → RowsApart x) :
    Took t e d s (State.copyRun t e .clean d s) (fun f => f.refused = false ∧ f.finished = true ∧ f.bytes = x.rows * x.rlen
        ∧ f.writes = (List.range x.rows).map fun i => rowWrite dst x.laddr x.lstride i ((s.tile t).bytes src (x.saddr + i * x.sstride) x.rlen))
      ∧ AccSame (s.tile t) ((State.copyRun t e .clean d s).tile t) ∧ EngFrame t s (State.copyRun t e .clean d s) := by
  have hrows := copyRows_eq (x := x) (calm_taken (e := e) (d := d) hq) hapart x.rows le_rfl
  have hread (n : Nat) : srcRows ((s.takeDesc t e d fun f => f).tile t) x src n = srcRows (s.tile t) x src n := by
    unfold srcRows
    simp only [bytes_taken]
  have hrun : State.copyRun t e .clean d s =
      (((s.takeDesc t e d fun f => f).count (engPage t e) 0 none (x.rows * x.rlen)).modFlight t (s.tile t).serial fun f =>
        { (f.meet {}) with
          bytes := x.rows * x.rlen
          writes := ({ x with lsel := dst, bexp := false } : LsF).rowWrites (srcRows (s.tile t) x src x.rows) }) := by
    simp only [State.copyRun, State.eccTile, ← hx, hsrc, hdst, hbexp, hrows, hread]
  rw [hrun]
  refine started_modFlight hq (count_offTiles ..) (fun f => meet_same f {}) ⟨rfl, rfl, rfl, ?_⟩
  rw [rowWrites_plain rfl, srcRows, mapIdx_map_range]
  rfl

end run

/-- Settles O11: the rows of either engine's COPY, read one after the other. -/
theorem copiesMoveRows : Obligations.CopiesMoveRows := by
  intro s t d x hx hq hop
  refine ⟨fun hstart hbad hbexp hapart => ?lde, fun hstart hbad hapart => ?ste⟩
  case lde =>
    have hrun : exec (.ldeCopy t .clean) s = .next (State.copyRun t .lde .clean d s) :=
      congrArg Host.Outcome.next (engineStart_runs hstart hop rfl rfl (by rw [← hx]; exact hbad))
    exact ⟨_, hrun, copyRun_copies hq hx rfl rfl (by rw [hbexp]; rfl) fun h => hapart h.symm⟩
  case ste =>
    have hrun : exec (.steCopy t .clean) s = .next (State.copyRun t .ste .clean d s) :=
      congrArg Host.Outcome.next (engineStart_runs hstart hop rfl rfl (by rw [← hx]; exact hbad))
    exact ⟨_, hrun, copyRun_copies hq hx rfl rfl rfl hapart⟩

end Sys2Proof.Machine
end

section
/-! RUN and LOADP of the Vector Engine (R76, R127, R151, R154, R157): O14. -/

namespace Sys2Proof.Machine

open Sys2Proof Sys2Proof.Spec

/-! ## Lane rows in bytes (R43, R47) -/

/-- A lane row is 256 packed elements. -/
theorem packedBytes_lane (f : Nat) : packedBytes f 256 = laneRowBytes f := by
  unfold packedBytes laneRowBytes
  split
  next h => obtain rfl | rfl := h <;> rfl
  next => omega

theorem packElems_lane_length (f : Nat) (es : List Nat) : (packElems f 256 es).length = laneRowBytes f := by
  rw [packElems, toBytes_length, packedBytes_lane]

section rows

variable {s : State} {t : Nat} {p : List EIns} {x : RunF}

/-- Row n of input stream k as the tile holds it; 0 for a stream that the program does not read. -/
def laneIn (ti : Tile) (p : List EIns) (x : RunF) (n k : Nat) : Nat :=
  if usesIn p k then ofBytes (ti.bytes true (x.ins.getD k 0 + n * laneRowBytes (x.ifs.getD k 0)) (laneRowBytes (x.ifs.getD k 0))) else 0

/-- The write of output stream k's row n, where the program stores to it. -/
def laneOut (p : List EIns) (x : RunF) (n k : Nat) (es : List Nat) : List LWrite :=
  if usesOut p k then [rowWrite true (x.outs.getD k 0) (laneRowBytes (x.ofs.getD k 0)) n (packElems (x.ofs.getD k 0) 256 es)] else []

/-- The writes of lane row n. -/
def rowOut (p : List EIns) (x : RunF) (lanes : Nat → List Lane) (n : Nat) : List LWrite :=
  laneOut p x n 0 ((lanes n).map fun l => l.out0.getD 0) ++ laneOut p x n 1 ((lanes n).map fun l => l.out1.getD 0)

/-- No output row meets an input row. -/
def LanesApart (p : List EIns) (x : RunF) : Prop :=
  ∀ k j n m, k < 3 → j < 2 → n < x.rows → m < x.rows → usesIn p k = true → usesOut p j = true →
    x.ins.getD k 0 + n * laneRowBytes (x.ifs.getD k 0) + laneRowBytes (x.ifs.getD k 0) ≤ x.outs.getD j 0 + m * laneRowBytes (x.ofs.getD j 0)
    ∨ x.outs.getD j 0 + m * laneRowBytes (x.ofs.getD j 0) + laneRowBytes (x.ofs.getD j 0) ≤ x.ins.getD k 0 + n * laneRowBytes (x.ifs.getD k 0)

theorem mem_laneOut {n k : Nat} {es : List Nat} {w : LWrite} (h : w ∈ laneOut p x n k es) :
    usesOut p k = true ∧ w.addr = x.outs.getD k 0 + n * laneRowBytes (x.ofs.getD k 0) ∧ w.data.length = laneRowBytes (x.ofs.getD k 0) := by
  unfold laneOut at h
  split at h
  next huse =>
    rw [List.mem_singleton] at h
    subst h
    exact ⟨huse, rfl, packElems_lane_length ..⟩
  next => cases h

/-- An input row meets no row that the RUN has written. -/
theorem laneOut_apart (hapart : LanesApart p x) {k j n m : Nat} {es : List Nat} {w : LWrite} (hk : k < 3) (hj : j < 2) (hn : n < x.rows)
    (hm : m < x.rows) (hin : usesIn p k = true) (hw : w ∈ laneOut p x m j es) :
    overlaps (x.ins.getD k 0 + n * laneRowBytes (x.ifs.getD k 0)) (laneRowBytes (x.ifs.getD k 0)) w.addr w.data.length = false := by
  obtain ⟨hout, haddr, hlen⟩ := mem_laneOut hw
  rw [haddr, hlen]
  exact overlaps_apart (hapart k j n m hk hj hn hm hin hout)

theorem laneRead_apart (hcalm : Calm (s.tile t)) {a n : Nat} {own : List LWrite} (h : ∀ w ∈ own, overlaps a n w.addr w.data.length = false) :
    s.laneRead t a n own = (ofBytes ((s.tile t).bytes true a n), s) := by
  have hnone : (own.filterMap fun w => if overlaps a n w.addr w.data.length then some (w.addr, w.data) else none) = [] := by
    rw [List.filterMap_eq_nil_iff]
    intro w hw
    rw [h w hw]
    rfl
  simp only [State.laneRead, localRead_calm hcalm]
  rw [hnone]

/-- The three input streams of lane row n, read in turn. -/
def State.laneIns (s : State) (t : Nat) (p : List EIns) (x : RunF) (n : Nat) (own : List LWrite) : List Nat × State :=
  (List.range 3).foldl (fun q k =>
    if usesIn p k then
      let v := q.2.laneRead t (x.ins.getD k 0 + n * laneRowBytes (x.ifs.getD k 0)) (laneRowBytes (x.ifs.getD k 0)) own
      (q.1 ++ [v.1], v.2)
    else (q.1 ++ [0], q.2)) ([], s)

theorem laneIns_apart (hcalm : Calm (s.tile t)) {n : Nat} {own : List LWrite} (hfar : ∀ k, k < 3 → usesIn p k = true → ∀ w ∈ own,
    overlaps (x.ins.getD k 0 + n * laneRowBytes (x.ifs.getD k 0)) (laneRowBytes (x.ifs.getD k 0)) w.addr w.data.length = false) :
    s.laneIns t p x n own = ((List.range 3).map (laneIn (s.tile t) p x n), s) := by
  refine (foldl_steady (f := fun got k => got ++ [laneIn (s.tile t) p x n k]) (List.range 3) (fun k hk got => ?_) []).trans rfl
  by_cases huse : usesIn p k = true
  · simp only [huse, if_true, laneRead_apart hcalm (hfar k (List.mem_range.1 hk) huse), laneIn]
  · simp [huse, laneIn]

/-- The end of lane row n, whose lanes are ls. -/
def RunAcc.addRow (acc : RunAcc) (p : List EIns) (x : RunF) (n : Nat) (ls : List Lane) : RunAcc :=
  { writes := acc.writes ++ laneOut p x n 0 (ls.map fun l => l.out0.getD 0) ++ laneOut p x n 1 (ls.map fun l => l.out1.getD 0)
    ga := ls.foldl (fun g l => g.merge l.ga) acc.ga
    gb := ls.foldl (fun g l => g.merge l.gb) acc.gb
    nans := acc.nans + (ls.map Lane.nans).sum
    sats := acc.sats + (ls.map Lane.sats).sum }

theorem runRows_succ {key : Word} {n : Nat} {acc : RunAcc} {r : RunAcc × State} (h : runRows t p x key n r = (acc, s)) :
    runRows t p x key (n + 1) r =
      (acc.addRow p x n (runRow p x key n (s.laneIns t p x n acc.writes).1), (s.laneIns t p x n acc.writes).2) := by
  simp only [runRows, h, RunAcc.addRow, State.laneIns, laneOut, rowWrite]

/-- The rows of a RUN whose outputs meet no input: each lane row of the tile goes through the program. -/
theorem runRows_eq {key : Word} {lanes : Nat → List Lane} (hcalm : Calm (s.tile t)) (hapart : LanesApart p x)
    (hlanes : ∀ n, lanes n = runRow p x key n ((List.range 3).map (laneIn (s.tile t) p x n))) :
    ∀ n, n ≤ x.rows → ∃ acc, runRows t p x key n ({}, s) = (acc, s) ∧ acc.writes = (List.range n).flatMap (rowOut p x lanes) := by
  intro n
  induction n with
  | zero => exact fun _ => ⟨{}, rfl, rfl⟩
  | succ n ih =>
    intro hn
    obtain ⟨acc, hacc, hwrites⟩ := ih (by omega)
    have hins := laneIns_apart (p := p) (x := x) (n := n) (own := acc.writes) hcalm fun k hk huse w hw => by
      rw [hwrites] at hw
      obtain ⟨m, hm, hw⟩ := List.mem_flatMap.1 hw
      have hmn := List.mem_range.1 hm
      obtain hw | hw := List.mem_append.1 hw
      · exact laneOut_apart hapart hk (by decide) (by omega) (by omega) huse hw
      · exact laneOut_apart hapart hk (by decide) (by omega) (by omega) huse hw
    refine ⟨acc.addRow p x n (lanes n), by rw [runRows_succ hacc, hins, hlanes], ?_⟩
    rw [List.range_succ, List.flatMap_append, ← hwrites, List.flatMap_singleton, RunAcc.addRow, rowOut, List.append_assoc]

end rows

section run

variable {s : State} {t : Nat} {d : Desc} (hq : Quiet (s.tile t))
include hq

/-- A RUN that has passed its checks. -/
theorem runRun_writes {x : RunF} {p : List EIns} {key : Word} {lanes : Nat → List Lane} (hx : x = runOf d) (hp : p = (s.tile t).prog x.slot)
    (hkey : key = (s.applyStaged (engPage t .vxe)).raw (engPage t .vxe) 0x100) (hapart : LanesApart p x)
    (hlanes : ∀ n, lanes n = runRow p x key n ((List.range 3).map (laneIn (s.tile t) p x n))) :
    Took t .vxe d s (State.runRun t .clean d s) (fun f => f.refused = false ∧ f.finished = true
        ∧ f.writes = (List.range x.rows).flatMap (rowOut p x lanes))
      ∧ AccSame (s.tile t) ((State.runRun t .clean d s).tile t) ∧ EngFrame t s (State.runRun t .clean d s) := by
  have hprog : ((s.takeDesc t .vxe d fun f => f).tile t).prog x.slot = p := by
    obtain ⟨qs, k, fl, fm, h⟩ := started_eq (s.tile t) .vxe d (newFlight (s.tile t) .vxe d)
    rw [tile_taken, h, hp]
    rfl
  have hin (n : Nat) : laneIn ((s.takeDesc t .vxe d fun f => f).tile t) p x n = laneIn (s.tile t) p x n := by
    funext k
    rw [laneIn, bytes_taken, laneIn]
  obtain ⟨acc, hacc, hwrites⟩ := runRows_eq (s := s.takeDesc t .vxe d fun f => f) (key := key) (lanes := lanes) (calm_taken hq) hapart
    (by simpa only [hin] using hlanes) x.rows le_rfl
  have hraw : (s.takeDesc t .vxe d fun f => f).raw (engPage t .vxe) 0x100 = key := hkey.symm
  simp only [State.runRun, State.eccTile, ← hx, hprog, hraw, hacc]
  exact started_modFlight hq ((count_offTiles ..).trans ((count_offTiles ..).trans ((count_offTiles ..).trans ((count_offTiles ..).trans
    ((count_offTiles ..).trans (count_offTiles ..)))))) (fun f => meet_same f {}) ⟨rfl, rfl, hwrites⟩

/-- A LOADP of legal instructions. -/
theorem loadpRun_fills {ws : List Word}
    (hws : ws = wordsOf (d.w1.toNat / 2 ^ 17 % 2 ^ 6) ((s.tile t).bytes true (d.w1.toNat % 2 ^ 14 * 32) (8 * (d.w1.toNat / 2 ^ 17 % 2 ^ 6))))
    (hlegal : ∀ w ∈ ws, (einsOf w).legal = true) :
    Took t .vxe d s (State.loadpRun t .clean d s) (fun f => f.refused = false ∧ f.finished = true
        ∧ f.slots = [(d.w1.toNat / 2 ^ 14 % 2 ^ 3, ws)] ∧ f.writes = [])
      ∧ AccSame (s.tile t) ((State.loadpRun t .clean d s).tile t) ∧ EngFrame t s (State.loadpRun t .clean d s) := by
  have hread : (s.takeDesc t .vxe d fun f => f).localRead t true (d.f 1 0 14 * 32) (8 * d.f 1 17 6) = ((s.tile t).bytes true (d.f 1 0 14 * 32)
      (8 * d.f 1 17 6), s.takeDesc t .vxe d fun f => f) := by rw [localRead_calm (calm_taken hq), bytes_taken]
  have hwords : wordsOf (d.f 1 17 6) ((s.tile t).bytes true (d.f 1 0 14 * 32) (8 * d.f 1 17 6)) = ws := by
    rw [show d.f 1 0 14 = d.w1.toNat % 2 ^ 14 from bits_zero ..]
    exact hws.symm
  have hfind : ws.findIdx? (fun w => !(einsOf w).legal) = none := List.findIdx?_eq_none_iff.2 fun w hw => by simp [hlegal w hw]
  simp only [State.loadpRun, State.eccTile, hread, hwords, hfind]
  exact started_modFlight hq (OffTiles.refl _) (fun f => meet_same f {}) ⟨rfl, rfl, rfl, rfl⟩

end run

/-- Settles O14: the lane rows one after the other, and the words of a program. -/
theorem vectorCommands : Obligations.VectorCommands := by
  intro s t d hq hstart
  refine ⟨fun x p key lanes hx hp hkey hop hbad hapart hlanes => ?run, fun ws hop hbad hws hlegal => ?loadp⟩
  case run =>
    have hrun : exec (.run t .clean) s = .next (State.runRun t .clean d s) :=
      congrArg Host.Outcome.next (engineStart_runs hstart hop rfl rfl (by rw [← hx, (applyStaged_pageFrame s _).1]; exact hbad))
    exact ⟨_, hrun, runRun_writes hq hx hp hkey hapart hlanes⟩
  case loadp =>
    have hrun : exec (.loadp t .clean) s = .next (State.loadpRun t .clean d s) := congrArg Host.Outcome.next (engineStart_runs hstart hop rfl rfl hbad)
    exact ⟨_, hrun, loadpRun_fills hq hws hlegal⟩

end Sys2Proof.Machine
end

section
/-! DRAIN, RAWACC and MMA: what the Matrix Engine reads, the entries of an MMA's region, and the readout of accumulators (R76, R121, R125, R127,
R139, R145, R149, R168): O13. -/

namespace Sys2Proof.Machine

open Sys2Proof Sys2Proof.Spec

variable {s : State} {t : Nat} {e : Eng} {d : Desc}

/-! ## Accumulators that are read (R149) -/

/-- The errors that stand in a region are reported, and nothing else happens. -/
theorem eccAcc_offTiles (s : State) (t bank m0 n0 m n : Nat) : OffTiles s (s.eccAcc t .clean bank m0 n0 m n).2 := by
  simp only [State.eccAcc]
  split
  · exact .refl s
  · exact foldl_keeps (OffTiles s) _ (fun x _ h => h.trans ((event_offTiles ..).trans (raise_offTiles ..))) _ _ (count_offTiles ..)

theorem acc_taken (s : State) (t : Nat) (e : Eng) (d : Desc) : ((s.takeDesc t e d fun f => f).tile t).acc = (s.tile t).acc := by
  obtain ⟨qs, k, fl, fm, h⟩ := started_eq (s.tile t) e d (newFlight (s.tile t) e d)
  rw [tile_taken, h]

theorem entry_congr {ti ti' : Tile} (h : ti'.acc = ti.acc) : ti'.entry = ti.entry := by
  funext bank m n
  rw [Tile.entry, h, Tile.entry]

/-! ## DRAIN (R121, R125, R148) -/

theorem drainWrites_congr {ti ti' : Tile} (h : ti'.acc = ti.acc) (x : DrainF) : drainWrites x ti' = drainWrites x ti := by
  simp only [drainWrites, drainRows, entry_congr h]

/-- The entries of a DRAIN's region, row by row. -/
def drainEntries (ti : Tile) (x : DrainF) : List Entry :=
  (List.range x.m).flatMap fun i => (List.range x.n).map fun j => ti.entry x.bank (x.moff + i) (x.noff + j)

theorem drainRun_eq (s : State) (t : Nat) (d : Desc) : ∃ s₁ m, OffTiles (s.takeDesc t .mxe d fun f => f) s₁ ∧
    State.drainRun t .clean d s = s₁.modFlight t (s.tile t).serial fun f =>
      { (f.meet m) with
        writes := drainWrites (drainOf d) (s.tile t), bytes := ((drainWrites (drainOf d) (s.tile t)).map fun w => w.data.length).sum
        sums := if (drainOf d).uen then [{ u := (drainOf d).usum, kind := .max
                                           val := BitVec.ofNat 64 (maxOf ((drainEntries (s.tile t) (drainOf d)).map fun e => e.datum 0)) }] else [] } := by
  have hecc := eccAcc_offTiles (s.takeDesc t .mxe d fun f => f) t (drainOf d).bank (drainOf d).moff (drainOf d).noff (drainOf d).m (drainOf d).n
  simp only [State.drainRun]
  generalize (s.takeDesc t .mxe d fun f => f).eccAcc t .clean (drainOf d).bank (drainOf d).moff (drainOf d).noff (drainOf d).m (drainOf d).n = q
    at hecc ⊢
  obtain ⟨m, s₁⟩ := q
  have hacc : (s₁.tile t).acc = (s.tile t).acc := (congrArg Tile.acc (hecc.tile t)).trans (acc_taken ..)
  have hcounted (n : Nat) : OffTiles (s.takeDesc t .mxe d fun f => f) ((s₁.count (engPage t .mxe) 8).count (engPage t .mxe) 9 none n) :=
    hecc.trans ((count_offTiles ..).trans (count_offTiles ..))
  simp only [drainWrites_congr hacc, entry_congr hacc]
  split
  · split
    · exact ⟨_, _, (hcounted _).trans (count_offTiles ..), rfl⟩
    · split
      · exact ⟨_, _, (hcounted _).trans ((count_offTiles ..).trans ((count_offTiles ..).trans ((event_offTiles ..).trans (raise_offTiles ..)))), rfl⟩
      · exact ⟨_, _, (hcounted _).trans ((count_offTiles ..).trans ((offTiles_of_pageFrame (setRaw_pageFrame ..)).trans ((count_offTiles ..).trans
          ((event_offTiles ..).trans (raise_offTiles ..))))), rfl⟩
  · exact ⟨_, _, hcounted _, rfl⟩

/-- A DRAIN that has passed its checks. -/
theorem drainRun_reads (hq : Quiet (s.tile t)) {x : DrainF} (hx : x = drainOf d) :
    Took t .mxe d s (State.drainRun t .clean d s) (fun f => f.refused = false ∧ f.finished = true ∧ f.writes = drainWrites x (s.tile t)
        ∧ f.sums = if x.uen = true then [{ u := x.usum, kind := .max
                                           val := BitVec.ofNat 64 (maxOf ((drainEntries (s.tile t) x).map fun e => e.datum 0)) }] else [])
      ∧ AccSame (s.tile t) ((State.drainRun t .clean d s).tile t) ∧ EngFrame t s (State.drainRun t .clean d s) := by
  subst hx
  obtain ⟨s₁, m, hframe, hrun⟩ := drainRun_eq s t d
  rw [hrun]
  obtain ⟨hrefused, hfinished, -, -⟩ := meet_waits (newFlight (s.tile t) .mxe d) m
  exact started_modFlight hq hframe (fun f => meet_same f m) ⟨hrefused, hfinished, rfl, rfl⟩

theorem map_drainEntries {α : Type} (ti : Tile) (x : DrainF) (f : Entry → α) : (drainEntries ti x).map f =
    (List.range x.m).flatMap fun i => (List.range x.n).map fun j => f (ti.entry x.bank (x.moff + i) (x.noff + j)) := by
  simp only [drainEntries, List.map_flatMap, List.map_map]
  rfl

/-! ## RAWACC (R91, R168) -/

/-- A RAWACC that has passed its checks. -/
theorem rawaccRun_reads (hq : Quiet (s.tile t)) {rows : Nat} (hrows : rows = d.w1.toNat / 2 ^ 22 % 2 ^ 7 + 1) :
    Took t .vxe d s (State.rawaccRun t .clean d s) (fun f => f.refused = false ∧ f.finished = true ∧ f.bytes = rows * 2048
        ∧ f.writes = (List.range rows).map fun r => rowWrite true (d.w1.toNat % 2 ^ 14 * 32) 2048 r
            ((List.range 128).flatMap fun j => toBytes 16 ((s.tile t).entry (d.w1.toNat / 2 ^ 14 % 2) (d.w1.toNat / 2 ^ 15 % 2 ^ 7 + r) j).bits))
      ∧ AccSame (s.tile t) ((State.rawaccRun t .clean d s).tile t) ∧ EngFrame t s (State.rawaccRun t .clean d s) := by
  have hecc := eccAcc_offTiles (s.takeDesc t .vxe d fun f => f) t (d.f 1 14 1) (d.f 1 15 7) 0 (d.f 1 22 7 + 1) 128
  simp only [State.rawaccRun]
  generalize (s.takeDesc t .vxe d fun f => f).eccAcc t .clean (d.f 1 14 1) (d.f 1 15 7) 0 (d.f 1 22 7 + 1) 128 = q at hecc ⊢
  obtain ⟨m, s₁⟩ := q
  have hacc : (s₁.tile t).acc = (s.tile t).acc := (congrArg Tile.acc (hecc.tile t)).trans (acc_taken ..)
  obtain ⟨hrefused, hfinished, -, -⟩ := meet_waits (newFlight (s.tile t) .vxe d) m
  simp only [entry_congr hacc]
  refine started_modFlight hq (hecc.trans (count_offTiles ..)) (fun f => meet_same f m) ⟨hrefused, hfinished, by rw [hrows]; rfl, ?_⟩
  rw [hrows, show d.w1.toNat % 2 ^ 14 = d.f 1 0 14 from (bits_zero ..).symm]
  rfl

/-! ## The operands of an MMA (R121, R139) -/

/-- The rows of an operand as the tile holds them. -/
def rowNumbers (ti : Tile) (rf : Bool) (addr stride bytes n : Nat) : List Nat :=
  (List.range n).map fun i => ofBytes (ti.bytes rf (addr + i * stride) bytes)

theorem readRows_calm (h : Calm (s.tile t)) (rf : Bool) (addr stride bytes : Nat) :
    ∀ n, s.readRows t rf addr stride bytes n = (rowNumbers (s.tile t) rf addr stride bytes n, s) := by
  intro n
  induction n with
  | zero => rfl
  | succ n ih =>
    rw [State.readRows, ih]
    simp only [localRead_calm h]
    rw [rowNumbers, rowNumbers, List.range_succ, List.map_append]
    rfl

/-- The AUX bytes of an operand as the tile holds them. -/
def auxBytes (ti : Tile) (o : Opnd) (rows w : Nat) : Tab Byte :=
  (List.range rows).foldl (fun acc i => putBytes acc (o.aux + i * o.pitch) (ti.bytes false (o.aux + i * o.pitch) w)) []

/-- What the array sees of an operand that no write races. -/
def opndFed (ti : Tile) (o : Opnd) (ext l kscan : Nat) : Fed :=
  { o := o, ext := ext, l := l, rows := rowNumbers ti o.rf o.addr o.stride (o.rowBytes (o.along ext l)) (o.rows ext l)
    aux := if o.plainInt then [] else
      if o.t then auxBytes ti o ((kscan + o.span - 1) / o.span) ext else auxBytes ti o ext ((kscan + o.span - 1) / o.span) }

theorem feed_calm (h : Calm (s.tile t)) (o : Opnd) (ext l kscan : Nat) : s.feed t o ext l kscan = (opndFed (s.tile t) o ext l kscan, s) := by
  simp only [State.feed, readRows_calm h, opndFed]
  by_cases hint : o.plainInt = true
  · simp [hint]
  · by_cases ht : o.t = true
    · simp only [hint, ht, if_true, if_false, Bool.false_eq_true]
      rw [foldl_steady (f := fun acc i => putBytes acc (o.aux + i * o.pitch) ((s.tile t).bytes false (o.aux + i * o.pitch) ext)) _
        (fun i _ acc => by simp only [localRead_calm h])]
      rfl
    · simp only [hint, ht, if_false, Bool.false_eq_true]
      rw [foldl_steady (f := fun acc i => putBytes acc (o.aux + i * o.pitch) ((s.tile t).bytes false (o.aux + i * o.pitch)
          ((kscan + o.span - 1) / o.span))) _
        (fun i _ acc => by simp only [localRead_calm h])]
      rfl


theorem opndFed_congr {ti ti' : Tile} (h : ∀ rf a n, ti'.bytes rf a n = ti.bytes rf a n) : opndFed ti' = opndFed ti := by
  funext o ext l kscan
  simp only [opndFed, rowNumbers, auxBytes, h]

/-! ## The entries of an MMA's region (R145, R147) -/

section region

variable {α β : Type} [DecidableEq β] {z : β} {key : α → Nat} {val : α → β} {ps : List α}

theorem get_foldl_set_other {k : Nat} (h : ∀ p ∈ ps, key p ≠ k) (m : Tab β) :
    Tab.get z (ps.foldl (fun m p => Tab.set z m (key p) (val p)) m) k = Tab.get z m k := by
  induction ps generalizing m with
  | nil => rfl
  | cons p ps ih =>
    rw [List.foldl_cons, ih fun q hq => h q (List.mem_cons_of_mem p hq), Tab.get_set_other _ _ _ _ _ (h p List.mem_cons_self).symm]

/-- Where everything that is written at a key agrees, the table reads so. -/
theorem get_foldl_set_mem {k : Nat} {v : β} (hk : ∃ p ∈ ps, key p = k) (hv : ∀ p ∈ ps, key p = k → val p = v) (m : Tab β) :
    Tab.get z (ps.foldl (fun m p => Tab.set z m (key p) (val p)) m) k = v := by
  induction ps generalizing m with
  | nil => simp at hk
  | cons p ps ih =>
    rw [List.foldl_cons]
    by_cases hlater : ∃ q ∈ ps, key q = k
    · exact ih hlater (fun q hq => hv q (List.mem_cons_of_mem p hq)) _
    · have hnot : ∀ q ∈ ps, key q ≠ k := fun q hq h => hlater ⟨q, hq, h⟩
      have hhead : key p = k := by
        obtain ⟨q, hq, h⟩ := hk
        obtain rfl | hq := List.mem_cons.1 hq
        · exact h
        · exact absurd h (hnot q hq)
      rw [get_foldl_set_other hnot, hhead, Tab.get_set_same, hv p List.mem_cons_self hhead]

end region

/-- The tile with other accumulators and checksum regions. -/
def Tile.withAcc (ti : Tile) (acc : Tab Entry) (chk0 chk1 : Chk) : Tile := { ti with acc := acc, chk0 := chk0, chk1 := chk1 }

def regionPairs (x : MmaF) : List (Nat × Nat) := (List.range x.m).flatMap fun i => (List.range x.n).map fun j => (i, j)

theorem mem_regionPairs {x : MmaF} {p : Nat × Nat} : p ∈ regionPairs x ↔ p.1 < x.m ∧ p.2 < x.n := by
  obtain ⟨i, j⟩ := p
  simp [regionPairs]

/-- The key of an entry of the region. -/
def regionKey (x : MmaF) (p : Nat × Nat) : Nat := accKey x.bank (x.moff + p.1) (x.noff + p.2)

theorem regionKey_inj {x : MmaF} (hn : x.noff + x.n ≤ 128) {p q : Nat × Nat} (hp : p ∈ regionPairs x) (hq : q ∈ regionPairs x)
    (h : regionKey x p = regionKey x q) : p = q := by
  rw [mem_regionPairs] at hp hq
  unfold regionKey accKey at h
  ext <;> omega

/-- What an MMA does with one entry of its region. -/
def mmaStep (x : MmaF) (a b : Fed) (lanes : Bool) (ti0 : Tile) (q : Tile × Nat × Nat) (p : Nat × Nat) : Tile × Nat × Nat :=
  let r := mmaEntry x a b ti0 p.1 p.2
  let ti := q.1.setEntry x.bank (x.moff + p.1) (x.noff + p.2) r.1
  (if lanes then
    ti.setChk x.bank { ti.chk x.bank with
      xs := Tab.mod {} (ti.chk x.bank).xs p.2 (·.add r.2.1), ys := Tab.mod {} (ti.chk x.bank).ys p.1 (·.add r.2.1) }
   else ti, q.2.1 + r.2.2, max q.2.2 r.2.2)

theorem mmaTile_eq (x : MmaF) (a b : Fed) (lanes : Bool) (ti : Tile) :
    mmaTile x a b lanes ti = (regionPairs x).foldl (mmaStep x a b lanes ti) (ti, 0, 0) := by
  rw [regionPairs, List.foldl_flatMap]
  simp only [List.foldl_map]
  rfl

theorem setChk_withAcc (ti : Tile) (bank : Nat) (c : Chk) : ∃ chk0 chk1, ti.setChk bank c = ti.withAcc ti.acc chk0 chk1 := by
  unfold Tile.setChk
  split <;> exact ⟨_, _, rfl⟩

theorem mmaStep_withAcc (x : MmaF) (a b : Fed) (lanes : Bool) (ti0 : Tile) (q : Tile × Nat × Nat) (p : Nat × Nat) : ∃ chk0 chk1,
    (mmaStep x a b lanes ti0 q p).1 = q.1.withAcc (Tab.set {} q.1.acc (regionKey x p) (mmaEntry x a b ti0 p.1 p.2).1) chk0 chk1 := by
  unfold mmaStep
  dsimp only
  split
  · obtain ⟨chk0, chk1, h⟩ := setChk_withAcc (q.1.setEntry x.bank (x.moff + p.1) (x.noff + p.2) (mmaEntry x a b ti0 p.1 p.2).1) x.bank _
    rw [h]
    exact ⟨chk0, chk1, rfl⟩
  · exact ⟨_, _, rfl⟩

/-- The entries of the region, written one after another. -/
def regionAcc (x : MmaF) (a b : Fed) (ti : Tile) : Tab Entry :=
  (regionPairs x).foldl (fun m p => Tab.set {} m (regionKey x p) (mmaEntry x a b ti p.1 p.2).1) ti.acc

theorem foldl_mmaStep_withAcc (x : MmaF) (a b : Fed) (lanes : Bool) (ti0 : Tile) (ps : List (Nat × Nat)) : ∀ q, ∃ chk0 chk1,
    (ps.foldl (mmaStep x a b lanes ti0) q).1
      = q.1.withAcc (ps.foldl (fun m p => Tab.set {} m (regionKey x p) (mmaEntry x a b ti0 p.1 p.2).1) q.1.acc) chk0 chk1 := by
  induction ps with
  | nil => exact fun q => ⟨_, _, rfl⟩
  | cons p ps ih =>
    intro q
    obtain ⟨c0, c1, hstep⟩ := mmaStep_withAcc x a b lanes ti0 q p
    obtain ⟨chk0, chk1, h⟩ := ih (mmaStep x a b lanes ti0 q p)
    rw [hstep] at h
    exact ⟨chk0, chk1, h⟩

/-- An MMA's region on a tile whose checksum region has been opened or dropped. -/
theorem mmaTile_withAcc (x : MmaF) (a b : Fed) (lanes : Bool) (ti : Tile) (bank : Nat) (c : Chk) : ∃ chk0 chk1,
    (mmaTile x a b lanes (ti.setChk bank c)).1 = ti.withAcc (regionAcc x a b ti) chk0 chk1 := by
  obtain ⟨c0, c1, hset⟩ := setChk_withAcc ti bank c
  obtain ⟨chk0, chk1, h⟩ := foldl_mmaStep_withAcc x a b lanes (ti.setChk bank c) (regionPairs x) (ti.setChk bank c, 0, 0)
  rw [mmaTile_eq, h, hset]
  exact ⟨chk0, chk1, rfl⟩

theorem regionAcc_inside {x : MmaF} (hn : x.noff + x.n ≤ 128) (a b : Fed) (ti : Tile) {i j : Nat} (hi : i < x.m) (hj : j < x.n) :
    Tab.get {} (regionAcc x a b ti) (accKey x.bank (x.moff + i) (x.noff + j)) = (mmaEntry x a b ti i j).1 := by
  have hmem : (i, j) ∈ regionPairs x := mem_regionPairs.2 ⟨hi, hj⟩
  refine get_foldl_set_mem ⟨(i, j), hmem, rfl⟩ (fun p hp h => ?_) _
  rw [regionKey_inj hn hp hmem h]

theorem regionAcc_outside {x : MmaF} (a b : Fed) (ti : Tile) {k : Nat}
    (h : ∀ i j, i < x.m → j < x.n → k ≠ accKey x.bank (x.moff + i) (x.noff + j)) :
    Tab.get {} (regionAcc x a b ti) k = Tab.get {} ti.acc k :=
  get_foldl_set_other (fun p hp e => h p.1 p.2 (mem_regionPairs.1 hp).1 (mem_regionPairs.1 hp).2 e.symm) _

theorem regionAcc_congr {ti ti' : Tile} (h : ti'.acc = ti.acc) (x : MmaF) (a b : Fed) : regionAcc x a b ti' = regionAcc x a b ti := by
  simp only [regionAcc, mmaEntry, entry_congr h, h]

/-! ## MMA (R121, R139 to R149) -/

theorem mmaBad_columns {x : MmaF} (h : mmaBad d x = none) : x.noff + x.n ≤ 128 := by
  simp only [mmaBad, firstCode, Option.map_eq_none_iff, List.find?_eq_none, List.forall_mem_cons] at h
  obtain ⟨-, -, -, -, -, hregion, -⟩ := h
  simp only [Bool.or_eq_true, decide_eq_true_eq, not_or] at hregion
  omega

/-- The start of a tile whose accumulators the command has written. -/
theorem took_withAcc {s₁ s' : State} {P : Flight → Prop} {acc : Tab Entry} {chk0 chk1 : Chk} (h : Took t e d s s₁ P)
    (htile : s'.tile t = (s₁.tile t).withAcc acc chk0 chk1) : Took t e d s s' P := by
  unfold Took
  rw [htile]
  exact h

theorem tile_modFlight_withAcc {s₁ : State} {f : Flight} (g : Flight → Flight) {id : Nat} {acc : Tab Entry} {chk0 chk1 : Chk}
    (hq : Quiet (s.tile t)) (hid : f.id = id) (htile : s₁.tile t = ((s.tile t).started e d f).withAcc acc chk0 chk1) :
    (s₁.modFlight t id g).tile t = ((s.tile t).started e d (g f)).withAcc acc chk0 chk1 := by
  obtain ⟨hnone, -, -⟩ := hq
  rw [State.modFlight, tile_modTile_same, htile, Tile.withAcc]
  dsimp only
  rw [started_flights, hnone, List.nil_append, List.map_singleton, if_pos hid]
  rw [Tile.started, Tile.started, hnone]
  rfl

/-- The errors of the operands' elements are reported, and nothing else happens. -/
theorem violations_offTiles (s : State) (pg v : Nat) (ctx : Option Nat) :
    OffTiles s (if v = 0 then (({} : Met), s) else (⟨2, 0x034⟩, ((s.count pg 13 none v).event pg 6).contained pg 0x034 ctx)).2 := by
  split
  · exact .refl s
  · exact (count_offTiles ..).trans ((event_offTiles ..).trans (raise_offTiles ..))

/-- The entries that an MMA opens are not read (R145). -/
theorem mmaOpen_offTiles (s : State) (t : Nat) (x : MmaF) :
    OffTiles s (if x.start then (({} : Met), s) else s.eccAcc t .clean x.bank x.moff x.noff x.m x.n).2 := by
  split
  · exact .refl s
  · exact eccAcc_offTiles ..

/-- What an MMA that has met m reports, with the bytes it has fed. -/
def mmaReport (m : Met) (bytes : Nat) (f : Flight) : Flight := { (f.meet m) with bytes := bytes }

theorem mmaRun_eq (hq : Quiet (s.tile t)) {x : MmaF} (hx : x = (s.applyStaged (engPage t .mxe)).mmaFields t d) :
    ∃ s₁ m bytes chk0 chk1, EngineOnly t (s.takeDesc t .mxe d fun f => f) s₁
      ∧ s₁.tile t = ((s.tile t).started .mxe d (newFlight (s.tile t) .mxe d)).withAcc
          (regionAcc x (s.feed t x.a x.m x.l x.kscan).1 (s.feed t x.b x.n x.l x.kscan).1 (s.tile t)) chk0 chk1
      ∧ State.mmaRun t .clean d s = s₁.modFlight t (s.tile t).serial (mmaReport m bytes) := by
  have hfields : (s.takeDesc t .mxe d fun f => f).mmaFields t d = x := by
    rw [hx, State.mmaFields, State.takeDesc]
    rfl
  have htaken := tile_taken s t .mxe d
  have hcalm := calm_taken (e := .mxe) (d := d) hq
  have hfed := opndFed_congr (bytes_taken s t .mxe d)
  have hacc := acc_taken s t .mxe d
  unfold State.mmaRun
  dsimp only
  simp only [hfields]
  generalize s.takeDesc t .mxe d (fun f => f) = s₀ at *
  have hopen := mmaOpen_offTiles s₀ t x
  generalize (if x.start then (({} : Met), s₀) else s₀.eccAcc t .clean x.bank x.moff x.noff x.m x.n) = q at hopen ⊢
  obtain ⟨m₁, s₁⟩ := q
  have htile : s₁.tile t = s₀.tile t := hopen.tile t
  rw [← htile] at hcalm hfed hacc htaken
  simp only [feed_calm hcalm, feed_calm (calm_of_quiet hq), hfed]
  generalize opndFed (s.tile t) x.a x.m x.l x.kscan = a
  generalize opndFed (s.tile t) x.b x.n x.l x.kscan = b
  generalize chkAfter ((s₁.tile t).chk x.bank) x = r
  obtain ⟨c, lanes, dropped⟩ := r
  dsimp only
  have hdrop : OffTiles s₁ (if dropped = true then (s₁.event (engPage t .mxe) 7).count (engPage t .mxe) 12 else s₁) := by
    split
    · exact (event_offTiles ..).trans (count_offTiles ..)
    · exact .refl s₁
  generalize (if dropped = true then (s₁.event (engPage t .mxe) 7).count (engPage t .mxe) 12 else s₁) = s₂ at hdrop ⊢
  rw [hdrop.tile t]
  obtain ⟨chk0, chk1, hregion⟩ := mmaTile_withAcc x a b lanes (s₁.tile t) x.bank c
  generalize mmaTile x a b lanes ((s₁.tile t).setChk x.bank c) = y at hregion ⊢
  rw [regionAcc_congr hacc, htaken] at hregion
  have hframe : EngineOnly t s₀ (s₂.modTile t fun _ => y.1) :=
    (hopen.trans hdrop).engineOnly.trans (engineOnly_of_tileFrame (modTile_tileFrame ..))
  have htile' : (s₂.modTile t fun _ => y.1).tile t = y.1 := tile_modTile_same ..
  generalize (s₂.modTile t fun _ => y.1) = s₃ at hframe htile' ⊢
  have hcounts (n₀ n₃ n₄ n₅ n₆ n₇ : Nat) := (count_offTiles s₃ (engPage t .mxe) 7 none n₇).trans ((count_offTiles _ (engPage t .mxe) 0 none n₀).trans
    ((count_offTiles _ (engPage t .mxe) 3 none n₃).trans ((count_offTiles _ (engPage t .mxe) 4 none n₄).trans
      ((count_offTiles _ (engPage t .mxe) 5 none n₅).trans (count_offTiles _ (engPage t .mxe) 6 none n₆)))))
  have hend (n₀ n₃ n₄ n₅ n₆ n₇ : Nat) := (hcounts n₀ n₃ n₄ n₅ n₆ n₇).trans
    (violations_offTiles _ (engPage t .mxe) (a.violations + b.violations) (s.ctxOf t))
  refine ⟨_, _, _, chk0, chk1, ?_, ?_, rfl⟩
  · exact hframe.trans (hend ..).engineOnly
  · exact ((hend ..).tile t).trans (htile'.trans hregion)

/-- An MMA that has passed its checks. -/
theorem mmaRun_writes (hq : Quiet (s.tile t)) {x : MmaF} (hx : x = (s.applyStaged (engPage t .mxe)).mmaFields t d) (hbad : mmaBad d x = none) :
    Took t .mxe d s (State.mmaRun t .clean d s) (fun f => f.refused = false ∧ f.finished = true ∧ f.writes = [])
      ∧ (∀ i j, i < x.m → j < x.n → ((State.mmaRun t .clean d s).tile t).entry x.bank (x.moff + i) (x.noff + j)
          = (mmaEntry x (s.feed t x.a x.m x.l x.kscan).1 (s.feed t x.b x.n x.l x.kscan).1 (s.tile t) i j).1)
      ∧ (∀ k, (∀ i j, i < x.m → j < x.n → k ≠ accKey x.bank (x.moff + i) (x.noff + j)) →
          Tab.get {} ((State.mmaRun t .clean d s).tile t).acc k = Tab.get {} (s.tile t).acc k)
      ∧ EngFrame t s (State.mmaRun t .clean d s) := by
  obtain ⟨s₁, m, bytes, chk0, chk1, hframe, htile, hrun⟩ := mmaRun_eq hq hx
  obtain ⟨hother, hmem, hrest⟩ := ((taken_engineOnly s t .mxe d).trans hframe).trans
    (modFlight_engineOnly s₁ t (s.tile t).serial (mmaReport m bytes))
  have htile' := tile_modFlight_withAcc (id := (s.tile t).serial) (mmaReport m bytes) hq rfl htile
  obtain ⟨hid, heng, hdesc⟩ := meet_same (newFlight (s.tile t) .mxe d) m
  obtain ⟨hrefused, hfinished, hwrites, -⟩ := meet_waits (newFlight (s.tile t) .mxe d) m
  have hbytes := (started_keeps (s.tile t) .mxe d (mmaReport m bytes (newFlight (s.tile t) .mxe d))).1
  rw [← hrun] at hother hmem hrest htile'
  refine ⟨?_, ?_, ?_, hother, hmem, ?_, hrest⟩
  · have hstart := tile_modTile_same s t fun _ => (s.tile t).started .mxe d (mmaReport m bytes (newFlight (s.tile t) .mxe d))
    exact took_withAcc (started_took hstart hid heng hdesc ⟨hrefused, hfinished, hwrites⟩) (htile'.trans (by rw [hstart]))
  · intro i j hi hj
    rw [htile']
    exact regionAcc_inside (mmaBad_columns hbad) _ _ _ hi hj
  · intro k hk
    rw [htile']
    exact regionAcc_outside _ _ _ hk
  · rw [htile']
    exact hbytes

/-! ## What the checks of a start see -/

theorem seqPage_ne_engPage (t : Nat) (e : Eng) : seqPage t ≠ engPage t e := by
  cases e <;> simp only [seqPage, engPage, tilePage] <;> omega

/-- Nothing that a DRAIN would wait for is in flight (R142). -/
theorem drainClear_quiet {ti : Tile} (hq : Quiet ti) (x : DrainF) : ti.drainClear x = true := by
  rw [Tile.drainClear, Tile.flightsOf, hq.1]
  rfl

theorem noGroup_quiet {ti : Tile} (hq : Quiet ti) : ti.noGroup = true := by
  rw [Tile.noGroup, Tile.flightsOf, hq.1]
  rfl

/-- Settles O13: the entries of an MMA's region one after the other, and the accumulators that DRAIN and RAWACC read. -/
theorem matrixCommands : Obligations.MatrixCommands := by
  intro s t d hq
  refine ⟨fun x hstart hop hx hbad => ?mma, fun x hx hstart hop hbad => ?drain, fun rows hrows hstart hop hbad => ?rawacc⟩
  case mma =>
    have hrun : exec (.mma t .clean) s = .next (State.mmaRun t .clean d s) :=
      congrArg Host.Outcome.next (engineStart_runs hstart hop rfl (noGroup_quiet hq) (by rw [← hx]; exact hbad))
    exact ⟨_, hrun, mmaRun_writes hq hx hbad⟩
  case drain =>
    have hrun : exec (.drain t .clean) s = .next (State.drainRun t .clean d s) :=
      congrArg Host.Outcome.next (engineStart_runs hstart hop rfl (drainClear_quiet hq _) (by rw [← hx, (applyStaged_pageFrame s _).1]; exact hbad))
    refine ⟨_, hrun, ?_⟩
    rw [← map_drainEntries (s.tile t) x fun e => e.datum 0]
    exact drainRun_reads hq hx
  case rawacc =>
    have hrun : exec (.rawacc t .clean) s = .next (State.rawaccRun t .clean d s) :=
      congrArg Host.Outcome.next (engineStart_runs hstart hop rfl rfl (by rw [raw_of_words (applyStaged_words_other (seqPage_ne_engPage t .vxe))]; exact hbad))
    exact ⟨_, hrun, rawaccRun_reads hq hrows⟩

end Sys2Proof.Machine
end

section
/-! Memory as the Load and Store Engines meet it: extents that are translated, what a read leaves alone, and requests to other members (R245,
R249, R281). -/

namespace Sys2Proof.Machine

open Sys2Proof Sys2Proof.Spec

/-! ## The extent of an access (R245) -/

/-- The runs of a range are as long as the range, where there is fuel for its pages. -/
theorem pageRuns_sum (fuel : Nat) : ∀ va n, n = 0 ∨ va % 2 ^ 21 + n ≤ fuel * 2 ^ 21 → ((pageRuns fuel va n).map Prod.snd).sum = n := by
  induction fuel with
  | zero =>
    intro va n h
    obtain rfl : n = 0 := by omega
    rfl
  | succ fuel ih =>
    intro va n h
    by_cases hn : n = 0
    · simp [pageRuns, hn]
    · have hmin := @Nat.min_def n (2 ^ 21 - va % 2 ^ 21)
      simp only [pageRuns, hn, if_false, List.map_cons, List.sum_cons]
      generalize min n (2 ^ 21 - va % 2 ^ 21) = k at hmin ⊢
      rw [ih _ _ (by split at hmin <;> omega)]
      split at hmin <;> omega

/-- A fold that ends with segments has turned each of its runs into one. -/
theorem foldl_segs_sum {σ : Type} {step : Option (List Seg) × σ → Nat × Nat → Option (List Seg) × σ}
    (hnone : ∀ z p, (step (none, z) p).1 = none)
    (hsome : ∀ segs z p, (step (some segs, z) p).1 = none ∨ ∃ g, (step (some segs, z) p).1 = some (segs ++ [g]) ∧ g.len = p.2)
    {gs : List Seg} (runs : List (Nat × Nat)) : ∀ acc z, (runs.foldl step (acc, z)).1 = some gs →
      ∃ segs, acc = some segs ∧ (gs.map Seg.len).sum = (segs.map Seg.len).sum + (runs.map Prod.snd).sum := by
  induction runs with
  | nil => exact fun acc z h => ⟨gs, h, rfl⟩
  | cons p runs ih =>
    intro acc z h
    obtain ⟨segs', hstep, hsum⟩ := ih (step (acc, z) p).1 (step (acc, z) p).2 h
    cases acc with
    | none =>
      rw [hnone] at hstep
      cases hstep
    | some segs =>
      obtain hfail | ⟨g, hg, hlen⟩ := hsome segs z p
      · rw [hfail] at hstep
        cases hstep
      · rw [hg] at hstep
        cases hstep
        refine ⟨segs, rfl, ?_⟩
        rw [hsum, List.map_append, List.sum_append, List.map_singleton, List.sum_singleton, hlen, List.map_cons, List.sum_cons, Nat.add_assoc]

/-- The segments of a translated range cover it. -/
theorem translate_sum {s : State} {die c va n : Nat} {write : Bool} {gs : List Seg} (h : (s.translate die (some c) va n write).1 = some gs) :
    (gs.map Seg.len).sum = n := by
  unfold State.translate at h
  have hsum := foldl_segs_sum (fun z p => rfl) (fun segs z p => ?_) _ _ _ h
  · obtain ⟨segs, hsegs, hsum⟩ := hsum
    cases hsegs
    rw [hsum, pageRuns_sum _ _ _ (.inr (by omega))]
    exact Nat.zero_add n
  · dsimp only
    split
    · exact .inl rfl
    · exact .inl rfl
    · split
      · exact .inl rfl
      · exact .inr ⟨_, rfl, rfl⟩

/-- A fold over addresses whose flag stays off has left the state and gathered a range for each. -/
theorem foldl_reach {σ : Type} {n : Nat} {step : List Seg × Bool × σ → Nat → List Seg × Bool × σ}
    (hstep : ∀ acc va, (step acc va).2.1 = true ∨ ∃ gs, step acc va = (acc.1 ++ gs, acc.2.1, acc.2.2) ∧ (gs.map Seg.len).sum = n) (vas : List Nat) :
    ∀ acc, (vas.foldl step acc).2.1 = false →
      acc.2.1 = false ∧ (vas.foldl step acc).2.2 = acc.2.2 ∧ ((vas.foldl step acc).1.map Seg.len).sum = (acc.1.map Seg.len).sum + vas.length * n := by
  induction vas with
  | nil => exact fun acc h => ⟨h, rfl, by simp⟩
  | cons va vas ih =>
    intro acc h
    rw [List.foldl_cons] at h ⊢
    obtain ⟨hflag, hstate, hsum⟩ := ih _ h
    obtain htrue | ⟨gs, hgs, hlen⟩ := hstep acc va
    · rw [htrue] at hflag
      cases hflag
    · rw [hgs] at hflag hstate hsum ⊢
      refine ⟨hflag, hstate, hsum.trans ?_⟩
      rw [List.map_append, List.sum_append, hlen, List.length_cons, Nat.succ_mul]
      omega

/-- A command whose memory reaches has changed nothing yet, and its segments cover all of its rows. -/
theorem lsReach_go {s : State} {die c n : Nat} {write : Bool} {vas : List Nat} {gs : List Seg} (h : (s.lsReach die c write vas n).1 = .go gs) :
    s.lsReach die c write vas n = (.go gs, s) ∧ (gs.map Seg.len).sum = vas.length * n := by
  have hfold := foldl_reach (n := n) (step := fun (acc : List Seg × Bool × State) va =>
    match acc.2.2.translate die (some c) va n write with
    | (none, s) => (acc.1, true, s)
    | (some gs, s) => (acc.1 ++ gs, acc.2.1, s)) (fun acc va => ?_) vas ([], false, s)
  · revert h
    simp only [State.lsReach]
    generalize vas.foldl _ _ = r at hfold ⊢
    split
    · rintro ⟨⟩
    · split
      · rintro ⟨⟩
      · next hreached =>
        split
        · rintro ⟨⟩
        · split
          · rintro ⟨⟩
          · split
            · rintro ⟨⟩
            · intro h
              cases h
              rw [Bool.not_eq_true, Bool.or_eq_false_iff] at hreached
              obtain ⟨-, hstate, hsum⟩ := hfold hreached.1
              rw [hstate, hsum]
              exact ⟨rfl, Nat.zero_add _⟩
  · obtain ⟨gs, hgs⟩ | ⟨s', hs', -⟩ := translate_cases acc.2.2 die c va n write
    · rw [hgs]
      exact .inr ⟨gs, rfl, translate_sum (congrArg Prod.fst hgs)⟩
    · rw [hs']
      exact .inl rfl

/-! ## What names a place of memory (R8, R239, R281, R291) -/

/-- The words of the base dies' pages are as before. -/
def BaseWords (s s' : State) : Prop := ∀ m, 1728 ≤ m → (s'.page m).words = (s.page m).words

section places

variable {s s₁ : State} {t : Nat}

theorem BaseWords.trans {s₂ : State} (h₁ : BaseWords s s₁) (h₂ : BaseWords s₁ s₂) : BaseWords s s₂ := fun m hm => (h₂ m hm).trans (h₁ m hm)

theorem member_congr (h : BaseWords s s₁) : s₁.member = s.member := by
  have hpage := h (rtrPage 0) (by decide)
  simp only [State.member, State.posX, State.posY, fld_of_words hpage]

theorem localOf_congr (h : BaseWords s s₁) : s₁.localOf = s.localOf := by
  funext g
  rw [State.localOf, member_congr h, State.localOf]

theorem trayOf_congr (h : BaseWords s s₁) : s₁.trayOf = s.trayOf := by
  funext g
  rw [State.trayOf, member_congr h, State.trayOf]

theorem tlcOn_congr (h : BaseWords s s₁) (die : Nat) : s₁.tlcOn die = s.tlcOn die := by
  have hpage := h (clePage die) (by unfold clePage basePage; omega)
  rw [State.tlcOn, fld_of_words hpage, State.tlcOn]

theorem engPage_lt (ht : t < 192) (e : Eng) : engPage t e < 1728 := by
  cases e <;> simp only [engPage, tilePage] <;> omega

/-- A start changes no word of a base die's page. -/
theorem taken_baseWords (ht : t < 192) (s : State) (e : Eng) (d : Desc) : BaseWords s (s.takeDesc t e d fun f => f) := fun m hm => by
  have hne : m ≠ engPage t e := by have := engPage_lt ht e; omega
  exact applyStaged_words_other hne

theorem localOf_eq {g : Seg} {a : Nat} : s.localOf g = some a ↔ regionOf s.member g.pa = .local a := by
  unfold State.localOf
  split
  next b h => rw [h, Option.some.injEq, Region.local.injEq]
  next h => exact ⟨fun hsome => (nomatch hsome), fun hregion => absurd hregion (h a)⟩

theorem trayOf_eq {g : Seg} {m off : Nat} : s.trayOf g = some (m, off) ↔ regionOf s.member g.pa = .tray m off := by
  unfold State.trayOf
  split
  next m' off' h => rw [h, Option.some.injEq, Prod.mk.injEq, Region.tray.injEq]
  next h => exact ⟨fun hsome => (nomatch hsome), fun hregion => absurd hregion (h m off)⟩

end places

/-! ## What reads and counts leave alone (R97, R249) -/

/-- No tile, no byte of memory, no write that waits, nothing of the fabric and no word of a page changes. -/
structure OnlyRead (s s' : State) : Prop where
  off    : OffTiles s s'
  writes : s'.mem.writes = s.mem.writes
  fab    : s'.fab = s.fab
  words  : ∀ m, (s'.page m).words = (s.page m).words

namespace OnlyRead

variable {s s₁ s₂ : State}

theorem refl (s : State) : OnlyRead s s := ⟨.refl s, rfl, rfl, fun _ => rfl⟩

theorem trans (h₁ : OnlyRead s s₁) (h₂ : OnlyRead s₁ s₂) : OnlyRead s s₂ :=
  ⟨h₁.off.trans h₂.off, h₂.writes.trans h₁.writes, h₂.fab.trans h₁.fab, fun m => (h₂.words m).trans (h₁.words m)⟩

theorem baseWords (h : OnlyRead s s₁) : BaseWords s s₁ := fun m _ => h.words m

theorem bytes (h : OnlyRead s s₁) (a n : Nat) : s₁.mem.bytes a n = s.mem.bytes a n := by
  simp only [Mem.bytes, h.off.byte _]

theorem count (s : State) (n i : Nat) (c : Option Nat) (k : Nat) : OnlyRead s (s.count n i c k) :=
  ⟨count_offTiles .., congrArg Mem.writes (count_mem ..), count_fab .., page_count_words s n i c k⟩

/-- Memory that reads as before, with what waits as before. -/
theorem setMem {m : Mem} (hbyte : ∀ a, m.byte a = s.mem.byte a) (hwrites : m.writes = s.mem.writes) : OnlyRead s { s with mem := m } :=
  ⟨⟨fun _ => rfl, hbyte, rfl, rfl, rfl, rfl, rfl, rfl, rfl⟩, hwrites, rfl, fun _ => rfl⟩

end OnlyRead

theorem Mem.raiseLine_writes (m : Mem) (l keep : Nat) : (m.raiseLine l keep).writes = m.writes := by
  unfold Mem.raiseLine
  dsimp only
  split
  · rfl
  · split
    · split <;> rfl
    · rfl

theorem Mem.allocate_writes (m : Mem) (l : Nat) (high dirty : Bool) (keep : Nat) : (m.allocate l high dirty keep).writes = m.writes := by
  unfold Mem.allocate
  dsimp only
  split
  · rfl
  · unfold Mem.setLine
    dsimp only
    split <;> rfl

theorem onlyRead_lineRead (s : State) (ctx : Option Nat) {hint : Nat} (alloc : Bool) (l : Nat) (h : hint ≠ 3) :
    OnlyRead s (s.lineRead ctx hint alloc l) := by
  have he : effHint hint (s.keepWays (lineDie l)) ≠ 3 := by
    unfold effHint
    split <;> simp [h]
  unfold State.lineRead
  simp only [he, if_false]
  split
  · refine (OnlyRead.count ..).trans (.setMem (fun a => ?_) ?_)
    · rw [count_mem, Mem.setLine_byte]
      split
      · exact Mem.raiseLine_byte ..
      · rfl
    · rw [count_mem]
      split
      · exact Mem.raiseLine_writes ..
      · rfl
  · have hmiss := OnlyRead.count s (mscPage (lineDie l)) 1 ctx 1
    split
    · refine (hmiss.trans (.setMem (fun a => ?_) ?_)).trans (.count ..)
      · rw [count_mem]
        exact Mem.allocate_byte ..
      · rw [count_mem]
        exact Mem.allocate_writes ..
    · refine hmiss.trans (.setMem (fun a => ?_) ?_)
      · rw [count_mem]
        rfl
      · rw [count_mem]

theorem onlyRead_memRead {s : State} (ctx : Option Nat) (a n : Nat) {hint : Nat} (alloc : Bool) (hnone : s.mem.writes = []) (h : hint ≠ 3) :
    OnlyRead s (s.memRead ctx a n hint alloc).2 := by
  unfold State.memRead
  rw [hnone]
  exact (foldl_keeps (OnlyRead s) _ (fun s₁ l hm => hm.trans (onlyRead_lineRead s₁ ctx alloc l h)) (linesOf a n) s (.refl s)).trans (.count ..)

/-- The bytes of a command count by level, and nothing else happens. -/
theorem onlyRead_countLevels (s : State) (page : Nat) (write : Bool) (hint : Nat) (gs : List Seg) : OnlyRead s (s.countLevels page write hint gs) := by
  unfold State.countLevels
  refine foldl_keeps (OnlyRead s) _ (fun s₁ g hm => hm.trans ?_) gs s (.refl s)
  have hzero (s : State) (i n : Nat) : OnlyRead s (if n = 0 then s else s.count page i none n) := by
    split
    · exact .refl s
    · exact .count ..
  dsimp only
  split
  · exact (hzero ..).trans (hzero ..)
  · exact .count ..
  · exact .count ..
  · exact .refl s₁

/-! ## Bytes gathered and cut into rows -/

theorem putBytes_append (d₁ d₂ : List Byte) : ∀ (m : Tab Byte) (a : Nat), putBytes m a (d₁ ++ d₂) = putBytes (putBytes m a d₁) (a + d₁.length) d₂ := by
  induction d₁ with
  | nil => exact fun m a => rfl
  | cons b d₁ ih =>
    intro m a
    rw [List.cons_append, putBytes, ih, putBytes, List.length_cons, Nat.add_right_comm, Nat.add_assoc]

theorem getBytes_putBytes (m : Tab Byte) (a : Nat) (d : List Byte) : getBytes (putBytes m a d) a d.length = d := by
  refine List.ext_getElem (by simp [getBytes]) fun i _ hi => ?_
  simp only [getBytes, List.getElem_map, List.getElem_range]
  rw [get_putBytes, if_pos (by omega), Nat.add_sub_cancel_left, List.getD_eq_getElem _ _ hi]

theorem cutRows_eq (n k : Nat) : ∀ d : List Byte, cutRows n k d = (List.range k).map fun i => (d.drop (i * n)).take n := by
  induction k with
  | zero => exact fun d => rfl
  | succ k ih =>
    intro d
    rw [cutRows, ih, List.range_succ_eq_map, List.map_cons, List.map_map, Nat.zero_mul, List.drop_zero]
    refine congrArg _ (List.map_congr_left fun i _ => ?_)
    rw [List.drop_drop, Function.comp_apply, Nat.succ_mul, Nat.add_comm]

theorem getBytes_slice (m : Tab Byte) (a n i k : Nat) (h : i + k ≤ n) : ((getBytes m a n).drop i).take k = getBytes m (a + i) k := by
  refine List.ext_getElem (by simp [getBytes]; omega) fun j h₁ h₂ => ?_
  simp [getBytes, Nat.add_assoc]

theorem segData_length (s : State) (gs : List Seg) : (segData s gs).length = (gs.map Seg.len).sum := by
  simp [segData, List.length_flatMap]

theorem segData_congr {s s₁ : State} (hbyte : ∀ a, s₁.mem.byte a = s.mem.byte a) (hlocal : s₁.localOf = s.localOf) (gs : List Seg) :
    segData s₁ gs = segData s gs := by
  simp only [segData, Mem.bytes, hbyte, hlocal]

/-! ## Another member's memory (R281, R282) -/

section tray

variable {s : State} {c m off n : Nat}

theorem touchFlow_offTiles (s : State) (f : Nat) : OffTiles s (s.touchFlow f) := by
  unfold State.touchFlow
  split
  · exact count_offTiles ..
  · split
    · exact count_offTiles ..
    · exact ⟨fun _ => rfl, fun _ => rfl, rfl, rfl, rfl, rfl, rfl, rfl, rfl⟩

theorem touchFlow_words (s : State) (f : Nat) : BaseWords s (s.touchFlow f) := fun p _ => by
  unfold State.touchFlow
  split
  · exact page_count_words ..
  · split
    · exact page_count_words ..
    · rfl

theorem request_offTiles (s : State) (r : Req) : OffTiles s (s.request r) :=
  (touchFlow_offTiles s r.flow).trans ⟨fun _ => rfl, fun _ => rfl, rfl, rfl, rfl, rfl, rfl, rfl, rfl⟩

theorem request_words (s : State) (r : Req) : BaseWords s (s.request r) := touchFlow_words s r.flow

theorem request_unsent (s : State) (r : Req) : (s.request r).fab.unsent = s.fab.unsent ++ [{ req := r }] :=
  congrArg (· ++ [{ req := r : Unsent }]) (touchFlow_carried s r.flow).unsent

theorem request_cached (s : State) (r : Req) (f : Nat) : (s.request r).cached f = s.cached f := cached_congr (touchFlow_carried s r.flow).cache f

/-- A request waits while its flow's entry is not cached (R272, R275). -/
theorem pump_uncached {u : Unsent} (h : s.fab.unsent = [u]) (hc : s.cached u.req.flow = none) : s.pump = s := by
  have hnone : s.nextSend = none := by simp [State.nextSend, h, State.sendable, hc]
  simp [State.pump, State.pumpN, hnone]

theorem trayFlow_congr {s₁ : State} (h : s₁.key = s.key) (c m : Nat) : s₁.trayFlow c m = s.trayFlow c m := by
  rw [State.trayFlow, State.desc, h, State.trayFlow, State.desc]

theorem trayGets_zero (fuel a : Nat) : trayGets fuel a 0 = [] := by cases fuel <;> rfl

theorem trayGets_one (h₀ : 0 < n) (h₁ : n ≤ 2 ^ 21) (fuel a : Nat) : trayGets (fuel + 1) a n = [(a, n)] := by
  rw [trayGets, if_neg (by omega), Nat.min_eq_left h₁, Nat.sub_self, trayGets_zero]

theorem trayPuts_one {data : List Byte} (h₀ : data ≠ []) {a : Nat} (h₁ : a % 8192 + data.length ≤ 8192) (fuel : Nat) :
    trayPuts (fuel + 2) a data = [(a, data)] := by
  have htake : data.take (8192 - a % 8192) = data := List.take_of_length_le (by omega)
  have hdrop : data.drop (8192 - a % 8192) = [] := List.drop_eq_nil_of_le (by omega)
  simp [trayPuts, h₀, htake, hdrop]

/-- A read of at most 2 MiB of another member's memory is one GET. -/
theorem trayRead_one (h₀ : 0 < n) (h₁ : n ≤ 2 ^ 21) (h₃₂ : n % 32 = 0) (o : Owner) (page die : Nat) (dest : Nat → Dest) : ∃ r : Req,
    s.trayRead c o page die 0 m off n dest = (1, s.request r) ∧ r.pop = 2 ∧ r.flow = s.trayFlow c m ∧ r.ctx = c ∧ r.owner = o
      ∧ r.w2.toNat = off % 2 ^ 48 ∧ 32 * (r.len + 1) = n := by
  refine ⟨_, by rw [State.trayRead, trayGets_one h₀ h₁]; rfl, rfl, rfl, rfl, rfl, ?_, ?_⟩
  · rw [BitVec.toNat_ofNat]
    omega
  · dsimp only
    omega

/-- A write inside one 8 KiB block of another member's memory is one PUT. -/
theorem trayWrite_one {data : List Byte} (h₀ : data ≠ []) (h₁ : off % 8192 + data.length ≤ 8192) (o : Owner) (page die : Nat) : ∃ r : Req,
    s.trayWrite c o page die 0 m off data = (1, (s.dropTlc (trayPa m off) data.length).request r) ∧ r.pop = 1
      ∧ r.flow = s.trayFlow c m ∧ r.ctx = c ∧ r.owner = o ∧ r.w2.toNat = off % 2 ^ 48 ∧ r.arg = data := by
  refine ⟨_, by rw [State.trayWrite, trayPuts_one h₀ h₁]; rfl, rfl, rfl, rfl, rfl, ?_, rfl⟩
  rw [BitVec.toNat_ofNat]
  omega

theorem dropTlc_offTiles (s : State) (pa n : Nat) : OffTiles s (s.dropTlc pa n) := ⟨fun _ => rfl, fun _ => rfl, rfl, rfl, rfl, rfl, rfl, rfl, rfl⟩

/-- The only request waits where its flow's entry is not cached. -/
theorem pump_request {s₁ s₂ : State} {r : Req} (hfab : s₁.fab = s.fab) (hfab₂ : s₂.fab = (s₁.request r).fab) (hunsent : s.fab.unsent = [])
    (hcached : s.cached r.flow = none) : s₂.pump = s₂ ∧ s₂.fab.unsent = [{ req := r }] := by
  have hone : s₂.fab.unsent = [{ req := r }] := by rw [hfab₂, request_unsent, hfab, hunsent, List.nil_append]
  have hnone : s₂.cached r.flow = none := by
    rw [cached_congr (congrArg Fabric.cache hfab₂), request_cached, cached_congr (congrArg Fabric.cache hfab), hcached]
  exact ⟨pump_uncached hone hnone, hone⟩

end tray

end Sys2Proof.Machine
end

section
/-! LOAD, GATHER and STORE of local and of tray memory: what is in flight after the start (R76, R84, R118, R128, R281): O12. -/

namespace Sys2Proof.Machine

open Sys2Proof Sys2Proof.Spec

variable {s : State} {t : Nat} {d : Desc} {x : LsF} {c : Nat} {gs : List Seg}

theorem lsOf_rlen (d : Desc) : 0 < (lsOf d).rlen ∧ (lsOf d).rlen ≤ 2 ^ 21 ∧ (lsOf d).rlen % 32 = 0 := by
  have hlen : (lsOf d).rlen = (d.f 2 36 16 + 1) * 32 := rfl
  have hlt : d.f 2 36 16 < 2 ^ 16 := Nat.mod_lt _ (by decide)
  omega

theorem vas_length (x : LsF) (idx : Option (List Nat)) : (x.vas idx).length = x.rows := by rw [LsF.vas, List.length_map, List.length_range]

/-- A command of one row has the address of that row. -/
theorem vas_one (hx : x = lsOf d) (h : x.rows = 1) : x.vas none = [x.maddr] := by
  have hlt : x.maddr < 2 ^ 64 := by
    rw [hx]
    exact d.w1.isLt
  rw [LsF.vas, h, List.range_one, List.map_singleton, Nat.zero_mul, Nat.add_zero, Nat.mod_eq_of_lt hlt]

/-! ## A command that has started and counted its bytes (R97) -/

/-- The state in which a command has started and counted the bytes of its segments. -/
def State.begun (s : State) (t : Nat) (e : Eng) (d : Desc) (write : Bool) (gs : List Seg) : State :=
  (s.takeDesc t e d fun f => f).countLevels (engPage t e) write (lsOf d).hint gs

section begun

variable (s t d gs) (e : Eng) (write : Bool)

theorem begun_read : OnlyRead (s.takeDesc t e d fun f => f) (s.begun t e d write gs) := onlyRead_countLevels ..

theorem begun_off : OffTiles (s.takeDesc t e d fun f => f) (s.begun t e d write gs) := (begun_read s t d gs e write).off

theorem begun_mem (a : Nat) : (s.begun t e d write gs).mem.byte a = s.mem.byte a := by
  obtain ⟨-, hmem, -⟩ := takeDesc_tileFrame s t e d fun f => f
  exact ((begun_off s t d gs e write).byte a).trans (hmem a)

theorem begun_writes : (s.begun t e d write gs).mem.writes = s.mem.writes := by
  obtain ⟨-, -, hmem, -⟩ := takeDesc_tileFrame s t e d fun f => f
  rw [(begun_read s t d gs e write).writes, hmem]

theorem begun_fab : (s.begun t e d write gs).fab = s.fab := by
  obtain ⟨-, -, -, hfab, -⟩ := takeDesc_tileFrame s t e d fun f => f
  exact (begun_read s t d gs e write).fab.trans hfab

theorem begun_key : (s.begun t e d write gs).key = s.key := by
  obtain ⟨-, -, -, -, -, -, -, hkey, -⟩ := takeDesc_tileFrame s t e d fun f => f
  exact (begun_off s t d gs e write).key.trans hkey

theorem begun_baseWords (ht : t < 192) : BaseWords s (s.begun t e d write gs) :=
  (taken_baseWords ht s e d).trans (begun_read s t d gs e write).baseWords

end begun

/-! ## The segments of a LOAD (R118, R281) -/

section load

theorem loadSeg_local {s₁ : State} {id pos : Nat} {g : Seg} {r : Asked} {hint a : Nat} (hg : s₁.localOf g = some a)
    (hnone : s₁.mem.writes = []) (hhint : hint ≠ 3) : ∃ s₂, OnlyRead s₁ s₂ ∧
      s₁.loadSeg t c id hint pos g r = ({ r with got := putBytes r.got pos (s₁.mem.bytes a g.len) }, s₂) := by
  refine ⟨(s₁.memRead (some c) a g.len hint (!g.noalloc)).2, onlyRead_memRead _ _ _ _ hnone hhint, ?_⟩
  rw [State.loadSeg, localOf_eq.1 hg]
  simp only [← memRead_bytes s₁ (some c) a g.len hint (!g.noalloc) hnone]

/-- What a LOAD asks of its segments in turn: what it has asked for, the place it has come to, and the state. -/
def askSegs (t c id hint : Nat) (q : Asked × Nat × State) (gs : List Seg) : Asked × Nat × State :=
  gs.foldl (fun q g => ((q.2.2.loadSeg t c id hint q.2.1 g q.1).1, q.2.1 + g.len, (q.2.2.loadSeg t c id hint q.2.1 g q.1).2)) q

/-- Local memory answers at once. -/
theorem askSegs_local {id hint : Nat} (hhint : hint ≠ 3) (hnone : s.mem.writes = []) (gs : List Seg) :
    ∀ (m : Tab Byte) (pos : Nat) (s₁ : State), OnlyRead s s₁ → (∀ g ∈ gs, (s.localOf g).isSome) → ∃ s₂, OnlyRead s s₂ ∧
      askSegs t c id hint ({ got := m }, pos, s₁) gs = ({ got := putBytes m pos (segData s gs) }, pos + (gs.map Seg.len).sum, s₂) := by
  induction gs with
  | nil => exact fun m pos s₁ hs _ => ⟨s₁, hs, rfl⟩
  | cons g gs ih =>
    intro m pos s₁ hs hlocal
    obtain ⟨a, ha⟩ := Option.isSome_iff_exists.1 (hlocal g List.mem_cons_self)
    have ha₁ : s₁.localOf g = some a := by rw [localOf_congr hs.baseWords, ha]
    obtain ⟨s₂, hs₂, hseg⟩ := loadSeg_local (t := t) (c := c) (id := id) (pos := pos) (r := { got := m }) ha₁ (hs.writes.trans hnone) hhint
    obtain ⟨s₃, hs₃, hrest⟩ := ih (putBytes m pos (s₁.mem.bytes a g.len)) (pos + g.len) s₂ (hs.trans hs₂)
      fun j hj => hlocal j (List.mem_cons_of_mem g hj)
    refine ⟨s₃, hs₃, ?_⟩
    rw [askSegs, List.foldl_cons, hseg]
    refine hrest.trans ?_
    rw [segData, segData, List.flatMap_cons, ha, Option.getD_some, putBytes_append, hs.bytes, Mem.bytes_length, List.map_cons, List.sum_cons,
      Nat.add_assoc]

theorem loadSeg_tray {s₁ : State} {g : Seg} {m off id hint pos : Nat} {r : Asked} (htray : s₁.trayOf g = some (m, off)) (htlc : s₁.tlcOn (tileDie t) = false) :
    s₁.loadSeg t c id hint pos g r = ({ r with n := r.n + (s₁.trayRead c (.tile t id) (engPage t .lde) (tileDie t) 0 m off g.len
        fun j => .buf (pos + j)).1 }, (s₁.trayRead c (.tile t id) (engPage t .lde) (tileDie t) 0 m off g.len fun j => .buf (pos + j)).2) := by
  rw [State.loadSeg, trayOf_eq.1 htray]
  simp [htlc]

/-! ## A LOAD's start -/

/-- A LOAD that has asked its segments. -/
def loadWaits (x : LsF) (a : Asked) (f : Flight) : Flight :=
  { (f.meet {}) with phase := 1, bytes := x.rows * x.rlen, got := a.got, lines := a.lines, left := a.n, unsent := a.n }

/-- What a LOAD takes its row numbers from, with the state after that. -/
def State.loadIndex (s : State) (t : Nat) (d : Desc) : Option (List Nat) × State :=
  if d.op = 3 then (some (s.indexList t (lsOf d)).1, (s.indexList t (lsOf d)).2) else (none, s)

/-- The LOAD ends in the step that starts it. -/
def State.loadEnds (s : State) (t c id : Nat) (d : Desc) : State :=
  s.loadEnd t c (((s.tile t).flights.find? fun f => decide (f.id = id)).getD { id := id, eng := .lde, desc := d })

/-- A LOAD without host memory ends at once where it waits for nothing. -/
theorem loadRun_asked (hctx : s.ctxOf t = some c) {idx : Option (List Nat)} (hidx : s.loadIndex t d = (idx, s))
    (hgo : s.lsReach (tileDie t) c false ((lsOf d).vas idx) (lsOf d).rlen = (.go gs, s)) {a : Asked} {pos : Nat} {s₁ : State}
    (hask : askSegs t c (s.tile t).serial (lsOf d).hint ({}, 0, s.begun t .lde d false gs) gs = (a, pos, s₁)) (hhost : a.host = []) :
    State.loadRun t .clean d s = if a.n = 0 then (s₁.modFlight t (s.tile t).serial (loadWaits (lsOf d) a)).loadEnds t c (s.tile t).serial d
      else (s₁.modFlight t (s.tile t).serial (loadWaits (lsOf d) a)).pump := by
  unfold State.loadRun
  simp only [hctx]
  rw [show (if d.op = 3 then _ else _) = s.loadIndex t d from rfl, hidx]
  dsimp only
  rw [hgo]
  dsimp only
  rw [show (s.takeDesc t .lde d fun f => f).tlcError (tileDie t) c .clean = ({}, s.takeDesc t .lde d fun f => f) from rfl]
  dsimp only
  generalize hr : gs.foldl _ _ = r
  obtain rfl : r = (a, pos, s₁) := hr.symm.trans hask
  dsimp only
  rw [hhost]
  rfl

/-! ## LOAD and GATHER of local memory -/

/-- A LOAD whose data have all arrived. -/
def loadArrived (x : LsF) (data : List Byte) (f : Flight) : Flight :=
  { f with phase := 2, got := [], lines := [], writes := x.rowWrites (cutRows x.rlen x.rows data) }

theorem find_started {s₁ : State} {e : Eng} {f : Flight} (hq : Quiet (s.tile t)) (hid : f.id = (s.tile t).serial)
    (htile : s₁.tile t = (s.tile t).started e d f) : ((s₁.tile t).flights.find? fun f => decide (f.id = (s.tile t).serial)) = some f := by
  rw [htile, started_flights, hq.1, List.nil_append, List.find?_singleton, if_pos (by simp [hid])]

theorem loadEnd_tile {s₁ : State} {f : Flight} {data : List Byte} (hq : Quiet (s.tile t)) (hid : f.id = (s.tile t).serial) (hdesc : f.desc = d)
    (hdata : loadData f ((lsOf d).rows * (lsOf d).rlen) = data) (htile : s₁.tile t = (s.tile t).started .lde d f) :
    (s₁.loadEnd t c f).tile t = (s.tile t).started .lde d (loadArrived (lsOf d) data f) := by
  subst hdesc hdata
  have htlc : (s₁.tlcFill (tileDie t) c f).tile t = (s.tile t).started .lde f.desc f := htile
  exact (congrArg (fun id => ((s₁.tlcFill (tileDie t) c f).modFlight t id (loadArrived (lsOf f.desc)
    (loadData f ((lsOf f.desc).rows * (lsOf f.desc).rlen)))).tile t) hid).trans (tile_modFlight_only _ hq hid htlc)

theorem loadEnd_engineOnly (s : State) (t c : Nat) (f : Flight) : EngineOnly t s (s.loadEnd t c f) := by
  have htlc : EngineOnly t s (s.tlcFill (tileDie t) c f) := ⟨fun _ _ => rfl, fun _ => rfl, rfl, rfl, rfl, rfl, rfl, rfl, rfl⟩
  exact htlc.trans (modFlight_engineOnly ..)

/-- The end of a LOAD in the step that starts it. -/
theorem loadEnds_startedAs {s₁ : State} {g : Flight → Flight} {data : List Byte} (hq : Quiet (s.tile t))
    (hframe : OffTiles (s.takeDesc t .lde d fun f => f) s₁) (hid : (g (newFlight (s.tile t) .lde d)).id = (s.tile t).serial)
    (hdesc : (g (newFlight (s.tile t) .lde d)).desc = d)
    (hdata : loadData (g (newFlight (s.tile t) .lde d)) ((lsOf d).rows * (lsOf d).rlen) = data) :
    StartedAs t .lde d (loadArrived (lsOf d) data (g (newFlight (s.tile t) .lde d))) s
      ((s₁.modFlight t (s.tile t).serial g).loadEnds t c (s.tile t).serial d) := by
  obtain ⟨htile, heng⟩ := startedAs_modFlight hq hframe g
  rw [State.loadEnds, find_started hq hid htile]
  exact ⟨loadEnd_tile hq hid hdesc hdata htile, heng.trans (loadEnd_engineOnly ..)⟩

theorem loadRun_local (hq : Quiet (s.tile t)) (ht : t < 192) (hx : x = lsOf d) (hctx : s.ctxOf t = some c) {idx : Option (List Nat)}
    (hidx : s.loadIndex t d = (idx, s)) (hlocal : ∀ g ∈ gs, (s.localOf g).isSome) (hhint : x.hint ≠ 3) (hnone : s.mem.writes = [])
    (hreach : (s.lsReach (tileDie t) c false (x.vas idx) x.rlen).1 = .go gs) :
    StartedAs t .lde d (loadArrived x (segData s gs) (loadWaits x { got := putBytes [] 0 (segData s gs) } (newFlight (s.tile t) .lde d)))
      s (State.loadRun t .clean d s) := by
  subst hx
  obtain ⟨hgo, hsum⟩ := lsReach_go hreach
  have hlocalOf := localOf_congr (begun_baseWords s t d gs .lde false ht)
  obtain ⟨s₁, hread, hask⟩ := askSegs_local (t := t) (c := c) (id := (s.tile t).serial) hhint ((begun_writes ..).trans hnone) gs [] 0 _
    (.refl (s.begun t .lde d false gs)) (by rw [hlocalOf]; exact hlocal)
  rw [segData_congr (s := s) (fun _ => begun_mem ..) hlocalOf] at hask
  have hlen : (lsOf d).rows * (lsOf d).rlen = (segData s gs).length := by rw [segData_length, hsum, vas_length]
  rw [loadRun_asked hctx hidx hgo hask rfl, if_pos rfl]
  exact loadEnds_startedAs hq ((begun_off ..).trans hread.off) rfl rfl (by rw [hlen]; exact getBytes_putBytes ..)

/-- The rows of a LOAD's data, on their way to the tile. -/
theorem loadArrived_writes (hbexp : x.bexp = false) (data : List Byte) (f : Flight) : (loadArrived x data f).writes =
    (List.range x.rows).map fun i => rowWrite x.lsel x.laddr x.lstride i ((data.drop (i * x.rlen)).take x.rlen) := by
  rw [loadArrived, rowWrites_plain hbexp, cutRows_eq, mapIdx_map_range]
  rfl

/-- A LOAD or GATHER of local memory that has passed its checks. -/
theorem loadRun_lands (hq : Quiet (s.tile t)) (ht : t < 192) (hx : x = lsOf d) (hctx : s.ctxOf t = some c) {idx : Option (List Nat)}
    (hidx : s.loadIndex t d = (idx, s)) (hlocal : ∀ g ∈ gs, (s.localOf g).isSome) (hhint : x.hint ≠ 3) (hnone : s.mem.writes = [])
    (hbexp : x.bexp = false) (hreach : (s.lsReach (tileDie t) c false (x.vas idx) x.rlen).1 = .go gs) :
    Took t .lde d s (State.loadRun t .clean d s) (fun f => f.refused = false ∧ f.finished = true ∧ f.bytes = x.rows * x.rlen
        ∧ f.writes = (List.range x.rows).map fun i => rowWrite x.lsel x.laddr x.lstride i (((segData s gs).drop (i * x.rlen)).take x.rlen))
      ∧ AccSame (s.tile t) ((State.loadRun t .clean d s).tile t) ∧ EngFrame t s (State.loadRun t .clean d s) := by
  exact started_answers (loadRun_local hq ht hx hctx hidx hlocal hhint hnone hreach) ⟨rfl, rfl, rfl⟩
    ⟨rfl, rfl, rfl, loadArrived_writes hbexp ..⟩

theorem loadIndex_load (hop : d.op = 1) : s.loadIndex t d = (none, s) := by
  rw [State.loadIndex, hop]
  rfl

/-- The row numbers that a GATHER's index list holds. -/
def indexRows (ti : Tile) (x : LsF) : List Nat := (List.range x.rows).map fun i => ofBytes (ti.bytes false (x.baddr + 4 * i) 4)

theorem loadIndex_gather (hq : Quiet (s.tile t)) (hx : x = lsOf d) (hop : d.op = 3) : s.loadIndex t d = (some (indexRows (s.tile t) x), s) := by
  subst hx
  have hslice (i : Nat) (hi : i ∈ List.range (lsOf d).rows) : ofBytes ((((s.tile t).bytes false (lsOf d).baddr (4 * (lsOf d).rows)).drop (4 * i)).take 4)
      = ofBytes ((s.tile t).bytes false ((lsOf d).baddr + 4 * i) 4) := by
    have hlt := List.mem_range.1 hi
    exact congrArg ofBytes (getBytes_slice _ _ _ _ _ (by omega))
  rw [State.loadIndex, hop, if_pos rfl]
  simp only [State.indexList, localRead_calm (calm_of_quiet hq)]
  rw [indexRows, List.map_congr_left hslice]

/-- A GATHER's row numbers place its rows. -/
theorem vas_gather {ti : Tile} {idx : List Nat} (h : ∀ i, i < x.rows → idx.getD i 0 = ofBytes (ti.bytes false (x.baddr + 4 * i) 4)) :
    x.vas (some (indexRows ti x)) = (List.range x.rows).map fun i => (x.maddr + idx.getD i 0 * x.mstride) % 2 ^ 64 := by
  refine List.map_congr_left fun i hi => ?_
  have hlt := List.mem_range.1 hi
  rw [h i hlt, indexRows]
  simp [List.getD_eq_getElem?_getD, hlt]

/-- A GATHER makes no block exponents (R118). -/
theorem gather_bexp (hop : d.op = 3) (hbad : lsBad false d x = none) : x.bexp = false := by
  simp only [lsBad, firstCode, Option.map_eq_none_iff, List.find?_eq_none, List.forall_mem_cons] at hbad
  obtain ⟨hfirst, -⟩ := hbad
  cases hbexp : x.bexp with
  | false => rfl
  | true => simp [hop, hbexp] at hfirst

/-! ## LOAD of another member's memory -/

theorem loadRun_tray {g : Seg} {m off : Nat} (hq : Quiet (s.tile t)) (ht : t < 192) (hx : x = lsOf d) (hctx : s.ctxOf t = some c) (hop : d.op = 1)
    (htray : s.trayOf g = some (m, off)) (hlen : g.len = x.rlen) (htlc : s.tlcOn (tileDie t) = false) (hunsent : s.fab.unsent = [])
    (hcached : s.cached (s.trayFlow c m) = none) (hreach : (s.lsReach (tileDie t) c false (x.vas none) x.rlen).1 = .go [g]) :
    StartedAs t .lde d (loadWaits x { n := 1 } (newFlight (s.tile t) .lde d)) s (State.loadRun t .clean d s)
      ∧ ∃ r, (State.loadRun t .clean d s).fab.unsent = [{ req := r }] ∧ r.pop = 2 ∧ r.flow = s.trayFlow c m ∧ r.ctx = c
        ∧ r.owner = .tile t (s.tile t).serial ∧ r.w2.toNat = off % 2 ^ 48 ∧ 32 * (r.len + 1) = x.rlen := by
  subst hx
  obtain ⟨hpos, hmax, h32⟩ := lsOf_rlen d
  have hbase := begun_baseWords s t d [g] .lde false ht
  obtain ⟨r, hread, hpop, hrflow, hrest⟩ := trayRead_one (s := s.begun t .lde d false [g]) (c := c) (m := m) (off := off) hpos hmax h32
    (.tile t (s.tile t).serial) (engPage t .lde) (tileDie t) fun j => .buf (0 + j)
  rw [trayFlow_congr (begun_key ..)] at hrflow
  have hask : askSegs t c (s.tile t).serial (lsOf d).hint ({}, 0, s.begun t .lde d false [g]) [g]
      = ({ n := 1 }, 0 + g.len, (s.begun t .lde d false [g]).request r) := by
    rw [askSegs, List.foldl_cons, List.foldl_nil, loadSeg_tray ((congrFun (trayOf_congr hbase) g).trans htray) ((tlcOn_congr hbase _).trans htlc),
      hlen, hread]
    rfl
  rw [loadRun_asked hctx (loadIndex_load hop) (lsReach_go hreach).1 hask rfl, if_neg Nat.one_ne_zero]
  generalize hs₂ : State.modFlight _ t _ _ = s₂
  obtain ⟨hpump, hone⟩ := pump_request (s₂ := s₂) (begun_fab s t d [g] .lde false) (by rw [← hs₂]; rfl) hunsent (hrflow ▸ hcached)
  rw [hpump, ← hs₂]
  exact ⟨startedAs_modFlight hq ((begun_off ..).trans (request_offTiles ..)) _, r, hs₂ ▸ hone, hpop, hrflow, hrest⟩

end load

/-! ## The segments of a STORE (R84, R128, R281) -/

section store

/-- What a STORE hands to its segments in turn: the answers it waits for, the data it has left, and the state. -/
def handSegs (t c id hint : Nat) (q : Nat × List Byte × State) (gs : List Seg) : Nat × List Byte × State :=
  gs.foldl (fun q g =>
    (q.1 + (q.2.2.storeSeg t c id hint g (q.2.1.take g.len)).1, q.2.1.drop g.len, (q.2.2.storeSeg t c id hint g (q.2.1.take g.len)).2)) q

/-- The writes of a STORE's segments, which take its data in order. -/
def storeWrites (s : State) (id hint : Nat) : List Seg → List Byte → List MWrite
  | [], _ => []
  | g :: gs, data =>
    { id := id, addr := (s.localOf g).getD 0, data := data.take g.len, hint := BitVec.ofNat 2 hint, alloc := !g.noalloc }
      :: storeWrites s id hint gs (data.drop g.len)

/-- Writes that wait behind those that wait already. -/
def State.behind (s : State) (ws : List MWrite) : State := s.modMem fun m => { m with writes := m.writes ++ ws }

theorem behind_offTiles (s : State) (ws : List MWrite) : OffTiles s (s.behind ws) := ⟨fun _ => rfl, fun _ => rfl, rfl, rfl, rfl, rfl, rfl, rfl, rfl⟩

theorem storeSeg_local {s₁ : State} {id hint a : Nat} {g : Seg} {data : List Byte} (hg : s₁.localOf g = some a) : s₁.storeSeg t c id hint g data
    = (0, s₁.behind [{ id := memId t id, addr := a, data := data, hint := BitVec.ofNat 2 hint, alloc := !g.noalloc }]) := by
  rw [State.storeSeg, localOf_eq.1 hg]
  rfl

/-- Local memory takes its bytes at the end: they wait. -/
theorem handSegs_local {id hint : Nat} (gs : List Seg) : ∀ (k : Nat) (data : List Byte) (s₁ : State), BaseWords s s₁ →
    (∀ g ∈ gs, (s.localOf g).isSome) → handSegs t c id hint (k, data, s₁) gs
      = (k, data.drop (gs.map Seg.len).sum, s₁.behind (storeWrites s (memId t id) hint gs data)) := by
  induction gs with
  | nil =>
    intro k data s₁ _ _
    simp [handSegs, storeWrites, State.behind, State.modMem]
  | cons g gs ih =>
    intro k data s₁ hs hlocal
    obtain ⟨a, ha⟩ := Option.isSome_iff_exists.1 (hlocal g List.mem_cons_self)
    rw [handSegs, List.foldl_cons, storeSeg_local (by rw [localOf_congr hs, ha])]
    refine (ih k (data.drop g.len) (s₁.behind _) hs fun j hj => hlocal j (List.mem_cons_of_mem g hj)).trans ?_
    rw [storeWrites, ha, Option.getD_some, List.drop_drop, List.map_cons, List.sum_cons]
    simp [State.behind, State.modMem]

theorem storeWrites_addr (id hint : Nat) (gs : List Seg) : ∀ data, (storeWrites s id hint gs data).map (fun w => w.addr)
    = gs.map fun g => (s.localOf g).getD 0 := by
  induction gs with
  | nil => exact fun _ => rfl
  | cons g gs ih =>
    intro data
    rw [storeWrites, List.map_cons, ih, List.map_cons]

theorem storeWrites_id (id hint : Nat) (gs : List Seg) : ∀ data, ∀ w ∈ storeWrites s id hint gs data, w.id = id := by
  induction gs with
  | nil => exact fun _ w hw => absurd hw List.not_mem_nil
  | cons g gs ih =>
    intro data w hw
    obtain rfl | hw := List.mem_cons.1 hw
    · rfl
    · exact ih _ w hw

theorem storeWrites_data (id hint : Nat) (gs : List Seg) : ∀ data : List Byte, data.length = (gs.map Seg.len).sum →
    (storeWrites s id hint gs data).map (fun w => w.data.length) = gs.map Seg.len
      ∧ (storeWrites s id hint gs data).flatMap (fun w => w.data) = data := by
  induction gs with
  | nil => exact fun data h => ⟨rfl, (List.eq_nil_of_length_eq_zero h).symm⟩
  | cons g gs ih =>
    intro data h
    rw [List.map_cons, List.sum_cons] at h
    obtain ⟨hlens, hdata⟩ := ih (data.drop g.len) (by rw [List.length_drop]; omega)
    rw [storeWrites, List.map_cons, List.flatMap_cons, hlens, hdata, List.take_append_drop, List.length_take, Nat.min_eq_left (by omega), List.map_cons]
    exact ⟨rfl, rfl⟩

theorem storeSeg_tray {s₁ : State} {g : Seg} {m off id hint : Nat} {data : List Byte} (htray : s₁.trayOf g = some (m, off)) :
    s₁.storeSeg t c id hint g data = s₁.trayWrite c (.tile t id) (engPage t .ste) (tileDie t) 0 m off data := by
  rw [State.storeSeg, trayOf_eq.1 htray]

/-- Memory of the package and of other members needs no queue pair (R397). -/
theorem segHost_near {g : Seg} (write : Bool) (h : (s.localOf g).isSome ∨ (s.trayOf g).isSome) : s.segHost c write g = .inr [] := by
  obtain h | h := h
  · obtain ⟨a, ha⟩ := Option.isSome_iff_exists.1 h
    rw [State.segHost, localOf_eq.1 ha]
  · obtain ⟨⟨m, off⟩, ha⟩ := Option.isSome_iff_exists.1 h
    rw [State.segHost, trayOf_eq.1 ha]

/-! ## A STORE's start -/

/-- The bytes that a STORE takes from the tile. -/
def storeData (ti : Tile) (x : LsF) : List Byte := rowData ti x.lsel x.laddr x.lstride x.rows x.rlen

theorem storeData_length (ti : Tile) (x : LsF) : (storeData ti x).length = x.rows * x.rlen := by
  simp [storeData, rowData, List.length_flatMap, bytes_length]

theorem storeData_one (ti : Tile) (h : x.rows = 1) : storeData ti x = ti.bytes x.lsel x.laddr x.rlen := by
  rw [storeData, rowData, h, List.range_one, List.flatMap_singleton, Nat.zero_mul, Nat.add_zero]

theorem storeData_taken (s : State) (t : Nat) (e : Eng) (d : Desc) (x : LsF) :
    storeData ((s.takeDesc t e d fun f => f).tile t) x = storeData (s.tile t) x := by
  simp only [storeData, rowData, bytes_taken]

/-- The rows of a STORE as the tile holds them. -/
theorem storeRows_calm (h : Calm (s.tile t)) (x : LsF) :
    (List.range x.rows).foldl (fun (q : List Byte × State) i =>
        (q.1 ++ (q.2.localRead t x.lsel (x.laddr + i * x.lstride) x.rlen).1, (q.2.localRead t x.lsel (x.laddr + i * x.lstride) x.rlen).2)) ([], s)
      = (storeData (s.tile t) x, s) := by
  rw [foldl_steady (f := fun acc i => acc ++ (s.tile t).bytes x.lsel (x.laddr + i * x.lstride) x.rlen) _
    (fun i _ acc => by simp only [localRead_calm h]), storeData, rowData, List.flatMap_eq_foldl]

/-- A STORE that has handed on its segments and waits for n answers. -/
def storeWaits (x : LsF) (n : Nat) (f : Flight) : Flight := { (f.meet {}) with bytes := x.rows * x.rlen, left := n, unsent := n }

/-- A STORE without host memory lets what can go, go. -/
theorem storeRun_handed (hq : Quiet (s.tile t)) (hctx : s.ctxOf t = some c)
    (hgo : s.lsReach (tileDie t) c true ((lsOf d).vas none) (lsOf d).rlen = (.go gs, s)) {n : Nat} {rest : List Byte} {s₁ : State}
    (hhand : handSegs t c (s.tile t).serial (lsOf d).hint (0, storeData (s.tile t) (lsOf d), s.begun t .ste d true gs) gs = (n, rest, s₁))
    (hwords : BaseWords s s₁) (hnear : ∀ g ∈ gs, (s.localOf g).isSome ∨ (s.trayOf g).isSome) :
    State.storeRun t .clean d s = (s₁.modFlight t (s.tile t).serial (storeWaits (lsOf d) n)).pump := by
  unfold State.storeRun
  simp only [hctx]
  rw [hgo]
  dsimp only
  rw [show (s.takeDesc t .ste d fun f => f).eccTile t .clean = ({}, s.takeDesc t .ste d fun f => f) from rfl]
  dsimp only
  rw [storeRows_calm (calm_taken hq), storeData_taken]
  dsimp only
  generalize hr : gs.foldl _ _ = r
  obtain rfl : r = (n, rest, s₁) := hr.symm.trans hhand
  dsimp only
  have hhost (f : Flight → Flight) (g : Seg) (hg : g ∈ gs) : (s₁.modFlight t (s.tile t).serial f).segHost c true g = .inr [] := by
    have hbase : BaseWords s (s₁.modFlight t (s.tile t).serial f) := hwords
    exact segHost_near true (by rw [localOf_congr hbase, trayOf_congr hbase]; exact hnear g hg)
  rw [List.flatMap_eq_nil_iff.2 fun g hg => by rw [hhost _ g hg]; rfl]
  rfl

/-! ## STORE to local memory -/

theorem storeRun_local (hq : Quiet (s.tile t)) (ht : t < 192) (hx : x = lsOf d) (hctx : s.ctxOf t = some c)
    (hlocal : ∀ g ∈ gs, (s.localOf g).isSome) (hunsent : s.fab.unsent = [])
    (hreach : (s.lsReach (tileDie t) c true (x.vas none) x.rlen).1 = .go gs) :
    StartedAs t .ste d (storeWaits x 0 (newFlight (s.tile t) .ste d)) s (State.storeRun t .clean d s)
      ∧ (State.storeRun t .clean d s).mem.writes = s.mem.writes ++ storeWrites s (memId t (s.tile t).serial) x.hint gs (storeData (s.tile t) x) := by
  subst hx
  have hbase := begun_baseWords s t d gs .ste true ht
  rw [storeRun_handed hq hctx (lsReach_go hreach).1 (handSegs_local gs 0 _ _ hbase hlocal) hbase fun g hg => .inl (hlocal g hg)]
  generalize hs₂ : State.modFlight _ t _ _ = s₂
  rw [pump_nil (by rw [← hs₂]; exact (congrArg Fabric.unsent (begun_fab s t d gs .ste true)).trans hunsent), ← hs₂]
  exact ⟨startedAs_modFlight hq ((begun_off ..).trans (behind_offTiles ..)) _, congrArg (· ++ _) (begun_writes s t d gs .ste true)⟩

/-! ## STORE to another member's memory -/

theorem storeRun_tray {g : Seg} {m off : Nat} (hq : Quiet (s.tile t)) (ht : t < 192) (hx : x = lsOf d) (hctx : s.ctxOf t = some c)
    (hrows : x.rows = 1) (htray : s.trayOf g = some (m, off)) (hlen : g.len = x.rlen) (hblock : off % 8192 + x.rlen ≤ 8192)
    (hunsent : s.fab.unsent = []) (hcached : s.cached (s.trayFlow c m) = none)
    (hreach : (s.lsReach (tileDie t) c true (x.vas none) x.rlen).1 = .go [g]) :
    StartedAs t .ste d (storeWaits x 1 (newFlight (s.tile t) .ste d)) s (State.storeRun t .clean d s)
      ∧ ∃ r, (State.storeRun t .clean d s).fab.unsent = [{ req := r }] ∧ r.pop = 1 ∧ r.flow = s.trayFlow c m ∧ r.ctx = c
        ∧ r.owner = .tile t (s.tile t).serial ∧ r.w2.toNat = off % 2 ^ 48 ∧ r.arg = (s.tile t).bytes x.lsel x.laddr x.rlen := by
  subst hx
  have hbase := begun_baseWords s t d [g] .ste true ht
  have hbytes : (storeData (s.tile t) (lsOf d)).length = (lsOf d).rlen := by rw [storeData_length, hrows, Nat.one_mul]
  have hne : storeData (s.tile t) (lsOf d) ≠ [] := List.ne_nil_of_length_pos (by rw [hbytes]; exact (lsOf_rlen d).1)
  obtain ⟨r, hwrite, hpop, hrflow, hrctx, hrowner, hrw2, hrarg⟩ := trayWrite_one (s := s.begun t .ste d true [g]) (c := c) (m := m) hne
    (by rw [hbytes]; exact hblock) (.tile t (s.tile t).serial) (engPage t .ste) (tileDie t)
  rw [trayFlow_congr (begun_key ..)] at hrflow
  rw [storeData_one _ hrows] at hrarg
  have hhand : handSegs t c (s.tile t).serial (lsOf d).hint (0, storeData (s.tile t) (lsOf d), s.begun t .ste d true [g]) [g]
      = (1, (storeData (s.tile t) (lsOf d)).drop g.len,
        ((s.begun t .ste d true [g]).dropTlc (trayPa m off) (storeData (s.tile t) (lsOf d)).length).request r) := by
    rw [handSegs, List.foldl_cons, List.foldl_nil, List.take_of_length_le (by rw [hlen, hbytes]),
      storeSeg_tray ((congrFun (trayOf_congr hbase) g).trans htray), hwrite]
    rfl
  rw [storeRun_handed hq hctx (lsReach_go hreach).1 hhand (hbase.trans (request_words (State.dropTlc _ _ _) r)) fun g' hg => .inr (by
    rw [List.mem_singleton.1 hg, htray]
    rfl)]
  generalize hs₂ : State.modFlight _ t _ _ = s₂
  obtain ⟨hpump, hone⟩ := pump_request (s₁ := (s.begun t .ste d true [g]).dropTlc (trayPa m off) (storeData (s.tile t) (lsOf d)).length) (s₂ := s₂)
    (begun_fab s t d [g] .ste true) (by rw [← hs₂]; rfl) hunsent (hrflow ▸ hcached)
  rw [hpump, ← hs₂]
  exact ⟨startedAs_modFlight hq (((begun_off ..).trans (dropTlc_offTiles ..)).trans (request_offTiles ..)) _, r, hs₂ ▸ hone, hpop, hrflow,
    hrctx, hrowner, hrw2, hrarg⟩

end store

/-! ## The two statements -/

theorem loadsAndStores : LoadsAndStores := by
  intro s t d x c gs hx hq hctx hlocal
  refine ⟨fun hstart hop hbad hbexp hhint hnone hreach => ?load, fun idx hstart hop hbad hhint hnone hidx hreach => ?gather,
    fun hstart hop hbad hunsent hreach => ?store⟩
  case load =>
    have hrun : exec (.load t .clean) s = .next (State.loadRun t .clean d s) :=
      congrArg Host.Outcome.next (engineStart_runs hstart hop rfl rfl (by rw [← hx]; exact hbad))
    exact ⟨_, hrun, loadRun_lands hq t.isLt hx hctx (loadIndex_load hop) hlocal hhint hnone hbexp hreach⟩
  case gather =>
    have hrun : exec (.gather t .clean) s = .next (State.loadRun t .clean d s) :=
      congrArg Host.Outcome.next (engineStart_runs hstart hop rfl rfl (by rw [← hx]; exact hbad))
    have hdop : d.op = 3 := hop
    exact ⟨_, hrun, loadRun_lands hq t.isLt hx hctx (loadIndex_gather hq hx hdop) hlocal hhint hnone (gather_bexp hdop hbad)
      (by rw [vas_gather hidx]; exact hreach)⟩
  case store =>
    have hrun : exec (.store t .clean) s = .next (State.storeRun t .clean d s) :=
      congrArg Host.Outcome.next (engineStart_runs hstart hop rfl rfl (by rw [← hx]; exact hbad))
    obtain ⟨hstarted, hwrites⟩ := storeRun_local hq t.isLt hx hctx hlocal hunsent hreach
    obtain ⟨htook, hacc, heng⟩ := started_answers (P := fun f => f.refused = false ∧ f.finished = true ∧ f.writes = []) hstarted
      ⟨rfl, rfl, rfl⟩ ⟨rfl, rfl, rfl⟩
    have hlen : (storeData (s.tile t) x).length = (gs.map Seg.len).sum := by
      rw [storeData_length, (lsReach_go hreach).2, List.length_map, List.length_range]
    obtain ⟨hlens, hdata⟩ := storeWrites_data (s := s) (memId t (s.tile t).serial) x.hint gs _ hlen
    exact ⟨_, hrun, htook, ⟨_, hwrites, storeWrites_addr .., hlens, storeWrites_id _ _ _ _, hdata⟩, hacc, heng⟩

theorem trayLoadsAndStores : TrayLoadsAndStores := by
  intro s t d x c m off g hx hq hctx htray hlocal hlen hrows hunsent hcached
  refine ⟨fun hstart hop hbad htlc hreach => ?load, fun hstart hop hbad hblock hreach => ?store⟩
  case load =>
    have hrun : exec (.load t .clean) s = .next (State.loadRun t .clean d s) :=
      congrArg Host.Outcome.next (engineStart_runs hstart hop rfl rfl (by rw [← hx]; exact hbad))
    obtain ⟨hstarted, hget⟩ := loadRun_tray hq t.isLt hx hctx hop htray hlen htlc hunsent hcached (by rw [vas_one hx hrows]; exact hreach)
    obtain ⟨htook, hacc, heng⟩ := started_answers (P := fun f => f.refused = false ∧ f.left = 1 ∧ f.unsent = 1 ∧ f.writes = []) hstarted
      ⟨rfl, rfl, rfl⟩ ⟨rfl, rfl, rfl, rfl⟩
    exact ⟨_, hrun, htook, hget, hacc, heng⟩
  case store =>
    have hrun : exec (.store t .clean) s = .next (State.storeRun t .clean d s) :=
      congrArg Host.Outcome.next (engineStart_runs hstart hop rfl rfl (by rw [← hx]; exact hbad))
    obtain ⟨hstarted, hput⟩ := storeRun_tray hq t.isLt hx hctx hrows htray hlen hblock hunsent hcached
      (by rw [vas_one hx hrows]; exact hreach)
    obtain ⟨htook, hacc, heng⟩ := started_answers (P := fun f => f.refused = false ∧ f.left = 1 ∧ f.unsent = 1) hstarted ⟨rfl, rfl, rfl⟩
      ⟨rfl, rfl, rfl⟩
    exact ⟨_, hrun, htook, hput, hacc, heng⟩

/-- Settles O12: the segments of local memory one after the other, and one request to another member. -/
theorem loadsStoresAndTray : Obligations.LoadsStoresAndTray := ⟨loadsAndStores, trayLoadsAndStores⟩

end Sys2Proof.Machine
end

section
/-! The scrubs: what a report with its event leaves, and the words and entries that an uncorrectable error turns (R149, R247, R341): O18. -/

namespace Sys2Proof.Machine

open Sys2Proof Sys2Proof.Spec

variable {s : State} {t : Nat}

/-! ## An error that is counted and reported with its event -/

/-- The report and the event stand, and the Bureau apart nothing but pages and channels changes. -/
theorem count_event_raise (s : State) {n i b sev : Nat} (code : Nat) (c : Option Nat) (loc : Word) (hb : b < 48) (hsev : sev < 8) :
    Reported n sev code s (((s.count n i).event n b).raise n sev code c loc)
      ∧ Raised n b (((s.count n i).event n b).raise n sev code c loc)
      ∧ OffTiles s (((s.count n i).event n b).raise n sev code c loc) :=
  ⟨reported_from (by simp) (by simp) (raise_reported hsev), raise_raised (event_raised n b hb),
    ((count_offTiles ..).trans (event_offTiles ..)).trans (raise_offTiles ..)⟩

/-! ## The accumulator scrub (R149) -/

/-- Only the entry of a double-bit error changes, and it is marked. -/
theorem spoilEntry_marks (s : State) (t loc : Nat) :
    (Tab.get {} ((s.spoilEntry t loc).tile t).acc loc).bad = true
      ∧ (∀ k, k ≠ loc → Tab.get {} ((s.spoilEntry t loc).tile t).acc k = Tab.get {} (s.tile t).acc k)
      ∧ BytesSame (s.tile t) ((s.spoilEntry t loc).tile t) ∧ TileFrame t s (s.spoilEntry t loc) := by
  have htile : (s.spoilEntry t loc).tile t = { s.tile t with acc := Tab.mod {} (s.tile t).acc loc fun e =>
      { e with int := e.int ^^^ (Config.badBits s.draws 0).zeroExtend 112, bad := true } } := tile_modTile_same s.draw.2 ..
  rw [htile]
  refine ⟨by simp [Tab.mod], fun k hk => by simp [Tab.mod, hk], bytesSame_of_eq rfl rfl, modTile_tileFrame (s := s.draw.2) ..⟩

theorem accScrub_clean (s : State) (t : Fin 192) : exec (.accScrub t .clean) s = .next s := by
  show execAccScrub t .clean s = _
  exact ite_self (Host.Outcome.next s)

section accScrub

variable {t : Fin 192} (hw : Works s t) (hon : s.fld (engPage t .mxe) 0x408 0 1 = 1)
include hw hon

theorem accScrub_corrected (loc : Nat) : exec (.accScrub t (.corrected loc)) s =
    .next (((s.count (engPage t .mxe) 14).event (engPage t .mxe) 5).raise (engPage t .mxe) 1 0x030 (s.ctxOf t)) := by
  show execAccScrub t (.corrected loc) s = _
  simp [execAccScrub, tileRuns_of_Works hw, hon]

/-- An entry that holds a double-bit error already is left as it is. -/
theorem accScrub_uncorrectable (loc : Nat) (hloc : loc < 32768) : exec (.accScrub t (.uncorrectable loc)) s =
    .next (((if (Tab.get {} (s.tile t).acc loc).bad then s else s.spoilEntry t loc).count (engPage t .mxe) 15).event (engPage t .mxe) 8) := by
  show execAccScrub t (.uncorrectable loc) s = _
  simp [execAccScrub, tileRuns_of_Works hw, hon, Nat.mod_eq_of_lt hloc]

end accScrub

/-- Whether the entry held a double-bit error before or not, it holds one now. -/
theorem accScrub_marks (s : State) (t loc : Nat) {s₁ : State}
    (h : s₁ = if (Tab.get {} (s.tile t).acc loc).bad then s else s.spoilEntry t loc) :
    (Tab.get {} (s₁.tile t).acc loc).bad = true ∧ (∀ k, k ≠ loc → Tab.get {} (s₁.tile t).acc k = Tab.get {} (s.tile t).acc k)
      ∧ BytesSame (s.tile t) (s₁.tile t) ∧ TileFrame t s s₁ := by
  subst h
  split
  next hbad => exact ⟨hbad, fun _ _ => rfl, .refl _, .refl s⟩
  next => exact spoilEntry_marks s t loc

/-! ## The idle scrub (R341) -/

/-- The word that an uncorrectable error turns is all that changes of the tiles. -/
theorem spoilWord_bytesBut (s : State) (t : Nat) (rf : Bool) (x : Nat) :
    BytesBut (s.tile t) ((s.spoilWord t rf x).tile t) rf (8 * x) 8 ∧ TileFrame t s (s.spoilWord t rf x) := by
  refine ⟨?_, modTile_tileFrame (s := s.draw.2) ..⟩
  have htile : (s.spoilWord t rf x).tile t = (s.tile t).write rf (8 * x)
      (toBytes 8 (ofBytes ((s.tile t).bytes rf (8 * x) 8) ^^^ (Config.badBits s.draws 0).toNat)) := tile_modTile_same s.draw.2 ..
  have hbut := write_bytesBut (ti := s.tile t) rf (8 * x) (toBytes 8 (ofBytes ((s.tile t).bytes rf (8 * x) 8) ^^^ (Config.badBits s.draws 0).toNat))
  rwa [← htile, toBytes_length] at hbut

/-- Where the scrub finds word n of a space: its index, plus 2^20 for the register file. -/
def scrubLoc (rf : Bool) (n : Nat) : Nat := if rf then n % 2 ^ 16 + 2 ^ 20 else n % (storeBytes / 8)

theorem scrubLoc_space (rf : Bool) (n : Nat) : decide (2 ^ 20 ≤ scrubLoc rf n) = rf := by
  cases rf with
  | false =>
    have hlt : n % (storeBytes / 8) < storeBytes / 8 := Nat.mod_lt _ (by decide)
    exact decide_eq_false (Nat.not_le.2 (hlt.trans (by decide)))
  | true => exact decide_eq_true (Nat.le_add_left ..)

theorem scrubLoc_word (rf : Bool) {n : Nat} (hn : n < 65536) : scrubLoc rf n % 2 ^ 20 = n := by
  cases rf <;> simp [scrubLoc, storeBytes] <;> omega

theorem idleScrub_clean (s : State) (t : Fin 192) (rf : Bool) : exec (.idleScrub t rf .clean) s = .next s := by
  show execIdleScrub t rf .clean s = _
  exact ite_self (Host.Outcome.next s)

section idleScrub

variable {t : Fin 192} (hw : Works s t) (hon : s.fld (tmonPage t) 0x100 0 1 = 1)
include hw hon

theorem idleScrub_corrected (rf : Bool) (n : Nat) : exec (.idleScrub t rf (.corrected n)) s =
    .next (s.eccTile t (.corrected (scrubLoc rf n))).2 := by
  show execIdleScrub t rf (.corrected n) s = _
  simp [execIdleScrub, tileRuns_of_Works hw, hon, scrubLoc]

theorem idleScrub_uncorrectable (rf : Bool) (n : Nat) : exec (.idleScrub t rf (.uncorrectable n)) s =
    .next (s.eccTile t (.uncorrectable (scrubLoc rf n))).2 := by
  show execIdleScrub t rf (.uncorrectable n) s = _
  simp [execIdleScrub, tileRuns_of_Works hw, hon, scrubLoc]

end idleScrub

theorem eccTile_corrected (s : State) (t loc : Nat) {rf : Bool} (hrf : decide (2 ^ 20 ≤ loc) = rf) :
    (s.eccTile t (.corrected loc)).2 = ((s.count (tmonPage t) (if rf then 2 else 0)).event (tmonPage t) 4).raise (tmonPage t) 1
      (if rf then 0x112 else 0x110) (s.ctxOf t) := by
  subst hrf
  rfl

/-- TMON keeps the place of the first uncorrectable error (R376): s₁ is the state with the word turned and its place noted. -/
theorem eccTile_uncorrectable (s : State) (t loc : Nat) {rf : Bool} (hrf : decide (2 ^ 20 ≤ loc) = rf) :
    ∃ s₁ place, PageFrame (s.spoilWord t rf (loc % 2 ^ 20)) s₁ ∧ ErrSame (s.spoilWord t rf (loc % 2 ^ 20)) s₁ ∧
      (s.eccTile t (.uncorrectable loc)).2 = ((s₁.count (tmonPage t) (if rf then 3 else 1)).event (tmonPage t) 5).raise (tmonPage t) 3
        (if rf then 0x113 else 0x111) (s.ctxOf t) place := by
  subst hrf
  simp only [State.eccTile, State.stepFatal]
  split
  · exact ⟨_, _, .refl _, fun _ => ⟨rfl, rfl⟩, rfl⟩
  · exact ⟨_, _, setRaw_pageFrame .., setRaw_errSame _ _ _ _, rfl⟩

/-- An uncorrectable error of one word of a tile's space, which reads as word x. -/
theorem eccTile_turns (s : State) (t loc : Nat) {rf : Bool} {x : Nat} (hrf : decide (2 ^ 20 ≤ loc) = rf) (hx : loc % 2 ^ 20 = x) :
    let s' := (s.eccTile t (.uncorrectable loc)).2
    Reported (tmonPage t) 3 (if rf then 0x113 else 0x111) s s' ∧ Raised (tmonPage t) 5 s' ∧ BytesBut (s.tile t) (s'.tile t) rf (8 * x) 8
      ∧ OtherTiles t s s' ∧ MemSame s s'
      ∧ ∃ f, s'.bur.fatals = s.bur.fatals ++ [f] ∧ f.page = tmonPage t ∧ f.code = (if rf then 0x113 else 0x111) ∧ f.sev = 3 ∧ f.ctx = s.ctxOf t := by
  obtain ⟨s₁, place, hplaced, herr, hs'⟩ := eccTile_uncorrectable s t loc hrf
  rw [hx] at hplaced herr
  obtain ⟨hreported, hraised, hoff⟩ := count_event_raise s₁ (n := tmonPage t) (i := if rf then 3 else 1) (b := 5) (sev := 3)
    (if rf then 0x113 else 0x111) (s.ctxOf t) place (by decide) (by decide)
  obtain ⟨hbytes, hturned⟩ := spoilWord_bytesBut s t rf x
  obtain ⟨hother, hmem, -, -, -, -, -, -, hbur, -⟩ := hturned.trans hplaced.tileFrame
  rw [← hplaced.1 t, ← hoff.tile t] at hbytes
  obtain ⟨herr, herrCount⟩ := herr (tmonPage t)
  dsimp only
  rw [hs']
  refine ⟨reported_from herr herrCount hreported, hraised, hbytes, fun u hu => (hoff.tile u).trans (hother u hu),
    fun a => (hoff.byte a).trans (hmem a), { page := tmonPage t, code := if rf then 0x113 else 0x111, sev := 3, ctx := s.ctxOf t, loc := place },
    ?_, rfl, rfl, rfl, rfl⟩
  rw [raise_bur, if_pos (by decide), event_bur, count_bur, hbur]

/-- Settles O18: either scrub, by what the code reports. -/
theorem scrubs : Obligations.Scrubs := by
  intro s t hw
  refine ⟨fun hon => ⟨⟨s, accScrub_clean s t, rfl⟩, fun loc => ?accCorrected, fun loc hloc => ?accUncorrectable⟩,
    fun hon => ⟨fun rf => ⟨s, idleScrub_clean s t rf, rfl⟩, fun rf n => ?idleCorrected, fun rf n hn => ?idleUncorrectable⟩⟩
  case accCorrected =>
    obtain ⟨hreported, hraised, htiles, hmem, -⟩ := count_event_raise s (n := engPage t .mxe) (i := 14) (b := 5) (sev := 1) 0x030 (s.ctxOf t) 0
      (by decide) (by decide)
    exact ⟨_, accScrub_corrected hw hon loc, hreported, hraised, htiles, hmem⟩
  case accUncorrectable =>
    refine ⟨_, accScrub_uncorrectable hw hon loc hloc, ?_⟩
    generalize hs₁ : (if (Tab.get {} (s.tile t).acc loc).bad then s else s.spoilEntry t loc) = s₁
    obtain ⟨hbad, hrest, hbytes, hother, hmem, -⟩ := accScrub_marks s t loc hs₁.symm
    have hoff := (count_offTiles s₁ (engPage t .mxe) 15 none 1).trans (event_offTiles _ (engPage t .mxe) 8)
    rw [← hoff.tile] at hbad hrest hbytes
    exact ⟨hbad, hrest, event_raised _ 8 (by decide), hbytes, fun u hu => (hoff.tile u).trans (hother u hu), fun a => (hoff.byte a).trans (hmem a)⟩
  case idleCorrected =>
    obtain ⟨hreported, hraised, htiles, hmem, -⟩ := count_event_raise s (n := tmonPage t) (i := if rf then 2 else 0) (b := 4) (sev := 1)
      (if rf then 0x112 else 0x110) (s.ctxOf t) 0 (by decide) (by decide)
    exact ⟨_, (idleScrub_corrected hw hon rf n).trans (congrArg _ (eccTile_corrected s t _ (scrubLoc_space rf n))), hreported, hraised, htiles, hmem⟩
  case idleUncorrectable =>
    exact ⟨_, idleScrub_uncorrectable hw hon rf n, eccTile_turns s t _ (scrubLoc_space rf n) (scrubLoc_word rf hn)⟩

end Sys2Proof.Machine
end

section
/-! What the operations of a Footstool share: fields of its page, reads of the scores, and an operation that has come about (R171, R172, R183). -/

namespace Sys2Proof.Machine

open Sys2Proof Sys2Proof.Spec

variable {s s₁ : State} {t n o op : Nat} {x : FtsF}

/-! ## Fields below the expert section -/

theorem fld_below_expert (s : State) (n lo w : Nat) (ho : o < 0x400) : s.fld n o lo w = bits (s.raw n o) lo w := by
  rw [State.fld, State.inForce, if_neg fun h => absurd h.1 (Nat.not_le.2 ho)]

theorem fld_setRaw_same (s : State) (n lo k : Nat) (w : Word) (ho : o < 0x400) : (s.setRaw n o w).fld n o lo k = bits w lo k := by
  rw [fld_below_expert _ _ _ _ ho, raw_setRaw_same]

theorem fld_setRaw_other (s : State) (n lo k : Nat) (w : Word) {p : Nat} (hp : p < 0x400) (h : p / 8 ≠ o / 8) :
    (s.setRaw n o w).fld n p lo k = s.fld n p lo k := by
  rw [fld_below_expert _ _ _ _ hp, raw_setRaw_other _ _ _ _ _ _ (.inr h), fld_below_expert _ _ _ _ hp]

/-- A field beside the one that is set. -/
theorem bits_putBits_other (w : Word) (lo k v lo' k' : Nat) (hin : lo' + k' ≤ 64) (h : lo' + k' ≤ lo ∨ lo + k ≤ lo') :
    bits (putBits w lo k v) lo' k' = bits w lo' k' := by
  refine Nat.eq_of_testBit_eq fun i => ?_
  rw [bits, bits, Nat.testBit_mod_two_pow, Nat.testBit_mod_two_pow, Nat.testBit_div_two_pow, Nat.testBit_div_two_pow]
  by_cases hi : i < k'
  · have hb := getLsbD_putBits w lo k v (i + lo') (by omega)
    rw [if_neg (by omega), BitVec.getLsbD, BitVec.getLsbD] at hb
    rw [hb]
  · simp [hi]

theorem fld_setFld_same (s : State) (n lo k v : Nat) (ho : o < 0x400) (hin : lo + k ≤ 64) : (s.setFld n o lo k v).fld n o lo k = v % 2 ^ k := by
  rw [State.setFld, fld_setRaw_same _ _ _ _ _ ho, bits_putBits_same _ _ _ _ hin]

theorem fld_setFld_other (s : State) (n lo k v lo' k' : Nat) (ho : o < 0x400) (hin : lo' + k' ≤ 64) (h : lo' + k' ≤ lo ∨ lo + k ≤ lo') :
    (s.setFld n o lo k v).fld n o lo' k' = s.fld n o lo' k' := by
  rw [State.setFld, fld_setRaw_same _ _ _ _ _ ho, bits_putBits_other _ _ _ _ _ _ hin h, fld_below_expert _ _ _ _ ho]

theorem fld_lt (s : State) (n o lo k : Nat) : s.fld n o lo k < 2 ^ k := Nat.mod_lt _ (Nat.two_pow_pos k)

/-! ## An operation that runs -/

theorem ftsDue_of_ftsRuns (h : FtsRuns s t op x) : s.ftsDue t op = true := by
  obtain ⟨hw, -, -, hfts, rfl, hop⟩ := h
  have hfld : s.ftsF t 0x100 0 4 = op := hop
  simp [State.ftsDue, tileRuns_of_Works hw, hfld, hfts]

theorem ftsFields_of_ftsRuns (h : FtsRuns s t op x) : s.ftsFields t = x := by
  obtain ⟨-, -, -, -, hx, -⟩ := h
  exact hx.symm

theorem slot_lt_of_ftsRuns (h : FtsRuns s t op x) : x.slot < 16 := by
  rw [← ftsFields_of_ftsRuns h]
  exact fld_lt s (ftsPage t) 0x100 4 4

theorem cols_pos_of_ftsRuns (h : FtsRuns s t op x) : 0 < x.cols := by
  rw [← ftsFields_of_ftsRuns h]
  exact Nat.succ_pos _

/-- Nothing of the tile waits to be written, so a read meets no race (R76). -/
theorem localRead_of_ftsRuns (h : FtsRuns s t op x) (rf : Bool) (a n : Nat) : s.localRead t rf a n = ((s.tile t).bytes rf a n, s) := by
  obtain ⟨-, hflights, hroute, hfts, -, -⟩ := h
  have hrace : (s.tile t).racing rf a n = [] := by
    rw [Tile.racing, hflights, hroute, hfts]
    rfl
  rw [State.localRead, hrace]

/-! ## Scores (R172) -/

theorem scoreRows_state (h : FtsRuns s t op x) : ∀ n, (s.scoreRows t x n).2 = s
  | 0 => rfl
  | n + 1 => by
    have ih := scoreRows_state h n
    unfold State.scoreRows
    generalize s.scoreRows t x n = rows at ih
    obtain ⟨rows, s'⟩ := rows
    obtain rfl : s' = s := ih
    simp only [localRead_of_ftsRuns h]

theorem scoreRows_row_length (s : State) (t : Nat) (x : FtsF) : ∀ n, ∀ r ∈ (s.scoreRows t x n).1, r.length = x.cols
  | 0 => by simp [State.scoreRows]
  | n + 1 => by
    intro r hr
    rw [State.scoreRows, List.mem_append, List.mem_singleton] at hr
    obtain hr | rfl := hr
    · exact scoreRows_row_length s t x n r hr
    · simp

/-- The group score of neuron n, as tile store holds it. -/
def groupScore (ti : Tile) (gs n : Nat) : Num := ofF32 (ofBytes (ti.bytes false (gs + 4 * n) 4))

theorem groupScores_eq (h : FtsRuns s t op x) (gs i n : Nat) :
    s.groupScores t gs i n = ((List.range n).map fun k => groupScore (s.tile t) gs (i + k), s) := by
  rw [State.groupScores, localRead_of_ftsRuns h]
  refine Prod.ext (List.map_congr_left fun k hk => ?_) rfl
  have hlt := List.mem_range.1 hk
  rw [Tile.bytes, getBytes_slice _ _ _ _ _ (by omega), Nat.add_assoc, ← Nat.mul_add]
  rfl

/-! ## An operation that has come about (R171) -/

@[simp] theorem fld_ftsDone (s : State) (t : Nat) (ws : List LWrite) (n o lo w : Nat) : (s.ftsDone t ws).fld n o lo w = s.fld n o lo w := rfl
@[simp] theorem raw_ftsDone (s : State) (t : Nat) (ws : List LWrite) (n o : Nat) : (s.ftsDone t ws).raw n o = s.raw n o := rfl

/-- The operation leaves a selection and what it has set on pages. -/
theorem ftsDone_done {sel : Selection} (htile : s₁.tile t = { s.tile t with sel := sel }) (hframe : TileFrame t s s₁) (ws : List LWrite) :
    ((s₁.ftsDone t ws).tile t).sel = sel ∧ FtsDone s (s₁.ftsDone t ws) t ws := by
  have hdone : (s₁.ftsDone t ws).tile t = { s.tile t with sel := sel, fts := some { done := true, writes := ws } } := by
    rw [State.ftsDone, tile_modTile_same, htile]
  unfold FtsDone
  rw [hdone]
  exact ⟨rfl, rfl, bytesSame_of_eq rfl rfl, fun _ => rfl, fun _ => rfl, ⟨rfl, rfl, rfl⟩, rfl, rfl, hframe.trans (modTile_tileFrame ..)⟩

/-- The operation changes pages only. -/
theorem ftsDone_of_pageFrame (h : PageFrame s s₁) (ws : List LWrite) : FtsDone s (s₁.ftsDone t ws) t ws :=
  (ftsDone_done (sel := (s.tile t).sel) (h.1 t) h.tileFrame ws).2

/-- The state with a selection of tile t. -/
def State.selected (s : State) (t : Nat) (sel : Selection) : State := s.modTile t fun ti => { ti with sel := sel }

/-- The operation changes pages and keeps a selection. -/
theorem ftsDone_selects {sel : Selection} (h : PageFrame (s.selected t sel) s₁) (ws : List LWrite) :
    ((s₁.ftsDone t ws).tile t).sel = sel ∧ FtsDone s (s₁.ftsDone t ws) t ws :=
  ftsDone_done ((h.1 t).trans (tile_modTile_same ..)) ((modTile_tileFrame ..).trans h.tileFrame) ws

end Sys2Proof.Machine
end

section
/-! AUDIT, BEGIN, CLOSE and FTS_COMPLETE (R171, R175, R177): O20. -/

namespace Sys2Proof.Machine

open Sys2Proof Sys2Proof.Spec

variable {s : State} {t : Fin 192} {x : FtsF}

/-- The words of a slot lie below the expert section. -/
theorem slotOff_lt {k : Nat} (hk : k < 16) : slotOff k < 0x400 := by unfold slotOff; omega

/-! ## AUDIT (R175) -/

/-- The columns of SRC whose neurons are audited. -/
def auditCols (s : State) (t : Nat) (x : FtsF) : List Nat :=
  (List.range x.cols).filter fun c => audited (s.slotMode t x.slot) (s.auditShift t x.slot) x.phase ((s.tile t).sel.list.getD (x.coff + c) 0)

/-- The values of a column that are not zero. -/
def activeValues (rows : List (List Num)) (c : Nat) : Nat := (rows.filter fun r => !(r.getD c (.fin false {})).isZero).length

/-- The audited columns that lie beyond the selection. -/
def missedCols (s : State) (t : Nat) (x : FtsF) : List Nat := (auditCols s t x).filter fun c => decide ((s.tile t).sel.s ≤ x.coff + c)

/-- The active values of some columns of SRC. -/
def activeIn (s : State) (t : Nat) (x : FtsF) (cols : List Nat) : Nat := (cols.map (activeValues (s.scoreRows t x x.rows).1)).sum

/-- The counts of a slot, raised by an audit. -/
def State.auditCounted (s : State) (n o active missed : Nat) : State :=
  (s.setRaw n (o + 8) (s.raw n (o + 8) + BitVec.ofNat 64 active)).setRaw n (o + 16) (s.raw n (o + 16) + BitVec.ofNat 64 missed)

theorem raw_auditCounted (s : State) (n o active missed : Nat) :
    (s.auditCounted n o active missed).raw n (o + 8) = s.raw n (o + 8) + BitVec.ofNat 64 active
      ∧ (s.auditCounted n o active missed).raw n (o + 16) = s.raw n (o + 16) + BitVec.ofNat 64 missed := by
  unfold State.auditCounted
  exact ⟨by rw [raw_setRaw_other _ _ _ _ _ _ (.inr (by omega)), raw_setRaw_same], raw_setRaw_same ..⟩

theorem audit_counts (h : FtsRuns s t 5 x) (hrf : rfBad x = false) (hvalid : (s.tile t).sel.valid = true)
    (hcols : x.coff + x.cols ≤ (s.tile t).sel.s + (s.tile t).sel.a) : exec (.audit t .clean) s =
      .next ((s.auditCounted (ftsPage t) (slotOff x.slot) (activeIn s t x (auditCols s t x)) (activeIn s t x (missedCols s t x))).ftsDone t []) := by
  have hpos := cols_pos_of_ftsRuns h
  have hin : ¬ (s.tile t).sel.s + (s.tile t).sel.a ≤ x.coff + x.cols - 1 := by omega
  have hcode : firstCode [(rfBad x, 0x061), (decide ((s.tile t).sel.s + (s.tile t).sel.a ≤ x.coff + x.cols - 1) && (s.tile t).sel.valid, 0x062),
      (!(s.tile t).sel.valid, 0x063)] = none := by
    simp [firstCode, hrf, hvalid, hin]
  have hmissed (w : Word) : (s.setRaw (ftsPage t) (slotOff x.slot + 8) w).raw (ftsPage t) (slotOff x.slot + 16)
      = s.raw (ftsPage t) (slotOff x.slot + 16) := raw_setRaw_other _ _ _ _ _ _ (.inr (by omega))
  show execAudit t .clean s = _
  simp only [execAudit, ftsDue_of_ftsRuns h, ftsFields_of_ftsRuns h, hcode, State.eccTile, scoreRows_state h, hmissed, Bool.not_true,
    Bool.false_eq_true, if_false]
  rfl

/-! ## BEGIN and CLOSE (R177) -/

/-- NEXT becomes MODE and the counts are 0. -/
def State.slotBegun (s : State) (n o : Nat) : State := ((s.setFld n o 0 2 (s.fld n o 2 2)).setRaw n (o + 8) 0).setRaw n (o + 16) 0

theorem begin_begins (h : FtsRuns s t 6 x) : exec (.begin t) s = .next ((s.slotBegun (ftsPage t) (slotOff x.slot)).ftsDone t []) := by
  show execBegin t s = _
  simp only [execBegin, ftsDue_of_ftsRuns h, ftsFields_of_ftsRuns h, Bool.not_true, Bool.false_eq_true, if_false]
  rfl

theorem slotBegun_pageFrame (s : State) (n o : Nat) : PageFrame s (s.slotBegun n o) :=
  ((setRaw_pageFrame ..).trans (setRaw_pageFrame ..)).trans (setRaw_pageFrame ..)

theorem raw_slotBegun (s : State) (n o : Nat) : (s.slotBegun n o).raw n (o + 8) = 0 ∧ (s.slotBegun n o).raw n (o + 16) = 0 := by
  unfold State.slotBegun
  exact ⟨by rw [raw_setRaw_other _ _ _ _ _ _ (.inr (by omega)), raw_setRaw_same], raw_setRaw_same ..⟩

theorem fld_slotBegun (s : State) (n : Nat) {o : Nat} (ho : o < 0x400) (lo k : Nat) :
    (s.slotBegun n o).fld n o lo k = (s.setFld n o 0 2 (s.fld n o 2 2)).fld n o lo k := by
  unfold State.slotBegun
  rw [fld_setRaw_other _ _ _ _ _ ho (by omega), fld_setRaw_other _ _ _ _ _ ho (by omega)]

/-- The fallback test: the slot is in predicted mode and missed more than its share of the active values. -/
def State.fallsBack (s : State) (n o : Nat) : Prop :=
  s.fld n o 0 2 = 1 ∧ (s.raw n 0x130).toNat * s.fld n o 8 16 < (s.raw n 0x138).toNat * 65536

theorem close_falls_back (h : FtsRuns s t 7 x) (hfall : s.fallsBack (ftsPage t) (slotOff x.slot)) : exec (.close t) s =
    .next ((((s.setFld (ftsPage t) (slotOff x.slot) 2 2 2).event (ftsPage t) 4).count (ftsPage t) 11).ftsDone t []) := by
  show execClose t s = _
  unfold State.fallsBack at hfall
  simp only [execClose, ftsDue_of_ftsRuns h, ftsFields_of_ftsRuns h, Bool.not_true, Bool.false_eq_true, if_false]
  rw [if_pos hfall]

theorem close_keeps (h : FtsRuns s t 7 x) (hfall : ¬ s.fallsBack (ftsPage t) (slotOff x.slot)) : exec (.close t) s = .next (s.ftsDone t []) := by
  show execClose t s = _
  unfold State.fallsBack at hfall
  simp only [execClose, ftsDue_of_ftsRuns h, ftsFields_of_ftsRuns h, Bool.not_true, Bool.false_eq_true, if_false]
  rw [if_neg hfall]

/-! ## FTS_COMPLETE (R171) -/

theorem write_congr {ti ti' : Tile} (h : BytesSame ti ti') (rf : Bool) (a : Nat) (d : List Byte) :
    BytesSame (ti.write rf a d) (ti'.write rf a d) := fun b => by
  obtain ⟨hstore, hrf⟩ := h b
  cases rf
  case false => exact ⟨by simp only [Tile.write, Bool.false_eq_true, if_false, get_putBytes, hstore], hrf⟩
  case true => exact ⟨hstore, by simp only [Tile.write, if_true, get_putBytes, hrf]⟩

theorem foldl_write_congr (ws : List LWrite) : ∀ {ti ti' : Tile}, BytesSame ti ti' →
    BytesSame (ws.foldl (fun ti w => ti.write w.rf w.addr w.data) ti) (ws.foldl (fun ti w => ti.write w.rf w.addr w.data) ti') := by
  induction ws with
  | nil => exact fun h => h
  | cons w ws ih => exact fun h => ih (write_congr h w.rf w.addr w.data)

/-- The writes become visible and the Footstool is free. -/
def Tile.ftsFreed (ti : Tile) (ws : List LWrite) : Tile := ws.foldl (fun ti w => ti.write w.rf w.addr w.data) { ti with fts := none }

theorem ftsFreed_eq (ti : Tile) (ws : List LWrite) : (∃ st r, ti.ftsFreed ws = { ti with fts := none, store := st, rf := r })
    ∧ BytesSame (ws.foldl (fun ti w => ti.write w.rf w.addr w.data) ti) (ti.ftsFreed ws) :=
  ⟨foldl_write_eq ws { ti with fts := none }, foldl_write_congr ws (bytesSame_of_eq rfl rfl)⟩

/-- The tile is freed, and RESULT says whether its operation was refused. -/
def State.ftsFreed (s : State) (t : Nat) (ws : List LWrite) (refused : Bool) : State :=
  (s.modTile t fun ti => ti.ftsFreed ws).setFld (ftsPage t) 0x140 34 1 (flag refused)

/-- A completion is counted by its operation, a refused one on its own. -/
def State.ftsCounted (s : State) (t : Nat) (refused : Bool) : State :=
  if refused then (s.event (ftsPage t) 5).count (ftsPage t) 12 else s.count (ftsPage t) (s.ftsF t 0x100 0 4 - 1)

/-- The signal of a completion, where CMD asks for one (R80). -/
def State.ftsSignalled (s : State) (t : Nat) : State := if s.ftsF t 0x100 8 1 = 1 then s.signal t (s.ftsF t 0x100 9 5) else s

theorem ftsComplete_completes {r : Bool} {ws : List LWrite} (hw : Works s t)
    (hfts : (s.tile t).fts = some { done := true, refused := r, writes := ws }) :
    exec (.ftsComplete t) s = .next ((((s.ftsFreed t ws r).ftsCounted t r).ftsSignalled t).drained (ftsPage t)) := by
  show execFtsComplete t s = _
  simp only [execFtsComplete, tileRuns_of_Works hw, hfts, Bool.not_true, Bool.false_eq_true, if_false]
  rfl

theorem ftsCounted_frame (s : State) (t : Nat) (r : Bool) : PageFrame s (s.ftsCounted t r) ∧ WordsSame s (s.ftsCounted t r) := by
  unfold State.ftsCounted
  split
  · exact ⟨(event_pageFrame ..).trans (count_pageFrame ..), (event_wordsSame _ _).trans (count_wordsSame _ _ _ _ _)⟩
  · exact ⟨count_pageFrame .., count_wordsSame _ _ _ _ _⟩

theorem signal_wordsSame (s : State) (t k : Nat) : WordsSame s (s.signal t k) := by
  unfold State.signal
  dsimp only
  split
  · exact (event_wordsSame _ _).trans (contained_wordsSame _ _ _)
  · exact .refl s

theorem drained_wordsSame (s : State) (n : Nat) : WordsSame s (s.drained n) := by
  unfold State.drained
  split
  · refine WordsSame.trans (s₁ := s.modPage n _) (fun m => ?_) (event_wordsSame n 3)
    by_cases hm : m = n
    · subst hm; simp
    · simp [hm]
  · exact .refl s

theorem tile_ftsSignalled (s : State) (t : Nat) : ∃ ks, (s.ftsSignalled t).tile t = { s.tile t with k := ks }
    ∧ (∀ i, ((s.ftsSignalled t).tile t).tok i = (s.tile t).tok i
        + if s.fld (ftsPage t) 0x100 8 1 = 1 ∧ i = s.fld (ftsPage t) 0x100 9 5 ∧ (s.tile t).tok i < 0xFFFF then 1 else 0)
    ∧ TileFrame t s (s.ftsSignalled t) ∧ WordsSame s (s.ftsSignalled t) := by
  unfold State.ftsSignalled State.ftsF
  split
  next h =>
    obtain ⟨ks, htile, htok⟩ := tile_signal s t (s.fld (ftsPage t) 0x100 9 5)
    refine ⟨ks, htile, fun i => ?_, signal_tileFrame .., signal_wordsSame _ _ _⟩
    rw [htok]
    simp only [h, true_and]
  next h => exact ⟨_, rfl, fun i => by rw [if_neg fun hi => h hi.1]; rfl, .refl s, .refl s⟩

/-- What a completed operation leaves. -/
theorem ftsComplete_leaves {r : Bool} {ws : List LWrite} (hw : Works s t)
    (hfts : (s.tile t).fts = some { done := true, refused := r, writes := ws }) : Answers (.ftsComplete t) s fun s' =>
    (s'.tile t).fts = none ∧ s'.fld (ftsPage t) 0x140 34 1 = (if r then 1 else 0)
    ∧ BytesSame (ws.foldl (fun ti w => ti.write w.rf w.addr w.data) (s.tile t)) (s'.tile t)
    ∧ (∀ k, (s'.tile t).tok k = (s.tile t).tok k
        + (if s.fld (ftsPage t) 0x100 8 1 = 1 ∧ k = s.fld (ftsPage t) 0x100 9 5 ∧ (s.tile t).tok k < 0xFFFF then 1 else 0))
    ∧ (∀ i, (s'.tile t).reg i = (s.tile t).reg i) ∧ TileFrame t s s' := by
  obtain ⟨⟨st, rf, htile₁⟩, hbytes⟩ := ftsFreed_eq (s.tile t) ws
  have hfreed : (s.ftsFreed t ws r).tile t = (s.tile t).ftsFreed ws :=
    ((setRaw_pageFrame ..).1 t).trans (tile_modTile_same ..)
  have hframe₁ : TileFrame t s (s.ftsFreed t ws r) := (modTile_tileFrame ..).trans (setRaw_pageFrame ..).tileFrame
  have hresult : (s.ftsFreed t ws r).fld (ftsPage t) 0x140 34 1 = flag r := by
    rw [State.ftsFreed, fld_setFld_same _ _ _ _ _ (by decide) (by decide)]
    cases r <;> rfl
  have hcmd (lo k : Nat) : (s.ftsFreed t ws r).fld (ftsPage t) 0x100 lo k = s.fld (ftsPage t) 0x100 lo k :=
    fld_setRaw_other _ _ _ _ _ (by decide) (by decide)
  obtain ⟨hframe₂, hwords₂⟩ := ftsCounted_frame (s.ftsFreed t ws r) t r
  obtain ⟨ks, htile₃, htok, hframe₃, hwords₃⟩ := tile_ftsSignalled ((s.ftsFreed t ws r).ftsCounted t r) t
  refine ⟨_, ftsComplete_completes hw hfts, ?_⟩
  dsimp only
  rw [tile_drained, fld_of_words ((hwords₂.trans (hwords₃.trans (drained_wordsSame _ _))) (ftsPage t)).1, hresult]
  rw [hframe₂.1 t, hfreed] at htile₃ htok
  simp only [fld_of_words (hwords₂ (ftsPage t)).1, hcmd] at htok
  refine ⟨?fts, ?result, ?bytes, fun k => ?tok, fun i => ?reg,
    ((hframe₁.trans hframe₂.tileFrame).trans hframe₃).trans (drained_pageFrame ..).tileFrame⟩
  case fts => rw [htile₃, htile₁]
  case result => rfl
  case bytes => rw [htile₃]; exact hbytes
  case tok => rw [htok, htile₁]; rfl
  case reg => rw [htile₃, htile₁]; rfl

/-- Settles O20: the counts of an audit, the two ends of a step for a slot, and the completion of an operation. -/
theorem footstoolSlots : Obligations.FootstoolSlots := by
  intro s t x o ho
  replace ho : o = slotOff x.slot := ho
  subst ho
  refine ⟨fun h hrf hvalid hcols => ?audit, fun h => ?begin, fun h hmode hmissed => ?fallback, fun h hfall => ?close,
    fun r ws hw hfts => ftsComplete_leaves hw hfts⟩
  case audit =>
    refine ⟨_, audit_counts h hrf hvalid hcols, auditCols s t x, fun c => ?_, ?_, ?_, ?_⟩
    · rw [auditCols, List.mem_filter, List.mem_range]
    · rw [raw_ftsDone, (raw_auditCounted ..).1]
      rfl
    · rw [raw_ftsDone, (raw_auditCounted ..).2]
      rfl
    · exact ftsDone_of_pageFrame ((setRaw_pageFrame ..).trans (setRaw_pageFrame ..)) []
  case begin =>
    have ho := slotOff_lt (slot_lt_of_ftsRuns h)
    obtain ⟨hactive, hmissed⟩ := raw_slotBegun s (ftsPage t) (slotOff x.slot)
    refine ⟨_, begin_begins h, ?_, hactive, hmissed, ?_, ftsDone_of_pageFrame (slotBegun_pageFrame ..) []⟩
    · rw [fld_ftsDone, fld_slotBegun _ _ ho, fld_setFld_same _ _ _ _ _ ho (by decide), Nat.mod_eq_of_lt (fld_lt ..)]
    · rw [fld_ftsDone, fld_slotBegun _ _ ho, fld_setFld_other _ _ _ _ _ _ _ ho (by decide) (by decide)]
  case fallback =>
    have ho := slotOff_lt (slot_lt_of_ftsRuns h)
    refine ⟨_, close_falls_back h ⟨hmode, hmissed⟩, ?_, ?_, ftsDone_of_pageFrame (((setRaw_pageFrame ..).trans (event_pageFrame ..)).trans
      (count_pageFrame ..)) []⟩
    · rw [fld_ftsDone, fld_count, fld_event, fld_setFld_same _ _ _ _ _ ho (by decide)]
      rfl
    · exact (congrArg (fun p : BitVec 48 => p.getLsbD 4) (page_count_cause ..)).trans (event_raised _ 4 (by decide))
  case close =>
    exact ⟨_, close_keeps h hfall, rfl, .refl s, ftsDone_of_pageFrame (.refl s) []⟩

end Sys2Proof.Machine
end

section
/-! The selection of SELECT (R173): which neurons it chooses, and which others it lists for the audit. -/

namespace Sys2Proof.Machine

open Sys2Proof Sys2Proof.Spec

variable {x : FtsF} {g : Nat → Num} {scores : List Num} {mode shift : Nat}

/-! ## The order of scores (R52, R173) -/

theorem dy_lt_irrefl (d : Dy) : d.lt d = false := by
  rw [Dy.lt, decide_eq_false_iff_not, Dy.sub, Dy.add]
  by_cases hm : d.m = 0 <;> simp [Dy.neg, hm]

theorem num_lt_irrefl (a : Num) : a.lt a = false := by
  cases a with
  | nan => rfl
  | inf n => cases n <;> rfl
  | fin n d => exact dy_lt_irrefl _

/-! ## Predicted mode (R173) -/

/-- The neurons whose scores pass the threshold. -/
def passing (x : FtsF) (g : Nat → Num) : List Nat := (List.range x.f).filter fun n => passes x (g n)

/-- Score m goes before score n. -/
def goesBefore (g : Nat → Num) (m n : Nat) : Bool := (g n).lt (g m) || ((g m).eq (g n) && decide (m < n))

/-- The passing neurons whose scores go before that of neuron n. -/
def ahead (x : FtsF) (g : Nat → Num) (n : Nat) : List Nat := (List.range x.f).filter fun m => passes x (g m) && goesBefore g m n

theorem goesBefore_irrefl (g : Nat → Num) (n : Nat) : goesBefore g n n = false := by simp [goesBefore, num_lt_irrefl]

theorem mem_passing (n : Nat) : n ∈ passing x g ↔ n < x.f ∧ passes x (g n) = true := by rw [passing, List.mem_filter, List.mem_range]

theorem passing_length_le (x : FtsF) (g : Nat → Num) : (passing x g).length ≤ x.f :=
  (List.length_filter_le ..).trans_eq List.length_range

theorem ahead_eq (n : Nat) : ahead x g n = (passing x g).filter fun m => goesBefore g m n := by
  rw [passing, List.filter_filter]
  exact List.filter_congr fun m _ => Bool.and_comm ..

/-- A passing neuron does not go before itself. -/
theorem ahead_length_lt {n : Nat} (hn : n ∈ passing x g) : (ahead x g n).length < (passing x g).length := by
  rw [ahead_eq]
  refine List.length_filter_lt_length_iff_exists.2 ⟨n, hn, ?_⟩
  simp [goesBefore_irrefl]

/-- The cap: TOPK, or all where it is 0. -/
def capOf (x : FtsF) : Nat := if x.topk = 0 then x.f else min x.topk x.f

/-- Whether the cap bound. -/
def capBinds (x : FtsF) (g : Nat → Num) : Bool := decide (x.topk ≠ 0 ∧ min x.topk x.f < (passing x g).length)

/-- The selection of predicted mode. -/
def predicted (x : FtsF) (g : Nat → Num) : List Nat :=
  if capBinds x g then (passing x g).filter fun n => decide ((ahead x g n).length < min x.topk x.f) else passing x g

/-- Where the cap does not bind, every passing neuron has fewer ahead of it than the cap. -/
theorem ahead_lt_cap (hcap : capBinds x g = false) {n : Nat} (hn : n ∈ passing x g) : (ahead x g n).length < capOf x := by
  have hlt := ahead_length_lt hn
  have hle := passing_length_le x g
  rw [capBinds, decide_eq_false_iff_not] at hcap
  unfold capOf
  split <;> omega

theorem mem_predicted (n : Nat) : n ∈ predicted x g ↔ n < x.f ∧ passes x (g n) = true ∧ (ahead x g n).length < capOf x := by
  unfold predicted
  rw [← and_assoc, ← mem_passing]
  cases hcap : capBinds x g with
  | false => exact ⟨fun hn => ⟨hn, ahead_lt_cap hcap hn⟩, And.left⟩
  | true =>
    have htopk : x.topk ≠ 0 := (of_decide_eq_true hcap).1
    rw [if_pos rfl, List.mem_filter, decide_eq_true_eq, capOf, if_neg htopk]

/-! ## The selection of a mode -/

section scores

variable (hg : ∀ n, n < x.f → scores.getD n .nan = g n)
include hg

theorem passing_of_scores : ((List.range x.f).filter fun n => passes x (scores.getD n .nan)) = passing x g :=
  List.filter_congr fun n hn => by rw [hg n (List.mem_range.1 hn)]

theorem ahead_of_scores {n : Nat} (hn : n < x.f) : ((passing x g).filter fun m => beats scores m n) = ahead x g n := by
  rw [ahead_eq]
  refine List.filter_congr fun m hm => ?_
  rw [beats, hg n hn, hg m ((mem_passing m).1 hm).1]
  rfl

theorem selectFrom_predicted : selectFrom x 1 shift scores =
    (predicted x g, (List.range x.f).filter fun n => audited 1 shift x.phase n && !(predicted x g).contains n, capBinds x g) := by
  have hsel : ((passing x g).filter fun n => decide (((passing x g).filter fun m => beats scores m n).length < min x.topk x.f))
      = (passing x g).filter fun n => decide ((ahead x g n).length < min x.topk x.f) :=
    List.filter_congr fun n hn => by rw [ahead_of_scores hg ((mem_passing n).1 hn).1]
  simp only [selectFrom, passing_of_scores hg, hsel]
  rfl

/-- The neurons that a mode selects. -/
theorem mem_selected (hmode : mode ≤ 2) (n : Nat) : n ∈ (selectFrom x mode shift scores).1 ↔ n < x.f ∧ (mode = 0
    ∨ (mode = 1 ∧ passes x (g n) = true ∧ (ahead x g n).length < capOf x)
    ∨ (mode = 2 ∧ (Num.fin false {}).lt (g n) = true)) := by
  obtain rfl | rfl | rfl : mode = 0 ∨ mode = 1 ∨ mode = 2 := by omega
  · simp [selectFrom]
  · rw [selectFrom_predicted hg, mem_predicted]
    simp
  · have hmem : n ∈ (selectFrom x 2 shift scores).1 ↔ n < x.f ∧ (Num.fin false {}).lt (scores.getD n .nan) = true :=
      List.mem_filter.trans (and_congr_left' List.mem_range)
    rw [hmem]
    refine and_congr_right fun hn => ?_
    rw [hg n hn]
    simp

/-- The neurons that only the audit lists: those due in predicted mode that are not selected. -/
theorem mem_auditOnly (hmode : mode ≤ 2) (n : Nat) : n ∈ (selectFrom x mode shift scores).2.1 ↔
    n < x.f ∧ n ∉ (selectFrom x mode shift scores).1 ∧ audited mode shift x.phase n = true := by
  obtain rfl | rfl | rfl : mode = 0 ∨ mode = 1 ∨ mode = 2 := by omega
  · simp [selectFrom, audited]
  · rw [selectFrom_predicted hg, List.mem_filter, List.mem_range]
    simp [and_comm]
  · simp [selectFrom, audited]

end scores

/-- Both lists hold a neuron once. -/
theorem selectFrom_nodup (x : FtsF) (mode shift : Nat) (scores : List Num) :
    (selectFrom x mode shift scores).1.Nodup ∧ (selectFrom x mode shift scores).2.1.Nodup := by
  have hrange : (List.range x.f).Nodup := List.nodup_range
  unfold selectFrom
  split
  · exact ⟨hrange, .nil⟩
  · split
    · refine ⟨?_, hrange.filter _⟩
      dsimp only
      split
      · exact (hrange.filter _).filter _
      · exact hrange.filter _
    · exact ⟨hrange.filter _, .nil⟩

/-- A list of different neurons is no longer than F. -/
theorem length_le_of_nodup {ns : List Nat} {k : Nat} (hnodup : ns.Nodup) (hlt : ∀ n ∈ ns, n < k) : ns.length ≤ k :=
  (List.subperm_of_subset hnodup fun n hn => List.mem_range.2 (hlt n hn)).length_le.trans_eq List.length_range

/-- Selected and audited neurons together are no more than F. -/
theorem selectFrom_length (hmode : mode ≤ 2) : (selectFrom x mode shift scores).1.length + (selectFrom x mode shift scores).2.1.length ≤ x.f := by
  have hg : ∀ n, n < x.f → scores.getD n .nan = scores.getD n .nan := fun _ _ => rfl
  obtain ⟨hsel, haud⟩ := selectFrom_nodup x mode shift scores
  have hdisj : (selectFrom x mode shift scores).1.Disjoint (selectFrom x mode shift scores).2.1 := fun n hs ha =>
    ((mem_auditOnly hg hmode n).1 ha).2.1 hs
  rw [← List.length_append]
  refine length_le_of_nodup (hsel.append haud hdisj) fun n hn => ?_
  obtain hn | hn := List.mem_append.1 hn
  · exact ((mem_selected hg hmode n).1 hn).1
  · exact ((mem_auditOnly hg hmode n).1 hn).1

end Sys2Proof.Machine
end

section
/-! CLEAR, ACC, SELECT and EXPAND (R172, R173, R176, R180): O19. -/

namespace Sys2Proof.Machine

open Sys2Proof Sys2Proof.Spec

variable {s : State} {t : Fin 192} {x : FtsF}

/-! ## Checks that pass -/

theorem storeBad_false {a n : Nat} (ha : a % 32 = 0) (h : a + n ≤ storeBytes) : storeBad a n = false := by
  simp [storeBad, ha, h]

theorem fBad_false (hpos : 0 < x.f) (hle : x.f ≤ 32768) : fBad x = false := by
  rw [fBad, decide_eq_false_iff_not]
  omega

/-! ## CLEAR (R172) -/

/-- The last selection is no longer valid. -/
def State.unselected (s : State) (t : Nat) : State :=
  (s.selected t { (s.tile t).sel with valid := false }).setFld (ftsPage t) 0x140 32 1 0

theorem unselected_pageFrame (s : State) (t : Nat) : PageFrame (s.selected t { (s.tile t).sel with valid := false }) (s.unselected t) :=
  setRaw_pageFrame ..

theorem clear_clears (h : FtsRuns s t 1 x) (hgs : storeBad x.gs (4 * x.f) = false) (hf : fBad x = false) : exec (.clear t) s =
    .next ((s.unselected t).ftsDone t [{ rf := false, addr := x.gs, data := (List.replicate x.f (toBytes 4 0xFF800000)).flatten }]) := by
  have hcode : firstCode [(storeBad x.gs (4 * x.f), 0x061), (fBad x, 0x062)] = none := by simp [firstCode, hgs, hf]
  show execClear t s = _
  simp only [execClear, ftsDue_of_ftsRuns h, ftsFields_of_ftsRuns h, hcode, Bool.not_true, Bool.false_eq_true, if_false]
  rfl

/-! ## ACC (R172) -/

/-- Rows folded into scores, column by column. -/
def foldRows (abs : Bool) (gs : List Num) (rows : List (List Num)) : List Num := rows.foldl (fun g r => List.zipWith (accOne abs) g r) gs

theorem foldRows_columns (abs : Bool) {k : Nat} (rows : List (List Num)) (hrows : ∀ r ∈ rows, r.length = k) : ∀ gs : List Num, gs.length = k →
    (foldRows abs gs rows).length = k ∧ ∀ c, c < k →
      (foldRows abs gs rows).getD c .nan = (rows.map fun r => r.getD c .nan).foldl (accOne abs) (gs.getD c .nan) := by
  induction rows with
  | nil => exact fun gs hgs => ⟨hgs, fun _ _ => rfl⟩
  | cons r rows ih =>
    intro gs hgs
    have hr : r.length = k := hrows r List.mem_cons_self
    obtain ⟨hlen, hcol⟩ := ih (fun r' hr' => hrows r' (List.mem_cons_of_mem r hr')) (List.zipWith (accOne abs) gs r) (by simp [hgs, hr])
    refine ⟨hlen, fun c hc => (hcol c hc).trans ?_⟩
    have hstep : (List.zipWith (accOne abs) gs r).getD c .nan = accOne abs (gs.getD c .nan) (r.getD c .nan) := by
      simp [List.getD_eq_getElem?_getD, hgs, hr, hc]
    rw [hstep]
    rfl

/-- The group scores that ACC writes. -/
def accScores (s : State) (t : Nat) (x : FtsF) : List Num :=
  foldRows x.abs ((List.range x.cols).map fun k => groupScore (s.tile t) x.gs (x.coff + k)) (s.scoreRows t x x.rows).1

theorem accScores_columns (s : State) (t : Nat) (x : FtsF) : (accScores s t x).length = x.cols ∧ ∀ c, c < x.cols →
    (accScores s t x).getD c .nan =
      ((s.scoreRows t x x.rows).1.map fun r => r.getD c .nan).foldl (accOne x.abs) (groupScore (s.tile t) x.gs (x.coff + c)) := by
  obtain ⟨hlen, hcol⟩ := foldRows_columns x.abs _ (scoreRows_row_length s t x x.rows)
    ((List.range x.cols).map fun k => groupScore (s.tile t) x.gs (x.coff + k)) (by simp)
  refine ⟨hlen, fun c hc => (hcol c hc).trans ?_⟩
  simp [List.getD_eq_getElem?_getD, hc]

/-- Beside its scores ACC only counts NaNs. -/
theorem acc_folds (h : FtsRuns s t 2 x) (hgs : storeBad x.gs (4 * x.f) = false) (hf : fBad x = false) (hrf : rfBad x = false)
    (hcols : x.coff + x.cols ≤ x.f) : ∃ s₁, PageFrame s s₁ ∧
      exec (.acc t .clean) s = .next (s₁.ftsDone t [{ rf := false, addr := x.gs + 4 * x.coff, data := f32Bytes (accScores s t x) }]) := by
  have hpos := cols_pos_of_ftsRuns h
  have hin : ¬ x.f ≤ x.coff + x.cols - 1 := by omega
  have hcode : firstCode [(storeBad x.gs (4 * x.f) || rfBad x, 0x061), (fBad x || decide (x.f ≤ x.coff + x.cols - 1), 0x062)] = none := by
    simp [firstCode, hgs, hf, hrf, hin]
  have hframe (nans : Nat) : PageFrame s (if x.abs then s else s.count (ftsPage t) 9 none nans) := by
    split
    · exact .refl s
    · exact count_pageFrame ..
  refine ⟨_, hframe ((s.scoreRows t x x.rows).1.map fun r => (r.filter Num.isNan).length).sum, ?_⟩
  show execAcc t .clean s = _
  simp only [execAcc, ftsDue_of_ftsRuns h, ftsFields_of_ftsRuns h, hcode, State.eccTile, scoreRows_state h, groupScores_eq h, Bool.not_true,
    Bool.false_eq_true, if_false]
  rfl

/-! ## RESULT (R173, R180) -/

theorem setResult_pageFrame (s : State) (t nsel naud : Nat) (capped : Bool) : PageFrame s (s.setResult t nsel naud capped) := setRaw_pageFrame ..

theorem fld_setResult (s : State) (t : Nat) {nsel naud : Nat} (capped : Bool) (h : nsel + naud ≤ 32768) :
    (s.setResult t nsel naud capped).fld (ftsPage t) 0x140 0 16 = nsel % 2 ^ 16
      ∧ (s.setResult t nsel naud capped).fld (ftsPage t) 0x140 32 1 = 1 := by
  have hflag : flag capped ≤ 1 := by cases capped <;> decide
  have hword : (BitVec.ofNat 64 (nsel + naud * 2 ^ 16 + 2 ^ 32 + flag capped * 2 ^ 33)).toNat
      = nsel + naud * 2 ^ 16 + 2 ^ 32 + flag capped * 2 ^ 33 := by
    rw [BitVec.toNat_ofNat]
    omega
  rw [State.setResult, fld_setRaw_same _ _ _ _ _ (by decide), fld_setRaw_same _ _ _ _ _ (by decide), bits, bits, hword]
  omega

/-! ## SELECT (R173, R176) -/

/-- What SELECT finds: the neurons it selects, those that it lists for the audit only, and whether the cap bound. -/
def State.selection (s : State) (t : Nat) (x : FtsF) : List Nat × List Nat × Bool :=
  selectFrom x (s.slotMode t x.slot) (s.auditShift t x.slot) ((List.range x.f).map fun k => groupScore (s.tile t) x.gs k)

/-- Where every group score is g, what SELECT finds is what R173 says. -/
theorem selection_found {g : Nat → Num} {mode : Nat} (hg : ∀ n, g n = groupScore (s.tile t) x.gs n) (hmode : mode = s.slotMode t x.slot) :
    ∃ sel aud capped, s.selection t x = (sel, aud, capped) ∧ sel.length + aud.length ≤ x.f
      ∧ (∀ n, n ∈ sel ↔ n < x.f ∧ (mode = 0 ∨ (mode = 1 ∧ passes x (g n) = true ∧ (ahead x g n).length < capOf x)
          ∨ (mode = 2 ∧ (Num.fin false {}).lt (g n) = true)))
      ∧ ∀ n, n ∈ aud ↔ n < x.f ∧ n ∉ sel ∧ audited mode (s.auditShift t x.slot) x.phase n = true := by
  have hscores : ∀ n, n < x.f → ((List.range x.f).map fun k => groupScore (s.tile t) x.gs k).getD n .nan = g n := fun n hn => by
    simp [List.getD_eq_getElem?_getD, hn, hg n]
  have hle : mode ≤ 2 := hmode.trans_le (Nat.min_le_left ..)
  unfold State.selection
  rw [← hmode]
  exact ⟨_, _, _, rfl, selectFrom_length hle, mem_selected hscores hle, mem_auditOnly hscores hle⟩

/-- The selection that a SELECT keeps. -/
def selectionOf (sel aud : List Nat) : Selection := { valid := true, list := sel ++ aud, s := sel.length, a := aud.length }

/-- The selection, RESULT and the counters of a SELECT. -/
def State.chosen (s : State) (t : Nat) (sel aud : List Nat) (capped : Bool) : State :=
  let s := (((s.selected t (selectionOf sel aud)).setResult t sel.length aud.length capped).count (ftsPage t) 7 none sel.length).count
    (ftsPage t) 8 none aud.length
  if capped then s.count (ftsPage t) 10 else s

theorem chosen_pageFrame (s : State) (t : Nat) (sel aud : List Nat) (capped : Bool) :
    PageFrame (s.selected t (selectionOf sel aud)) (s.chosen t sel aud capped) := by
  have hcounted := ((setResult_pageFrame (s.selected t (selectionOf sel aud)) t sel.length aud.length capped).trans
    (count_pageFrame _ (ftsPage t) 7 none sel.length)).trans (count_pageFrame _ (ftsPage t) 8 none aud.length)
  unfold State.chosen
  dsimp only
  split
  · exact hcounted.trans (count_pageFrame ..)
  · exact hcounted

theorem fld_chosen (s : State) (t : Nat) (sel aud : List Nat) (capped : Bool) (n o lo w : Nat) :
    (s.chosen t sel aud capped).fld n o lo w = ((s.selected t (selectionOf sel aud)).setResult t sel.length aud.length capped).fld n o lo w := by
  unfold State.chosen
  dsimp only
  split <;> simp only [fld_count]

theorem select_selects (h : FtsRuns s t 3 x) (hf : fBad x = false) (hgs : storeBad x.gs (4 * x.f) = false)
    (hmask : storeBad x.mask ((x.f + 255) / 256 * 32) = false) {sel aud : List Nat} {capped : Bool} (hsel : s.selection t x = (sel, aud, capped))
    (hlist : storeBad x.list (4 * (sel.length + aud.length)) = false) : exec (.select t) s =
      .next ((s.chosen t sel aud capped).ftsDone t
        [{ rf := false, addr := x.list, data := listBytes (sel ++ aud) }, { rf := false, addr := x.mask, data := maskBytes x.f sel }]) := by
  have hscores : s.groupScores t x.gs 0 x.f = ((List.range x.f).map fun k => groupScore (s.tile t) x.gs k, s) := by
    simp only [groupScores_eq h, Nat.zero_add]
  unfold State.selection at hsel
  show execSelect t s = _
  simp only [execSelect, ftsDue_of_ftsRuns h, ftsFields_of_ftsRuns h, hf, hscores, hsel, hgs, hmask, hlist, Bool.not_true, Bool.or_self,
    Bool.false_eq_true, if_false]
  rfl

/-! ## EXPAND (R180) -/

/-- The neurons of a mask record. -/
def maskNeurons (ti : Tile) (x : FtsF) : List Nat :=
  (List.range x.f).filter fun n => ((ti.bytes false x.mask ((x.f + 7) / 8)).getD (n / 8) 0).getLsbD (n % 8)

theorem mem_maskNeurons (ti : Tile) (n : Nat) : n ∈ maskNeurons ti x ↔
    n < x.f ∧ (Tab.get 0 ti.store (x.mask + n / 8)).getLsbD (n % 8) = true := by
  rw [maskNeurons, List.mem_filter, List.mem_range]
  refine and_congr_right fun hn => ?_
  have hbyte : (ti.bytes false x.mask ((x.f + 7) / 8)).getD (n / 8) 0 = Tab.get 0 ti.store (x.mask + n / 8) := by
    have hlt : n / 8 < (x.f + 7) / 8 := by omega
    simp [Tile.bytes, getBytes, List.getD_eq_getElem?_getD, hlt]
  rw [hbyte]

theorem maskNeurons_length_le (ti : Tile) (x : FtsF) : (maskNeurons ti x).length ≤ x.f :=
  (List.length_filter_le ..).trans_eq List.length_range

/-- The selection that an EXPAND keeps. -/
def maskSelection (sel : List Nat) : Selection := { valid := true, list := sel, s := sel.length, a := 0 }

/-- The selection and RESULT of an EXPAND. -/
def State.expanded (s : State) (t : Nat) (sel : List Nat) : State := (s.selected t (maskSelection sel)).setResult t sel.length 0 false

theorem expanded_pageFrame (s : State) (t : Nat) (sel : List Nat) : PageFrame (s.selected t (maskSelection sel)) (s.expanded t sel) :=
  setResult_pageFrame ..

theorem expand_lists (h : FtsRuns s t 4 x) (hf : fBad x = false) (hmask : storeBad x.mask ((x.f + 7) / 8) = false) {sel : List Nat}
    (hsel : maskNeurons (s.tile t) x = sel) (hlist : storeBad x.list (4 * sel.length) = false) : exec (.expand t) s =
      .next ((s.expanded t sel).ftsDone t [{ rf := false, addr := x.list, data := listBytes sel }]) := by
  subst hsel
  unfold maskNeurons at *
  show execExpand t s = _
  simp only [execExpand, ftsDue_of_ftsRuns h, ftsFields_of_ftsRuns h, hf, localRead_of_ftsRuns h, hmask, hlist, Bool.not_true, Bool.or_self,
    Bool.false_eq_true, if_false]
  rfl

/-- Settles O19, operation by operation. -/
theorem footstoolScores : Obligations.FootstoolScores := by
  intro s t x hpos hle hgs hlist hmask
  have hf := fBad_false hpos hle
  refine ⟨fun h hend => ?clear, fun h hend hrf hcols => ?acc, fun g mode cap h hgsEnd hmaskEnd hlistEnd hg hmode hcap => ?select,
    fun h hmaskEnd hlistEnd => ?expand⟩
  case clear =>
    obtain ⟨hsel, hdone⟩ := ftsDone_selects (unselected_pageFrame s t)
      [{ rf := false, addr := x.gs, data := (List.replicate x.f (toBytes 4 0xFF800000)).flatten }]
    refine ⟨_, clear_clears h (storeBad_false hgs hend) hf, hdone, congrArg Selection.valid hsel, ?_⟩
    rw [fld_ftsDone, State.unselected, fld_setFld_same _ _ _ _ _ (by decide) (by decide)]
    rfl
  case acc =>
    obtain ⟨s₁, hframe, hrun⟩ := acc_folds h (storeBad_false hgs hend) hf hrf hcols
    obtain ⟨hlen, hcol⟩ := accScores_columns s t x
    exact ⟨_, hrun, _, hlen, hcol, ftsDone_of_pageFrame hframe _⟩
  case select =>
    obtain ⟨sel, aud, capped, hfound, hlen, hsel, haud⟩ := selection_found hg hmode
    obtain ⟨hkept, hdone⟩ := ftsDone_selects (chosen_pageFrame s t sel aud capped)
      [{ rf := false, addr := x.list, data := listBytes (sel ++ aud) }, { rf := false, addr := x.mask, data := maskBytes x.f sel }]
    obtain ⟨hcount, hvalid⟩ := fld_setResult (s.selected t (selectionOf sel aud)) t capped (hlen.trans hle)
    refine ⟨_, select_selects h hf (storeBad_false hgs hgsEnd) (storeBad_false hmask hmaskEnd) hfound (storeBad_false hlist (by omega)), sel, aud,
      hkept, fun n => ?_, haud, ?_, ?_, hdone⟩
    · rw [hsel n, hcap]
      rfl
    · rw [fld_ftsDone, fld_chosen, hcount]
    · rw [fld_ftsDone, fld_chosen, hvalid]
  case expand =>
    have hlen := maskNeurons_length_le (s.tile t) x
    obtain ⟨hkept, hdone⟩ := ftsDone_selects (expanded_pageFrame s t (maskNeurons (s.tile t) x))
      [{ rf := false, addr := x.list, data := listBytes (maskNeurons (s.tile t) x) }]
    exact ⟨_, expand_lists h hf (storeBad_false hmask hmaskEnd) rfl (storeBad_false hlist (by omega)), _, hkept, mem_maskNeurons _, hdone⟩

end Sys2Proof.Machine
end

section
/-! ROUTE, CLRCNT and ROUTE_COMPLETE (R185 to R188): O21. -/

namespace Sys2Proof.Machine

open Sys2Proof Sys2Proof.Spec

variable {s s₁ : State} {t : Nat} {o : RouteOp}

/-! ## An operation that runs, and one that has come about -/

theorem routeDue_of_running {op : Nat} (hw : Works s t) (hroute : (s.tile t).route = some o) (hdone : o.done = false) (hop : o.fields.op = op) :
    s.routeDue t op = some o.fields := by
  simp [State.routeDue, hroute, tileRuns_of_Works hw, hdone, hop]

theorem tile_routeEnd (hframe : PageFrame s s₁) (hroute : (s.tile t).route = some o) (f : RouteOp → RouteOp) :
    (s₁.routeEnd t f).tile t = { s.tile t with route := some { f o with done := true } } := by
  rw [State.routeEnd, tile_modTile_same, hframe.1 t, hroute]
  rfl

/-- An operation that has come about holds its writes back (R185). -/
theorem routeEnd_keeps (hframe : PageFrame s s₁) (hroute : (s.tile t).route = some o) (f : RouteOp → RouteOp) :
    BytesSame (s.tile t) ((s₁.routeEnd t f).tile t) ∧ (∀ i, ((s₁.routeEnd t f).tile t).reg i = (s.tile t).reg i)
      ∧ TileFrame t s (s₁.routeEnd t f) := by
  rw [tile_routeEnd hframe hroute]
  exact ⟨bytesSame_of_eq rfl rfl, fun _ => rfl, hframe.tileFrame.trans (modTile_tileFrame ..)⟩

/-! ## ROUTE (R186 to R188) -/

/-- The running operation is alone on its tile, and nothing of the tile waits to be written. -/
def RoutesAlone (ti : Tile) (o : RouteOp) : Prop := ti.route = some o ∧ o.writes = [] ∧ ti.flights = [] ∧ ti.fts = none

theorem localRead_of_routesAlone (h : RoutesAlone (s.tile t) o) (rf : Bool) (a n : Nat) :
    s.localRead t rf a n = ((s.tile t).bytes rf a n, s) := by
  obtain ⟨hroute, hwrites, hflights, hfts⟩ := h
  have hrace : (s.tile t).racing rf a n = [] := by
    simp only [Tile.racing, hroute, hwrites, hflights, hfts, List.flatMap_nil, List.append_nil, List.filterMap_nil]
  rw [State.localRead, hrace]

theorem gateRows_state (h : RoutesAlone (s.tile t) o) (x : RouteF) : ∀ n, (s.gateRows t x n).2 = s
  | 0 => rfl
  | n + 1 => by
    have ih := gateRows_state h x n
    unfold State.gateRows
    generalize s.gateRows t x n = rows at ih
    obtain ⟨rows, s'⟩ := rows
    obtain rfl : s' = s := ih
    simp only [localRead_of_routesAlone h]

/-- The scores of the token rows. -/
def State.gateScores (s : State) (t : Nat) (x : RouteF) : List (List Num) := (s.gateRows t x x.rows).1

/-- The choices of one token row in rank order (R187). -/
def choiceRecs (x : RouteF) (g : List Num) : List Byte :=
  ((ranked g x.kcand).mapIdx fun r e => choiceRec x.kact r e (g.getD e .nan)).flatten

/-- The active choices of all token rows. -/
def activeChoices (x : RouteF) (rows : List (List Num)) : List Nat := rows.flatMap fun g => (ranked g x.kcand).take x.kact

/-- The counts of the experts that some token row has chosen (R188). -/
def countWrites (ti : Tile) (x : RouteF) (active : List Nat) : List LWrite :=
  ((List.range x.e).filter fun e => active.contains e).map fun e =>
    { rf := false, addr := x.cnt + 4 * e,
      data := toBytes 4 (min (2 ^ 32 - 1) (ofBytes (((ti.bytes false x.cnt (4 * x.e)).drop (4 * e)).take 4)
        + (active.filter fun a => decide (a = e)).length)) }

/-- The NaN scores of all token rows (R188). -/
def nanScores (rows : List (List Num)) : Nat := (rows.map fun g => (g.filter Num.isNan).length).sum

/-- Everything a ROUTE is about to write: its choice records, and the counts. -/
def State.routeWrites (s : State) (t : Nat) (x : RouteF) : List LWrite :=
  { rf := false, addr := x.out, data := ((s.gateScores t x).map (choiceRecs x)).flatten } :: countWrites (s.tile t) x (activeChoices x (s.gateScores t x))

theorem activeChoices_count (x : RouteF) (rows : List (List Num)) (e : Nat) : ((activeChoices x rows).filter fun a => decide (a = e)).length
    = (rows.map fun g => (((ranked g x.kcand).take x.kact).filter fun a => decide (a = e)).length).sum := by
  rw [activeChoices, List.filter_flatMap, List.length_flatMap]

/-- A count is the old one raised by the active choices of its expert, up to the largest. -/
theorem mem_countWrites {ti : Tile} {x : RouteF} {rows : List (List Num)} {w : LWrite} (hw : w ∈ countWrites ti x (activeChoices x rows)) :
    w.rf = false ∧ ∃ e, e < x.e ∧ w.addr = x.cnt + 4 * e
      ∧ w.data = toBytes 4 (min (2 ^ 32 - 1) (ofBytes (ti.bytes false (x.cnt + 4 * e) 4)
          + (rows.map fun g => (((ranked g x.kcand).take x.kact).filter fun a => decide (a = e)).length).sum)) := by
  obtain ⟨e, he, rfl⟩ := List.mem_map.1 hw
  have hlt : e < x.e := List.mem_range.1 (List.mem_filter.1 he).1
  refine ⟨rfl, e, hlt, rfl, ?_⟩
  dsimp only
  rw [activeChoices_count, Tile.bytes, Tile.bytes, getBytes_slice _ _ _ _ _ (by omega)]

/-- The code that refuses a ROUTE (R211). -/
def routeCode (x : RouteF) : Option Nat :=
  firstCode [
    (decide (x.kcand < x.kact ∨ x.e < x.kcand), 0x070),
    (decide (rfBytes < x.raddr + (x.rows - 1) * x.stride + x.e * (if x.bf16 then 2 else 4) ∨ x.out % 8 ≠ 0 ∨ storeBytes < x.out + 8 * x.kcand * x.rows
      ∨ x.cnt % 32 ≠ 0 ∨ storeBytes < x.cnt + 4 * x.e), 0x071)]

theorem routeCode_none {x : RouteF} (hact : x.kact ≤ x.kcand) (hcand : x.kcand ≤ x.e)
    (hin : x.raddr + (x.rows - 1) * x.stride + x.e * (if x.bf16 then 2 else 4) ≤ rfBytes) (hout : x.out % 8 = 0)
    (hfits : x.out + 8 * x.kcand * x.rows ≤ storeBytes) (hcnt : x.cnt % 32 = 0) (hcnts : x.cnt + 4 * x.e ≤ storeBytes) : routeCode x = none := by
  have hchosen : ¬ (x.kcand < x.kact ∨ x.e < x.kcand) := by omega
  have hplaced : ¬ (rfBytes < x.raddr + (x.rows - 1) * x.stride + x.e * (if x.bf16 then 2 else 4) ∨ x.out % 8 ≠ 0
      ∨ storeBytes < x.out + 8 * x.kcand * x.rows ∨ x.cnt % 32 ≠ 0 ∨ storeBytes < x.cnt + 4 * x.e) := by
    rw [not_or, not_or, not_or, not_or]
    exact ⟨Nat.not_lt.2 hin, not_not_intro hout, Nat.not_lt.2 hfits, not_not_intro hcnt, Nat.not_lt.2 hcnts⟩
  simp only [routeCode, firstCode, hchosen, hplaced, decide_false]
  rfl

theorem route_routes {t : Fin 192} (hw : Works s t) (halone : RoutesAlone (s.tile t) o) (hdone : o.done = false) (hop : o.fields.op = 1)
    (hcode : routeCode o.fields = none) : exec (.route t .clean) s =
      .next ((s.count (trsPage t) 1 none o.fields.rows).routeEnd t fun o' =>
        { o' with nans := nanScores (s.gateScores t o.fields), writes := s.routeWrites t o.fields }) := by
  unfold routeCode at hcode
  show execRoute t .clean s = _
  simp only [execRoute, routeDue_of_running hw halone.1 hdone hop, hcode, State.eccTile, gateRows_state halone, localRead_of_routesAlone halone,
    List.zipWith_map_right, List.zipWith_self, List.map_map, List.flatMap_map]
  rfl

/-! ## CLRCNT (R185) -/

theorem clrcnt_clears {t : Fin 192} (hw : Works s t) (hroute : (s.tile t).route = some o) (hdone : o.done = false) (hop : o.fields.op = 2)
    (hcnt : o.fields.cnt % 32 = 0 ∧ o.fields.cnt + 4 * o.fields.e ≤ storeBytes) : exec (.clrcnt t) s =
      .next (s.routeEnd t fun o' => { o' with writes := [{ rf := false, addr := o.fields.cnt, data := List.replicate (4 * o.fields.e) 0 }] }) := by
  have hin : ¬ (o.fields.cnt % 32 ≠ 0 ∨ storeBytes < o.fields.cnt + 4 * o.fields.e) := by omega
  show execClrcnt t s = _
  simp only [execClrcnt, routeDue_of_running hw hroute hdone hop]
  rw [if_neg hin]

/-! ## ROUTE_COMPLETE (R185, R188) -/

/-- The writes become visible and the route unit is free. -/
def Tile.routeFreed (ti : Tile) (ws : List LWrite) : Tile := ws.foldl (fun ti w => ti.write w.rf w.addr w.data) { ti with route := none }

theorem routeFreed_eq (ti : Tile) (ws : List LWrite) : (∃ st r, ti.routeFreed ws = { ti with route := none, store := st, rf := r })
    ∧ BytesSame (ws.foldl (fun ti w => ti.write w.rf w.addr w.data) ti) (ti.routeFreed ws) :=
  ⟨foldl_write_eq ws { ti with route := none }, foldl_write_congr ws (bytesSame_of_eq rfl rfl)⟩

/-- The tile is freed, and RESULT says that its operation was served. -/
def State.routeServed (s : State) (t : Nat) (ws : List LWrite) : State :=
  (s.modTile t fun ti => ti.routeFreed ws).setFld (trsPage t) 0x120 0 1 0

/-- What a ROUTE says of its NaN scores (R188); a CLRCNT says nothing. -/
def State.nansCounted (s : State) (t : Nat) (o : RouteOp) : State :=
  if o.fields.op = 1 then
    let s := ((s.setFld (trsPage t) 0x120 32 32 o.nans).count (trsPage t) 0).count (trsPage t) 2 none o.nans
    if o.nans = 0 then s else s.event (trsPage t) 5
  else s

/-- The signal of a completion, where CMD asks for one (R80). -/
def State.routeSignalled (s : State) (t : Nat) (cmd : Word) : State := if cmd.getLsbD 9 then s.signal t (bits cmd 10 5) else s

theorem routeComplete_completes {t : Fin 192} (hw : Works s t) (hroute : (s.tile t).route = some o) (hdone : o.done = true) (hcode : o.code = 0)
    (hpend : o.pend = false) : exec (.routeComplete t) s =
      .next ((((s.routeServed t o.writes).nansCounted t o).routeSignalled t o.cmd).drained (trsPage t)) := by
  show execRouteComplete t s = _
  simp only [execRouteComplete, tileRuns_of_Works hw, hroute, hdone, hcode, hpend, Bool.not_true, Bool.false_eq_true, if_false, ne_eq,
    not_true_eq_false, decide_false]
  rfl

theorem nansCounted_leaves (s : State) (t : Nat) (o : RouteOp) : PageFrame s (s.nansCounted t o)
    ∧ (s.nansCounted t o).fld (trsPage t) 0x120 0 1 = s.fld (trsPage t) 0x120 0 1 := by
  have hframe := ((setRaw_pageFrame s (trsPage t) 0x120 (putBits (s.raw (trsPage t) 0x120) 32 32 o.nans)).trans
    (count_pageFrame _ (trsPage t) 0 none 1)).trans (count_pageFrame _ (trsPage t) 2 none o.nans)
  have hbeside : (s.setFld (trsPage t) 0x120 32 32 o.nans).fld (trsPage t) 0x120 0 1 = s.fld (trsPage t) 0x120 0 1 :=
    fld_setFld_other _ _ _ _ _ _ _ (by decide) (by decide) (by decide)
  unfold State.nansCounted
  dsimp only
  split
  · split
    · exact ⟨hframe, by rw [fld_count, fld_count, hbeside]⟩
    · exact ⟨hframe.trans (event_pageFrame ..), by rw [fld_event, fld_count, fld_count, hbeside]⟩
  · exact ⟨.refl s, rfl⟩

theorem tile_routeSignalled (s : State) (t : Nat) (cmd : Word) : ∃ ks, (s.routeSignalled t cmd).tile t = { s.tile t with k := ks }
    ∧ (∀ i, ((s.routeSignalled t cmd).tile t).tok i = (s.tile t).tok i
        + if cmd.getLsbD 9 = true ∧ i = bits cmd 10 5 ∧ (s.tile t).tok i < 0xFFFF then 1 else 0)
    ∧ TileFrame t s (s.routeSignalled t cmd) ∧ WordsSame s (s.routeSignalled t cmd) := by
  unfold State.routeSignalled
  split
  next h =>
    obtain ⟨ks, htile, htok⟩ := tile_signal s t (bits cmd 10 5)
    refine ⟨ks, htile, fun i => ?_, signal_tileFrame .., signal_wordsSame _ _ _⟩
    rw [htok]
    simp only [h, true_and]
  next h => exact ⟨_, rfl, fun i => by rw [if_neg fun hi => h hi.1]; rfl, .refl s, .refl s⟩

/-- What a completed operation leaves. -/
theorem routeComplete_leaves {t : Fin 192} (hw : Works s t) (hroute : (s.tile t).route = some o) (hdone : o.done = true) (hcode : o.code = 0)
    (hpend : o.pend = false) : Answers (.routeComplete t) s fun s' => (s'.tile t).route = none
      ∧ s'.fld (trsPage t) 0x120 0 1 = 0 ∧ BytesSame (o.writes.foldl (fun ti w => ti.write w.rf w.addr w.data) (s.tile t)) (s'.tile t)
      ∧ (∀ k, (s'.tile t).tok k = (s.tile t).tok k
          + (if o.cmd.getLsbD 9 = true ∧ k = o.cmd.toNat / 2 ^ 10 % 2 ^ 5 ∧ (s.tile t).tok k < 0xFFFF then 1 else 0))
      ∧ (∀ i, (s'.tile t).reg i = (s.tile t).reg i) ∧ TileFrame t s s' := by
  obtain ⟨⟨st, rf, htile₁⟩, hbytes⟩ := routeFreed_eq (s.tile t) o.writes
  have hfreed : (s.routeServed t o.writes).tile t = (s.tile t).routeFreed o.writes :=
    ((setRaw_pageFrame ..).1 t).trans (tile_modTile_same ..)
  have hframe₁ : TileFrame t s (s.routeServed t o.writes) := (modTile_tileFrame ..).trans (setRaw_pageFrame ..).tileFrame
  have hstatus : (s.routeServed t o.writes).fld (trsPage t) 0x120 0 1 = 0 := fld_setFld_same _ _ _ _ _ (by decide) (by decide)
  obtain ⟨hframe₂, hfld₂⟩ := nansCounted_leaves (s.routeServed t o.writes) t o
  obtain ⟨ks, htile₃, htok, hframe₃, hwords₃⟩ := tile_routeSignalled ((s.routeServed t o.writes).nansCounted t o) t o.cmd
  refine ⟨_, routeComplete_completes hw hroute hdone hcode hpend, ?_⟩
  dsimp only
  rw [tile_drained, fld_of_words ((hwords₃.trans (drained_wordsSame _ _)) (trsPage t)).1, hfld₂, hstatus]
  rw [hframe₂.1 t, hfreed] at htile₃ htok
  refine ⟨?route, rfl, ?bytes, fun k => ?tok, fun i => ?reg,
    ((hframe₁.trans hframe₂.tileFrame).trans hframe₃).trans (drained_pageFrame ..).tileFrame⟩
  case route => rw [htile₃, htile₁]
  case bytes => rw [htile₃]; exact hbytes
  case tok => rw [htok, htile₁]; rfl
  case reg => rw [htile₃, htile₁]; rfl

/-- Settles O21: what each operation is about to write, and the completion. -/
theorem routeUnit : Obligations.RouteUnit := by
  intro s t o x hw hroute hx
  subst hx
  have hop (k : Nat) (h : o.cmd.toNat % 2 ^ 4 = k) : o.fields.op = k := (bits_zero o.cmd 4).trans h
  refine ⟨fun hdone hcode hwrites hflights hfts hcmd hact hcand hin hout hfits hcnt hcnts => ?route, fun hdone hcmd hcnt hcnts => ?clrcnt,
    fun hdone hcode hpend => routeComplete_leaves hw hroute hdone hcode hpend⟩
  case route =>
    have hframe := count_pageFrame s (trsPage t) 1 none o.fields.rows
    exact ⟨_, route_routes hw ⟨hroute, hwrites, hflights, hfts⟩ hdone (hop 1 hcmd)
      (routeCode_none hact hcand hin hout hfits hcnt hcnts), _,
      congrArg Tile.route (tile_routeEnd hframe hroute _), rfl, hcode, rfl, rfl, ⟨_, rfl, fun w hw => mem_countWrites hw⟩,
      routeEnd_keeps hframe hroute _⟩
  case clrcnt =>
    obtain ⟨hbytes, -, hframe⟩ := routeEnd_keeps (t := t) (.refl s) hroute
      fun o' => { o' with writes := [{ rf := false, addr := o.fields.cnt, data := List.replicate (4 * o.fields.e) 0 }] }
    exact ⟨_, clrcnt_clears hw hroute hdone (hop 2 hcmd) ⟨hcnt, hcnts⟩, congrArg Tile.route (tile_routeEnd (.refl s) hroute _), hbytes, hframe⟩

end Sys2Proof.Machine
end

section
/-! Where a unit's memory lies, in states that agree on all that places it, and the request for one segment of another member (R241 to R245, R281). -/

namespace Sys2Proof.Machine

open Sys2Proof Sys2Proof.Spec

variable {s s₁ s₂ : State} {c va n die : Nat} {write : Bool} {g : Seg} {gs : List Seg}

/-! ## States that agree on all that places memory (R241, R249, R281) -/

/-- Memory's bytes, the fabric, the contexts, the domains and the words of the base dies' pages are as before. -/
structure SamePlaces (s s₁ : State) : Prop where
  words : BaseWords s s₁
  bytes : MemSame s s₁
  fab   : s₁.fab = s.fab
  key   : s₁.key = s.key
  pkg   : s₁.pkg = s.pkg

/-- A change of a tile and of pages that leaves the words of the base dies' pages alone. -/
theorem samePlaces_of_tileFrame {t : Nat} (h : TileFrame t s s₁) (hwords : BaseWords s s₁) : SamePlaces s s₁ := by
  obtain ⟨-, hmem, -, hfab, -, -, -, hkey, -, -, hpkg, -⟩ := h
  exact ⟨hwords, hmem, hfab, hkey, hpkg⟩

section places

variable (h : SamePlaces s s₁)
include h

theorem SamePlaces.memBytes (a n : Nat) : s₁.mem.bytes a n = s.mem.bytes a n := by
  have hbyte : ∀ b, s₁.mem.byte b = s.mem.byte b := h.bytes
  simp only [Mem.bytes, hbyte]

theorem walk_congr : s₁.walk = s.walk := by
  funext c va
  have hpeek (a : Nat) : s₁.peekWord a = s.peekWord a := by rw [State.peekWord, h.memBytes, State.peekWord]
  have hdesc : s₁.desc c = s.desc c := by rw [State.desc, h.key, State.desc]
  simp only [State.walk, hpeek, hdesc]

theorem isHost_congr : s₁.isHost = s.isHost := by
  funext g
  rw [State.isHost, member_congr h.words, State.isHost]

theorem flowNow_congr : s₁.flowNow = s.flowNow := by
  funext f
  have hcached : s₁.cached f = s.cached f := cached_congr (congrArg Fabric.cache h.fab) f
  have hraw : s₁.raw (fltPage 0) = s.raw (fltPage 0) := raw_of_words (h.words _ (by decide))
  simp only [State.flowNow, hcached, State.flowAddr, hraw, State.peek, h.memBytes]

theorem trayOk_congr : s₁.trayOk = s.trayOk := by
  funext c m
  have hown : s₁.ownLc = s.ownLc := fld_of_words (h.words (rtrPage 0) (by decide)) ..
  simp only [State.trayOk, trayFlow_congr h.key, flowNow_congr h, hown, h.fab]

theorem homeOff_congr : s₁.homeOff = s.homeOff := by
  funext as
  simp only [State.homeOff, State.stackOn, h.pkg]

end places

/-! ## The extent of an access (R245) -/

theorem translate_congr (h : SamePlaces s s₁) : (s₁.translate die (some c) va n write).1 = (s.translate die (some c) va n write).1 := by
  have hwalk := walk_congr h
  have hmember := member_congr h.words
  have hfold : (s₁.translate die (some c) va n write).1 = (s.translate die (some c) va n write).1
      ∧ ((s.translate die (some c) va n write).1 ≠ none →
        (s₁.translate die (some c) va n write).2 = s₁ ∧ (s.translate die (some c) va n write).2 = s) := by
    unfold State.translate
    refine List.foldl_rel (r := fun (r₁ r : Option (List Seg) × State) => r₁.1 = r.1 ∧ (r.1 ≠ none → r₁.2 = s₁ ∧ r.2 = s))
      ⟨rfl, fun _ => ⟨rfl, rfl⟩⟩ fun run _ r₁ r hr => ?_
    obtain ⟨acc₁, s₁'⟩ := r₁
    obtain ⟨acc, s'⟩ := r
    obtain ⟨rfl, hstate⟩ := hr
    cases acc₁ with
    | none => exact ⟨rfl, fun hsome => absurd rfl hsome⟩
    | some segs =>
      obtain ⟨hs₁, hs⟩ := hstate (Option.some_ne_none segs)
      dsimp only at hs₁ hs ⊢
      subst hs₁ hs
      rw [hwalk, hmember]
      split
      · exact ⟨rfl, fun hsome => absurd rfl hsome⟩
      · exact ⟨rfl, fun hsome => absurd rfl hsome⟩
      · split <;> split
        · exact ⟨rfl, fun hsome => absurd rfl hsome⟩
        · exact ⟨rfl, fun _ => ⟨rfl, rfl⟩⟩
        · exact ⟨rfl, fun hsome => absurd rfl hsome⟩
        · exact ⟨rfl, fun _ => ⟨rfl, rfl⟩⟩
  exact hfold.1

/-- A range that is reached is reached in every state that agrees on all that places memory, and nothing is changed. -/
theorem reach_congr (h : SamePlaces s s₁) (hreach : (s.reach die (some c) va n write).1 = .ok gs) :
    s₁.reach die (some c) va n write = (.ok gs, s₁) := by
  have hsame := translate_congr (die := die) (c := c) (va := va) (n := n) (write := write) h
  obtain ⟨gs', ht⟩ | ⟨s', ht, -⟩ := translate_cases s die c va n write
  case inr => simp only [State.reach, ht, reduceCtorEq] at hreach
  have ht₁ : s₁.translate die (some c) va n write = (some gs', s₁) := by
    obtain ⟨gs₁, h₁⟩ | ⟨s', h₁, -⟩ := translate_cases s₁ die c va n write
    · rw [h₁, ht] at hsame
      rw [h₁, show gs₁ = gs' from Option.some.inj hsame]
    · rw [h₁, ht] at hsame
      cases hsame
  simp only [State.reach, ht] at hreach
  simp only [State.reach, ht₁, isHost_congr h, trayOf_congr h.words, trayOk_congr h, localOf_congr h.words, homeOff_congr h]
  split at hreach
  · cases hreach
  next hhost =>
    split at hreach
    · cases hreach
    next htray =>
      split at hreach
      · cases hreach
      next hon =>
        obtain rfl := Reach.ok.inj hreach
        rw [if_neg hhost, if_neg htray, hon]

/-! ## One segment of another member's memory (R281, R282) -/

section tray

variable {m off : Nat} (htray : s.trayOf g = some (m, off))
include htray

theorem localOf_tray : s.localOf g = none := by
  rw [State.localOf, trayOf_eq.1 htray]

/-- No controller of the package holds up another member's memory. -/
theorem segsHeld_tray : s.segsHeld [g] = false := by
  simp [State.segsHeld, State.homeHeld, localOf_tray htray]

/-- At most 2 MiB are one GET. -/
theorem gather_tray (h₀ : 0 < g.len) (h₁ : g.len ≤ 2 ^ 21) (o : Owner) (page die tag : Nat) : ∃ r : Req,
    s.gather c o page die tag [g] = (1, s.request r) ∧ r.pop = 2 ∧ r.flow = s.trayFlow c m ∧ r.ctx = c ∧ r.owner = o
      ∧ r.w2.toNat = off % 2 ^ 48 ∧ r.len = (g.len + 31) / 32 - 1 := by
  have hget : s.trayParts [g] = [(m, off, g.pa, g.len)] := by simp only [State.trayParts, List.filterMap_cons, List.filterMap_nil, htray]
  refine ⟨_, by simp only [State.gather, hget, List.foldl_cons, List.foldl_nil, State.trayRead, trayGets_one h₀ h₁]; rfl, rfl, rfl, rfl, rfl, ?_, rfl⟩
  rw [BitVec.toNat_ofNat]
  omega

end tray

end Sys2Proof.Machine
end

section
/-! GROUP whose table lies in another member's memory (R204, R281): O16. -/

namespace Sys2Proof.Machine

open Sys2Proof Sys2Proof.Spec

variable {s s₁ : State} {t c : Nat} {d : Desc} {g : Seg}

/-! ## A GROUP that has started (R204) -/

/-- Two states agree on a word of a page, and on all that is staged there. -/
def AgreeOn (n o : Nat) (s s₁ : State) : Prop :=
  s₁.raw n o = s.raw n o ∧ (s₁.page n).pend = (s.page n).pend ∧ (s₁.page n).pendMask = (s.page n).pendMask

theorem AgreeOn.written {n o : Nat} (h : AgreeOn n o s s₁) : s₁.written n o = s.written n o := by
  obtain ⟨hraw, hpend, hmask⟩ := h
  rw [State.written, hraw, hpend, hmask, State.written]

theorem setRaw_staged (s : State) (n o : Nat) (w : Word) :
    ((s.setRaw n o w).page n).pend = (s.page n).pend ∧ ((s.setRaw n o w).page n).pendMask = (s.page n).pendMask := by simp [State.setRaw]

/-- A staged word that takes effect leaves the agreement. -/
theorem AgreeOn.setWritten {n o : Nat} (h : AgreeOn n o s s₁) (ho : o % 8 = 0) (k : Nat) :
    AgreeOn n o (s.setRaw n (8 * k) (s.written n (8 * k))) (s₁.setRaw n (8 * k) (s₁.written n (8 * k))) := by
  have ⟨hraw, hpend, hmask⟩ := h
  obtain ⟨hpend₀, hmask₀⟩ := setRaw_staged s n (8 * k) (s.written n (8 * k))
  obtain ⟨hpend₁, hmask₁⟩ := setRaw_staged s₁ n (8 * k) (s₁.written n (8 * k))
  refine ⟨?_, (hpend₁.trans hpend).trans hpend₀.symm, (hmask₁.trans hmask).trans hmask₀.symm⟩
  by_cases hk : 8 * k = o
  · rw [hk, raw_setRaw_same, raw_setRaw_same, h.written]
  · have hother : o / 8 ≠ 8 * k / 8 := by omega
    rw [raw_setRaw_other _ _ _ _ _ _ (.inr hother), raw_setRaw_other _ _ _ _ _ _ (.inr hother), hraw]

/-- The agreement outlasts the boundary at which what is staged takes effect (R38). -/
theorem AgreeOn.raw_applyStaged {n o : Nat} (h : AgreeOn n o s s₁) (ho : o % 8 = 0) : (s₁.applyStaged n).raw n o = (s.applyStaged n).raw n o := by
  have hfold := List.foldl_rel (l := (s.page n).pendMask.map Prod.fst) (r := fun s₁ s => AgreeOn n o s s₁) h
    fun k _ s₁ s hk => hk.setWritten ho k
  obtain ⟨hraw, -, hmask⟩ := h
  have hreset (s : State) : (s.modPage n fun p => { p with pend := [], pendMask := [] }).raw n o = s.raw n o :=
    raw_modPage (by intro p; rfl) n o
  unfold State.applyStaged
  rw [hmask]
  split
  · exact hraw
  · simp only [raw_event, hreset]
    exact hfold.1

theorem stageBad_of_raw (h : s₁.raw (trsPage t) 0x128 = s.raw (trsPage t) 0x128) : s₁.stageBad t = s.stageBad t := by
  simp only [State.stageBad, fld_below_expert _ _ _ _ (show 0x128 < 0x400 by decide), h]

/-- The GROUP has left its queue, WALK's result is cleared and what was staged is in force. -/
def State.groupBegun (s : State) (t : Nat) (d : Desc) : State :=
  ((s.takeDesc t .mxe d fun f => f).setRaw (trsPage t) 0x130 0).applyStaged (trsPage t)

theorem groupBegun_pageFrame (s : State) (t : Nat) (d : Desc) : PageFrame (s.takeDesc t .mxe d fun f => f) (s.groupBegun t d) :=
  (setRaw_pageFrame ..).trans (applyStaged_pageFrame ..)

theorem groupBegun_samePlaces (ht : t < 192) (s : State) (d : Desc) : SamePlaces s (s.groupBegun t d) := by
  refine samePlaces_of_tileFrame ((takeDesc_tileFrame ..).trans (groupBegun_pageFrame s t d).tileFrame)
    ((taken_baseWords ht s .mxe d).trans fun m hm => ?_)
  have hne : m ≠ trsPage t := by unfold trsPage tilePage; omega
  exact (applyStaged_words_other hne).trans (congrArg Page.words (page_modPage_other _ _ _ _ hne))

theorem stageBad_groupBegun (s : State) (t : Nat) (d : Desc) :
    (s.groupBegun t d).stageBad t = ((s.applyStaged (engPage t .mxe)).applyStaged (trsPage t)).stageBad t := by
  have hraw : ((s.takeDesc t .mxe d fun f => f).setRaw (trsPage t) 0x130 0).raw (trsPage t) 0x128 = (s.applyStaged (engPage t .mxe)).raw (trsPage t) 0x128 :=
    raw_setRaw_other _ _ _ _ _ _ (.inr (by decide))
  exact stageBad_of_raw (AgreeOn.raw_applyStaged ⟨hraw, setRaw_staged ..⟩ (by decide))

/-! ## The table of a GROUP (R203, R204) -/

theorem groupTable_eq (d : Desc) : d.f 2 0 32 = d.w2.toNat % 2 ^ 32 ∧ d.f 2 32 32 = d.w2.toNat / 2 ^ 32 :=
  ⟨bits_zero d.w2 32, bits_top d.w2 rfl⟩

theorem groupTable_pos (h : groupBad d = none) : 0 < d.w2.toNat / 2 ^ 32 := by
  simp only [groupBad, firstCode, Option.map_eq_none_iff, List.find?_eq_none, List.forall_mem_cons, decide_eq_true_eq, not_or] at h
  obtain ⟨-, -, ⟨hcount, -⟩, -⟩ := h
  rw [(groupTable_eq d).2] at hcount
  exact Nat.pos_of_ne_zero hcount

/-- A flight that waits for its table. -/
def tableAsked (f : Flight) : Flight := { f with phase := 1, left := f.left + 1, unsent := f.unsent + 1 }

/-- A walk looks at its staging area, then reaches its table, and asks for what of it lies elsewhere before it goes on. -/
theorem groupWalk_phases (t c : Nat) (ecc : Ecc) (fuel : Nat) (f : Flight) (s : State) :
    ∃ (refuse : Nat → State → State) (further : List Seg → State → State), State.groupWalk t c ecc (fuel + 1) f s =
      if s.stageBad t then s.groupRefuse t f.id 0x077
      else match s.reach (tileDie t) (some c) (f.desc.w1.toNat + 128 * f.desc.f 2 0 32) (128 * f.desc.f 2 32 32) false with
        | (.refused k, s₁) => refuse k s₁
        | (.ok gs, s₁) =>
          if s.segsHeld gs then s
          else if f.phase = 0 then
            (let (go, s₂) := s₁.groupGather t c f 1 gs
            if go then State.groupWalk t c ecc fuel { f with phase := 1 } s₂ else s₂)
          else further gs s₁ := ⟨_, _, rfl⟩

/-- A table in another member's memory is asked for with one GET. -/
theorem groupWalk_asks {f : Flight} {m off : Nat} (hphase : f.phase = 0) (hstage : s.stageBad t = false)
    (hreach : s.reach (tileDie t) (some c) (f.desc.w1.toNat + 128 * f.desc.f 2 0 32) (128 * f.desc.f 2 32 32) false = (.ok [g], s))
    (htray : s.trayOf g = some (m, off)) (h₀ : 0 < g.len) (h₁ : g.len ≤ 2 ^ 21) (fuel : Nat) : ∃ r : Req,
    State.groupWalk t c .clean (fuel + 1) f s = ((s.request r).modFlight t f.id tableAsked).pump ∧ r.pop = 2 ∧ r.flow = s.trayFlow c m
      ∧ r.ctx = c ∧ r.owner = .tile t f.id ∧ r.w2.toNat = off % 2 ^ 48 ∧ r.len = (g.len + 31) / 32 - 1 := by
  obtain ⟨r, hgather, hr⟩ := gather_tray (c := c) htray h₀ h₁ (.tile t f.id) (engPage t .mxe) (tileDie t) 0
  have hask : s.groupGather t c f 1 [g] = (false, ((s.request r).modFlight t f.id tableAsked).pump) := by
    rw [State.groupGather, hgather]
    rfl
  obtain ⟨refuse, further, hwalk⟩ := groupWalk_phases t c .clean fuel f s
  refine ⟨r, ?_, hr⟩
  rw [hwalk]
  simp only [hstage, hreach, segsHeld_tray htray, hphase, hask, Bool.false_eq_true, if_false, if_true]

/-! ## GROUP -/

theorem group_starts {t : Fin 192} (hq : Quiet (s.tile t)) (hctx : s.ctxOf t = some c) (hstart : s.startable t .mxe = some d)
    (hop : d.op = 3) (hbad : groupBad d = none) (hadmits : s.admits (trsPage t) = true) : exec (.group t .clean) s =
      .next (State.groupWalk t c .clean 4 { id := (s.tile t).serial, eng := .mxe, desc := d } (s.groupBegun t d)) := by
  have hw : Works s t := ((startable_iff s t .mxe d).1 hstart).2.1
  have hwalking : (s.tile t).walking = none := by rw [Tile.walking, hq.1]; rfl
  have hidle : (((s.tile t).flightsOf .mxe).all fun f => f.refused) = true := by rw [Tile.flightsOf, hq.1]; rfl
  have hctx₁ : (s.groupBegun t d).ctxOf t = some c := by
    obtain ⟨-, -, -, -, -, -, -, hkey, -⟩ := (takeDesc_tileFrame s t .mxe d fun f => f).trans (groupBegun_pageFrame s t d).tileFrame
    rw [State.ctxOf, hkey]
    exact hctx
  have hrun : State.groupRunDesc t .clean d s
      = State.groupWalk t c .clean 4 { id := (s.tile t).serial, eng := .mxe, desc := d } (s.groupBegun t d) := by
    show (match (s.groupBegun t d).ctxOf t with | none => _ | some c => _) = _
    rw [hctx₁]
    rfl
  show execGroup t .clean s = _
  simp only [execGroup, tileRuns_of_Works hw, hwalking, hadmits, Bool.not_true, Bool.false_eq_true, if_false]
  rw [engineStart_runs hstart hop rfl hidle hbad, hrun]

/-- Settles O16: the GROUP starts, its table is reached, and the walk asks for it. -/
theorem groupStartsItsWalk : Obligations.GroupStartsItsWalk := by
  intro s t d c m off base g hq hctx hstart hop hbad hadmits hstage hbase hreach hlen htray hmax hunsent hcached
  have hplaces := groupBegun_samePlaces t.isLt s d
  obtain ⟨hbaseField, hcountField⟩ := groupTable_eq d
  have hpos := groupTable_pos hbad
  have htable : (s.groupBegun t d).reach (tileDie t) (some c) (d.w1.toNat + 128 * d.f 2 0 32) (128 * d.f 2 32 32) false
      = (.ok [g], s.groupBegun t d) := by
    rw [hbaseField, hcountField, ← hbase]
    exact reach_congr hplaces hreach
  obtain ⟨r, hwalk, hpop, hrflow, hrctx, hrowner, hrw2, hrlen⟩ := groupWalk_asks
    (f := { id := (s.tile t).serial, eng := .mxe, desc := d }) rfl ((stageBad_groupBegun ..).trans hstage) htable
    ((congrFun (trayOf_congr hplaces.words) g).trans htray) (by omega) hmax 3
  rw [trayFlow_congr hplaces.key] at hrflow
  generalize hs₂ : State.modFlight _ _ _ _ = s₂ at hwalk
  obtain ⟨hpump, hone⟩ := pump_request (s₂ := s₂) hplaces.fab (by rw [← hs₂]; rfl) hunsent (hrflow ▸ hcached)
  rw [hpump] at hwalk
  obtain ⟨htook, hacc, heng⟩ := started_modFlight (P := fun f => f.refused = false ∧ f.phase = 1 ∧ f.left = 1 ∧ f.unsent = 1 ∧ f.writes = []) hq
    ((offTiles_of_pageFrame (groupBegun_pageFrame s t d)).trans (request_offTiles _ r)) (g := tableAsked) (fun _ => ⟨rfl, rfl, rfl⟩)
    ⟨rfl, rfl, rfl, rfl, rfl⟩
  refine ⟨s₂, ?_, ?_, ⟨r, hone, hpop, hrflow, hrctx, hrowner, hrw2, by omega⟩, ?_, ?_⟩
  · rw [group_starts hq hctx hstart hop hbad hadmits, hwalk]
  all_goals (rw [← hs₂]; assumption)

end Sys2Proof.Machine
end

section
/-! JOB_GO, SBD_JOB_START and SBD_JOB_COMPLETE (R190, R193, R199, R212): O22. -/

namespace Sys2Proof.Machine

open Sys2Proof Sys2Proof.Spec

variable {s s₁ s₂ : State} {q : SbdJob} {rest : List SbdJob}

/-! ## The queue of jobs (R190) -/

/-- Held starts only move from the waiting list to the queue's end. -/
theorem sbdFill_moves (s : State) : ∃ b, s.sbdFill = { s with sbd := b } ∧ b.queue ++ b.waiting = s.sbd.queue ++ s.sbd.waiting
    ∧ b.running = s.sbd.running := by
  unfold State.sbdFill
  split
  · exact ⟨_, rfl, by rw [List.append_assoc, List.take_append_drop], rfl⟩
  · exact ⟨s.sbd, rfl, rfl, rfl⟩

theorem sbdFill_none (h : s.sbd.waiting = []) : s.sbdFill = s := by
  unfold State.sbdFill
  split
  · simp only [h, List.take_nil, List.drop_nil, List.append_nil]
    rw [← h]
  · rfl

/-- A start that finds room is not held. -/
theorem sbdFill_room {w : SbdJob} (hadmits : s.sbdAdmits = true) (hwaiting : s.sbd.waiting = [w]) (hroom : s.sbd.queue.length < s.qMax) :
    s.sbdFill.sbd.waiting = [] := by
  simp only [State.sbdFill, hadmits, hwaiting, if_true]
  exact List.drop_eq_nil_of_le (by rw [List.length_singleton]; omega)

/-! ## JOB_GO (R190, R212) -/

/-- What a write of the Sideboard's first page does beyond its fields. -/
theorem sbdAct_eq (s : State) (o : Nat) (val : Word) (ok : Bool) : s.blockAct (sbdPage 0) o val ok =
    if o = 0x108 ∧ val.getLsbD 8 ∧ dieOf (sbdPage 0) = 0 then s.sbdQueue (s.raw (sbdPage 0) 0x100).toNat (bits val 0 8) else s := rfl

/-- A write of JOB.ADDR or JOB.CTX sets its plain fields, and acts. -/
theorem sbdWrite_acts {o : Nat} {mask : Word} (ho : o = 0x100 ∨ o = 0x108) (hmask : classMask (sbdPage 0) o (fun x => decide (x = .rw)) = mask)
    (val : Word) : s.regWriteAt none (sbdPage 0) o val
      = (s.setRaw (sbdPage 0) o ((s.raw (sbdPage 0) o &&& ~~~mask) ||| (val &&& mask))).blockAct (sbdPage 0) o val true := by
  have hblock : blockOf (sbdPage 0) = .sbd := by decide
  have hpwr : sbdPage 0 ≠ pwrPage := by decide
  have hplain : classMask (sbdPage 0) o (fun x => decide (x = .rwl)) = 0 ∧ classMask (sbdPage 0) o (fun x => decide (x = .rws)) = 0
      ∧ classMask (sbdPage 0) o (fun x => decide (x = .w1c)) = 0 ∧ elsewhere (sbdPage 0) o = false := by
    rcases ho with rfl | rfl <;> decide
  obtain ⟨hrwl, hrws, hw1c, helse⟩ := hplain
  have hoff : o ≠ 0x010 ∧ o ≠ 0x018 ∧ o ≠ 0x020 ∧ o ≠ 0x030 ∧ o < 0xC00 := by omega
  obtain ⟨hctl, hsts, hcause, herr, hend⟩ := hoff
  have hwrite := writeFields_plain (s := s) hmask hrwl hrws hw1c val
  simp only [State.regWriteAt, hctl, hsts, hcause, herr, Nat.not_le.2 hend, helse, hpwr, hblock, false_and, if_false, Bool.false_eq_true, or_self,
    reduceCtorEq, hwrite, Bool.not_false]

theorem jobAddr_write (s : State) (addr : Word) : s.regWriteAt none (sbdPage 0) 0x100 addr = s.setRaw (sbdPage 0) 0x100 addr := by
  have hall : ((s.raw (sbdPage 0) 0x100 &&& ~~~(BitVec.allOnes 64)) ||| (addr &&& BitVec.allOnes 64)) = addr := by
    rw [BitVec.not_allOnes, BitVec.and_zero, BitVec.zero_or, BitVec.and_allOnes]
  rw [sbdWrite_acts (mask := BitVec.allOnes 64) (.inl rfl) rfl, hall, sbdAct_eq, if_neg (by simp)]

theorem jobCtx_write (s : State) (val : Word) : ∃ w, s.regWriteAt none (sbdPage 0) 0x108 val =
    if val.getLsbD 8 then (s.setRaw (sbdPage 0) 0x108 w).sbdQueue (s.raw (sbdPage 0) 0x100).toNat (bits val 0 8)
    else s.setRaw (sbdPage 0) 0x108 w := by
  have hdie : dieOf (sbdPage 0) = 0 := rfl
  rw [sbdWrite_acts (mask := 0xFF) (.inr rfl) rfl val, sbdAct_eq, raw_setRaw_other _ _ _ _ _ _ (.inr (by decide))]
  simp only [true_and, hdie, and_true]
  exact ⟨_, rfl⟩

/-- The state with JOB.ADDR and the word of JOB.CTX written. -/
def State.jobWritten (s : State) (addr w : Word) : State := (s.setRaw (sbdPage 0) 0x100 addr).setRaw (sbdPage 0) 0x108 w

theorem jobGo_queues {a : Access} (ha : Awake s) (hsource : a.source = .bureau) (addr : Word) (ctx : Fin 256) :
    ∃ w, exec (.jobGo a addr ctx) s = .next ((s.jobWritten addr w).sbdQueue addr.toNat ctx) := by
  have hb (s : State) (ha : Awake s) : ByBureau s a (sbdPage 0) := ⟨ha, hsource, fun h => absurd h (by decide)⟩
  obtain ⟨hctx, hgo⟩ := reloadWord_fields ctx
  obtain ⟨w, hwrite⟩ := jobCtx_write (s.setRaw (sbdPage 0) 0x100 addr) (BitVec.ofNat 64 (ctx.val + 2 ^ 8))
  refine ⟨w, ?_⟩
  show Host.Outcome.next ((s.rowWrite a (pageAddr (sbdPage 0) 0x100) addr).rowWrite a (pageAddr (sbdPage 0) 0x108)
    (BitVec.ofNat 64 (ctx.val + 2 ^ 8))) = _
  rw [rowWrite_bureau (hb s ha) (by decide) (by decide) (by decide), jobAddr_write,
    rowWrite_bureau (hb (s.setRaw (sbdPage 0) 0x100 addr) ha) (by decide) (by decide) (by decide), hwrite, if_pos hgo, hctx, raw_setRaw_same]
  rfl

theorem jobWritten_pageFrame (s : State) (addr w : Word) : PageFrame s (s.jobWritten addr w) := (setRaw_pageFrame ..).trans (setRaw_pageFrame ..)

/-- A word other than CTL has no part in what blocks admit. -/
theorem admits_setRaw (s : State) (n : Nat) {o : Nat} (w : Word) (ho : o / 8 ≠ 2) (m : Nat) : (s.setRaw n o w).admits m = s.admits m := by
  have henable : (s.setRaw n o w).enabled m = s.enabled m := by
    rw [State.enabled, raw_setRaw_other _ _ _ _ _ _ (.inr ho.symm), State.enabled]
  have hbit : ((s.setRaw n o w).page m).quiesceBit = (s.page m).quiesceBit := modPage_keeps s Page.quiesceBit n m _ fun _ => rfl
  have hquiescing : ((s.setRaw n o w).page m).quiescing = (s.page m).quiescing := modPage_keeps s Page.quiescing n m _ fun _ => rfl
  have hquiesced : ((s.setRaw n o w).page m).quiesced = (s.page m).quiesced := modPage_keeps s Page.quiesced n m _ fun _ => rfl
  rw [State.admits, henable, hbit, hquiescing, hquiesced, State.admits]

/-- A word other than CTL has no part in the fields of other words. -/
theorem fld_setRaw_beside (s : State) (n m : Nat) {o p : Nat} (lo k : Nat) (w : Word) (ho : o / 8 ≠ 2) (hp : p / 8 ≠ o / 8) :
    (s.setRaw n o w).fld m p lo k = s.fld m p lo k := by
  have hraw := raw_setRaw_other s n m o p w (.inr hp)
  have hexpert : (s.setRaw n o w).expertEn m = s.expertEn m := by
    rw [State.expertEn, raw_setRaw_other _ _ _ _ _ _ (.inr ho.symm), State.expertEn]
  rw [State.fld, State.inForce, hexpert, hraw, State.fld, State.inForce]

/-- JOB.ADDR and JOB.CTX have no part in what the Sideboards admit, nor in the places of their queue. -/
theorem jobWritten_admits (s : State) (addr w : Word) : (s.jobWritten addr w).sbdAdmits = s.sbdAdmits ∧ (s.jobWritten addr w).qMax = s.qMax := by
  have hadmits (m : Nat) : (s.jobWritten addr w).admits m = s.admits m :=
    (admits_setRaw _ _ _ (by decide) m).trans (admits_setRaw _ _ _ (by decide) m)
  have hmax : (s.jobWritten addr w).fld (sbdPage 0) 0x400 0 7 = s.fld (sbdPage 0) 0x400 0 7 :=
    (fld_setRaw_beside _ _ _ _ _ _ (by decide) (by decide)).trans (fld_setRaw_beside _ _ _ _ _ _ (by decide) (by decide))
  exact ⟨by simp only [State.sbdAdmits, hadmits], by rw [State.qMax, hmax, State.qMax]⟩

/-- What a start leaves. -/
theorem jobGo_joins {a : Access} (ha : Awake s) (hsource : a.source = .bureau) (addr : Word) (ctx : Fin 256) :
    Answers (.jobGo a addr ctx) s fun s' =>
      s'.sbd.queue ++ s'.sbd.waiting = s.sbd.queue ++ s.sbd.waiting ++ [{ addr := addr.toNat, ctx := ctx }] ∧ s'.sbd.running = s.sbd.running
      ∧ (s.sbdAdmits = true → s.sbd.waiting = [] → s.sbd.queue.length < s.qMax → s'.sbd.waiting = [])
      ∧ TilesSame s s' ∧ MemSame s s' ∧ s'.fab = s.fab ∧ s'.key = s.key ∧ s'.upe = s.upe ∧ s'.cle = s.cle := by
  obtain ⟨w, hrun⟩ := jobGo_queues ha hsource addr ctx
  obtain ⟨htiles, hbytes, -, hfab, hsbd, hupe, hcle, hkey, -⟩ := jobWritten_pageFrame s addr w
  obtain ⟨hadmits, hmax⟩ := jobWritten_admits s addr w
  obtain ⟨b, hfill, hjobs, hrunning⟩ := sbdFill_moves
    { s.jobWritten addr w with sbd := { s.sbd with waiting := s.sbd.waiting ++ [{ addr := addr.toNat, ctx := ctx }] } }
  have hqueue : (s.jobWritten addr w).sbdQueue addr.toNat ctx = { s.jobWritten addr w with sbd := b } := by
    rw [State.sbdQueue, hsbd, hfill]
  refine ⟨_, hrun, ?_⟩
  rw [hqueue]
  refine ⟨?_, hrunning, fun hadm hwaiting hroom => ?_, htiles, hbytes, hfab, hkey, hupe, hcle⟩
  · rw [List.append_assoc]
    exact hjobs
  · have hempty := sbdFill_room (s := { s.jobWritten addr w with sbd := { s.sbd with waiting := s.sbd.waiting ++ [{ addr := addr.toNat, ctx := ctx }] } })
      (hadmits.trans hadm) (by rw [hwaiting]; rfl) (hroom.trans_eq hmax.symm)
    rw [hfill] at hempty
    exact hempty

/-! ## SBD_JOB_START (R190, R193, R281) -/

/-- The oldest job has left the queue and runs. -/
def State.sbdTaken (s : State) (q : SbdJob) (rest : List SbdJob) : State :=
  { s with sbd := { s.sbd with queue := rest, running := some { job := q } } }

theorem jobStart_walks (ha : Awake s) (hidle : s.sbd.running = none) (hadmits : s.sbdAdmits = true) (hqueue : s.sbd.queue = q :: rest)
    (hwaiting : s.sbd.waiting = []) (hctx : q.ctx ∉ s.upe.halted) : exec (.sbdJobStart .clean) s =
      .next (s.sbdStep (State.sbdWalk .clean 3 { job := q } (s.sbdTaken q rest))) := by
  have hfill : (s.sbdTaken q rest).sbdFill = s.sbdTaken q rest := sbdFill_none hwaiting
  have hfind : (q :: rest).find? (fun j => !s.upe.halted.contains j.ctx) = some q := by simp [hctx]
  show execSbdJobStart .clean s = _
  simp only [execSbdJobStart, awake_of_Awake ha, hidle, hadmits, sbdFill_none hwaiting, hqueue, hfind, List.erase_cons_head, Bool.not_true,
    Bool.false_eq_true, if_false]
  exact congrArg (fun s₁ => Host.Outcome.next (s.sbdStep (State.sbdWalk .clean 3 { job := q } s₁))) hfill

/-- A walk that is not done has happened, whatever it has still to write. -/
theorem sbdStep_undone {j : SbdRun} (hrun : s₁.sbd.running = some j) (h : ¬ (j.phase = 3 ∧ j.code = 0)) : s.sbdStep s₁ = s₁ := by
  simp [State.sbdStep, hrun, h]

/-- A walk looks at the place of its descriptor, reaches it, and asks for what of it lies elsewhere before it goes on. -/
theorem sbdWalk_phases (ecc : Ecc) (fuel : Nat) (j : SbdRun) (s : State) :
    ∃ (refuse : Nat → State → State) (further : List Seg → State → State), State.sbdWalk ecc (fuel + 1) j s =
      if j.job.addr % 32 ≠ 0 then s.sbdRefuse j 0x080
      else match s.reach 0 (some j.job.ctx) j.job.addr 144 false with
        | (.refused k, s₁) => refuse k s₁
        | (.ok gs, s₁) =>
          if s.segsHeld gs then s
          else if j.phase = 0 then
            (let (go, s₂) := s₁.sbdGather j.job.ctx 1 gs
            if go then State.sbdWalk ecc fuel { j with phase := 1 } s₂ else s₂)
          else further gs s₁ := ⟨_, _, rfl⟩

/-- The job is refused with 0x080 (R193). -/
def refusedRun (j : SbdRun) : SbdRun := { j with code := 0x080, phase := 3 }

/-- A descriptor that is not aligned is refused. -/
theorem sbdWalk_misaligned {j : SbdRun} (haddr : j.job.addr % 32 ≠ 0) (fuel : Nat) : State.sbdWalk .clean (fuel + 1) j s =
    (s.contained (sbdPage 0) 0x080 (some j.job.ctx)).modSbd refusedRun := by
  obtain ⟨refuse, further, hwalk⟩ := sbdWalk_phases .clean fuel j s
  rw [hwalk, if_pos haddr]
  rfl

theorem jobStart_refuses (ha : Awake s) (hidle : s.sbd.running = none) (hadmits : s.sbdAdmits = true) (hqueue : s.sbd.queue = q :: rest)
    (hwaiting : s.sbd.waiting = []) (hctx : q.ctx ∉ s.upe.halted) (haddr : q.addr % 32 ≠ 0) :
    Answers (.sbdJobStart .clean) s fun s' => s'.sbd.queue = rest
      ∧ (∃ j, s'.sbd.running = some j ∧ j.job = q ∧ j.code = 0x080 ∧ j.phase = 3) ∧ Reported (sbdPage 0) 2 0x080 s s' ∧ TilesSame s s'
      ∧ MemSame s s' := by
  obtain ⟨htiles, hbytes, -, -, hsbd, -⟩ := contained_pageFrame (s.sbdTaken q rest) (sbdPage 0) 0x080 (some q.ctx)
  generalize hs₁ : (s.sbdTaken q rest).contained (sbdPage 0) 0x080 (some q.ctx) = s₁ at htiles hbytes hsbd
  have hrun : (s₁.modSbd refusedRun).sbd.running = some (refusedRun { job := q }) := by
    rw [State.modSbd, hsbd]
    rfl
  have hwalk : State.sbdWalk .clean 3 { job := q } (s.sbdTaken q rest) = s₁.modSbd refusedRun := by
    rw [← hs₁]
    exact sbdWalk_misaligned haddr 2
  have hreported : Reported (sbdPage 0) 2 0x080 s s₁ := by
    rw [← hs₁]
    exact reported_from (s₁ := s.sbdTaken q rest) rfl rfl (raise_reported (by decide))
  refine ⟨_, jobStart_walks ha hidle hadmits hqueue hwaiting hctx, ?_⟩
  rw [hwalk, sbdStep_undone hrun fun h => absurd h.2 (show 0x080 ≠ 0 by decide)]
  exact ⟨congrArg Sbd.queue hsbd, ⟨_, hrun, rfl, rfl, rfl⟩, hreported, htiles, hbytes⟩

/-- A job that waits for its descriptor. -/
def descriptorAsked (j : SbdRun) : SbdRun := { j with phase := 1, left := j.left + 1 }

/-- A descriptor in another member's memory is asked for with one GET. -/
theorem sbdWalk_asks {j : SbdRun} {g : Seg} {m off : Nat} (haddr : j.job.addr % 32 = 0) (hphase : j.phase = 0)
    (hreach : s.reach 0 (some j.job.ctx) j.job.addr 144 false = (.ok [g], s)) (htray : s.trayOf g = some (m, off)) (h₀ : 0 < g.len)
    (h₁ : g.len ≤ 2 ^ 21) (fuel : Nat) : ∃ r : Req,
    State.sbdWalk .clean (fuel + 1) j s = ((s.request r).modSbd descriptorAsked).pump ∧ r.pop = 2 ∧ r.flow = s.trayFlow j.job.ctx m
      ∧ r.ctx = j.job.ctx ∧ r.owner = .sbd ∧ r.w2.toNat = off % 2 ^ 48 ∧ r.len = (g.len + 31) / 32 - 1 := by
  obtain ⟨r, hgather, hr⟩ := gather_tray (c := j.job.ctx) htray h₀ h₁ .sbd (sbdPage 0) 0 0
  have hask : s.sbdGather j.job.ctx 1 [g] = (false, ((s.request r).modSbd descriptorAsked).pump) := by
    rw [State.sbdGather, hgather]
    rfl
  obtain ⟨refuse, further, hwalk⟩ := sbdWalk_phases .clean fuel j s
  refine ⟨r, ?_, hr⟩
  rw [hwalk]
  simp only [haddr, hreach, segsHeld_tray htray, hphase, hask, Bool.false_eq_true, if_false, if_true, ne_eq, not_true_eq_false]

theorem jobStart_asks {g : Seg} {m off : Nat} (ha : Awake s) (hidle : s.sbd.running = none) (hadmits : s.sbdAdmits = true)
    (hqueue : s.sbd.queue = q :: rest) (hwaiting : s.sbd.waiting = []) (hctx : q.ctx ∉ s.upe.halted) (haddr : q.addr % 32 = 0)
    (hreach : (s.reach 0 (some q.ctx) q.addr 144 false).1 = .ok [g]) (hlen : g.len = 144) (htray : s.trayOf g = some (m, off))
    (hunsent : s.fab.unsent = []) (hcached : s.cached (s.trayFlow q.ctx m) = none) :
    Answers (.sbdJobStart .clean) s fun s' => s'.sbd.queue = rest ∧
      (∃ j, s'.sbd.running = some j ∧ j.job = q ∧ j.code = 0 ∧ j.phase = 1 ∧ j.left = 1)
      ∧ (∃ r, s'.fab.unsent = [{ req := r }] ∧ r.pop = 2 ∧ r.flow = s.trayFlow q.ctx m ∧ r.ctx = q.ctx ∧ r.owner = .sbd ∧ r.len = 4
        ∧ r.w2.toNat = off % 2 ^ 48)
      ∧ TilesSame s s' ∧ MemSame s s' := by
  have hplaces : SamePlaces s (s.sbdTaken q rest) := ⟨fun _ _ => rfl, fun _ => rfl, rfl, rfl, rfl⟩
  obtain ⟨r, hwalk, hpop, hrflow, hrctx, hrowner, hrw2, hrlen⟩ := sbdWalk_asks (j := { job := q }) haddr rfl (reach_congr hplaces hreach)
    htray (by omega) (by omega) 2
  obtain ⟨htiles, hbytes, hsbd, -⟩ := request_offTiles (s.sbdTaken q rest) r
  obtain ⟨hpump, hone⟩ := pump_request (s₁ := s.sbdTaken q rest) (s₂ := ((s.sbdTaken q rest).request r).modSbd descriptorAsked) rfl rfl hunsent
    (hrflow ▸ hcached)
  have hrun : (((s.sbdTaken q rest).request r).modSbd descriptorAsked).sbd.running = some (descriptorAsked { job := q }) := by
    rw [State.modSbd, hsbd]
    rfl
  refine ⟨_, jobStart_walks ha hidle hadmits hqueue hwaiting hctx, ?_⟩
  rw [hwalk, hpump, sbdStep_undone hrun fun h => absurd h.1 (show 1 ≠ 3 by decide)]
  exact ⟨congrArg Sbd.queue hsbd, ⟨_, hrun, rfl, rfl, rfl, rfl⟩,
    ⟨r, hone, hpop, hrflow, hrctx, hrowner, by rw [hrlen, hlen], hrw2⟩, htiles, hbytes⟩

/-! ## What the end of a job tells (R190, R212) -/

theorem tilesSame_of_tiles (h : s₁.tiles = s.tiles) : TilesSame s s₁ := fun u => by rw [State.tile, h, State.tile]

theorem commit_of_bur (h : s₁.bur = s.bur) (c : Nat) : s₁.commit c = s.commit c := by rw [State.commit, h, State.commit]

/-- Tiles, memory and the Bureau's records are as before, and no event is taken back. -/
structure OnlyTells (s s' : State) : Prop where
  tiles  : s'.tiles = s.tiles
  mem    : s'.mem = s.mem
  bur    : s'.bur = s.bur
  raised : ∀ n b, Raised n b s → Raised n b s'

theorem OnlyTells.refl (s : State) : OnlyTells s s := ⟨rfl, rfl, rfl, fun _ _ h => h⟩

theorem OnlyTells.trans (h₁ : OnlyTells s s₁) (h₂ : OnlyTells s₁ s₂) : OnlyTells s s₂ :=
  ⟨h₂.tiles.trans h₁.tiles, h₂.mem.trans h₁.mem, h₂.bur.trans h₁.bur, fun n b h => h₂.raised n b (h₁.raised n b h)⟩

theorem count_onlyTells (s : State) (n i : Nat) (c : Option Nat) (k : Nat) : OnlyTells s (s.count n i c k) :=
  ⟨count_tiles .., count_mem .., count_bur .., fun m b h => by rwa [Raised, page_count_cause]⟩

theorem event_keeps_raised (s : State) (n b : Nat) {m i : Nat} (h : Raised m i s) : Raised m i (s.event n b) := by
  have hcause : (s.modPage n fun p => { p with cause := p.cause ||| (1#48 <<< b) }).page m
      = if m = n then { s.page n with cause := (s.page n).cause ||| (1#48 <<< b) } else s.page m := by
    split
    next hm => rw [hm, page_modPage_same]
    next hm => rw [page_modPage_other _ _ _ _ hm]
  have hkept : ((s.modPage n fun p => { p with cause := p.cause ||| (1#48 <<< b) }).page m).cause.getLsbD i = true := by
    rw [hcause]
    split
    next hm =>
      rw [Raised, hm] at h
      simp [h]
    next hm => exact h
  unfold Raised State.event
  dsimp only
  split
  · exact hkept
  · rw [page_queueRec_cause]
    exact hkept

theorem event_onlyTells (s : State) (n b : Nat) : OnlyTells s (s.event n b) :=
  ⟨event_tiles .., event_mem .., event_bur .., fun _ _ h => event_keeps_raised s n b h⟩

theorem drained_onlyTells (s : State) (n : Nat) : OnlyTells s (s.drained n) := by
  unfold State.drained
  split
  · refine OnlyTells.trans (s₁ := s.modPage n _) ⟨rfl, rfl, rfl, fun m b h => ?_⟩ (event_onlyTells _ n 3)
    exact (congrArg (fun p : BitVec 48 => p.getLsbD b) (modPage_keeps s Page.cause n m _ (by intro p; rfl))).trans h
  · exact .refl s

theorem sbdCount_onlyTells (s : State) (ctx i n : Nat) : OnlyTells s (s.sbdCount ctx i n) := by
  unfold State.sbdCount
  dsimp only
  refine List.foldlRecOn (motive := fun r : State × Nat => OnlyTells s r.1) _ _ ⟨rfl, rfl, rfl, fun _ _ h => h⟩ fun r hr st _ => ?_
  exact hr.trans (count_onlyTells ..)

/-! ## SBD_JOB_COMPLETE (R190, R199, R212) -/

/-- The time of a job is counted on every stack (R212). -/
def State.sbdTimed (s : State) (ctx busyNs : Nat) : State := (List.range 4).foldl (fun s st => s.count (sbdPage st) 11 (some ctx) busyNs) s

/-- A served job's counters and events (R212). -/
def State.sbdServed (s : State) (j : SbdRun) : State :=
  let s := (s.count (sbdPage 0) 0 (some j.job.ctx)).event (sbdPage 0) 4
  let s := if j.passed then s.event (sbdPage 0) 6 else s
  (j.counts.mapIdx fun i n => (i + 2, n)).foldl (fun s y => s.sbdCount j.job.ctx y.1 y.2) s

/-- A refused job's counter and event, and its charge (R212, R350). -/
def State.sbdRefused (s : State) (j : SbdRun) : State :=
  ((s.count (sbdPage 0) 1 (some j.job.ctx)).event (sbdPage 0) 5).chargeRefusal j.job.ctx j.code

/-- The Sideboards are free: held starts take the places that have come free, and a quiescing block may be quiesced. -/
def State.sbdFreed (s : State) : State :=
  (List.range 4).foldl (fun s st => s.drained (sbdPage st)) (State.sbdFill { s with sbd := { s.sbd with running := none } })

theorem sbdTimed_onlyTells (s : State) (ctx busyNs : Nat) : OnlyTells s (s.sbdTimed ctx busyNs) :=
  foldl_keeps (OnlyTells s) _ (fun _ _ h => h.trans (count_onlyTells ..)) _ _ (.refl s)

theorem sbdServed_tells (s : State) (j : SbdRun) : OnlyTells s (s.sbdServed j) ∧ Raised (sbdPage 0) 4 (s.sbdServed j) := by
  have hdone : OnlyTells s ((s.count (sbdPage 0) 0 (some j.job.ctx)).event (sbdPage 0) 4) := (count_onlyTells ..).trans (event_onlyTells ..)
  have hraised := event_raised (s := s.count (sbdPage 0) 0 (some j.job.ctx)) (sbdPage 0) 4 (by decide)
  generalize hs₁ : (s.count (sbdPage 0) 0 (some j.job.ctx)).event (sbdPage 0) 4 = s₁ at hdone hraised
  have hpassed : OnlyTells s₁ (if j.passed then s₁.event (sbdPage 0) 6 else s₁) := by
    split
    · exact event_onlyTells ..
    · exact .refl s₁
  have hcounts := foldl_keeps (OnlyTells s₁) (fun s (y : Nat × Nat) => s.sbdCount j.job.ctx y.1 y.2) (fun _ _ h => h.trans (sbdCount_onlyTells ..))
    (j.counts.mapIdx fun i n => (i + 2, n)) _ hpassed
  simp only [State.sbdServed, hs₁]
  exact ⟨hdone.trans hcounts, hcounts.raised _ _ hraised⟩

theorem sbdRefused_tells (s : State) (j : SbdRun) : (s.sbdRefused j).tiles = s.tiles ∧ (s.sbdRefused j).mem = s.mem
    ∧ Raised (sbdPage 0) 5 (s.sbdRefused j)
    ∧ ((s.commit j.job.ctx).voted = false → ((s.sbdRefused j).commit j.job.ctx).refused = (s.commit j.job.ctx).refused + 1) := by
  have htells : OnlyTells s ((s.count (sbdPage 0) 1 (some j.job.ctx)).event (sbdPage 0) 5) := (count_onlyTells ..).trans (event_onlyTells ..)
  have hraised := event_raised (s := s.count (sbdPage 0) 1 (some j.job.ctx)) (sbdPage 0) 5 (by decide)
  refine ⟨htells.tiles, htells.mem, hraised, fun hvoted => ?_⟩
  rw [State.sbdRefused, State.chargeRefusal, commit_modCommit_same, commit_of_bur htells.bur, if_neg (by rw [hvoted]; decide)]

theorem sbdFreed_tells (s : State) : OnlyTells s s.sbdFreed ∧ s.sbdFreed.sbd.running = none := by
  obtain ⟨b, hfill, -, hrunning⟩ := sbdFill_moves { s with sbd := { s.sbd with running := none } }
  rw [State.sbdFreed, hfill]
  have htells := foldl_keeps (OnlyTells s) (fun s st => s.drained (sbdPage st)) (fun _ _ h => h.trans (drained_onlyTells ..)) (List.range 4)
    { s with sbd := b } ⟨rfl, rfl, rfl, fun _ _ h => h⟩
  have hframe := foldl_keeps (PageFrame { s with sbd := b }) (fun s st => s.drained (sbdPage st)) (fun _ _ h => h.trans (drained_pageFrame ..))
    (List.range 4) { s with sbd := b } (.refl _)
  obtain ⟨-, -, -, -, hsbd, -⟩ := hframe
  exact ⟨htells, (congrArg Sbd.running hsbd).trans hrunning⟩

/-- A job that has come about and has no DONE word. -/
def Quietly (s : State) (j : SbdRun) : Prop := s.sbd.running = some j ∧ j.phase = 3 ∧ j.left = 0 ∧ j.done = none ∧ j.fatal = false

theorem jobComplete_serves {j : SbdRun} (ha : Awake s) (hj : Quietly s j) (hcode : j.code = 0) (busyNs : Nat) :
    exec (.sbdJobComplete busyNs) s =
      .next ((((s.flushWrites (some j.job.ctx) sbdMem).sbdTimed j.job.ctx busyNs).sbdServed j).sbdFreed) := by
  obtain ⟨hrun, hphase, hleft, hdone, hfatal⟩ := hj
  show execSbdJobComplete busyNs s = _
  simp only [execSbdJobComplete, awake_of_Awake ha, hrun, hphase, hleft, hdone, hfatal, hcode]
  rfl

/-- Writes of a job that is refused are dropped. -/
def State.sbdDropped (s : State) : State := s.modMem fun m => { m with writes := m.writes.filter fun w => decide (w.id ≠ sbdMem) }

theorem jobComplete_refuses {j : SbdRun} (ha : Awake s) (hj : Quietly s j) (hcode : j.code ≠ 0) (busyNs : Nat) :
    exec (.sbdJobComplete busyNs) s = .next (((s.sbdDropped.sbdTimed j.job.ctx busyNs).sbdRefused j).sbdFreed) := by
  obtain ⟨hrun, hphase, hleft, hdone, hfatal⟩ := hj
  show execSbdJobComplete busyNs s = _
  simp only [execSbdJobComplete, awake_of_Awake ha, hrun, hphase, hleft, hdone, hfatal, hcode]
  rfl

/-- Settles O22: the queue, the two starts of its oldest job, and the two ends of a job. -/
theorem sideboardJobs : Obligations.SideboardJobs := by
  intro s ha
  refine ⟨fun a addr ctx hsource => jobGo_joins ha hsource addr ctx, fun q rest hidle hadmits hqueue hwaiting hctx => ⟨fun haddr => ?refuses,
    fun g m off haddr hreach hlen htray hunsent hcached => ?asks⟩,
    fun j busyNs hrun hphase hleft hdone hfatal => ⟨fun hcode w hw => ?served, fun hcode => ?refused⟩⟩
  case refuses => exact jobStart_refuses ha hidle hadmits hqueue hwaiting hctx haddr
  case asks => exact jobStart_asks ha hidle hadmits hqueue hwaiting hctx haddr hreach hlen htray hunsent hcached
  case served =>
    obtain ⟨hflush, -⟩ := flushWrites_frame s (some j.job.ctx) sbdMem
    have hbyte := flushWrites_byte_one s (some j.job.ctx) hw
    have htimed := sbdTimed_onlyTells (s.flushWrites (some j.job.ctx) sbdMem) j.job.ctx busyNs
    obtain ⟨hserved, hraised⟩ := sbdServed_tells ((s.flushWrites (some j.job.ctx) sbdMem).sbdTimed j.job.ctx busyNs) j
    obtain ⟨hfreed, hnone⟩ := sbdFreed_tells (((s.flushWrites (some j.job.ctx) sbdMem).sbdTimed j.job.ctx busyNs).sbdServed j)
    have hall := (htimed.trans hserved).trans hfreed
    refine ⟨_, jobComplete_serves ha ⟨hrun, hphase, hleft, hdone, hfatal⟩ hcode busyNs, hnone, hfreed.raised _ _ hraised,
      tilesSame_of_tiles (hall.tiles.trans hflush.tiles), fun a => ?_⟩
    rw [hall.mem, hbyte]
  case refused =>
    have htimed := sbdTimed_onlyTells s.sbdDropped j.job.ctx busyNs
    obtain ⟨htiles, hmem, hraised, hcharged⟩ := sbdRefused_tells (s.sbdDropped.sbdTimed j.job.ctx busyNs) j
    obtain ⟨hfreed, hnone⟩ := sbdFreed_tells ((s.sbdDropped.sbdTimed j.job.ctx busyNs).sbdRefused j)
    refine ⟨_, jobComplete_refuses ha ⟨hrun, hphase, hleft, hdone, hfatal⟩ hcode busyNs, hnone, hfreed.raised _ _ hraised,
      tilesSame_of_tiles (hfreed.tiles.trans (htiles.trans htimed.tiles)), fun a => ?_, fun hvoted => ?_⟩
    · rw [hfreed.mem, hmem, htimed.mem]
      rfl
    · have hcommit (c : Nat) : (s.sbdDropped.sbdTimed j.job.ctx busyNs).commit c = s.commit c := commit_of_bur (s := s) htimed.bur c
      rw [commit_of_bur hfreed.bur, hcharged (by rw [hcommit, hvoted]), hcommit]

end Sys2Proof.Machine
end

section
/-! UPE_JOB_START (R117, R229 to R233, R250): an input stream whose hint is discard-after-last-use loses what a dirty line of the cache held, so
memory is not as before: O26 fails. -/

namespace Sys2Proof.Machine

open Sys2Proof Sys2Proof.Spec

/-! ## A job that discards what it reads -/

/-- A page whose CTL holds ENABLE and nothing else. -/
def enabledPage : Page := { words := [(2, 1)] }

/-- The first GiB of context 0 is local memory that the cache allocates no line of. The job of its ring 0 lies at 0x1000 and is released: one
element, copied from 0x3000 (stream 0, its hint discard) to 0x4000 (stream 6) by the one instruction at 0x2000. The line of 0x3000 is in the
cache, and dirty: its first byte is 1, where the stack holds 0. -/
def discardingJob : State :=
  { State.reset with
    pkg   := { porst := false, powered := BitVec.allOnes 72 }
    pages := [(hmcPage 0, enabledPage), (upePage 0, enabledPage)]
    key   := { descs := [(0, { w0 := 1 })] }
    upe   := { rings := [(0, { base := 0x1000, jobs := 1, en := true, head := some 0 })] }
    mem   := { hbm   := [(0, 0x87), (0x1000, 1), (0x1008, 1), (0x1011, 0x20), (0x1051, 0x30), (0x105E, 3), (0x10B1, 0x40),
                         (0x2000, 0x48), (0x2002, 1)]
               delta := [(0x3000, 1)]
               lines := [(0x30, { there := true, dirty := true })] } }

theorem discardingJob_awake : Awake discardingJob := ⟨rfl, rfl, rfl, rfl⟩

/-- What lies inside one page of context 0 is one piece of local memory, at the address that names it. -/
theorem discardingJob_local {va n : Nat} {write : Bool}
    (hreach : (discardingJob.reach 0 (some 0) va n write).1 = .ok [{ va := va, pa := va, len := n, noalloc := true, kind := 0 }])
    (hplace : discardingJob.localOf { va := va, pa := va, len := n, noalloc := true, kind := 0 } = some va)
    (hfree : discardingJob.segsHeld [{ va := va, pa := va, len := n, noalloc := true, kind := 0 }] = false) :
    LocalAt discardingJob 0 0 va n write va := ⟨_, hreach, hplace, rfl, hfree⟩

/-- The streams of the job: input 0, whose hint is discard, and output 0. -/
def discardedStream : UStream := { k := 0, addr := 0x3000, fmt := 0, hint := 3, bank := 0, spar := false, frozen := false, base := 0x3000 }
def copiedStream : UStream := { k := 6, addr := 0x4000, fmt := 0, hint := 0, bank := 0, spar := false, frozen := false, base := 0x4000 }

/-- The byte at address a once command c has been answered. -/
def byteAfter (c : Instr) (s : State) (a : Nat) : Option Byte := match exec c s with | .next s' => some (s'.mem.byte a) | _ => none

theorem byteAfter_next {c : Instr} {s s' : State} (h : exec c s = .next s') (a : Nat) : byteAfter c s a = some (s'.mem.byte a) := by
  rw [byteAfter, h]

/-- The dirty line goes with the read of the stream, and 0x3000 reads as the stack holds it. -/
theorem discardingJob_discards :
    discardingJob.mem.byte 0x3000 = 1 ∧ byteAfter (.upeJobStart 0 0 0 0 .clean) discardingJob 0x3000 = some 0 := by decide

/-- Refutes O26: a job that starts is said to leave every byte of memory as it was, whatever the hints of its streams. R117 gives a stream of a
job the discard hint too, and R250 suppresses the write-back of a dirty line that such a read discards, so the line's bytes are lost. -/
theorem not_updateJobs : ¬ Obligations.UpdateJobs := by
  intro h
  obtain ⟨-, hstart, -⟩ := h discardingJob 0 0 0 0x1000 0x1040 discardingJob_awake rfl (by decide) (by decide)
    (discardingJob_local (by decide) (by decide) (by decide)) (discardingJob_local (by decide) (by decide) (by decide)) rfl
    (fun i => (descAt discardingJob 0x1000).getD i 0) fun _ => rfl
  obtain ⟨-, hcomputes⟩ := hstart 0 (by decide) (by decide) (by decide) rfl (by decide)
  obtain ⟨s', hexec, -, -, -, hsame, -⟩ := hcomputes 1 0x2000 0x3000 0x4000 [einsOf 0x10048] discardedStream copiedStream
    (by decide) (by decide) (by decide) (discardingJob_local (by decide) (by decide) (by decide)) (by decide) (by decide) (by decide)
    (by decide) (by decide) (by decide) (by decide) (by decide) (by rintro z (rfl | rfl) <;> decide)
    (discardingJob_local (by decide) (by decide) (by decide)) (discardingJob_local (by decide) (by decide) (by decide)) (by decide)
  obtain ⟨hbefore, hafter⟩ := discardingJob_discards
  have hlost : s'.mem.byte 0x3000 = 0 := Option.some.inj ((byteAfter_next hexec 0x3000).symm.trans hafter)
  exact absurd (hlost.symm.trans ((hsame 0x3000).trans hbefore)) (by decide)

end Sys2Proof.Machine
end

section
/-! UPE_ROLLBACK (R227): a rollback zeroes the READY words of served rings, so memory is not as before. RingTables claims that it is in a clause
whose hypothesis no ring has to satisfy: O25 fails. -/

namespace Sys2Proof.Machine

open Sys2Proof Sys2Proof.Spec

/-! ## A rollback that clears a READY word -/

/-- The first GiB of context 0 is local memory. Its ring 4, the second on UPE 0, is served: its one job lies at 0x1000 and is released, the READY
word at 0x1040 being 1. The ring table lies beyond local HBM, so that the rollback finds no entry in it. -/
def releasedJob : State :=
  { State.reset with
    pkg   := { porst := false, powered := BitVec.allOnes 72 }
    pages := [(hmcPage 0, enabledPage), (upePage 0, { words := [(2, 1), (32, 2 ^ 51)] })]
    key   := { descs := [(0, { w0 := 1 })] }
    upe   := { rings := [(ringKey 0 4, { base := 0x1000, jobs := 1, en := true })] }
    mem   := { hbm := [(0, 0x87), (0x1040, 1)] } }

theorem releasedJob_byBureau : ByBureau releasedJob ⟨.bureau, none⟩ (upePage 0) :=
  ⟨⟨rfl, rfl, rfl, rfl⟩, rfl, fun h => absurd h (by decide)⟩

/-- In `Fin 4` the literal 8 is 0: no `r` lies below it. -/
theorem not_lt_eight (r : Fin 4) : ¬ r < 8 := Fin.not_lt_zero r

/-- The rollback, by the provider, of context 0 on UPE 0 zeroes the READY word. -/
theorem releasedJob_rolledBack :
    releasedJob.mem.byte 0x1040 = 1 ∧ byteAfter (.upeRollback ⟨.bureau, none⟩ 0 0) releasedJob 0x1040 = some 0 := by decide

/-- The clause on a rollback without served rings speaks of this state too, and would keep the READY word. -/
theorem not_ringTables : ¬ Spec.RingTables := by
  intro h
  obtain ⟨-, -, -, -, hunserved, -⟩ := h releasedJob ⟨.bureau, none⟩ 0 0 releasedJob_byBureau
  obtain ⟨s', hexec, -, -, -, hsame⟩ := hunserved rfl fun r hr => absurd hr (not_lt_eight r)
  obtain ⟨hbefore, hafter⟩ := releasedJob_rolledBack
  have hcleared : s'.mem.byte 0x1040 = 0 := Option.some.inj ((byteAfter_next hexec 0x1040).symm.trans hafter)
  exact absurd (hcleared.symm.trans ((hsame 0x1040).trans hbefore)) (by decide)

/-- Refutes O25: a rollback is said to leave every byte of memory as it was where no ring of the context is served, but the statement's
`∀ r, r < 8 → r % 4 = st → …` is over `r : Fin 4`, the type of `st`, where 8 is 0. The hypothesis is then met by every state, also by one with a
served ring, whose READY words R227 has zeroed. (Rings `st + 4` are outside `Fin 4` in any case.) The fault is the statement's: with `r` a
natural number this state does not satisfy the hypothesis. -/
theorem not_tables : ¬ Obligations.Tables := fun h => not_ringTables h.1

end Sys2Proof.Machine
end

section
/-! The maintenance of cache lines (R246, R252): lines written back, cleaned and given up over a die, with every byte reading as before. -/

namespace Sys2Proof.Machine

open Sys2Proof Sys2Proof.Spec

/-! ## One line -/

theorem line_setLine (m : Mem) (l k : Nat) (x : Line) : (m.setLine l x).line k = if k = l then x else m.line k := Tab.get_set ..

theorem Mem.clean_byte (m : Mem) (l a : Nat) : (m.clean l).byte a = m.byte a := Mem.writeBack_byte m l a

/-- What an upkeep operation makes of the line it is for; no other line changes. -/
def ActsOnLine (f : Mem → Nat → Mem) (g : Line → Line) : Prop := ∀ m l k, (f m l).line k = if k = l then g (m.line l) else m.line k

theorem evict_actsOnLine : ActsOnLine Mem.evict fun _ => {} := fun m l k => line_setLine (m.writeBack l) l k {}

theorem clean_actsOnLine : ActsOnLine Mem.clean fun x => { x with dirty := false } := fun m l k =>
  line_setLine (m.writeBack l) l k { m.line l with dirty := false }

/-! ## The lines of a die -/

/-- Nothing of the memory system changes but what stacks and lines hold. -/
def LinesOnly (m m' : Mem) : Prop := ∃ h d ls, m' = { m with hbm := h, delta := d, lines := ls }

theorem LinesOnly.refl (m : Mem) : LinesOnly m m := ⟨_, _, _, rfl⟩

theorem LinesOnly.trans {m m₁ m₂ : Mem} (h₁ : LinesOnly m m₁) (h₂ : LinesOnly m₁ m₂) : LinesOnly m m₂ := by
  obtain ⟨_, _, _, rfl⟩ := h₁
  obtain ⟨h, d, ls, rfl⟩ := h₂
  exact ⟨h, d, ls, rfl⟩

/-- An upkeep operation on one line: a given effect on the line, no byte's value changed, nothing else touched. -/
structure Upkeep (f : Mem → Nat → Mem) (g : Line → Line) : Prop where
  line : ActsOnLine f g
  byte : ∀ m l a, (f m l).byte a = m.byte a
  only : ∀ m l, LinesOnly m (f m l)

theorem evict_upkeep : Upkeep Mem.evict fun _ => {} := ⟨evict_actsOnLine, Mem.evict_byte, fun _ _ => ⟨_, _, _, rfl⟩⟩

theorem clean_upkeep : Upkeep Mem.clean fun x => { x with dirty := false } := ⟨clean_actsOnLine, Mem.clean_byte, fun _ _ => ⟨_, _, _, rfl⟩⟩

section onLines

variable {f : Mem → Nat → Mem} {g : Line → Line} (hf : Upkeep f g)
include hf

/-- Listed lines have changed, perhaps more than once; the others have not. -/
theorem foldl_line (hg : ∀ x, g (g x) = g x) (es : List (Nat × Line)) (l : Nat) : ∀ m : Mem,
    (es.foldl (fun m e => f m e.1) m).line l = if l ∈ es.map Prod.fst then g (m.line l) else m.line l := by
  induction es with
  | nil => exact fun m => rfl
  | cons e es ih =>
    intro m
    rw [List.foldl_cons, ih, hf.line]
    by_cases hl : l = e.1
    · subst hl
      simp [hg]
    · rw [if_neg hl, List.map_cons]
      simp only [List.mem_cons, hl, false_or]

theorem onLines_byte (m : Mem) (die : Nat) (p : Line → Bool) (a : Nat) : (m.onLines die p f).byte a = m.byte a :=
  List.foldlRecOn (motive := fun m' => m'.byte a = m.byte a) _ _ rfl fun m' hm' e _ => (hf.byte m' e.1 a).trans hm'

theorem onLines_only (m : Mem) (die : Nat) (p : Line → Bool) : LinesOnly m (m.onLines die p f) :=
  List.foldlRecOn (motive := LinesOnly m) _ _ (.refl m) fun m' hm' e _ => hm'.trans (hf.only m' e.1)

variable (hg : ∀ x, g (g x) = g x)
include hg

/-- A line is changed or as it was. -/
theorem onLines_line (m : Mem) (die : Nat) (p : Line → Bool) (l : Nat) :
    (m.onLines die p f).line l = g (m.line l) ∨ (m.onLines die p f).line l = m.line l := by
  rw [Mem.onLines, foldl_line hf hg]
  split
  · exact .inl rfl
  · exact .inr rfl

/-- The lines of other dies are as they were. -/
theorem onLines_line_other (m : Mem) {die : Nat} (p : Line → Bool) {l : Nat} (h : lineDie l ≠ die) : (m.onLines die p f).line l = m.line l := by
  rw [Mem.onLines, foldl_line hf hg, if_neg]
  intro hl
  obtain ⟨e, he, rfl⟩ := List.mem_map.1 hl
  obtain ⟨-, he⟩ := List.mem_filter.1 he
  simp [h] at he

/-- The lines of the die that are meant are changed: one that is present is listed. -/
theorem onLines_line_meant (m : Mem) {die : Nat} {p : Line → Bool} {l : Nat} (hdie : lineDie l = die) (hthere : (m.line l).there = true)
    (hp : p (m.line l) = true) : (m.onLines die p f).line l = g (m.line l) := by
  have hlisted : (l, m.line l) ∈ m.lines := (get_eq_or_mem ({} : Line) m.lines l).resolve_left fun h => by
    rw [Mem.line, h] at hthere
    cases hthere
  rw [Mem.onLines, foldl_line hf hg, if_pos]
  exact List.mem_map.2 ⟨_, List.mem_filter.2 ⟨hlisted, by simp [hdie, hthere, hp]⟩, rfl⟩

/-- Where the operation makes of no line one that is meant, none is left. -/
theorem onLines_none (m : Mem) {die : Nat} {p : Line → Bool} (hnone : ∀ x, ¬ ((g x).there = true ∧ p (g x) = true)) {l : Nat} (hdie : lineDie l = die) :
    ¬ (((m.onLines die p f).line l).there = true ∧ p ((m.onLines die p f).line l) = true) := by
  by_cases hmeant : (m.line l).there = true ∧ p (m.line l) = true
  · rw [onLines_line_meant hf hg m hdie hmeant.1 hmeant.2]
    exact hnone _
  · obtain h | h := onLines_line hf hg m die p l <;> rw [h]
    · exact hnone _
    · exact hmeant

end onLines

end Sys2Proof.Machine
end

section
/-! XLAT_GO, XLAT_DONE, FLUSH, MSC_INVAL_ALL, FLUSH_DONE, HALF_OFF and HALF_EMPTY (R244, R252): O43. -/

namespace Sys2Proof.Machine

open Sys2Proof Sys2Proof.Spec

variable {s : State} {a : Access} {st : Fin 4}

/-! ## The MSC pages -/

theorem mscPage_msc : ∀ st : Fin 4, blockOf (mscPage st) = .msc ∧ dieOf (mscPage st) = st ∧ mscPage st < 1781 ∧ mscPage st ≠ pwrPage := by decide

/-- What the Bureau may do to one MSC page, it may do to each: they are on the base dies. -/
theorem byBureau_mscPage (hb : ByBureau s a (mscPage st)) (st' : Fin 4) : ByBureau s a (mscPage st') := by
  obtain ⟨hawake, hsource, -⟩ := hb
  exact ⟨hawake, hsource, fun h => by unfold mscPage basePage at h; omega⟩

/-! ## Invalidation of translations (R244) -/

/-- A write of XLAT on the page of stack 0 sets plain fields, and acts. -/
theorem xlatWrite_acts {o : Nat} {mask : Word} (ho : o = 0x118 ∨ o = 0x120 ∨ o = 0x128)
    (hmask : classMask (mscPage 0) o (fun x => decide (x = .rw)) = mask) (s : State) (val : Word) :
    ∃ w, (∀ i, mask.getLsbD i = true → w.getLsbD i = val.getLsbD i)
      ∧ s.regWriteAt none (mscPage 0) o val = (s.setRaw (mscPage 0) o w).blockAct (mscPage 0) o val true := by
  have hblock : blockOf (mscPage 0) = .msc := by decide
  have hpwr : mscPage 0 ≠ pwrPage := by decide
  refine ⟨_, fun i hi => getLsbD_merged (s.raw (mscPage 0) o) val mask hi, ?_⟩
  have hplain : classMask (mscPage 0) o (fun x => decide (x = .rwl)) = 0 ∧ classMask (mscPage 0) o (fun x => decide (x = .rws)) = 0
      ∧ classMask (mscPage 0) o (fun x => decide (x = .w1c)) = 0 ∧ elsewhere (mscPage 0) o = false := by
    rcases ho with rfl | rfl | rfl <;> decide
  obtain ⟨hrwl, hrws, hw1c, helse⟩ := hplain
  have hoff : o ≠ 0x010 ∧ o ≠ 0x018 ∧ o ≠ 0x020 ∧ o ≠ 0x030 ∧ o < 0xC00 ∧ o ≠ 0x108 := by omega
  obtain ⟨h1, h2, h3, h4, h5, h6⟩ := hoff
  simp only [State.regWriteAt, h1, h2, h3, h4, h6, Nat.not_le.2 h5, helse, hpwr, hblock, and_false, false_and, if_false, Bool.false_eq_true, or_self,
    reduceCtorEq, writeFields_plain (s := s) hmask hrwl hrws hw1c val, Bool.not_false]

/-- What such a write does beyond its fields: GO is a bit of XLAT. -/
theorem xlatAct_eq (s : State) (o : Nat) (val : Word) (ok : Bool) : s.blockAct (mscPage 0) o val ok =
    if o = 0x118 ∧ val.getLsbD 9 ∧ dieOf (mscPage 0) = 0 then s.xlatAct else s := rfl

/-- The state with the range written and the word w in XLAT. -/
def State.xlatWritten (s : State) (base pages w : Word) : State :=
  ((s.setRaw (mscPage 0) 0x120 base).setRaw (mscPage 0) 0x128 pages).setRaw (mscPage 0) 0x118 w

/-- XLAT_GO writes the range, then the context with GO, which acts. The word it writes is laid out as ERASE's. -/
theorem xlatGo_acts (hb : ByBureau s a (mscPage 0)) (c : Fin 256) (all : Bool) (b n : BitVec 27) :
    ∃ base pages w, (bits w 0 8 = c ∧ w.getLsbD 8 = all) ∧ exec (.xlatGo a c all b n) s = .next (s.xlatWritten base pages w).xlatAct := by
  obtain ⟨hctx, hall, hgo⟩ := eraseWord_fields c all
  obtain ⟨base, -, hbase⟩ := xlatWrite_acts (.inr (.inl rfl)) rfl s (BitVec.ofNat 64 (b.toNat * 2 ^ 21))
  obtain ⟨pages, -, hpages⟩ := xlatWrite_acts (.inr (.inr rfl)) rfl (s.setRaw (mscPage 0) 0x120 base) (n.setWidth 64)
  obtain ⟨w, hw, hgone⟩ := xlatWrite_acts (mask := 0x1FF) (.inl rfl) rfl ((s.setRaw (mscPage 0) 0x120 base).setRaw (mscPage 0) 0x128 pages)
    (eraseWord c all)
  have hlow (i : Nat) (hi : i < 9) : w.getLsbD i = (eraseWord c all).getLsbD i := hw i (by revert i; decide)
  refine ⟨base, pages, w, ⟨(bits_congr hlow (by decide)).trans hctx, (hlow 8 (by decide)).trans hall⟩, ?_⟩
  rw [xlatAct_eq, if_neg (by simp)] at hbase hpages
  rw [xlatAct_eq, if_pos ⟨rfl, hgo, by decide⟩] at hgone
  show Host.Outcome.next (((s.rowWrite a (pageAddr (mscPage 0) 0x120) (BitVec.ofNat 64 (b.toNat * 2 ^ 21))).rowWrite a (pageAddr (mscPage 0) 0x128)
    (n.setWidth 64)).rowWrite a (pageAddr (mscPage 0) 0x118) (eraseWord c all)) = _
  rw [rowWrite_bureau hb (by decide) (by decide) (by decide), hbase,
    rowWrite_bureau (s := s.setRaw (mscPage 0) 0x120 base) hb (by decide) (by decide) (by decide), hpages,
    rowWrite_bureau (s := (s.setRaw (mscPage 0) 0x120 base).setRaw (mscPage 0) 0x128 pages) hb (by decide) (by decide) (by decide), hgone]
  rfl

theorem xlatGo_begins (hb : ByBureau s a (mscPage 0)) (c : Fin 256) (all : Bool) (b n : BitVec 27) (hidle : s.mem.xlatBusy = false) :
    Answers (.xlatGo a c all b n) s fun s' => s'.mem = { s.mem with xlatBusy := true } ∧ TilesSame s s'
      ∧ (s'.raw (mscPage 0) 0x118).toNat % 2 ^ 8 = c ∧ (s'.raw (mscPage 0) 0x118).getLsbD 8 = all := by
  obtain ⟨base, pages, w, ⟨hctx, hall⟩, hrun⟩ := xlatGo_acts hb c all b n
  have hact : (s.xlatWritten base pages w).xlatAct = (s.xlatWritten base pages w).xlatGoAct := if_neg (by simp [State.xlatWritten, hidle])
  have hraw : (s.xlatWritten base pages w).xlatGoAct.raw (mscPage 0) 0x118 = w := raw_setRaw_same ..
  refine ⟨_, hrun, ?_⟩
  rw [hact]
  dsimp only
  rw [hraw, ← bits_zero]
  exact ⟨rfl, fun _ => rfl, hctx, hall⟩

theorem xlatGo_rejected (hb : ByBureau s a (mscPage 0)) (c : Fin 256) (all : Bool) (b n : BitVec 27) (hbusy : s.mem.xlatBusy = true) :
    Answers (.xlatGo a c all b n) s fun s' => Rejected (mscPage 0) 0x118 s s' ∧ s'.mem = s.mem ∧ TilesSame s s' := by
  obtain ⟨base, pages, w, -, hrun⟩ := xlatGo_acts hb c all b n
  have hact : (s.xlatWritten base pages w).xlatAct = (s.xlatWritten base pages w).reject (mscPage 0) 0x118 := if_pos hbusy
  have hword (x : State) (o : Nat) (v : Word) : ((x.setRaw (mscPage 0) o v).page (mscPage 0)).writeRejected = (x.page (mscPage 0)).writeRejected :=
    modPage_keeps x Page.writeRejected _ _ _ fun _ => rfl
  obtain ⟨hbit, hevent, hfirst⟩ := reject_rejected (s := s.xlatWritten base pages w) (mscPage 0) 0x118 (by decide)
  refine ⟨_, hrun, ?_⟩
  rw [hact]
  refine ⟨⟨hbit, hevent, fun h => hfirst ?_⟩, by rw [reject_mem]; rfl, fun t => tile_reject ..⟩
  rw [State.xlatWritten, hword, hword, hword, h]

/-- Once nothing that the invalidation names is under way, DONE becomes 1. -/
theorem xlatDone_ends (ha : Awake s) (hbusy : s.mem.xlatBusy = true) (hfree : ∀ c, c < 256 → s.accessing c = false) : exec .xlatDone s =
    .next (((s.modMem fun m => { m with xlatBusy := false }).event (mscPage 0) 6).drained (mscPage 0)) := by
  have hall : (List.range 256).any s.accessing = false := by
    rw [List.any_eq_false]
    exact fun c hc => by simp [hfree c (List.mem_range.1 hc)]
  have hone : s.accessing (bits (s.raw (mscPage 0) 0x118) 0 8) = false := hfree _ (Nat.mod_lt _ (by decide))
  show execXlatDone s = _
  simp only [execXlatDone, awake_of_Awake ha, hbusy, hall, hone, ite_self, Bool.not_false, Bool.and_self, if_true]

/-- While an access of the named context is under way, DONE stays 0. -/
theorem xlatDone_waits (hone : (s.raw (mscPage 0) 0x118).getLsbD 8 = false)
    (hbusy : s.accessing ((s.raw (mscPage 0) 0x118).toNat % 2 ^ 8) = true) : exec .xlatDone s = .next s := by
  rw [← bits_zero] at hbusy
  show execXlatDone s = _
  simp only [execXlatDone, hone, hbusy, Bool.false_eq_true, if_false, Bool.not_true, Bool.and_false]

/-! ## FLUSH and INVAL_ALL (R252) -/

/-- The bit of a flush that has begun. -/
theorem flushing_set (w : BitVec 4) (st : Fin 4) : (w ||| (1#4 <<< st.val)).getLsbD st = true := by
  have hbit : ∀ st : Fin 4, (1#4 <<< st.val).getLsbD st = true := by decide
  rw [BitVec.getLsbD_or, hbit, Bool.or_true]

theorem flush_writes_back (hb : ByBureau s a (mscPage st)) : Answers (.flush a st) s fun s' => s'.mem.flushing.getLsbD st = true
    ∧ NoLines s' st Line.dirty ∧ (∀ l, (s'.mem.line l).there = (s.mem.line l).there) ∧ MemSame s s' ∧ TilesSame s s' := by
  have hmem : (s.flushAct st false).mem = { s.mem.onLines st Line.dirty Mem.clean with
      flushing := (s.mem.onLines st Line.dirty Mem.clean).flushing ||| (1#4 <<< st.val) } := by
    rw [← countBack_mem s st fun _ => true]
    rfl
  obtain ⟨-, -, hpage, -⟩ := mscPage_msc st
  refine ⟨s.flushAct st false, congrArg Host.Outcome.next (rowDo_bureau hb hpage (by decide) (by decide) _), ?_, fun l hl => ?_, fun l => ?_, fun x => ?_,
    fun t => tile_count ..⟩ <;> rw [hmem]
  · exact flushing_set ..
  · exact onLines_none clean_upkeep (fun _ => rfl) s.mem (fun _ => by simp) hl
  · show ((s.mem.onLines st Line.dirty Mem.clean).line l).there = _
    obtain h | h := onLines_line clean_upkeep (fun _ => rfl) s.mem st Line.dirty l <;> rw [h]
  · exact onLines_byte clean_upkeep s.mem st Line.dirty x

theorem mscInvalAll_empties (hb : ByBureau s a (mscPage st)) : Answers (.mscInvalAll a st) s fun s' => s'.mem.flushing.getLsbD st = true
    ∧ NoLines s' st (fun _ => true) ∧ (∀ l, lineDie l ≠ st → s'.mem.line l = s.mem.line l) ∧ MemSame s s' ∧ TilesSame s s' := by
  have hmem : (s.flushAct st true).mem = { s.mem.onLines st (fun _ => true) Mem.evict with
      flushing := (s.mem.onLines st (fun _ => true) Mem.evict).flushing ||| (1#4 <<< st.val) } := by
    rw [← countBack_mem s st fun _ => true]
    rfl
  obtain ⟨-, -, hpage, -⟩ := mscPage_msc st
  refine ⟨s.flushAct st true, congrArg Host.Outcome.next (rowDo_bureau hb hpage (by decide) (by decide) _), ?_, fun l hl => ?_, fun l hl => ?_, fun x => ?_,
    fun t => tile_count ..⟩ <;> rw [hmem]
  · exact flushing_set ..
  · exact onLines_none evict_upkeep (fun _ => rfl) s.mem (fun _ => by simp) hl
  · exact onLines_line_other evict_upkeep (fun _ => rfl) s.mem _ hl
  · exact onLines_byte evict_upkeep s.mem st _ x

/-! ## Halves that leave and rejoin (R252) -/

/-- The lines of a half of a die. -/
def inHalf (half : Nat) (x : Line) : Bool := decide (x.upper = decide (half = 1))

/-- Lines of a die have been given up at most: no line has come, no byte's value has changed, and no event was taken back. -/
structure GaveUp (die : Nat) (s s' : State) : Prop where
  tiles    : s'.tiles = s.tiles
  flushing : s'.mem.flushing = s.mem.flushing
  byte     : MemSame s s'
  left     : ∀ l, s'.mem.line l = {} ∨ s'.mem.line l = s.mem.line l
  others   : ∀ l, lineDie l ≠ die → s'.mem.line l = s.mem.line l
  events   : EventsKept s s'

theorem GaveUp.refl (die : Nat) (s : State) : GaveUp die s s := ⟨rfl, rfl, fun _ => rfl, fun _ => .inr rfl, fun _ _ => rfl, fun _ _ h => h⟩

theorem GaveUp.trans {die : Nat} {s s₁ s₂ : State} (h₁ : GaveUp die s s₁) (h₂ : GaveUp die s₁ s₂) : GaveUp die s s₂ where
  tiles := h₂.tiles.trans h₁.tiles
  flushing := h₂.flushing.trans h₁.flushing
  byte := fun a => (h₂.byte a).trans (h₁.byte a)
  left := fun l => (h₂.left l).elim .inl fun h => (h₁.left l).imp h.trans h.trans
  others := fun l hl => (h₂.others l hl).trans (h₁.others l hl)
  events := h₁.events.trans h₂.events

/-- Lines that are gone stay away. -/
theorem GaveUp.noLines {die : Nat} {s s' : State} (h : GaveUp die s s') {d : Nat} {p : Line → Bool} (hnone : NoLines s d p) : NoLines s' d p := by
  intro l hl
  obtain hline | hline := h.left l <;> rw [hline]
  · exact fun hthere => absurd hthere.1 (by decide)
  · exact hnone l hl

/-- Settings of the halves only. -/
theorem modMem_gaveUp (die : Nat) (s : State) (off due empty : BitVec 8) :
    GaveUp die s (s.modMem fun m => { m with halfOff := off, halfDue := due, halfEmpty := empty }) :=
  ⟨rfl, rfl, fun _ => rfl, fun _ => .inr rfl, fun _ _ => rfl, fun _ _ h => h⟩

theorem bit_of_half (die half h : Nat) : (1#8 <<< (2 * die + half)).getLsbD (2 * die + h) = (decide (2 * die + h < 8) && decide (h = half)) := by
  rw [BitVec.getLsbD_shiftLeft, BitVec.getLsbD_one, Bool.eq_iff_iff]
  simp
  omega

/-- A half's bit is set, the others stay. -/
theorem off_set (w : BitVec 8) {die half : Nat} (hb : 2 * die + half < 8) (h : Nat) :
    (w ||| (1#8 <<< (2 * die + half))).getLsbD (2 * die + h) = if h = half then true else w.getLsbD (2 * die + h) := by
  rw [BitVec.getLsbD_or, bit_of_half]
  split
  next hh => simp [hh, hb]
  next hh => simp [hh]

/-- A half's bit is cleared, the others stay. -/
theorem off_cleared (w : BitVec 8) (die half h : Nat) :
    (w &&& ~~~(1#8 <<< (2 * die + half))).getLsbD (2 * die + h) = if h = half then false else w.getLsbD (2 * die + h) := by
  rw [BitVec.getLsbD_and, BitVec.getLsbD_not, bit_of_half]
  by_cases hlt : 2 * die + h < 8
  · split
    next hh => simp [hh, hh ▸ hlt]
    next hh => simp [hh, hlt]
  · simp [BitVec.getLsbD_of_ge w _ (Nat.not_lt.1 hlt)]

/-- A half leaves: its lines are given up, and its bit is set. -/
theorem mem_halfAct_off {die half : Nat} (h : s.mem.off die half = false) : (s.halfAct die half true).mem =
    { s.mem.onLines die (inHalf half) Mem.evict with halfOff := s.mem.halfOff ||| (1#8 <<< (2 * die + half)) } := by
  have hmem := countBack_mem s die (inHalf half)
  unfold State.halfAct
  rw [if_neg (by rw [h]; decide), if_pos rfl, ← hmem]
  rfl

/-- A half whose setting does not change is left alone; one that leaves gives up its lines; one that rejoins is empty. -/
theorem halfAct_acts {die half : Nat} (off : Bool) (hb : 2 * die + half < 8) (s : State) :
    GaveUp die s (s.halfAct die half off)
      ∧ (∀ h, (s.halfAct die half off).mem.off die h = if h = half then off else s.mem.off die h)
      ∧ (s.mem.off die half = false → off = true → NoLines (s.halfAct die half off) die (inHalf half)) := by
  by_cases hsame : s.mem.off die half = off
  · have hact : s.halfAct die half off = s := if_pos hsame
    rw [hact]
    refine ⟨.refl die s, fun h => ?_, fun hon hoff => ?_⟩
    · split
      next hh => rw [hh, hsame]
      next => rfl
    · rw [hon, hoff] at hsame
      cases hsame
  cases off with
  | false =>
    have hact : s.halfAct die half false = s.modMem fun m =>
        { m with halfOff := m.halfOff &&& ~~~(1#8 <<< (2 * die + half)), halfEmpty := m.halfEmpty &&& ~~~(1#8 <<< (2 * die + half)) } :=
      (if_neg hsame).trans (if_neg (by decide))
    rw [hact]
    exact ⟨modMem_gaveUp .., off_cleared _ _ _, fun _ h => by cases h⟩
  | true =>
    have hon : s.mem.off die half = false := by simpa using hsame
    have hact := mem_halfAct_off hon
    have htiles : (s.halfAct die half true).tiles = s.tiles := by
      rw [State.halfAct, if_neg hsame, if_pos rfl]
      exact count_tiles ..
    have hevents : EventsKept s (s.halfAct die half true) := by
      rw [State.halfAct, if_neg hsame, if_pos rfl]
      exact fun n b h => count_eventsKept s _ _ _ _ n b h
    have hlines := onLines_line evict_upkeep (fun _ => rfl) s.mem die (inHalf half)
    obtain ⟨_, _, _, honly⟩ := onLines_only evict_upkeep s.mem die (inHalf half)
    refine ⟨⟨htiles, ?_, fun x => ?_, fun l => ?_, fun l hl => ?_, hevents⟩, fun h => ?_, fun _ _ l hl => ?_⟩
    · rw [hact, honly]
    · rw [hact]
      exact onLines_byte evict_upkeep s.mem die (inHalf half) x
    · rw [hact]
      exact hlines l
    · rw [hact]
      exact onLines_line_other evict_upkeep (fun _ => rfl) s.mem _ hl
    · rw [hact]
      exact off_set _ hb h
    · rw [hact]
      exact onLines_none evict_upkeep (fun _ => rfl) s.mem (fun _ => by simp) hl

/-- HALF_OFF is acted on: both halves are as its bits say. -/
theorem halvesAct_acts {die : Nat} (hdie : die < 4) (s : State) : GaveUp die s (s.halvesAct die) ∧ ∀ i, i < 2 →
    (s.halvesAct die).mem.off die i = (s.raw (mscPage die) 0x108).getLsbD (2 + i)
      ∧ (s.mem.off die i = false → (s.raw (mscPage die) 0x108).getLsbD (2 + i) = true → NoLines (s.halvesAct die) die (inHalf i)) := by
  obtain ⟨hgave₀, hoff₀, hnone₀⟩ := halfAct_acts ((s.raw (mscPage die) 0x108).getLsbD 2) (show 2 * die + 0 < 8 by omega) s
  obtain ⟨hgave₁, hoff₁, hnone₁⟩ := halfAct_acts ((s.raw (mscPage die) 0x108).getLsbD 3) (show 2 * die + 1 < 8 by omega)
    (s.halfAct die 0 ((s.raw (mscPage die) 0x108).getLsbD 2))
  have hdue : GaveUp die _ (s.halvesAct die) := modMem_gaveUp die ((s.halfAct die 0 ((s.raw (mscPage die) 0x108).getLsbD 2)).halfAct die 1
    ((s.raw (mscPage die) 0x108).getLsbD 3)) _ _ _
  refine ⟨(hgave₀.trans hgave₁).trans hdue, fun i hi => ?_⟩
  obtain rfl | rfl : i = 0 ∨ i = 1 := by omega
  · exact ⟨(hoff₁ 0).trans (hoff₀ 0), fun hon hbit => (hgave₁.trans hdue).noLines (hnone₀ hon hbit)⟩
  · exact ⟨hoff₁ 1, fun hon hbit => hdue.noLines (hnone₁ ((hoff₀ 1).trans hon) hbit)⟩

/-! ### FLUSH_DONE -/

/-- The state in which a flush has ended. -/
def State.flushEnded (s : State) (st : Nat) : State :=
  (s.modMem fun m => { m with flushing := m.flushing &&& ~~~(1#4 <<< st) }).event (mscPage st) 4

theorem flushing_cleared (w : BitVec 4) (st : Fin 4) : (w &&& ~~~(1#4 <<< st.val)).getLsbD st = false := by
  have hbit : ∀ st : Fin 4, (~~~(1#4 <<< st.val)).getLsbD st = false := by decide
  rw [BitVec.getLsbD_and, hbit, Bool.and_false]

theorem flushDone_ends (ha : Awake s) (h : s.mem.flushing.getLsbD st = true) : exec (.flushDone st) s =
    .next ((if (s.flushEnded st).mem.halfDue.getLsbD (2 * st) then (s.flushEnded st).halvesAct st else s.flushEnded st).drained (mscPage st)) := by
  show execFlushDone st s = _
  simp only [execFlushDone, awake_of_Awake ha, h, Bool.and_self, if_true]
  rfl

theorem flushDone_idle (h : s.mem.flushing.getLsbD st = false) : exec (.flushDone st) s = .next s := by
  show execFlushDone st s = _
  simp only [execFlushDone, h, Bool.and_false, Bool.false_eq_true, if_false]

/-- A HALF_OFF that waited for the end of the flush takes its lines with it, and takes nothing back. -/
theorem flushDone_completes (ha : Awake s) (h : s.mem.flushing.getLsbD st = true) : Answers (.flushDone st) s fun s' =>
    s'.mem.flushing.getLsbD st = false ∧ Raised (mscPage st) 4 s' ∧ MemSame s s' ∧ TilesSame s s' := by
  have hmem : (s.flushEnded st).mem = { s.mem with flushing := s.mem.flushing &&& ~~~(1#4 <<< st.val) } := event_mem ..
  have hdue : GaveUp st (s.flushEnded st)
      (if (s.flushEnded st).mem.halfDue.getLsbD (2 * st) then (s.flushEnded st).halvesAct st else s.flushEnded st) := by
    split
    · exact (halvesAct_acts st.isLt _).1
    · exact .refl _ _
  refine ⟨_, flushDone_ends ha h, ?_, drained_raised _ _ (hdue.events _ _ (event_raised _ 4 (by decide))), fun x => ?_, tilesSame_of_tiles ?_⟩
  · rw [drained_mem, hdue.flushing, hmem]
    exact flushing_cleared ..
  · rw [drained_mem, hdue.byte, hmem]
    rfl
  · rw [drained_tiles, hdue.tiles]
    exact event_tiles ..

/-! ### HALF_OFF and HALF_EMPTY -/

/-- The word that HALF_OFF writes: the halves in bits 2 and 3, and no flush. -/
theorem halfOffWord_fields (h : BitVec 2) : bits (BitVec.ofNat 64 (h.toNat * 4)) 2 2 = h.toNat ∧ (BitVec.ofNat 64 (h.toNat * 4)).getLsbD 0 = false
    ∧ (BitVec.ofNat 64 (h.toNat * 4)).getLsbD 1 = false := by
  revert h
  decide

/-- With both halves' domains on, CMD takes the halves as written; where they are as they stand, nothing is done. -/
theorem halfOff_acts (hb : ByBureau s a (mscPage st)) (h : BitVec 2) (hidle : s.mem.flushing.getLsbD st = false)
    (hon : ∀ i, i < 2 → s.pkg.powered.getLsbD (64 + 2 * st + i) = true) : exec (.halfOff a st h) s =
      .next (if h.toNat = bits (s.raw (mscPage st) 0x108) 2 2 then s else (s.setFld (mscPage st) 0x108 2 2 h.toNat).halvesAct st) := by
  obtain ⟨hblock, hdie, hpage, hpwr⟩ := mscPage_msc st
  obtain ⟨hhalves, hflush, hinval⟩ := halfOffWord_fields h
  have hon₀ : s.pkg.powered.getLsbD (64 + 2 * st) = true := hon 0 (by decide)
  have hon₁ : s.pkg.powered.getLsbD (65 + 2 * st) = true := by rw [← hon 1 (by decide)]; congr 1; omega
  have hbits : s.halfBits st (BitVec.ofNat 64 (h.toNat * 4)) = h.toNat := by
    simp [State.halfBits, hon₀, hon₁, flag, hhalves]
  have hcmd : s.mscCmd st (BitVec.ofNat 64 (h.toNat * 4)) =
      if h.toNat = bits (s.raw (mscPage st) 0x108) 2 2 then s else (s.setFld (mscPage st) 0x108 2 2 h.toNat).halvesAct st := by
    have hact : (s.setFld (mscPage st) 0x108 2 2 h.toNat).halfOffAct st = (s.setFld (mscPage st) 0x108 2 2 h.toNat).halvesAct st :=
      if_neg (by rw [State.setFld_mem, hidle]; decide)
    simp only [State.mscCmd, hbits, hhalves, hflush, hinval, hact, Bool.false_eq_true, if_false, if_true]
  have hwrite : s.regWriteAt none (mscPage st) 0x108 (BitVec.ofNat 64 (h.toNat * 4)) = s.mscCmd st (BitVec.ofNat 64 (h.toNat * 4)) := by
    have helse : elsewhere (mscPage st) 0x108 = false := by simp [elsewhere, hblock]
    simp [State.regWriteAt, helse, hpwr, hblock, hdie]
  show Host.Outcome.next (s.rowWrite a (pageAddr (mscPage st) 0x108) (BitVec.ofNat 64 (h.toNat * 4))) = _
  rw [rowWrite_bureau hb hpage (by decide) (by decide), hwrite, hcmd]

theorem halfOff_takes (hb : ByBureau s a (mscPage st)) (h : BitVec 2) (hidle : s.mem.flushing.getLsbD st = false)
    (hon : ∀ i, i < 2 → s.pkg.powered.getLsbD (64 + 2 * st + i) = true)
    (hstands : ∀ i, i < 2 → s.mem.off st i = (s.raw (mscPage st) 0x108).getLsbD (2 + i)) : Answers (.halfOff a st h) s fun s' =>
      (∀ i, i < 2 → s'.mem.off st i = h.getLsbD i ∧ (s.mem.off st i = false → h.getLsbD i = true → NoLines s' st (inHalf i)))
      ∧ (∀ l, lineDie l ≠ st → s'.mem.line l = s.mem.line l) ∧ MemSame s s' ∧ TilesSame s s' := by
  refine ⟨_, halfOff_acts hb h hidle hon, ?_⟩
  split
  next hsame =>
    have hbit (i : Nat) (hi : i < 2) : s.mem.off st i = h.getLsbD i := by
      rw [hstands i hi, BitVec.getLsbD, BitVec.getLsbD, hsame, bits, Nat.testBit_mod_two_pow, Nat.testBit_div_two_pow, Nat.add_comm]
      simp [hi]
    exact ⟨fun i hi => ⟨hbit i hi, fun hoff hset => absurd (hoff.symm.trans ((hbit i hi).trans hset)) (by decide)⟩, fun _ _ => rfl, fun _ => rfl,
      fun _ => rfl⟩
  next =>
    obtain ⟨hgave, hhalf⟩ := halvesAct_acts st.isLt (s.setFld (mscPage st) 0x108 2 2 h.toNat)
    have hbit (i : Nat) (hi : i < 2) : ((s.setFld (mscPage st) 0x108 2 2 h.toNat).raw (mscPage st) 0x108).getLsbD (2 + i) = h.getLsbD i := by
      rw [State.setFld, raw_setRaw_same, getLsbD_putBits _ _ _ _ _ (by omega), if_pos (by omega), Nat.add_sub_cancel_left, BitVec.getLsbD]
    refine ⟨fun i hi => ?_, hgave.others, hgave.byte, tilesSame_of_tiles hgave.tiles⟩
    obtain ⟨hoff, hnone⟩ := hhalf i hi
    rw [hbit i hi] at hoff hnone
    exact ⟨hoff, hnone⟩

theorem halfEmpty_says (ha : Awake s) (h : Fin 2) (hoff : s.mem.off st h = true)
    (hnone : ∀ e, e ∈ s.mem.lines → ¬ (e.2.there = true ∧ lineDie e.1 = st ∧ e.2.upper = decide (h.val = 1)))
    (hnot : s.mem.halfEmpty.getLsbD (2 * st + h) = false) : Answers (.halfEmpty st h) s fun s' => s'.mem.halfEmpty.getLsbD (2 * st + h) = true
      ∧ Raised (mscPage st) 5 s' ∧ { s'.mem with halfEmpty := s.mem.halfEmpty } = s.mem ∧ TilesSame s s' := by
  have hheld : (s.mem.lines.any fun e => e.2.there && decide (lineDie e.1 = st) && decide (e.2.upper = decide (h.val = 1))) = false := by
    rw [List.any_eq_false]
    intro e he
    simpa [and_assoc] using hnone e he
  have hrun : exec (.halfEmpty st h) s =
      .next ((s.modMem fun m => { m with halfEmpty := m.halfEmpty ||| (1#8 <<< (2 * st.val + h.val)) }).event (mscPage st) 5) := by
    show execHalfEmpty st h s = _
    simp only [execHalfEmpty, awake_of_Awake ha, hoff, hheld, hnot, Bool.not_false, Bool.and_self, if_true]
  refine ⟨_, hrun, ?_, event_raised _ 5 (by decide), by rw [event_mem]; rfl, fun t => tile_event ..⟩
  rw [event_mem]
  exact (off_set s.mem.halfEmpty (by omega) h).trans (if_pos rfl)

/-- Settles O43, row by row. -/
theorem cacheMaintenance : Obligations.CacheMaintenance := by
  intro s a st hb
  have hb₀ := byBureau_mscPage hb 0
  have ha := hb.1
  refine ⟨fun c all b n => ⟨xlatGo_begins hb₀ c all b n, xlatGo_rejected hb₀ c all b n⟩, fun hbusy hfree => ?_,
    fun hone hbusy => ⟨s, xlatDone_waits hone hbusy, rfl⟩, flush_writes_back hb, mscInvalAll_empties hb, flushDone_completes ha,
    fun h => ⟨s, flushDone_idle h, rfl⟩, fun h => halfOff_takes hb h, fun h => halfEmpty_says ha h⟩
  refine ⟨_, xlatDone_ends ha hbusy hfree, ?_, drained_raised _ _ (event_raised _ 6 (by decide)), ?_, ?_⟩
  · rw [drained_mem, event_mem]
    rfl
  · exact tilesSame_of_tiles (by simp)
  · simp

end Sys2Proof.Machine
end

section
/-! What sending takes back of the pages' records: nothing. Every event raised and every error captured stays while requests go, end and settle
and while ports leave the fabric (R36, R271, R272, R288 to R290). -/

namespace Sys2Proof.Machine

open Sys2Proof Sys2Proof.Spec

/-! ## The pages and what they report -/

/-- No event is taken back, no captured error is lost, and the package's own state and pins stay. -/
structure MarksKept (s s' : State) : Prop where
  events : EventsKept s s'
  errors : ∀ n, (s.page n).err.valid = true → (s'.page n).err.valid = true
  pkg    : s'.pkg = s.pkg

namespace MarksKept

variable {s s₁ s₂ : State}

theorem refl (s : State) : MarksKept s s := ⟨fun _ _ h => h, fun _ h => h, rfl⟩

theorem trans (h₁ : MarksKept s s₁) (h₂ : MarksKept s₁ s₂) : MarksKept s s₂ :=
  ⟨h₁.events.trans h₂.events, fun n h => h₂.errors n (h₁.errors n h), h₂.pkg.trans h₁.pkg⟩

/-- The pages themselves are as before. -/
theorem of_pages (hpages : s₁.pages = s.pages) (hpkg : s₁.pkg = s.pkg) : MarksKept s s₁ := by
  refine ⟨fun n b h => ?_, fun n h => ?_, hpkg⟩
  · rwa [Raised, page_congr hpages]
  · rwa [page_congr hpages]

end MarksKept

section pages

variable (s : State)

theorem modPage_marksKept (n : Nat) {f : Page → Page} (hcause : ∀ p, (f p).cause = p.cause) (herr : ∀ p, (f p).err = p.err) :
    MarksKept s (s.modPage n f) :=
  ⟨modPage_eventsKept s n fun p b h => by rwa [hcause], fun m h => by rwa [modPage_keeps s Page.err n m f herr], rfl⟩

theorem setRaw_marksKept (n o : Nat) (w : Word) : MarksKept s (s.setRaw n o w) := modPage_marksKept s n (fun _ => rfl) fun _ => rfl

theorem count_marksKept (n i : Nat) (c : Option Nat) (k : Nat) : MarksKept s (s.count n i c k) :=
  ⟨count_eventsKept s n i c k, fun m h => by rwa [page_count_err], count_pkg ..⟩

theorem event_marksKept (n b : Nat) : MarksKept s (s.event n b) := ⟨event_eventsKept s n b, fun m h => by rwa [page_event_err], event_pkg ..⟩

theorem queueRec_marksKept (c : Nat) (type : BitVec 4) (sev : Nat) (body : List Word) : MarksKept s (s.queueRec c type sev body) :=
  ⟨eventsKept_of_sameButCounts fun _ => queueRec_page .., fun m h => by rwa [page_queueRec_err], queueRec_pkg ..⟩

/-- After a report the page holds an error, this one or one no less severe. -/
theorem raise_valid (n sev code : Nat) (c : Option Nat) (loc : Word) : ((s.raise n sev code c loc).page n).err.valid = true := by
  by_cases h : (s.page n).err.valid = true ∧ sev ≤ (s.page n).err.severity.toNat
  · rw [raise_page_counted h]
    exact h.1
  · rw [(raise_err_captured h).1]
    rfl

theorem raise_marksKept (n sev code : Nat) (c : Option Nat) (loc : Word) : MarksKept s (s.raise n sev code c loc) := by
  refine ⟨fun m b h => ?_, fun m h => ?_, raise_pkg ..⟩
  · by_cases hm : m = n
    · subst hm
      exact raise_raised h
    · rwa [Raised, cause_of_sameButCounts (raise_page_other m hm)]
  · by_cases hm : m = n
    · subst hm
      exact raise_valid ..
    · rw [← raise_page_other (s := s) (sev := sev) (code := code) (ctx := c) (loc := loc) m hm] at h
      exact h

end pages

namespace MarksKept

variable {s s₁ : State} {n i b sev code : Nat} {c : Option Nat} {k : Nat} {loc : Word}

theorem count (h : MarksKept s s₁) : MarksKept s (s₁.count n i c k) := h.trans (count_marksKept ..)
theorem event (h : MarksKept s s₁) : MarksKept s (s₁.event n b) := h.trans (event_marksKept ..)
theorem raise (h : MarksKept s s₁) : MarksKept s (s₁.raise n sev code c loc) := h.trans (raise_marksKept ..)
theorem contained (h : MarksKept s s₁) : MarksKept s (s₁.contained n code c) := h.raise
theorem stepFatal (h : MarksKept s s₁) : MarksKept s (s₁.stepFatal n code c loc) := h.raise
theorem countPort (h : MarksKept s s₁) : MarksKept s (s₁.countPort n i k) := h.count

end MarksKept

/-! ## Packets (R268 to R270) -/

section packets

variable (s : State)

theorem touchFlow_marksKept (f : Nat) : MarksKept s (s.touchFlow f) := by
  unfold State.touchFlow
  split
  · exact count_marksKept ..
  · split
    · exact count_marksKept ..
    · exact .of_pages rfl rfl

theorem request_marksKept (r : Req) : MarksKept s (s.request r) := (touchFlow_marksKept ..).trans (.of_pages rfl rfl)

theorem deliver_marksKept (src : Option Nat) (die : Nat) (p : Packet) : MarksKept s (s.deliver src die p) :=
  (touchFlow_marksKept ..).trans (.of_pages rfl rfl)

theorem giveCredits_marksKept (src : Option Nat) (p : Packet) : MarksKept s (s.giveCredits src p) := by
  cases src <;> exact .of_pages rfl rfl

theorem sendOn_marksKept (port cls : Nat) (p : Packet) : MarksKept s (s.sendOn port cls p) := by
  have hsent : MarksKept s ((s.modPort port fun q => { q with used := Tab.mod 0 q.used (pktVc p * 3 + cls) (· + pktCredits p) }).countPort port
      (3 + pktVc p) (pktBytes p)) := MarksKept.count (.of_pages rfl rfl)
  unfold State.sendOn
  dsimp only
  split
  · exact (hsent.trans (count_marksKept ..)).trans (.of_pages rfl rfl)
  · exact hsent.trans (.of_pages rfl rfl)

theorem routePkt_marksKept (src : Option Nat) (die : Nat) (p : Packet) : MarksKept s (s.routePkt src die p) := by
  have hcredits := giveCredits_marksKept s src p
  unfold State.routePkt
  split
  · exact hcredits.trans (deliver_marksKept ..)
  · exact hcredits.trans (sendOn_marksKept ..)
  · exact .of_pages rfl rfl
  · refine (hcredits.trans ?_).trans (raise_marksKept ..)
    split <;> exact count_marksKept ..

theorem launch_marksKept (die target : Nat) (p : Packet) : MarksKept s (s.launch die target p) := by
  unfold State.launch
  split
  · exact deliver_marksKept ..
  · exact routePkt_marksKept ..

theorem transmit_marksKept (e : Flow) (r : Req) : MarksKept s (s.transmit e r) := by
  unfold State.transmit
  split
  · exact .refl s
  have hkey := count_marksKept s (keyPage r.die) 4 r.ctxOpt 1
  refine MarksKept.trans ?_ (launch_marksKept ..)
  split
  · exact (hkey.trans (count_marksKept ..)).trans (count_marksKept ..)
  · split
    · exact hkey.trans (count_marksKept ..)
    · exact hkey

theorem retryHeld_marksKept : MarksKept s s.retryHeld :=
  foldl_keeps (MarksKept s) _ (fun _ _ h => h.trans (routePkt_marksKept ..)) _ _ (.of_pages rfl rfl)

end packets

/-! ## Memory at a virtual address -/

section stores

variable (s : State)

theorem lineWrite_marksKept (ctx : Option Nat) (hint : Nat) (alloc : Bool) (l : Nat) : MarksKept s (s.lineWrite ctx hint alloc l) := by
  unfold State.lineWrite
  dsimp only
  split
  · exact MarksKept.count (.of_pages rfl rfl)
  have hmiss := count_marksKept s (mscPage (lineDie l)) 3 ctx 1
  split
  · exact MarksKept.count (hmiss.trans (.of_pages rfl rfl))
  · exact hmiss.trans (.of_pages rfl rfl)

theorem memWrite_marksKept (ctx : Option Nat) (a : Nat) (d : List Byte) (hint : Nat) (alloc : Bool) : MarksKept s (s.memWrite ctx a d hint alloc) :=
  .count ((foldl_keeps (MarksKept s) _ (fun _ _ h => h.trans (lineWrite_marksKept ..)) _ _ (.refl s)).trans (.of_pages rfl rfl))

theorem translate_marksKept (die : Nat) (ctx : Option Nat) (va n : Nat) (write : Bool) : MarksKept s (s.translate die ctx va n write).2 := by
  unfold State.translate
  cases ctx with
  | none => exact .refl s
  | some c =>
    refine List.foldlRecOn (motive := fun r : Option (List Seg) × State => MarksKept s r.2) _ _ (.refl s) fun r hr g _ => ?_
    obtain ⟨acc, s'⟩ := r
    cases acc with
    | none => exact hr
    | some segs =>
      dsimp only
      split
      · exact hr
      · exact hr.trans ((event_marksKept ..).trans (raise_marksKept ..))
      · split <;> split <;> exact hr

theorem translateLocal_marksKept (die : Nat) (ctx : Option Nat) (va n : Nat) (write : Bool) : MarksKept s (s.translateLocal die ctx va n write).2 := by
  have ht := translate_marksKept s die ctx va n write
  unfold State.translateLocal
  split <;> (rename_i he; rw [he] at ht; exact ht)

theorem storeVirt_marksKept (die c va : Nat) (d : List Byte) (hint : Nat) : MarksKept s (s.storeVirt die c va d hint).2 := by
  have ht := translateLocal_marksKept s die (some c) va d.length true
  unfold State.storeVirt
  split
  next he =>
    rw [he] at ht
    exact ht
  next he =>
    rw [he] at ht
    exact List.foldlRecOn (motive := fun r : State × List Byte => MarksKept s r.1) _ _ ht fun r hr g _ => hr.trans (memWrite_marksKept ..)

end stores

/-! ## The end of a request (R272, R288 to R290, R397) -/

section ends

variable (s : State)

theorem modTileOf_marksKept (c t : Nat) (f : Tile → Tile) : MarksKept s (s.modTileOf c t f) := by
  unfold State.modTileOf
  split <;> exact .of_pages rfl rfl

theorem MarksKept.modTile {s s₁ : State} {t : Nat} {f : Tile → Tile} (h : MarksKept s s₁) : MarksKept s (s₁.modTile t f) :=
  h.trans (.of_pages rfl rfl)

theorem MarksKept.modTileOf {s s₁ : State} {c t : Nat} {f : Tile → Tile} (h : MarksKept s s₁) : MarksKept s (s₁.modTileOf c t f) :=
  h.trans (modTileOf_marksKept ..)

theorem qpSay_marksKept (n : Nat) (o : Out) : MarksKept s (s.qpSay n o) := by
  have hsend : MarksKept s (s.send o) := .of_pages rfl rfl
  have hout (p k : Nat) : MarksKept s ((s.send o).roceOut p k) := hsend.count.count
  unfold State.qpSay
  dsimp only
  split
  · exact (hout ..).count
  · exact hout ..

theorem qpError_marksKept (n syndrome : Nat) : MarksKept s (s.qpError n syndrome) := by
  unfold State.qpError
  dsimp only
  split
  · exact .refl s
  refine MarksKept.trans ?_ (queueRec_marksKept ..)
  refine foldl_keeps (MarksKept s) _ (fun _ _ h => h.contained) _ _ ?_
  refine foldl_keeps (MarksKept s) _ (fun _ _ h => h.trans (modTileOf_marksKept ..)) _ _ ?_
  refine MarksKept.event (.count ?_)
  exact .of_pages rfl rfl

theorem answerRdma_marksKept (k : Nat) : ∀ s : State, MarksKept s (State.answerRdma k s) := by
  induction k with
  | zero => exact .refl
  | succ k ih =>
    intro s
    unfold State.answerRdma
    split
    · exact .refl s
    refine MarksKept.trans ?_ (ih _)
    rename_i x _
    have hserved : MarksKept s (s.modHost fun h => { h with inbound := h.inbound.filter fun y => decide (y.id ≠ x.id) }) := .of_pages rfl rfl
    split
    · exact hserved
    refine hserved.trans ?_
    split
    · exact qpSay_marksKept ..
    · exact qpSay_marksKept ..
    · exact (qpSay_marksKept ..).trans (qpError_marksKept ..)
    · exact (qpSay_marksKept ..).trans (qpError_marksKept ..)
    · exact qpSay_marksKept ..

/-- Whatever the owner of a request makes of its end. -/
theorem ownerEnd_marksKept (r : Req) (refused : Bool) (m : Met) (data : List Byte) : MarksKept s (s.ownerEnd r refused m data) := by
  unfold State.ownerEnd
  cases r.owner with
  | tile t id => exact modTileOf_marksKept ..
  | upe st => exact .of_pages rfl rfl
  | sbd => exact .of_pages rfl rfl
  | rdma id =>
    refine MarksKept.trans ?_ (answerRdma_marksKept _ _)
    exact .of_pages rfl rfl
  | mirror c k =>
    dsimp only
    split
    · split
      · exact .of_pages rfl rfl
      · refine MarksKept.stepFatal ?_
        exact .of_pages rfl rfl
    · split <;> exact .of_pages rfl rfl
  | restore c =>
    dsimp only
    split
    · split
      · exact .of_pages rfl rfl
      · rename_i va _ _
        refine MarksKept.count (.event ((storeVirt_marksKept s r.die c va data 0).trans ?_))
        exact .of_pages rfl rfl
    · exact .refl s
  | handover => exact .refl s
  | bureau =>
    dsimp only
    split
    · refine foldl_keeps (MarksKept s) _ (fun s' w h => ?_) _ _ (.of_pages rfl rfl)
      split
      · exact h.trans (.of_pages rfl rfl)
      · exact h.trans (request_marksKept ..)
    · split
      · exact raise_marksKept ..
      · exact .refl s
  | cle st c q =>
    dsimp only
    split
    · split
      · exact .of_pages rfl rfl
      · rename_i va _ _
        exact (storeVirt_marksKept s r.die c va data 0).trans (.of_pages rfl rfl)
    · exact .of_pages rfl rfl

theorem settleFlight_marksKept (c t : Nat) (f : Flight) : MarksKept s (s.settleFlight c t f) := by
  have hfence : MarksKept s (s.endFence c t f) := by
    unfold State.endFence
    split
    · exact .refl s
    · split <;> split
      · exact modTileOf_marksKept ..
      · exact .refl s
      · exact modTileOf_marksKept ..
      · exact .refl s
  rw [settleFlight_eq]
  refine hfence.trans ?_
  unfold State.sendFlag
  split
  · exact .refl _
  split
  · exact modTileOf_marksKept ..
  split
  · exact .refl _
  split
  · exact (modTileOf_marksKept ..).trans (request_marksKept ..)
  · exact .refl _

theorem settle_marksKept : MarksKept s s.settle := foldl_keeps (MarksKept s) _ (fun _ _ h => h.trans (settleFlight_marksKept ..)) _ _ (.refl s)

end ends

/-! ## Sending (R272) -/

theorem sendReq_marksKept (s : State) (i : Nat) : MarksKept s (s.sendReq i) := by
  unfold State.sendReq
  split
  · exact .refl s
  rename_i u _
  have hunsent : MarksKept s (s.modFab fun f => { f with unsent := f.unsent.eraseIdx i }) := .of_pages rfl rfl
  dsimp only
  split
  · exact .of_pages rfl rfl
  split
  · refine MarksKept.trans ?_ (((raise_marksKept ..).trans (ownerEnd_marksKept ..)).trans (settle_marksKept _))
    split
    · exact hunsent.modTileOf
    · exact hunsent
  · refine MarksKept.trans ?_ (transmit_marksKept ..)
    cases u.req.owner with
    | tile t id =>
      refine MarksKept.modTile (.modTileOf (.modTileOf ?_))
      exact .of_pages rfl rfl
    | _ => exact .of_pages rfl rfl

theorem pumpN_marksKept (n : Nat) : ∀ s : State, MarksKept s (State.pumpN n s) := by
  induction n with
  | zero => exact .refl
  | succ n ih =>
    intro s
    unfold State.pumpN
    split
    · exact .refl s
    · exact (sendReq_marksKept ..).trans (ih _)

theorem pump_marksKept (s : State) : MarksKept s s.pump := pumpN_marksKept _ s

end Sys2Proof.Machine
end

section
/-! The fail-stop (R346): the six ports are disabled, the package is held, and what the pages have reported stands. -/

namespace Sys2Proof.Machine

open Sys2Proof Sys2Proof.Spec

/-! ## Ports that leave the fabric (R261, R271, R279) -/

/-- No port changes its state: moving packets takes credits only. -/
def PortsStay (s s' : State) : Prop := ∀ q, (s'.port q).state = (s.port q).state

theorem PortsStay.trans {s s₁ s₂ : State} (h₁ : PortsStay s s₁) (h₂ : PortsStay s₁ s₂) : PortsStay s s₂ := fun q => (h₂ q).trans (h₁ q)

theorem portsStay_of_fab {s s₁ : State} (h : s₁.fab.ports = s.fab.ports) : PortsStay s s₁ := fun q => by rw [State.port, h, State.port]

theorem sendOn_portsStay (s : State) (port cls : Nat) (p : Packet) : PortsStay s (s.sendOn port cls p) := by
  have hcredit : PortsStay s (s.modPort port fun q => { q with used := Tab.mod 0 q.used (pktVc p * 3 + cls) (· + pktCredits p) }) := fun q => by
    by_cases hq : q = port
    · rw [hq, port_modPort_same]
    · rw [port_modPort_other _ _ _ _ hq]
  refine hcredit.trans (portsStay_of_fab ?_)
  unfold State.sendOn State.countPort
  dsimp only
  split <;> simp

theorem routePkt_portsStay (s : State) (src : Option Nat) (die : Nat) (p : Packet) : PortsStay s (s.routePkt src die p) := by
  have hcredits : PortsStay s (s.giveCredits src p) := by cases src <;> exact portsStay_of_fab rfl
  unfold State.routePkt
  split
  · refine hcredits.trans (portsStay_of_fab ?_)
    unfold State.deliver State.touchFlow
    split
    · simp
    · split <;> simp
  · exact hcredits.trans (sendOn_portsStay _ _ _ _)
  · exact portsStay_of_fab rfl
  · refine hcredits.trans (portsStay_of_fab ?_)
    unfold State.note State.countPort
    split <;> simp

theorem retryHeld_portsStay (s : State) : PortsStay s s.retryHeld :=
  foldl_keeps (PortsStay s) _ (fun _ _ h => h.trans (routePkt_portsStay _ _ _ _)) _ _ (portsStay_of_fab rfl)

theorem linkDown_leaves (s : State) (q : Nat) : MarksKept s (s.linkDown q) ∧ ∀ p, p ≠ q → ((s.linkDown q).port p).state = (s.port p).state := by
  unfold State.linkDown
  refine ⟨MarksKept.trans (.raise (.event (.countPort ?_))) (retryHeld_marksKept _), fun p hp => ?_⟩
  · exact .of_pages rfl rfl
  rw [retryHeld_portsStay _ p]
  have hports (x : State) : ((((x.countPort q 11).event (rtrPage (portDie q)) 4).raise (rtrPage (portDie q)) 1 0x0E2).port p) = x.port p := by
    simp [State.port, State.countPort]
  rw [hports, port_modPort_other _ _ _ _ hp]

/-- A port that is disabled by its register is disabled, and the others stay as they are. -/
theorem portEnable_disables (s : State) (q : Nat) : MarksKept s (s.portEnable q false) ∧ ((s.portEnable q false).port q).state = .disabled
    ∧ ∀ p, p ≠ q → ((s.portEnable q false).port p).state = (s.port p).state := by
  unfold State.portEnable
  rw [if_neg (by decide)]
  dsimp only
  refine ⟨?_, by rw [port_modPort_same], fun p hp => ?_⟩
  · split
    · exact (linkDown_leaves s q).1.trans (.of_pages rfl rfl)
    · exact .of_pages rfl rfl
  · rw [port_modPort_other _ _ _ _ hp]
    split
    · exact (linkDown_leaves s q).2 p hp
    · rfl

/-- Ports taken out one after the other: each of them is disabled, and one that was disabled stays so. -/
theorem foldl_portsOff (qs : List Nat) : ∀ s s' : State,
    s' = qs.foldl (fun s q => (s.setFld (rtrPage (portDie q)) (0x100 + 8 * portSlot q) 8 1 0).portEnable q false) s →
      MarksKept s s' ∧ ∀ p, p ∈ qs ∨ (s.port p).state = .disabled → (s'.port p).state = .disabled := by
  induction qs with
  | nil =>
    rintro s _ rfl
    exact ⟨.refl _, fun p hp => hp.resolve_left List.not_mem_nil⟩
  | cons q qs ih =>
    rintro s _ rfl
    obtain ⟨hmarks, hoff, hother⟩ := portEnable_disables (s.setFld (rtrPage (portDie q)) (0x100 + 8 * portSlot q) 8 1 0) q
    obtain ⟨hmarks', hoff'⟩ := ih _ _ rfl
    refine ⟨(setRaw_marksKept ..).trans (hmarks.trans hmarks'), fun p hp => hoff' p ?_⟩
    by_cases hpq : p = q
    · exact .inr (hpq ▸ hoff)
    · exact hp.imp (fun h => (List.mem_cons.1 h).resolve_left hpq) (hother p hpq).trans

theorem portsOff_disables (s : State) : MarksKept s s.portsOff ∧ ∀ q, q < 6 → (s.portsOff.port q).state = .disabled := by
  obtain ⟨hmarks, hoff⟩ := foldl_portsOff (List.range 6) s _ rfl
  exact ⟨hmarks, fun q hq => hoff q (.inl (List.mem_range.2 hq))⟩

/-! ## The stop -/

theorem fillNow_marksKept (s : State) (f : Nat) : MarksKept s (s.fillNow f) := by
  unfold State.fillNow
  split
  · exact .refl s
  · exact .of_pages rfl rfl

theorem sendCell_marksKept (s : State) (c flow : Nat) (x : Cell) : MarksKept s (s.sendCell c flow x) := by
  unfold State.sendCell
  split
  · exact .of_pages rfl rfl
  · exact request_marksKept ..

/-- DYING to the twin of a package that stops, if it has one. -/
def State.tellTwin (s : State) (code : Nat) : State :=
  let tw := s.fld burPage 0x348 12 20
  if tw = 0 then s else (s.fillNow tw).sendCell 256 tw { kind := 0x0D, group := 0, attempt := 0, step := 0, arg := code }

/-- DYING to the coordinators of the groups a package belongs to, as far as it knows them. -/
def State.tellCoordinators (s : State) (code : Nat) : State :=
  s.groupCtxs.foldl (fun s c =>
    let r := (s.commit c).cr
    if s.coordinates c || r.bad then s else (s.fillNow r.cflow.toNat).sendCell c r.cflow.toNat (s.ctxCell c 0x0D code)) s

/-- The package is held, its record of being armed taken from LCT.ARM. -/
def State.halt (s : State) : State :=
  (s.modPkg fun p => { p with stopped := true, armed := (s.raw lctPage 0x100).getLsbD 0 }).modBur fun b => { b with settee := 5 }

theorem failStop_eq {s : State} (h : s.pkg.stopped = false) (code : Nat) :
    s.failStop code = (((s.tellTwin code).tellCoordinators code).pump.portsOff).halt := by
  unfold State.failStop
  rw [if_neg (by rw [h]; decide)]
  rfl

theorem halt_page (s : State) (n : Nat) : s.halt.page n = s.page n := rfl
theorem halt_port (s : State) (q : Nat) : s.halt.port q = s.port q := rfl
theorem halt_thermtrip (s : State) : s.halt.pkg.thermtrip = s.pkg.thermtrip := rfl
theorem halt_stopped (s : State) : s.halt.pkg.stopped = true ∧ s.halt.bur.settee = 5 := ⟨rfl, rfl⟩

theorem tellTwin_marksKept (s : State) (code : Nat) : MarksKept s (s.tellTwin code) := by
  unfold State.tellTwin
  dsimp only
  split
  · exact .refl s
  · exact (fillNow_marksKept ..).trans (sendCell_marksKept ..)

theorem tellCoordinators_marksKept (s : State) (code : Nat) : MarksKept s (s.tellCoordinators code) := by
  refine foldl_keeps (MarksKept s) _ (fun s' c h => ?_) _ _ (.refl s)
  dsimp only
  split
  · exact h
  · exact h.trans ((fillNow_marksKept ..).trans (sendCell_marksKept ..))

/-- A package that works fail-stops, and takes nothing back of what its pages say. -/
theorem failStop_stops {s : State} (h : s.pkg.stopped = false) (code : Nat) : FailStopped (s.failStop code) ∧ EventsKept s (s.failStop code)
    ∧ (∀ n, (s.page n).err.valid = true → ((s.failStop code).page n).err.valid = true)
    ∧ (s.failStop code).pkg.thermtrip = s.pkg.thermtrip := by
  rw [failStop_eq h]
  have htold := ((tellTwin_marksKept s code).trans (tellCoordinators_marksKept _ code)).trans (pump_marksKept _)
  obtain ⟨hports, hoff⟩ := portsOff_disables ((s.tellTwin code).tellCoordinators code).pump
  have hkept := htold.trans hports
  refine ⟨⟨(halt_stopped _).1, (halt_stopped _).2, fun q hq => ?_⟩, fun n b h => ?_, fun n h => ?_, ?_⟩
  · rw [halt_port]
    exact hoff q hq
  · rw [Raised, halt_page]
    exact hkept.events n b h
  · rw [halt_page]
    exact hkept.errors n h
  · rw [halt_thermtrip, hkept.pkg]

/-- A Package-fatal error: it is reported, and the package fail-stops (R346). -/
theorem fatalStop_stops {s : State} (h : s.pkg.stopped = false) (pg code : Nat) : FailStopped (s.fatalStop pg code)
    ∧ EventsKept s (s.fatalStop pg code) ∧ ((s.fatalStop pg code).page pg).err.valid = true
    ∧ (s.fatalStop pg code).pkg.thermtrip = s.pkg.thermtrip := by
  have hreport := raise_marksKept s pg 4 code none 0
  obtain ⟨hstop, hevents, herrors, htrip⟩ := failStop_stops (s := s.packageFatal pg code) (hreport.pkg ▸ h) code
  exact ⟨hstop, hreport.events.trans hevents, herrors pg (raise_valid ..), htrip.trans (congrArg Pkg.thermtrip hreport.pkg)⟩

end Sys2Proof.Machine
end

section
/-! THERM_SAMPLE, PATROL_SCRUB, DIE_THERMAL_SAMPLE, POWER_CAP_TICK and RAIL_SAMPLE (R248, R253, R255, R411, R412, R425): O45. -/

namespace Sys2Proof.Machine

open Sys2Proof Sys2Proof.Spec

/-! ## Fields that hold temperatures, powers and steps -/

section fields

variable {s : State}

/-- A field of another word than the one that is set. -/
theorem fld_setFld_word (s : State) (n o lo k v lo' k' : Nat) {p : Nat} (hp : p < 0x400) (h : p / 8 ≠ o / 8) :
    (s.setFld n o lo k v).fld n p lo' k' = s.fld n p lo' k' := fld_setRaw_other s n lo' k' _ hp h

theorem fld_modMem (s : State) (f : Mem → Mem) (n o lo w : Nat) : (s.modMem f).fld n o lo w = s.fld n o lo w := rfl
theorem fld_modPkg (s : State) (f : Pkg → Pkg) (n o lo w : Nat) : (s.modPkg f).fld n o lo w = s.fld n o lo w := rfl

theorem setFld_offTiles (s : State) (n o lo k v : Nat) : OffTiles s (s.setFld n o lo k v) := offTiles_of_pageFrame (setRaw_pageFrame ..)

theorem OffTiles.pkg {s₁ : State} (h : OffTiles s s₁) : s₁.pkg = s.pkg := by
  obtain ⟨-, -, -, -, -, -, -, hpkg, -⟩ := h
  exact hpkg

/-- A step that has changed is noted, and its event raised. -/
theorem note_event_told (s : State) (n code b : Nat) (hb : b < 48) :
    OffTiles s ((s.note n code).event n b) ∧ Raised n b ((s.note n code).event n b)
      ∧ ∀ m o lo w, ((s.note n code).event n b).fld m o lo w = s.fld m o lo w :=
  ⟨(raise_offTiles ..).trans (event_offTiles ..), event_raised n b hb, fun m o lo w => by simp [State.note]⟩

end fields

/-! ## The trip (R255, R412) -/

/-- A trip stops the package, and what was reported before stands. -/
theorem tripStop_trips {s : State} (h : s.pkg.stopped = false) (pg code : Nat) : FailStopped (s.trip.fatalStop pg code)
    ∧ (s.trip.fatalStop pg code).pkg.thermtrip = true ∧ Raised thmPage 5 (s.trip.fatalStop pg code)
    ∧ EventsKept s (s.trip.fatalStop pg code) ∧ ((s.trip.fatalStop pg code).page pg).err.valid = true := by
  have hpkg : s.trip.pkg = { s.pkg with thermtrip := true } := event_pkg ..
  have hevents : EventsKept s s.trip := event_eventsKept (s.modPkg fun p => { p with thermtrip := true }) thmPage 5
  have htold : Raised thmPage 5 s.trip := event_raised thmPage 5 (by decide)
  obtain ⟨hstop, hkept, hvalid, htrip⟩ := fatalStop_stops (s := s.trip) (by rw [hpkg]; exact h) pg code
  exact ⟨hstop, by rw [htrip, hpkg], hkept _ _ htold, hevents.trans hkept, hvalid⟩

/-! ## THERM_SAMPLE (R253, R255) -/

section stack

variable {s : State} {h : Fin 16}

/-- The state after a valid reading was written down, and before the step is chosen. -/
def State.readingTaken (s : State) (h t : Nat) : State :=
  (((s.thermTime h).setFld (hmcPage h) 0x108 0 8 t).setFld (hmcPage h) 0x108 11 1 1).modMem fun m => { m with badTemp := Tab.set 0 m.badTemp h 0 }

/-- The state after a reading that failed was written down. -/
def State.readingMissed (s : State) (h : Nat) : State :=
  ((s.thermTime h).setFld (hmcPage h) 0x108 11 1 0).modMem fun m =>
    { m with badTemp := Tab.set 0 m.badTemp h (min (Tab.get 0 s.mem.badTemp h + 1) 3) }

theorem badTemp_offTiles (s : State) (b : Tab Nat) : OffTiles s (s.modMem fun m => { m with badTemp := b }) :=
  ⟨fun _ => rfl, fun _ => rfl, rfl, rfl, rfl, rfl, rfl, rfl, rfl⟩

theorem thermTime_offTiles (s : State) (h : Nat) : OffTiles s (s.thermTime h) := (count_offTiles ..).trans (count_offTiles ..)

@[simp] theorem fld_thermTime (s : State) (h n o lo w : Nat) : (s.thermTime h).fld n o lo w = s.fld n o lo w := by simp [State.thermTime]

@[simp] theorem thermTime_mem (s : State) (h : Nat) : (s.thermTime h).mem = s.mem := by simp [State.thermTime]

@[simp] theorem thermTime_cause (s : State) (h n : Nat) : ((s.thermTime h).page n).cause = (s.page n).cause := by simp [State.thermTime]

theorem readingTaken_offTiles (s : State) (h t : Nat) : OffTiles s (s.readingTaken h t) :=
  (((thermTime_offTiles s h).trans (setFld_offTiles ..)).trans (setFld_offTiles ..)).trans (badTemp_offTiles ..)

theorem readingMissed_offTiles (s : State) (h : Nat) : OffTiles s (s.readingMissed h) :=
  ((thermTime_offTiles s h).trans (setFld_offTiles ..)).trans (badTemp_offTiles ..)

theorem readingTaken_fld (s : State) (h t : Nat) : (s.readingTaken h t).fld (hmcPage h) 0x108 0 8 = t % 2 ^ 8
    ∧ (s.readingTaken h t).fld (hmcPage h) 0x108 11 1 = 1 ∧ (s.readingTaken h t).fld (hmcPage h) 0x108 8 3 = s.fld (hmcPage h) 0x108 8 3
    ∧ ∀ lo w, (s.readingTaken h t).fld (hmcPage h) 0x100 lo w = s.fld (hmcPage h) 0x100 lo w := by
  simp only [State.readingTaken, fld_modMem]
  refine ⟨?_, ?_, ?_, fun lo w => ?_⟩
  · rw [fld_setFld_other _ _ _ _ _ _ _ (by decide) (by decide) (by decide), fld_setFld_same _ _ _ _ _ (by decide) (by decide)]
  · exact fld_setFld_same _ _ _ _ _ (by decide) (by decide)
  · rw [fld_setFld_other _ _ _ _ _ _ _ (by decide) (by decide) (by decide), fld_setFld_other _ _ _ _ _ _ _ (by decide) (by decide) (by decide),
      fld_thermTime]
  · rw [fld_setFld_word _ _ _ _ _ _ _ _ (by decide) (by decide), fld_setFld_word _ _ _ _ _ _ _ _ (by decide) (by decide), fld_thermTime]

theorem readingTaken_badTemp (s : State) (h t : Nat) : Tab.get 0 (s.readingTaken h t).mem.badTemp h = 0 := by
  show Tab.get 0 (Tab.set 0 _ h 0) h = 0
  rw [Tab.get_set, if_pos rfl]

theorem readingMissed_fld (s : State) (h : Nat) : (s.readingMissed h).fld (hmcPage h) 0x108 11 1 = 0
    ∧ (s.readingMissed h).fld (hmcPage h) 0x108 8 3 = s.fld (hmcPage h) 0x108 8 3 := by
  simp only [State.readingMissed, fld_modMem]
  refine ⟨fld_setFld_same _ _ _ _ _ (by decide) (by decide), ?_⟩
  rw [fld_setFld_other _ _ _ _ _ _ _ (by decide) (by decide) (by decide), fld_thermTime]

theorem setRaw_cause (s : State) (n o : Nat) (w : Word) (m : Nat) : ((s.setRaw n o w).page m).cause = (s.page m).cause :=
  modPage_keeps s Page.cause n m _ fun _ => rfl

theorem readingMissed_cause (s : State) (h n : Nat) : ((s.readingMissed h).page n).cause = (s.page n).cause :=
  (setRaw_cause (s.thermTime h) (hmcPage h) 0x108 _ n).trans (thermTime_cause s h n)

/-- The throttle step becomes k; a change raises THROTTLE_STEP, and the other fields of its word stay. -/
theorem setThermStep_sets (s : State) (h : Nat) {k : Nat} (hk : k < 8) : OffTiles s (s.setThermStep h k)
    ∧ (s.setThermStep h k).fld (hmcPage h) 0x108 8 3 = k
    ∧ (k ≠ s.fld (hmcPage h) 0x108 8 3 → Raised (hmcPage h) 4 (s.setThermStep h k))
    ∧ (∀ lo w, lo + w ≤ 64 → lo + w ≤ 8 ∨ 11 ≤ lo → (s.setThermStep h k).fld (hmcPage h) 0x108 lo w = s.fld (hmcPage h) 0x108 lo w)
    ∧ (∀ lo w, (s.setThermStep h k).fld (hmcPage h) 0x100 lo w = s.fld (hmcPage h) 0x100 lo w)
    ∧ (s.setThermStep h k).mem = s.mem := by
  unfold State.setThermStep
  dsimp only
  split
  next hsame => exact ⟨.refl s, hsame, fun hne => absurd hsame.symm hne, fun _ _ _ _ => rfl, fun _ _ => rfl, rfl⟩
  · obtain ⟨hoff, hraised, hfld⟩ := note_event_told (s.setFld (hmcPage h) 0x108 8 3 k) (hmcPage h) 0x0C2 4 (by decide)
    refine ⟨(setFld_offTiles ..).trans hoff, ?_, fun _ => hraised, fun lo w hin hout => ?_, fun lo w => ?_, ?_⟩
    · rw [hfld, fld_setFld_same _ _ _ _ _ (by decide) (by decide)]
      exact Nat.mod_eq_of_lt hk
    · rw [hfld, fld_setFld_other _ _ _ _ _ _ _ (by decide) hin hout]
    · rw [hfld, fld_setFld_word _ _ _ _ _ _ _ _ (by decide) (by decide)]
    · rw [event_mem, State.note, raise_mem]
      rfl

theorem nextStep_lt (t1 hyst t : Nat) {k : Nat} (hk : k < 8) : nextStep t1 hyst k t < 8 := by
  unfold nextStep
  split
  · omega
  · split <;> omega

/-- The stack after a valid reading t, its throttle step with it. -/
def State.stackRead (s : State) (h t : Nat) : State :=
  (s.readingTaken h t).setThermStep h (nextStep (s.tThrottle h) (s.tHyst h) (s.fld (hmcPage h) 0x108 8 3) t)

theorem tCrit_stackRead (s : State) (h t : Nat) : (s.stackRead h t).tCrit h = s.tCrit h := by
  obtain ⟨-, -, -, -, hfld, -⟩ := setThermStep_sets (s.readingTaken h t) h
    (nextStep_lt (s.tThrottle h) (s.tHyst h) t (fld_lt s (hmcPage h) 0x108 8 3))
  obtain ⟨-, -, -, hread⟩ := readingTaken_fld s h t
  simp only [State.tCrit, State.tThrottle, State.stackRead] at hfld ⊢
  simp only [hfld, hread]

theorem thermSample_some (ha : s.awake = true) (hon : s.stackOn h = true) (t : Nat) : exec (.thermSample h (some t)) s =
    .next (if s.tCrit h ≤ t then ((((s.stackRead h t).setFld (hmcPage h) 0x108 12 1 1).event (hmcPage h) 7).trip).fatalStop (hmcPage h) 0x0C3
      else s.stackRead h t) := by
  have hstep : nextStep ((s.thermTime h).tThrottle h) ((s.thermTime h).tHyst h) ((s.thermTime h).fld (hmcPage h) 0x108 8 3) t
      = nextStep (s.tThrottle h) (s.tHyst h) (s.fld (hmcPage h) 0x108 8 3) t := by simp [State.tThrottle, State.tHyst]
  rw [← tCrit_stackRead s h t]
  show execThermSample h (some t) s = _
  rw [execThermSample, if_pos (by rw [ha, hon]; rfl)]
  dsimp only
  rw [hstep]
  change (if (s.stackRead h t).tCrit h ≤ t then _ else _) = _
  split <;> rfl

theorem thermSample_none (ha : s.awake = true) (hon : s.stackOn h = true) : exec (.thermSample h none) s =
    .next (if Tab.get 0 s.mem.badTemp h + 1 = 3 then
      (((s.readingMissed h).setThermStep h 4).contained (hmcPage h) 0x0C6).event (hmcPage h) 8 else s.readingMissed h) := by
  show execThermSample h none s = _
  rw [execThermSample, if_pos (by rw [ha, hon]; rfl)]
  dsimp only
  rw [thermTime_mem]
  split <;> rfl

/-- A reading below the critical temperature moves the step by at most one. -/
theorem stackRead_moves (s : State) (h : Nat) {t : Nat} (ht : t < 256) : (s.stackRead h t).fld (hmcPage h) 0x108 0 8 = t
    ∧ (s.stackRead h t).fld (hmcPage h) 0x108 11 1 = 1
    ∧ (s.stackRead h t).fld (hmcPage h) 0x108 8 3 = nextStep (s.tThrottle h) (s.tHyst h) (s.fld (hmcPage h) 0x108 8 3) t
    ∧ ((s.stackRead h t).fld (hmcPage h) 0x108 8 3 ≠ s.fld (hmcPage h) 0x108 8 3 → Raised (hmcPage h) 4 (s.stackRead h t))
    ∧ Tab.get 0 (s.stackRead h t).mem.badTemp h = 0 ∧ OffTiles s (s.stackRead h t) := by
  obtain ⟨htemp, hvalid, hold, -⟩ := readingTaken_fld s h t
  obtain ⟨hoff, hstep, hraised, hother, -, hmem⟩ := setThermStep_sets (s.readingTaken h t) h
    (nextStep_lt (s.tThrottle h) (s.tHyst h) t (fld_lt s (hmcPage h) 0x108 8 3))
  refine ⟨?_, ?_, hstep, fun hne => hraised ?_, ?_, (readingTaken_offTiles s h t).trans hoff⟩
  · exact (hother 0 8 (by decide) (by decide)).trans (htemp.trans (Nat.mod_eq_of_lt ht))
  · exact (hother 11 1 (by decide) (by decide)).trans hvalid
  · rw [hold]
    rwa [State.stackRead, hstep] at hne
  · rw [State.stackRead, hmem, readingTaken_badTemp]

/-- A reading at or above the critical temperature trips and stops the package. -/
theorem stackHot_trips (hstop : s.pkg.stopped = false) (h t : Nat) {s' : State}
    (hs' : s' = ((((s.stackRead h t).setFld (hmcPage h) 0x108 12 1 1).event (hmcPage h) 7).trip).fatalStop (hmcPage h) 0x0C3) :
    FailStopped s' ∧ s'.pkg.thermtrip = true ∧ Raised thmPage 5 s' ∧ Raised (hmcPage h) 7 s' ∧ (s'.page (hmcPage h)).err.valid = true := by
  obtain ⟨hoff, -⟩ := setThermStep_sets (s.readingTaken h t) h (nextStep_lt (s.tThrottle h) (s.tHyst h) t (fld_lt s (hmcPage h) 0x108 8 3))
  have hall := (((readingTaken_offTiles s h t).trans hoff).trans (setFld_offTiles _ (hmcPage h) 0x108 12 1 1)).trans (event_offTiles _ (hmcPage h) 7)
  obtain ⟨hfail, htrip, hpin, hkept, hvalid⟩ := tripStop_trips (by rw [hall.pkg]; exact hstop) (hmcPage h) 0x0C3
  subst hs'
  exact ⟨hfail, htrip, hpin, hkept _ _ (event_raised (hmcPage h) 7 (by decide)), hvalid⟩

/-- The third failed reading in a row takes the step to 4, and is reported. -/
theorem thirdMiss_reports (s : State) (h : Nat) {s' : State}
    (hs' : s' = (((s.readingMissed h).setThermStep h 4).contained (hmcPage h) 0x0C6).event (hmcPage h) 8) :
    s'.fld (hmcPage h) 0x108 11 1 = 0 ∧ s'.fld (hmcPage h) 0x108 8 3 = 4 ∧ Raised (hmcPage h) 8 s' ∧ (s'.page (hmcPage h)).err.valid = true
      ∧ OffTiles s s' := by
  obtain ⟨hoff, hstep, -, hother, -⟩ := setThermStep_sets (s.readingMissed h) h (k := 4) (by decide)
  have hfld (lo w : Nat) : s'.fld (hmcPage h) 0x108 lo w = ((s.readingMissed h).setThermStep h 4).fld (hmcPage h) 0x108 lo w := by
    simp [hs', State.contained]
  refine ⟨?_, (hfld 8 3).trans hstep, ?_, ?_, ?_⟩
  · rw [hfld, hother 11 1 (by decide) (by decide), (readingMissed_fld s h).1]
  · rw [hs']
    exact event_raised (hmcPage h) 8 (by decide)
  · rw [hs', page_event_err]
    exact raise_valid ..
  · rw [hs']
    exact (((readingMissed_offTiles s h).trans hoff).trans (raise_offTiles ..)).trans (event_offTiles ..)

/-! ## PATROL_SCRUB (R248) -/

theorem patrolScrub_clean (ha : s.awake = true) (hon : s.stackOn h = true) (hrate : s.fld (hmcPage h) 0x110 0 8 ≠ 0) :
    exec (.patrolScrub h .clean) s = .next s := by
  show execPatrolScrub h .clean s = _
  simp [execPatrolScrub, ha, hon, hrate]

theorem patrolScrub_corrected (ha : s.awake = true) (hon : s.stackOn h = true) (hrate : s.fld (hmcPage h) 0x110 0 8 ≠ 0) {x : Nat}
    (hx : homeOf x = h) :
    exec (.patrolScrub h (.corrected x)) s = .next (((s.count (hmcPage h) 4).raise (hmcPage h) 1 0x0C0).event (hmcPage h) 5) := by
  show execPatrolScrub h (.corrected x) s = _
  simp [execPatrolScrub, ha, hon, hrate, hx]

/-- The first address of a burst that could not be corrected is kept. -/
def State.burstKept (s : State) (pg x : Nat) : State :=
  if (s.raw pg 0x118).getLsbD 0 then s else s.setRaw pg 0x118 (BitVec.ofNat 64 (1 + x / 32 * 32))

theorem patrolScrub_uncorrectable (ha : s.awake = true) (hon : s.stackOn h = true) (hrate : s.fld (hmcPage h) 0x110 0 8 ≠ 0) {x : Nat}
    (hx : homeOf x = h) : exec (.patrolScrub h (.uncorrectable x)) s =
      .next ((((s.burstKept (hmcPage h) x).count (hmcPage h) 5).event (hmcPage h) 6).raise (hmcPage h) 3 0x0C5 none (BitVec.ofNat 64 (1 + x / 32 * 32))) := by
  show execPatrolScrub h (.uncorrectable x) s = _
  simp [execPatrolScrub, ha, hon, hrate, hx, State.stepFatal, State.burstKept]

theorem burstKept_same (s : State) (pg x : Nat) : OffTiles s (s.burstKept pg x) ∧ (s.burstKept pg x).bur = s.bur ∧ ErrSame s (s.burstKept pg x) := by
  unfold State.burstKept
  split
  · exact ⟨.refl s, rfl, fun _ => ⟨rfl, rfl⟩⟩
  · exact ⟨offTiles_of_pageFrame (setRaw_pageFrame ..), rfl, setRaw_errSame s _ _ _⟩

theorem corrected_reports (s : State) (n : Nat) : Reported n 1 0x0C0 s (((s.count n 4).raise n 1 0x0C0).event n 5)
    ∧ Raised n 5 (((s.count n 4).raise n 1 0x0C0).event n 5) ∧ OffTiles s (((s.count n 4).raise n 1 0x0C0).event n 5) :=
  ⟨event_reported (reported_from (by simp) (by simp) (raise_reported (by decide))), event_raised n 5 (by decide),
    ((count_offTiles ..).trans (raise_offTiles ..)).trans (event_offTiles ..)⟩

theorem uncorrectable_reports (s : State) (n x : Nat) {s' : State}
    (hs' : s' = (((s.burstKept n x).count n 5).event n 6).raise n 3 0x0C5 none (BitVec.ofNat 64 (1 + x / 32 * 32))) :
    Reported n 3 0x0C5 s s' ∧ Raised n 6 s' ∧ OffTiles s s'
      ∧ ∃ f, s'.bur.fatals = s.bur.fatals ++ [f] ∧ f.code = 0x0C5 ∧ f.sev = 3 ∧ f.loc = BitVec.ofNat 64 (1 + x / 32 * 32) := by
  obtain ⟨hoff, hbur, herr⟩ := burstKept_same s n x
  obtain ⟨hreport, hraised, hoff'⟩ := count_event_raise (s.burstKept n x) (n := n) (i := 5) (b := 6) (sev := 3) 0x0C5 none
    (BitVec.ofNat 64 (1 + x / 32 * 32)) (by decide) (by decide)
  subst hs'
  refine ⟨reported_from (herr n).1 (herr n).2 hreport, hraised, hoff.trans hoff', ?_⟩
  rw [raise_bur, if_pos (by decide), event_bur, count_bur, hbur]
  exact ⟨_, rfl, rfl, rfl, rfl⟩

end stack

/-! ## DIE_THERMAL_SAMPLE (R412) -/

section die

variable {s : State} {d : Fin 4}

/-- The next thermal step of a die stack at temperature t. -/
def State.dieNext (s : State) (d t : Nat) : Nat := nextDieStep s.dieThrottle s.dieHyst (s.dieStep d) t

/-- The state after the temperature of a die stack was written down, and before its step changes. -/
def State.dieShown (s : State) (d t : Nat) : State :=
  (if s.dieStep d = 0 then s else s.count thmPage (2 + d)).setFld thmPage 0x108 (8 * d) 8 (min 255 t)

/-- The state after a sample of a die stack, its step with it. -/
def State.dieRead (s : State) (d t : Nat) : State :=
  if s.dieNext d t = s.dieStep d then s.dieShown d t
  else ((((s.dieShown d t).setFld thmPage 0x110 (3 * d) 3 (s.dieNext d t)).count thmPage (if s.dieStep d < s.dieNext d t then 0 else 1)).note thmPage
    0x190).event thmPage 4

theorem dieNext_lt (s : State) (d t : Nat) : s.dieNext d t < 8 := by
  have hk : s.dieStep d < 8 := fld_lt s thmPage 0x110 (3 * d) 3
  unfold State.dieNext nextDieStep
  split
  · omega
  · split <;> omega

theorem dieShown_shows (s : State) {d : Nat} (hd : d < 4) (t : Nat) : OffTiles s (s.dieShown d t)
    ∧ (s.dieShown d t).fld thmPage 0x108 (8 * d) 8 = min 255 t
    ∧ ∀ o lo w, o < 0x400 → o / 8 ≠ 0x108 / 8 → (s.dieShown d t).fld thmPage o lo w = s.fld thmPage o lo w := by
  have hcounted : OffTiles s (if s.dieStep d = 0 then s else s.count thmPage (2 + d))
      ∧ ∀ n o lo w, (if s.dieStep d = 0 then s else s.count thmPage (2 + d)).fld n o lo w = s.fld n o lo w := by
    split
    · exact ⟨.refl s, fun _ _ _ _ => rfl⟩
    · exact ⟨count_offTiles .., fun _ _ _ _ => fld_count ..⟩
  obtain ⟨hoff, hfld⟩ := hcounted
  refine ⟨hoff.trans (setFld_offTiles ..), ?_, fun o lo w ho hne => ?_⟩
  · rw [State.dieShown, fld_setFld_same _ _ _ _ _ (by decide) (by omega)]
    exact Nat.mod_eq_of_lt (by omega)
  · rw [State.dieShown, fld_setFld_word _ _ _ _ _ _ _ _ ho hne, hfld]

/-- The step of the die stack is the next one, a change is told, and the other stacks keep theirs. -/
theorem dieRead_moves (s : State) {d : Nat} (hd : d < 4) (t : Nat) : OffTiles s (s.dieRead d t)
    ∧ (s.dieRead d t).fld thmPage 0x108 (8 * d) 8 = min 255 t ∧ (s.dieRead d t).dieStep d = s.dieNext d t
    ∧ (∀ e, e < 4 → e ≠ d → (s.dieRead d t).dieStep e = s.dieStep e)
    ∧ (s.dieNext d t ≠ s.dieStep d → Raised thmPage 4 (s.dieRead d t))
    ∧ ∀ lo w, (s.dieRead d t).fld thmPage 0x100 lo w = s.fld thmPage 0x100 lo w := by
  obtain ⟨hoff, hshown, hword⟩ := dieShown_shows s hd t
  have hstep (e : Nat) : (s.dieShown d t).dieStep e = s.dieStep e := hword _ _ _ (by decide) (by decide)
  unfold State.dieRead
  split
  next hsame =>
    exact ⟨hoff, hshown, (hstep d).trans hsame.symm, fun e _ _ => hstep e, fun hne => absurd hsame hne,
      fun lo w => hword _ _ _ (by decide) (by decide)⟩
  · generalize (if s.dieStep d < s.dieNext d t then 0 else 1) = i
    obtain ⟨htold, hraised, hfld⟩ := note_event_told (((s.dieShown d t).setFld thmPage 0x110 (3 * d) 3 (s.dieNext d t)).count thmPage i)
      thmPage 0x190 4 (by decide)
    simp only [State.dieStep, hfld, fld_count] at hstep ⊢
    refine ⟨((hoff.trans (setFld_offTiles ..)).trans (count_offTiles ..)).trans htold, ?_, ?_, fun e he hne => ?_, fun _ => hraised, fun lo w => ?_⟩
    · rw [fld_setFld_word _ _ _ _ _ _ _ _ (by decide) (by decide), hshown]
    · rw [fld_setFld_same _ _ _ _ _ (by decide) (by omega)]
      exact Nat.mod_eq_of_lt (dieNext_lt s d t)
    · rw [fld_setFld_other _ _ _ _ _ _ _ (by decide) (by omega) (by omega), hstep]
    · rw [fld_setFld_word _ _ _ _ _ _ _ _ (by decide) (by decide), hword _ _ _ (by decide) (by decide)]

theorem dieThermalSample_eq (ha : s.awake = true) (t : Nat) : exec (.dieThermalSample d t) s =
    .next (if s.dieCrit ≤ t then (s.dieRead d t).trip.fatalStop thmPage 0x191 else s.dieRead d t) := by
  obtain ⟨-, -, -, -, -, hlimits⟩ := dieRead_moves s d.isLt t
  have hcrit : (s.dieRead d t).dieCrit = s.dieCrit := by simp only [State.dieCrit, State.dieThrottle, hlimits]
  rw [← hcrit]
  show execDieThermalSample d t s = _
  rw [execDieThermalSample, if_neg (by rw [ha]; decide)]
  change (if (s.dieRead d t).dieCrit ≤ t then _ else _) = _
  split <;> rfl

end die

/-! ## POWER_CAP_TICK (R411, R418) -/

section power

variable {s : State}

/-- The next cap step at an average power of w. -/
def State.capNext (s : State) (w : Nat) : Nat := nextCap s.limitW s.capStep w

/-- The state after the power was written down, and before the cap step changes. -/
def State.powerShown (s : State) (w : Nat) : State :=
  (s.setFld pwrPage 0x118 0 12 (min 4095 w)).setFld pwrPage 0x118 16 12 (max (bits (s.raw pwrPage 0x118) 16 12) (min 4095 w))

/-- The state with the cap step changed. -/
def State.capMoved (s : State) (w : Nat) : State :=
  if s.capNext w = s.capStep then s
  else (((s.setFld pwrPage 0x110 12 3 (s.capNext w)).count pwrPage (if s.capStep < s.capNext w then 0 else 1)).note pwrPage 0x180).event pwrPage 4

/-- How many ticks in a row the power has been above the limit at step 7, this one among them. -/
def State.hotTicks (s : State) (w : Nat) : Nat := if s.capStep = 7 ∧ (s.capMoved w).limitW < w then (s.capMoved w).pkg.capHot + 1 else 0

/-- The state with the cap step changed, and the energy and the hot ticks counted. -/
def State.capCounted (s : State) (w : Nat) : State :=
  ((s.capMoved w).count pwrPage 4 none (((s.capMoved w).pkg.energyMj + w) / 1000)).modPkg fun p =>
    { p with capHot := s.hotTicks w, capOnce := p.capOnce && decide (s.capNext w = 7), energyMj := (p.energyMj + w) % 1000 }

/-- The whole tick, once the power was written down. -/
def State.capTicked (s : State) (w : Nat) : State :=
  if 100 ≤ s.hotTicks w ∧ !(s.capCounted w).pkg.capOnce then
    ((s.capCounted w).modPkg fun p => { p with capOnce := true }).contained pwrPage 0x181
  else s.capCounted w

theorem capNext_lt (s : State) (w : Nat) : s.capNext w < 8 := by
  have hk : s.capStep < 8 := fld_lt s pwrPage 0x110 12 3
  unfold State.capNext nextCap
  split
  · omega
  · split <;> omega

theorem powerShown_shows (s : State) (w : Nat) : OffTiles s (s.powerShown w) ∧ (s.powerShown w).fld pwrPage 0x118 0 12 = min 4095 w
    ∧ (s.powerShown w).fld pwrPage 0x118 16 12 = max (s.fld pwrPage 0x118 16 12) (min 4095 w)
    ∧ ∀ lo k, (s.powerShown w).fld pwrPage 0x110 lo k = s.fld pwrPage 0x110 lo k := by
  refine ⟨(setFld_offTiles ..).trans (setFld_offTiles ..), ?_, ?_, fun lo k => ?_⟩
  · rw [State.powerShown, fld_setFld_other _ _ _ _ _ _ _ (by decide) (by decide) (by decide), fld_setFld_same _ _ _ _ _ (by decide) (by decide)]
    exact Nat.mod_eq_of_lt (by omega)
  · have hpeak := fld_lt s pwrPage 0x118 16 12
    rw [State.powerShown, fld_setFld_same _ _ _ _ _ (by decide) (by decide), ← fld_below_expert _ _ _ _ (by decide)]
    exact Nat.mod_eq_of_lt (by omega)
  · rw [State.powerShown, fld_setFld_word _ _ _ _ _ _ _ _ (by decide) (by decide), fld_setFld_word _ _ _ _ _ _ _ _ (by decide) (by decide)]

/-- The cap step is the next one, a change is told, and limit and readings stay. -/
theorem capMoved_moves (s : State) (w : Nat) : OffTiles s (s.capMoved w) ∧ (s.capMoved w).capStep = s.capNext w
    ∧ (s.capNext w ≠ s.capStep → Raised pwrPage 4 (s.capMoved w)) ∧ (s.capMoved w).limitW = s.limitW
    ∧ ∀ lo k, (s.capMoved w).fld pwrPage 0x118 lo k = s.fld pwrPage 0x118 lo k := by
  unfold State.capMoved
  split
  next hsame => exact ⟨.refl s, hsame.symm, fun hne => absurd hsame hne, rfl, fun _ _ => rfl⟩
  · generalize (if s.capStep < s.capNext w then 0 else 1) = i
    obtain ⟨htold, hraised, hfld⟩ := note_event_told ((s.setFld pwrPage 0x110 12 3 (s.capNext w)).count pwrPage i) pwrPage 0x180 4 (by decide)
    simp only [State.limitW, State.capStep, hfld, fld_count]
    refine ⟨((setFld_offTiles ..).trans (count_offTiles ..)).trans htold, ?_, fun _ => hraised, ?_, fun lo k => ?_⟩
    · rw [fld_setFld_same _ _ _ _ _ (by decide) (by decide)]
      exact Nat.mod_eq_of_lt (capNext_lt s w)
    · rw [fld_setFld_other _ _ _ _ _ _ _ (by decide) (by decide) (by decide)]
    · rw [fld_setFld_word _ _ _ _ _ _ _ _ (by decide) (by decide)]

/-- Counting changes neither fields nor events, and nothing of tiles and memory. -/
theorem capCounted_counts (s : State) (w : Nat) : TilesSame s (s.capCounted w) ∧ MemSame s (s.capCounted w)
    ∧ EventsKept (s.capMoved w) (s.capCounted w) ∧ (s.capCounted w).pkg.capOnce = (s.pkg.capOnce && decide (s.capNext w = 7))
    ∧ ∀ n o lo k, (s.capCounted w).fld n o lo k = (s.capMoved w).fld n o lo k := by
  obtain ⟨hoff, -⟩ := capMoved_moves s w
  have hcounted := hoff.trans (count_offTiles _ pwrPage 4 none (((s.capMoved w).pkg.energyMj + w) / 1000))
  have hkept := count_eventsKept (s.capMoved w) pwrPage 4 none (((s.capMoved w).pkg.energyMj + w) / 1000)
  have hfld (n o lo k : Nat) := fld_count (s.capMoved w) pwrPage 4 none (((s.capMoved w).pkg.energyMj + w) / 1000) n o lo k
  rw [State.capCounted]
  generalize (s.capMoved w).count pwrPage 4 none _ = x at hcounted hkept hfld ⊢
  exact ⟨hcounted.tile, hcounted.byte, hkept, by rw [← hcounted.pkg]; rfl, fun n o lo k => (fld_modPkg ..).trans (hfld n o lo k)⟩

/-- A tick moves the cap step as R411 says; the hundredth at step 7 above the limit is an error. -/
theorem capTicked_ticks (s : State) (w : Nat) : TilesSame s (s.capTicked w) ∧ MemSame s (s.capTicked w)
    ∧ (s.capTicked w).capStep = s.capNext w ∧ (s.capNext w ≠ s.capStep → Raised pwrPage 4 (s.capTicked w))
    ∧ (∀ lo k, (s.capTicked w).fld pwrPage 0x118 lo k = s.fld pwrPage 0x118 lo k)
    ∧ (s.capStep = 7 → s.limitW < w → 99 ≤ s.pkg.capHot → s.pkg.capOnce = false → ((s.capTicked w).page pwrPage).err.valid = true) := by
  obtain ⟨hoff, hstep, hraised, hlimit, hshown⟩ := capMoved_moves s w
  obtain ⟨htiles, hmem, hkept, honce, hfld⟩ := capCounted_counts s w
  unfold State.capTicked
  split
  · generalize hx : ((s.capCounted w).modPkg fun p => { p with capOnce := true }) = x
    have hoff' := raise_offTiles x pwrPage 2 0x181 none 0
    have hfld' (n o lo k : Nat) : (x.contained pwrPage 0x181).fld n o lo k = (s.capMoved w).fld n o lo k := by
      rw [State.contained, fld_raise, ← hx, fld_modPkg, hfld]
    refine ⟨fun u => (hoff'.tile u).trans ?_, fun a => (hoff'.byte a).trans ?_, (hfld' ..).trans hstep, fun hne => raise_raised ?_,
      fun lo k => (hfld' ..).trans (hshown lo k), fun _ _ _ _ => raise_valid ..⟩
    · rw [← hx]
      exact htiles u
    · rw [← hx]
      exact hmem a
    · rw [← hx]
      exact hkept _ _ (hraised hne)
  next hcool =>
    refine ⟨htiles, hmem, (hfld ..).trans hstep, fun hne => hkept _ _ (hraised hne), fun lo k => (hfld ..).trans (hshown lo k),
      fun hseven habove hlong hfirst => absurd ⟨?_, ?_⟩ hcool⟩
    · rw [State.hotTicks, if_pos ⟨hseven, hlimit ▸ habove⟩, hoff.pkg]
      omega
    · rw [honce, hfirst]
      rfl

theorem powerCapTick_eq (ha : s.awake = true) (w : Nat) : exec (.powerCapTick w) s = .next ((s.powerShown w).capTicked w) := by
  show execPowerCapTick w s = _
  rw [execPowerCapTick, if_neg (by rw [ha]; decide), State.capTicked]
  change (if 100 ≤ (s.powerShown w).hotTicks w ∧ !((s.powerShown w).capCounted w).pkg.capOnce then _ else _) = _
  split <;> rfl

end power

/-! ## RAIL_SAMPLE (R425) -/

section rails

variable {s : State} {r : Rail} {l : RailLevel}

/-- A rail out of range, but for the base rails, stops the package. -/
theorem railSample_lost (hs : Awake s) (hl : l = .below ∨ l = .above) (hbase : r ≠ .vddBase) (hio : r ≠ .vddIo) :
    exec (.railSample r l) s = .next (s.fatalStop pwrPage 0x182) := by
  obtain ⟨hporst, hon, hfrozen, -⟩ := hs
  show execRailSample r l s = _
  cases r with
  | vddBase => exact absurd rfl hbase
  | vddIo => exact absurd rfl hio
  | _ => obtain rfl | rfl := hl <;> simp [execRailSample, hporst, hon, hfrozen]

/-- A base rail below its range resets the package as its power does. -/
theorem railSample_base (hs : Awake s) (hr : r = .vddBase ∨ r = .vddIo) :
    exec (.railSample r .below) s = .next (s.powerCycled s.pkg.powerOn s.pkg.thermtrip) := by
  obtain ⟨hporst, hon, hfrozen, -⟩ := hs
  show execRailSample r .below s = _
  obtain rfl | rfl := hr <;> simp [execRailSample, hporst, hon, hfrozen]

end rails

theorem absoluteMaximumStops : Spec.AbsoluteMaximumStops := fun _ _ => rfl

theorem heatAndPower : Spec.HeatAndPower := by
  intro s hs
  have ha := awake_of_Awake hs
  have ⟨_, _, _, hstopped⟩ := hs
  refine ⟨?_, ?_, ?_, ?_, ?_, ?_⟩
  · rintro h hon _ rfl _ rfl
    refine ⟨fun t ht hcool => ?_, fun t ht hhot => ?_, fun hmiss => ?_, fun hmiss => ?_, fun hrate => ⟨?_, fun x hx => ⟨?_, ?_⟩⟩⟩
    · obtain ⟨htemp, hvalid, hstep, hraised, hbad, hoff⟩ := stackRead_moves s h ht
      refine ⟨_, thermSample_some ha hon t, ?_⟩
      rw [if_neg (Nat.not_le.2 hcool)]
      exact ⟨htemp, hvalid, hstep, hraised, hoff.pkg, hbad, hoff.tile, hoff.byte⟩
    · refine ⟨_, thermSample_some ha hon t, ?_⟩
      rw [if_pos hhot]
      exact stackHot_trips hstopped h t rfl
    · refine ⟨_, thermSample_none ha hon, ?_⟩
      obtain ⟨hvalid, hstep⟩ := readingMissed_fld s h
      have hoff := readingMissed_offTiles s h
      rw [if_neg hmiss]
      exact ⟨hvalid, hstep, readingMissed_cause .., hoff.tile, hoff.byte⟩
    · obtain ⟨hvalid, hstep, hraised, herr, hoff⟩ := thirdMiss_reports s h rfl
      refine ⟨_, thermSample_none ha hon, ?_⟩
      rw [if_pos hmiss]
      exact ⟨hvalid, hstep, hraised, herr, hoff.tile, hoff.byte⟩
    · exact ⟨_, patrolScrub_clean ha hon hrate, rfl⟩
    · obtain ⟨hreport, hraised, hoff⟩ := corrected_reports s (hmcPage h)
      exact ⟨_, patrolScrub_corrected ha hon hrate hx, hreport, hraised, hoff.tile, hoff.byte⟩
    · obtain ⟨hreport, hraised, hoff, hfatal⟩ := uncorrectable_reports s (hmcPage h) x rfl
      exact ⟨_, patrolScrub_uncorrectable ha hon hrate hx, hreport, hraised, hoff.tile, hoff.byte, hfatal⟩
  · rintro d t _ rfl
    obtain ⟨hoff, htemp, hstep, hothers, hraised, -⟩ := dieRead_moves s d.isLt t
    refine ⟨fun hcool => ⟨_, dieThermalSample_eq ha t, ?_⟩, fun hhot => ⟨_, dieThermalSample_eq ha t, ?_⟩⟩
    · rw [if_neg (Nat.not_le.2 hcool)]
      exact ⟨htemp, hstep, fun e _ hne => hothers e e.isLt (Fin.val_ne_of_ne hne), fun hne => hraised (hstep ▸ hne), hoff.pkg, hoff.tile, hoff.byte⟩
    · rw [if_pos hhot]
      obtain ⟨hfail, htrip, -, -, hvalid⟩ := tripStop_trips (by rw [hoff.pkg]; exact hstopped) thmPage 0x191
      exact ⟨hfail, htrip, hvalid⟩
  · rintro w _ rfl
    obtain ⟨hoff, hnow, hpeak, hword⟩ := powerShown_shows s w
    obtain ⟨htiles, hmem, hstep, hraised, hfld, herr⟩ := capTicked_ticks (s.powerShown w) w
    have hold : (s.powerShown w).capStep = s.capStep := hword 12 3
    have hlimit : (s.powerShown w).limitW = s.limitW := by simp only [State.limitW, hword]
    rw [State.capNext, hold, hlimit] at hstep hraised
    rw [hold, hlimit, hoff.pkg] at herr
    exact ⟨_, powerCapTick_eq ha w, (hfld ..).trans hnow, (hfld ..).trans hpeak, hstep, fun hne => hraised (hstep ▸ hne), herr,
      fun u => (htiles u).trans (hoff.tile u), fun a => (hmem a).trans (hoff.byte a)⟩
  · exact fun r => ⟨s, rfl, rfl⟩
  · intro r l hl hbase hio
    obtain ⟨hfail, -, hvalid, -⟩ := fatalStop_stops hstopped pwrPage 0x182
    exact ⟨_, railSample_lost hs hl hbase hio, hfail, hvalid⟩
  · exact fun r hr => ⟨_, railSample_base hs hr, rfl, rfl, rfl, rfl, rfl, rfl⟩

/-- Settles O45: each command is one of the readings above, written down and told, and a trip or a lost rail fail-stops the package. -/
theorem heatAndRails : Obligations.HeatAndRails := ⟨heatAndPower, absoluteMaximumStops⟩

end Sys2Proof.Machine
end
